-- ==== Sys2Proof/Config.lean ====
section
/-! DEFINITION. The values the spec leaves open, as constants without a body: no proof can see what they are. -/

namespace Sys2Proof.Config

/-- A value the spec leaves open; the argument is the machine's free-value counter at the time it is met
(log 6). Every open value of the model is `freeValue` applied to that counter. -/
opaque freeValue (w : Nat) : Nat → BitVec w

/-- The measurement of a firmware image (21 R352): the spec does not say how it is formed. -/
opaque measure : Nat → Nat

/-- The module's signature of a measurement by its identity key of each kind, RSA and then SLH-DSA, and whether one holds (21 R352). -/
opaque signature : Bool → Nat → Nat
opaque signatureHolds : Bool → Nat → Nat → Bool

end Sys2Proof.Config
end

