-- ==== Sys2Proof/Word.lean ====
section
/-! DEFINITION. The word types of the TL1024 model. -/

namespace Sys2Proof

/-- A byte of any store. -/
abbrev Byte := BitVec 8

/-- A lane word (04 R76). -/
abbrev Lane := BitVec 32

/-- A scalar or control register (07 R140). -/
abbrev Word := BitVec 64

/-- One slice of a vector register, or one granule: 64 bytes (03 R49, 07 R171). -/
abbrev Gran := BitVec 512

/-- One slice of a predicate register, or the guards of a slice's lanes (04 R77). -/
abbrev LaneMask := BitVec 16

end Sys2Proof
end

