-- ==== Sys2Proof/Syntax.lean ====
section
/-! DEFINITION. The abstract syntax: one constructor of `Instr` per row of spec/opcode_table.json. -/

namespace Sys2Proof

/-- The guard of a slot (02 R23): predicate `p`, negated when `neg`. -/
structure Guard where
  neg : Bool
  p   : Nat
  deriving DecidableEq, Repr

/-- The guard p0, which every lane passes. -/
def Guard.always : Guard := ⟨false, 0⟩

/-- Element types of 02 R29, codes 0 to 15. -/
inductive ElemTy
  | i4 | i8 | i16 | i32 | i64 | n4 | n8 | n16 | n32 | n64 | bf16 | f16 | f32 | f64 | e4m3 | e5m2
  deriving DecidableEq, Repr

/-- The formats of a tile word (02 R29): an element type or a block, group or sparse format. -/
inductive TileFmt
  | elem (t : ElemTy) | dx8 | dx4 | g4 | s24
  deriving DecidableEq, Repr

/-- The 2-bit floating-point type of form A (02 R29). -/
inductive FTy
  | f32 | bf16 | f16 | f64
  deriving DecidableEq, Repr

/-- Rounding modes (02 R30). -/
inductive Rnd
  | rn | rz | ru | rd | rs
  deriving DecidableEq, Repr

/-- Conditions (02 R31). -/
inductive Cond
  | eq | ne | lt | le | gt | ge | ltn | len | gtn | gen
  deriving DecidableEq, Repr

/-- Scopes (02 R32). -/
inductive Scope
  | lane | slc | ctx | core | clu | die | stk | cold | quay | mod | fab | sys
  deriving DecidableEq, Repr

/-- Element sizes (02 R33). -/
inductive ESize
  | w4 | w8 | w16 | w32 | w64
  deriving DecidableEq, Repr

/-- The operation of VRED and FRED (05 R98, R104). -/
inductive RedOp
  | sum | min | max
  deriving DecidableEq, Repr

/-- The operation of ATOM (08 R174). -/
inductive AtomOp
  | add | and | or | xor | min | max | xchg | cas
  deriving DecidableEq, Repr

/-- The width of ATOM (08 R174). -/
inductive AtomW
  | i32 | n32 | i64 | n64 | f32
  deriving DecidableEq, Repr

/-- The scope of XINM (08 R177). -/
inductive XmScope
  | clu | die
  deriving DecidableEq, Repr

/-- The lane type of a router operation (15 R265). -/
inductive RTy
  | t0 | t1 | t2 | t3
  deriving DecidableEq, Repr

/-- An operand descriptor of a tile word (02 R44). -/
structure TileDesc where
  sto : Nat
  str : Nat
  adr : Nat
  deriving DecidableEq, Repr

/-- The fields of a tile word but for its operation (02 R42). -/
structure TileWord where
  lvl : Nat
  fa  : Nat
  fb  : Nat
  fc  : Nat
  acc : Bool
  ta  : Bool
  tb  : Bool
  sat : Bool
  rnd : Nat
  aux : Nat
  tm  : Nat
  tn  : Nat
  tk  : Nat
  dsa : TileDesc
  dsb : TileDesc
  dsc : TileDesc
  deriving DecidableEq, Repr

/-- The instructions, operations and events of the TL1024. A constructor without arguments that concerns a queue, a
gang, a job or a link finds its number in the act's frame. -/
inductive Instr
  /-- BR (R159): Branches to an absolute bundle address after two delay bundles. -/
  | br (g : Guard) (target : Nat)
  /-- BRI (R159): Branches to the bundle address held in a scalar register. -/
  | bri (g : Guard) (s : Nat)
  /-- CALL (R159): Branches to a bundle address and writes the return address into s31. -/
  | call (g : Guard) (target : Nat)
  /-- RET (R159): Branches to the bundle address held in s31. -/
  | ret (g : Guard)
  /-- LOOP (R160): Pushes a loop-stack entry with the next bundle as head and a trip count from a register or immediate. -/
  | loop (g : Guard) (s : Nat) (imm : Nat)
  /-- ENDL (R161): Closes a loop pass, rotates the register bases and loops back or pops the entry. -/
  | endl (g : Guard)
  /-- LEAVE (R162): Pops the innermost loop-stack entry without branching or rotating. -/
  | leave (g : Guard)
  /-- END (R163): Closes the context's task; effects in flight still land and the task completes later. -/
  | endTask (g : Guard)
  /-- YIELD (R343): Requests a freeze of the gang, which becomes a waiter for the issue slot. -/
  | yield (g : Guard)
  /-- WAIT (R181): Freezes the whole gang until a flag has held 1, making the freeze point the new anchor. -/
  | wait (g : Guard) (scope : Scope) (f : Nat)
  /-- SETF (R180): Sets a flag after every earlier static access of the context has performed, releasing them. -/
  | setf (g : Guard) (scope : Scope) (f : Nat)
  /-- CLRF (R180): Clears a flag without releasing anything. -/
  | clrf (g : Guard) (scope : Scope) (f : Nat)
  /-- TSTF (R180): Reads a flag and lands it and its complement in a predicate pair. -/
  | tstf (g : Guard) (pp : Nat) (scope : Scope) (f : Nat)
  /-- TRAP (R226): Raises the trap cause as a boundary fault after its bundle commits. -/
  | trap (g : Guard) (code : Nat)
  /-- RTE (R226): Returns from a fault handler, resuming the gang at a G and re-entering the faulting bundle. -/
  | rte (g : Guard)
  /-- GET (R143): Reads a numbered control register into a scalar register. -/
  | get (g : Guard) (s : Nat) (n : Nat)
  /-- SET (R143): Writes a scalar register into a numbered control register, effective for later bundles. -/
  | set (g : Guard) (s : Nat) (n : Nat)
  /-- LAUNCH (R184): Crosses a 64-byte launch record from the berth to the pilot to start a child task. -/
  | launch (g : Guard) (s : Nat)
  /-- TISS (R185): Issues a 256-bit tile word from the berth to the tile port of its level. -/
  | tiss (g : Guard) (s : Nat)
  /-- SLACK (R186): Triggers the job's slack wave with cause slack entry and a code. -/
  | slack (g : Guard) (code : Nat)
  /-- BKPT (R186): Commits and then triggers the slack wave with cause breakpoint. -/
  | bkpt (g : Guard) (code : Nat)
  /-- MARK (R387): Writes a trace marker record when marks are enabled, with no other effect. -/
  | mark (g : Guard) (code : Nat)
  /-- FENCE (R182): Orders the context's earlier non-static accesses before accesses issued from its fence point. -/
  | fence (g : Guard) (scope : Scope)
  /-- SYS (R187): Crosses a service request to the pilot, which replies into the berth and sets a core flag. -/
  | sys (g : Guard) (s : Nat) (n : Nat) (f : Nat)
  /-- CTXS (R228): Privileged save of another context of the core to its quay save area. -/
  | ctxs (g : Guard) (c : Nat)
  /-- CTXR (R228): Privileged restore of a saved context, leaving it frozen and ready. -/
  | ctxr (g : Guard) (c : Nat)
  /-- ADD (R164): Scalar 64-bit wrapping addition. -/
  | add (g : Guard) (d : Nat) (a : Nat) (b : Nat)
  /-- SUB (R164): Scalar 64-bit wrapping subtraction. -/
  | sub (g : Guard) (d : Nat) (a : Nat) (b : Nat)
  /-- MUL (R164): Low 64 bits of a scalar product. -/
  | mul (g : Guard) (d : Nat) (a : Nat) (b : Nat)
  /-- MULH (R164): High 64 bits of a signed or unsigned 128-bit scalar product. -/
  | mulh (g : Guard) (u : Bool) (d : Nat) (a : Nat) (b : Nat)
  /-- AND (R164): Scalar bitwise AND. -/
  | and (g : Guard) (d : Nat) (a : Nat) (b : Nat)
  /-- OR (R164): Scalar bitwise OR. -/
  | or (g : Guard) (d : Nat) (a : Nat) (b : Nat)
  /-- XOR (R164): Scalar bitwise exclusive OR. -/
  | xor (g : Guard) (d : Nat) (a : Nat) (b : Nat)
  /-- ANDN (R164): Scalar AND with the complement of the second operand. -/
  | andn (g : Guard) (d : Nat) (a : Nat) (b : Nat)
  /-- SHL (R164): Scalar left shift, zero for counts of 64 or more. -/
  | shl (g : Guard) (d : Nat) (a : Nat) (b : Nat)
  /-- SHR (R164): Scalar logical right shift. -/
  | shr (g : Guard) (d : Nat) (a : Nat) (b : Nat)
  /-- SRA (R164): Scalar arithmetic right shift. -/
  | sra (g : Guard) (d : Nat) (a : Nat) (b : Nat)
  /-- MIN (R164): Scalar signed or unsigned minimum. -/
  | min (g : Guard) (u : Bool) (d : Nat) (a : Nat) (b : Nat)
  /-- MAX (R164): Scalar signed or unsigned maximum. -/
  | max (g : Guard) (u : Bool) (d : Nat) (a : Nat) (b : Nat)
  /-- CLZ (R164): Counts leading zeros of a scalar. -/
  | clz (g : Guard) (d : Nat) (a : Nat)
  /-- POPC (R164): Counts one bits of a scalar. -/
  | popc (g : Guard) (d : Nat) (a : Nat)
  /-- MOV (R164): Copies a scalar register. -/
  | mov (g : Guard) (d : Nat) (a : Nat)
  /-- ADDI (R165): Adds a sign-extended immediate to a scalar. -/
  | addi (g : Guard) (d : Nat) (a : Nat) (imm : Int)
  /-- LI (R165): Loads a sign-extended immediate into a scalar. -/
  | li (g : Guard) (d : Nat) (imm : Int)
  /-- LIH (R165): Shifts a scalar left 16 bits and ORs in an unsigned immediate. -/
  | lih (g : Guard) (d : Nat) (imm : Nat)
  /-- SEL (R165): Selects one of two scalars by whether a third is non-zero. -/
  | sel (g : Guard) (d : Nat) (a : Nat) (b : Nat) (c : Nat)
  /-- CMP (R165): Writes 1 or 0 by a scalar comparison condition. -/
  | cmp (g : Guard) (cond : Cond) (d : Nat) (a : Nat) (b : Nat)
  /-- VADD (R94): Per-element integer addition, wrapping or saturating. -/
  | vadd (g : Guard) (ty : ElemTy) (sat : Bool) (d : Nat) (a : Nat) (b : Nat)
  /-- VSUB (R94): Per-element integer subtraction, wrapping or saturating. -/
  | vsub (g : Guard) (ty : ElemTy) (sat : Bool) (d : Nat) (a : Nat) (b : Nat)
  /-- VMUL (R94): Per-element integer multiplication. -/
  | vmul (g : Guard) (ty : ElemTy) (sat : Bool) (d : Nat) (a : Nat) (b : Nat)
  /-- VMULH (R94): High half of the per-element integer product. -/
  | vmulh (g : Guard) (ty : ElemTy) (d : Nat) (a : Nat) (b : Nat)
  /-- VMAD (R95): Per-element integer multiply-add into the destination. -/
  | vmad (g : Guard) (ty : ElemTy) (sat : Bool) (d : Nat) (a : Nat) (b : Nat)
  /-- VDOT4 (R95): Per-lane dot product of 8- or 4-bit elements added into a 32-bit accumulator. -/
  | vdot4 (g : Guard) (ty : ElemTy) (sat : Bool) (d : Nat) (a : Nat) (b : Nat)
  /-- VMIN (R94): Per-element integer minimum. -/
  | vmin (g : Guard) (ty : ElemTy) (d : Nat) (a : Nat) (b : Nat)
  /-- VMAX (R94): Per-element integer maximum. -/
  | vmax (g : Guard) (ty : ElemTy) (d : Nat) (a : Nat) (b : Nat)
  /-- VAND (R94): Lane-wise bitwise AND. -/
  | vand (g : Guard) (d : Nat) (a : Nat) (b : Nat)
  /-- VOR (R94): Lane-wise bitwise OR. -/
  | vor (g : Guard) (d : Nat) (a : Nat) (b : Nat)
  /-- VXOR (R94): Lane-wise bitwise exclusive OR. -/
  | vxor (g : Guard) (d : Nat) (a : Nat) (b : Nat)
  /-- VANDN (R94): Lane-wise AND with the complement of the second source. -/
  | vandn (g : Guard) (d : Nat) (a : Nat) (b : Nat)
  /-- VSHL (R96): Per-element left shift, optionally saturating. -/
  | vshl (g : Guard) (ty : ElemTy) (sat : Bool) (d : Nat) (a : Nat) (b : Nat)
  /-- VSHR (R96): Per-element logical right shift. -/
  | vshr (g : Guard) (ty : ElemTy) (d : Nat) (a : Nat) (b : Nat)
  /-- VSRA (R96): Per-element arithmetic right shift. -/
  | vsra (g : Guard) (ty : ElemTy) (d : Nat) (a : Nat) (b : Nat)
  /-- VABS (R97): Per-element absolute value. -/
  | vabs (g : Guard) (ty : ElemTy) (sat : Bool) (d : Nat) (a : Nat)
  /-- VNEG (R97): Per-element negation. -/
  | vneg (g : Guard) (ty : ElemTy) (sat : Bool) (d : Nat) (a : Nat)
  /-- VCLZ (R97): Per-element count of leading zeros. -/
  | vclz (g : Guard) (ty : ElemTy) (d : Nat) (a : Nat)
  /-- VPOPC (R97): Per-element count of one bits. -/
  | vpopc (g : Guard) (ty : ElemTy) (d : Nat) (a : Nat)
  /-- VMOV (R97): Copies a vector register lane by lane. -/
  | vmov (g : Guard) (d : Nat) (a : Nat)
  /-- VBC (R97): Broadcasts the low bits of a scalar into every element. -/
  | vbc (g : Guard) (ty : ElemTy) (d : Nat) (a : Nat)
  /-- VIOTA (R97): Writes each element's own index into it. -/
  | viota (g : Guard) (ty : ElemTy) (d : Nat)
  /-- VRED (R98): Reduces all elements by sum, min or max in the fixed tree and chain order. -/
  | vred (g : Guard) (ty : ElemTy) (sat : Bool) (op : RedOp) (d : Nat) (a : Nat)
  /-- FADD (R100): Per-element floating-point addition with one rounding. -/
  | fadd (g : Guard) (ft : FTy) (rnd : Rnd) (d : Nat) (a : Nat) (b : Nat)
  /-- FSUB (R100): Per-element floating-point subtraction. -/
  | fsub (g : Guard) (ft : FTy) (rnd : Rnd) (d : Nat) (a : Nat) (b : Nat)
  /-- FMUL (R100): Per-element floating-point multiplication. -/
  | fmul (g : Guard) (ft : FTy) (rnd : Rnd) (d : Nat) (a : Nat) (b : Nat)
  /-- FMIN (R101): Per-element floating-point minimum with NaN rules. -/
  | fmin (g : Guard) (ft : FTy) (d : Nat) (a : Nat) (b : Nat)
  /-- FMAX (R101): Per-element floating-point maximum with NaN rules. -/
  | fmax (g : Guard) (ft : FTy) (d : Nat) (a : Nat) (b : Nat)
  /-- FCPS (R102): Writes one operand's magnitude with the other's sign. -/
  | fcps (g : Guard) (ft : FTy) (d : Nat) (a : Nat) (b : Nat)
  /-- FABS (R102): Clears the sign bit of each element. -/
  | fabs (g : Guard) (ft : FTy) (d : Nat) (a : Nat)
  /-- FNEG (R102): Inverts the sign bit of each element. -/
  | fneg (g : Guard) (ft : FTy) (d : Nat) (a : Nat)
  /-- FRCP (R103): Correctly rounded reciprocal per element. -/
  | frcp (g : Guard) (ft : FTy) (rnd : Rnd) (d : Nat) (a : Nat)
  /-- FRSQ (R103): Correctly rounded reciprocal square root per element. -/
  | frsq (g : Guard) (ft : FTy) (rnd : Rnd) (d : Nat) (a : Nat)
  /-- FSQRT (R103): Correctly rounded square root per element. -/
  | fsqrt (g : Guard) (ft : FTy) (rnd : Rnd) (d : Nat) (a : Nat)
  /-- FEXP2 (R103): Correctly rounded base-2 exponential per element. -/
  | fexp2 (g : Guard) (ft : FTy) (rnd : Rnd) (d : Nat) (a : Nat)
  /-- FLOG2 (R103): Correctly rounded base-2 logarithm per element. -/
  | flog2 (g : Guard) (ft : FTy) (rnd : Rnd) (d : Nat) (a : Nat)
  /-- FTANH (R103): Correctly rounded hyperbolic tangent per element. -/
  | ftanh (g : Guard) (ft : FTy) (rnd : Rnd) (d : Nat) (a : Nat)
  /-- FCLS (R102): Writes a one-hot class code of each floating-point element. -/
  | fcls (g : Guard) (ft : FTy) (d : Nat) (a : Nat)
  /-- FRED (R104): Reduces floating-point elements by sum, min or max in the fixed order. -/
  | fred (g : Guard) (ft : FTy) (rnd : Rnd) (op : RedOp) (d : Nat) (a : Nat)
  /-- FMA (R100): Fused multiply-add per element with one rounding. -/
  | fma (g : Guard) (ft : FTy) (rnd : Rnd) (d : Nat) (a : Nat) (b : Nat) (c : Nat)
  /-- FMS (R100): Fused multiply-subtract per element. -/
  | fms (g : Guard) (ft : FTy) (rnd : Rnd) (d : Nat) (a : Nat) (b : Nat) (c : Nat)
  /-- FNMA (R100): Negated fused multiply plus addend per element. -/
  | fnma (g : Guard) (ft : FTy) (rnd : Rnd) (d : Nat) (a : Nat) (b : Nat) (c : Nat)
  /-- VCMP (R105): Integer compare writing a complementary predicate pair. -/
  | vcmp (g : Guard) (ty : ElemTy) (cond : Cond) (pp : Nat) (a : Nat) (b : Nat)
  /-- FCMP (R105): Floating-point compare writing a complementary predicate pair. -/
  | fcmp (g : Guard) (ty : ElemTy) (cond : Cond) (pp : Nat) (a : Nat) (b : Nat)
  /-- PAND (R106): Predicate AND. -/
  | pand (g : Guard) (d : Nat) (a : Nat) (b : Nat)
  /-- POR (R106): Predicate OR. -/
  | por (g : Guard) (d : Nat) (a : Nat) (b : Nat)
  /-- PXOR (R106): Predicate exclusive OR. -/
  | pxor (g : Guard) (d : Nat) (a : Nat) (b : Nat)
  /-- PNOT (R106): Predicate complement. -/
  | pnot (g : Guard) (d : Nat) (a : Nat)
  /-- PMOV (R106): Predicate copy. -/
  | pmov (g : Guard) (d : Nat) (a : Nat)
  /-- PCNT (R106): Counts a slice's predicate bits into every lane of a vector register. -/
  | pcnt (g : Guard) (d : Nat) (a : Nat)
  /-- VSEL (R107): Selects whole lanes of one of two registers by a predicate. -/
  | vsel (g : Guard) (d : Nat) (a : Nat) (b : Nat) (p : Nat)
  /-- CVT (R108): Element-wise conversion between integer and floating-point types. -/
  | cvt (g : Guard) (dty : ElemTy) (sty : ElemTy) (rnd : Rnd) (d : Nat) (a : Nat)
  /-- CVT_SAT (R108): Element-wise conversion with saturation on overflow. -/
  | cvtSat (g : Guard) (dty : ElemTy) (sty : ElemTy) (rnd : Rnd) (d : Nat) (a : Nat)
  /-- CVTB (R109): Encodes FP values into DX blocks or decodes DX blocks into FP. -/
  | cvtb (g : Guard) (bf16 : Bool) (dx4 : Bool) (dec : Bool) (rnd : Rnd) (d : Nat) (a : Nat)
  /-- CVTG (R110): Expands four G4 weight groups into BF16 elements. -/
  | cvtg (g : Guard) (d : Nat) (a : Nat)
  /-- AMAXR (R111): Reads and clears the context's AMAX register into a vector. -/
  | amaxr (g : Guard) (d : Nat)
  /-- SEED (R113): Reloads lane generators from the SEED control register. -/
  | seed (g : Guard)
  /-- SEED_FROM_VECTOR (R113): Loads each lane generator from the lane of a vector register. -/
  | seedFromVector (g : Guard) (a : Nat)
  /-- PACK (R112): Places the low field of each source lane into a chosen field of the destination lane. -/
  | pack (g : Guard) (w : Nat) (part : Nat) (d : Nat) (a : Nat)
  /-- UNPK (R112): Extracts a chosen field of each lane, zero-extended. -/
  | unpk (g : Guard) (w : Nat) (part : Nat) (d : Nat) (a : Nat)
  /-- ZIP2 (R114): Interleaves two registers within each slice into a register pair. -/
  | zip2 (g : Guard) (size : ESize) (d : Nat) (a : Nat) (b : Nat)
  /-- ZIP3 (R114): Interleaves three consecutive registers within each slice. -/
  | zip3 (g : Guard) (size : ESize) (d : Nat) (a : Nat)
  /-- ZIP4 (R114): Interleaves four consecutive registers within each slice. -/
  | zip4 (g : Guard) (size : ESize) (d : Nat) (a : Nat)
  /-- UZP2 (R114): De-interleaves two registers within each slice. -/
  | uzp2 (g : Guard) (size : ESize) (d : Nat) (a : Nat) (b : Nat)
  /-- UZP3 (R114): De-interleaves three consecutive registers within each slice. -/
  | uzp3 (g : Guard) (size : ESize) (d : Nat) (a : Nat)
  /-- UZP4 (R114): De-interleaves four consecutive registers within each slice. -/
  | uzp4 (g : Guard) (size : ESize) (d : Nat) (a : Nat)
  /-- PERM (R115): Permutes elements within each slice by index bytes. -/
  | perm (g : Guard) (size : ESize) (d : Nat) (a : Nat) (b : Nat)
  /-- SLIDE (R116): Shifts whole lanes across the 128 global lanes by a signed count. -/
  | slide (g : Guard) (d : Nat) (a : Nat) (n : Int)
  /-- DRV (R117): Drives a register onto an inter-slice stream. -/
  | drv (g : Guard) (st : Nat) (a : Nat)
  /-- TAP (R117): Takes a stream's incoming boundary register into a vector register. -/
  | tap (g : Guard) (d : Nat) (st : Nat)
  /-- XCP (R117): Drives and taps one stream in a single slot. -/
  | xcp (g : Guard) (d : Nat) (st : Nat) (a : Nat)
  /-- DTX (R129): Walks two-input digits of each lane through a chart. -/
  | dtx (g : Guard) (k : Nat) (d : Nat) (a : Nat) (b : Nat)
  /-- DTU (R129): Walks one-input digits of each lane through a chart. -/
  | dtu (g : Guard) (k : Nat) (d : Nat) (a : Nat)
  /-- DTC (R129): Walks digits through a chart and writes the last flag into a predicate pair. -/
  | dtc (g : Guard) (k : Nat) (pp : Nat) (a : Nat) (b : Nat)
  /-- DTS (R131): Exchanges each lane's transducer state with a register. -/
  | dts (g : Guard) (d : Nat) (a : Nat)
  /-- DTZ (R132): Writes a chart's start state into each lane's DSR. -/
  | dtz (g : Guard) (k : Nat)
  /-- DTQ (R133): Applies the chart's final entry to each lane's state. -/
  | dtq (g : Guard) (k : Nat) (d : Nat)
  /-- DTLD (R126): Loads a 576-byte chart image from the berth into a chart slot. -/
  | dtld (g : Guard) (k : Nat) (a : Nat) (imm : Int)
  /-- VLD (R169): Loads 512 bytes from a berth into a vector register. -/
  | vld (g : Guard) (d : Nat) (a : Nat) (disp : Int)
  /-- VST (R169): Stores a vector register's 512 bytes to a berth. -/
  | vst (g : Guard) (d : Nat) (a : Nat) (disp : Int)
  /-- LDS (R169): Loads a 64-bit berth word into a scalar. -/
  | lds (g : Guard) (d : Nat) (a : Nat) (disp : Int)
  /-- STS (R169): Stores a scalar into a 64-bit berth word. -/
  | sts (g : Guard) (d : Nat) (a : Nat) (disp : Int)
  /-- VLDS (R170): Strided load of one word per global lane from the own berth. -/
  | vlds (g : Guard) (d : Nat) (a : Nat) (b : Nat)
  /-- VLDX (R170): Indexed gather of one word per global lane from the own berth. -/
  | vldx (g : Guard) (d : Nat) (a : Nat) (b : Nat)
  /-- VSTX (R170): Indexed scatter of one word per global lane to the own berth. -/
  | vstx (g : Guard) (d : Nat) (a : Nat) (b : Nat)
  /-- RSET (R173): Sets a ring's base, size and depth and empties it. -/
  | rset (g : Guard) (ring : Nat) (a : Nat)
  /-- RPUSH (R173): Claims and publishes one tile of a ring. -/
  | rpush (g : Guard) (ring : Nat)
  /-- RINFO (R173): Reads a ring's state word into a scalar. -/
  | rinfo (g : Guard) (d : Nat) (ring : Nat)
  /-- ATOM (R174): Performs an atomic read-modify-write at a berth bank and returns the old value. -/
  | atom (g : Guard) (op : AtomOp) (w : AtomW) (d : Nat) (a : Nat) (b : Nat)
  /-- XIN (R176): Crosses bytes of a quay register inbound into a vector register. -/
  | xin (g : Guard) (v : Nat) (q : Nat) (sz : Nat)
  /-- XOUT (R176): Crosses bytes of a vector register outbound into a quay register. -/
  | xout (g : Guard) (v : Nat) (q : Nat) (sz : Nat)
  /-- XINM (R177): Crosses a quay register once and multicasts it cold to masked cores. -/
  | xinm (g : Guard) (scope : XmScope) (v : Nat) (q : Nat) (mask : Nat)
  /-- XINR (R178): Crosses quay bytes inbound into a claimed ring tile and publishes it. -/
  | xinr (g : Guard) (ring : Nat) (q : Nat) (sz : Nat)
  /-- XINA (R176): Crosses an accumulator-store tile inbound into a latch. -/
  | xina (g : Guard) (lat : Nat) (h : Nat)
  /-- XOUTA (R176): Crosses a latch outbound into an accumulator-store tile. -/
  | xouta (g : Guard) (lat : Nat) (h : Nat)
  /-- XCAL (R151): Reports the core's lock calendar phase into a scalar. -/
  | xcal (g : Guard) (d : Nat)
  /-- MCALL (R201): Issues a matrix routine call to the core's array. -/
  | mcall (g : Guard) (n : Nat)
  /-- MSET (R195): Writes a matrix parameter register from a scalar. -/
  | mset (g : Guard) (m : Nat) (s : Nat)
  /-- MGET (R195): Reads a matrix parameter register into a scalar. -/
  | mget (g : Guard) (m : Nat) (s : Nat)
  /-- MZERO (R193): Zeroes an accumulator latch. -/
  | mzero (g : Guard) (lat : Nat)
  /-- MPOP (R193): Moves four rows of a latch into a vector register. -/
  | mpop (g : Guard) (v : Nat) (lat : Nat) (grp : Nat)
  /-- MPSH (R193): Moves a vector register into four rows of a latch. -/
  | mpsh (g : Guard) (v : Nat) (lat : Nat) (grp : Nat)
  /-- MLOAD (R199): Writes a 64-byte routine record from the berth into the microprogram store. -/
  | mload (g : Guard) (n : Nat) (s : Nat)
  /-- SLD (R208): Loads 32 FP32 scales from the berth into a scale latch. -/
  | sld (g : Guard) (lat : Nat) (a : Nat) (imm : Int)
  /-- TRN (R209): Writes four rows into the transposer array. -/
  | trn (g : Guard) (a : Nat) (grp : Nat)
  /-- TRNO (R209): Reads four transposed columns from the transposer array. -/
  | trno (g : Guard) (d : Nat) (grp : Nat)
  /-- CE_LD (R260): Copy-engine command moving warm rows into quay registers. -/
  | ceLd (g : Guard) (a : Nat) (b : Nat) (off : Nat)
  /-- CE_ST (R260): Copy-engine command moving quay registers to warm rows. -/
  | ceSt (g : Guard) (a : Nat) (b : Nat) (off : Nat)
  /-- CE_AL (R260): Copy-engine command moving warm rows into accumulator-store tiles. -/
  | ceAl (g : Guard) (a : Nat) (b : Nat) (off : Nat)
  /-- CE_AS (R260): Copy-engine command moving accumulator-store tiles to warm rows. -/
  | ceAs (g : Guard) (a : Nat) (b : Nat) (off : Nat)
  /-- CE_GTH (R260): Copy-engine gather of indexed warm rows into quay registers. -/
  | ceGth (g : Guard) (a : Nat) (b : Nat) (off : Nat)
  /-- CE_FIL (R260): Copy-engine fill of warm rows with an 8-byte pattern. -/
  | ceFil (g : Guard) (a : Nat) (b : Nat) (off : Nat)
  /-- RT_LD (R267): Loads router words from the cluster berth into the loop buffer. -/
  | rtLd (g : Guard) (a : Nat) (b : Nat) (off : Nat)
  /-- RT_GO (R267): Starts the router program at an entry with a repeat count. -/
  | rtGo (g : Guard) (a : Nat) (b : Nat) (off : Nat)
  /-- RT_STOP (R267): Stops router word issue from a start count. -/
  | rtStop (g : Guard) (off : Nat)
  /-- BX_SEND (R368): Static send of quay granules over a Baoskyx link to another module's HBM. -/
  | bxSend (g : Guard) (a : Nat) (b : Nat) (off : Nat)
  /-- BX_POST (R371): Non-static routed post of quay granules to another module, completing by flag. -/
  | bxPost (g : Guard) (a : Nat) (b : Nat) (f : Nat)
  /-- CE_CXL_TO_QUAY (R261): Non-static move of 512 bytes from the capacity tier into a quay register, completing by flag. -/
  | ceCxlToQuay (g : Guard) (q : Nat) (s : Nat) (f : Nat)
  /-- CE_CXL_TO_TIER (R261): Non-static move of a quay register to the capacity tier, completing by flag. -/
  | ceCxlToTier (g : Guard) (q : Nat) (s : Nat) (f : Nat)
  /-- BUNDLE_ISSUE (R39): The sequencer fetches a context's next bundle, checks its slot classes and the meter admission, and issues it in one cycle. -/
  | bundleIssue (x : Nat)
  /-- RLD (R265): Router load of a cluster-berth granule into a w register. -/
  | rld (d stp gr : Nat)
  /-- RLDC (R265): Router load of a target context's own-berth granule. -/
  | rldc (d x stp gr : Nat)
  /-- RLDI (R265): Router load of an immediate into every lane. -/
  | rldi (d imm : Nat)
  /-- RADD (R265): Router lane-wise addition. -/
  | radd (ty : RTy) (d a b : Nat)
  /-- RMAX (R265): Router lane-wise maximum. -/
  | rmax (ty : RTy) (d a b : Nat)
  /-- RMIN (R265): Router lane-wise minimum. -/
  | rmin (ty : RTy) (d a b : Nat)
  /-- RAND (R265): Router lane-wise AND. -/
  | rand (d a b : Nat)
  /-- RFLT (R265): Router lane filter by an immediate mask. -/
  | rflt (d a mask : Nat)
  /-- RTHR (R265): Router threshold keeping lanes at or above another register. -/
  | rthr (ty : RTy) (d a b : Nat)
  /-- RMOV (R265): Router register copy. -/
  | rmov (d a : Nat)
  /-- RST (R265): Router store of a w register into a cluster-berth granule. -/
  | rst (a stp gr : Nat)
  /-- RSTC (R265): Router store into own-berth granules of masked target contexts. -/
  | rstc (x a stp gr : Nat)
  /-- RPSH (R265): Router push of a granule into a ring of masked target contexts. -/
  | rpsh (x d a : Nat)
  /-- RFLG (R265): Router set of a cluster flag after its earlier stores. -/
  | rflg (n : Nat)
  /-- ROUTER_WORD_ISSUE (R266): Each cycle the router issues one loop-buffer word and follows its loop control. -/
  | routerWordIssue (clu : Nat)
  /-- TMUL (R212): Tile word computing C from the product of A and B at its level. -/
  | tmul (w : TileWord)
  /-- TMULS (R212): Tile word multiplying a structured-sparse S24 A by B. -/
  | tmuls (w : TileWord)
  /-- TADD (R213): Tile word adding A to C. -/
  | tadd (w : TileWord)
  /-- TSCL (R213): Tile word converting A into C's format. -/
  | tscl (w : TileWord)
  /-- TRED (R213): Tile word reducing A along one dimension. -/
  | tred (w : TileWord)
  /-- TCPY (R213): Tile word copying A to C. -/
  | tcpy (w : TileWord)
  /-- TXPS (R213): Tile word transposing A into C. -/
  | txps (w : TileWord)
  /-- TDIG (R213): Tile word walking each element through a chart. -/
  | tdig (w : TileWord)
  /-- TFIL (R213): Tile word filling C with a value. -/
  | tfil (w : TileWord)
  /-- TFEN (R214): Tile word fencing the tile traffic of a level. -/
  | tfen (w : TileWord)
  /-- MATRIX_CALL_START (R202): A queued matrix call starts its steps once the array input is free. -/
  | matrixCallStart (core : Nat)
  /-- MATRIX_CALL_RETIRE (R205): A matrix call retires, ORing its flags into PSW and raising enabled faults. -/
  | matrixCallRetire (core : Nat)
  /-- LOCK_SLOT (R150): An owned 8-cycle lock slot carries 64 bytes of a pending crossing toward landing or performing. -/
  | lockSlot (x id : Nat)
  /-- ENGINE_SLOT (R258): An owned engine slot moves one granule of a pending copy-engine command. -/
  | engineSlot (x id : Nat)
  /-- HBM_CALENDAR_ACCESS (R306): A granule reaches its HBM access count and is read or written. -/
  | hbmCalendarAccess (id : Nat)
  /-- FAULT_TAKEN (R222): A detected fault reaches its freeze point, cancels later slots and freezes the gang. -/
  | faultTaken (x : Nat)
  /-- CONTEXT_SAVE_START (R228): A requested context save begins once its gang is frozen and its charge admitted. -/
  | contextSaveStart (x : Nat)
  /-- WATCHDOG_EXPIRY (R229): The watchdog count reaches its limit, setting HUNG and taking an unhandled fault. -/
  | watchdogExpiry (x : Nat)
  /-- QTAIL_WRITE (R328): A host write of a queue's tail pointer releases packets to the pilot. -/
  | qtailWrite (q v : Nat)
  /-- DEVICE_LAUNCH (R338): A launch record crossed by LAUNCH reaches the pilot and enters the launching task's queue. -/
  | deviceLaunch (id : Nat)
  /-- SYS_NOP (R346): Pilot service 0 replies 0. -/
  | sysNop (id : Nat)
  /-- SYS_CLOCK (R346): Pilot service 1 replies the launch-clock time. -/
  | sysClock (id : Nat)
  /-- SYS_LEASE (R346): Pilot service 2 requests a lease and replies whether it was granted. -/
  | sysLease (id : Nat)
  /-- SYS_TOKENS (R346): Pilot service 3 replies the context's boost tokens. -/
  | sysTokens (id : Nat)
  /-- SYS_USER_RECORD (R346): Pilot service 4 posts a user record with the argument. -/
  | sysUserRecord (id : Nat)
  /-- CXL_REQUEST_COMPLETE (R314): A capacity-tier request completes, and the last one sets the command's flag. -/
  | cxlRequestComplete (id : Nat) (ok : Bool)
  /-- CXL_REQUEST_TIMEOUT (R314): A capacity-tier request not complete within 1 ms is ended as failed. -/
  | cxlRequestTimeout (id : Nat)
  /-- SYS_REPLY (R187): The pilot performs a SYS reply into the berth and sets the core flag. -/
  | sysReply (id : Nat)
  /-- BX_SEND_ARRIVAL (R369): A static-send granule performs in the receiving module's HBM at its count. -/
  | bxSendArrival (gid due va data : Nat) (bad : Bool)
  /-- BX_POST_ARRIVAL (R371): A post's granules perform at the destination, which sets its flag and acknowledges. -/
  | bxPostArrival (job va data : Nat) (rf : Bool) (rfn after : Nat)
  /-- BX_POST_ACK (R371): The acknowledgement or rejection of a post returns and the sender sets its flag or takes the link fault. -/
  | bxPostAck (id info : Nat) (ok : Bool)
  /-- FLIT_RECEIVE (R361): A flit arrives on a link in its slot, carrying header fields and granules. -/
  | flitReceive (link : Nat) (ok : Bool)
  /-- LINK_TRAINED (R363): Link training completes and fixes the link latency. -/
  | linkTrained (link : Nat)
  /-- LINK_FAILED (R363): A link fails by repeated CRC failure or 4,096 silent flit slots. -/
  | linkFailed (link : Nat)
  /-- GANG_READY_REPORT (R366): A module's pilot reports a fabric gang ready to the ROOT pilot. -/
  | gangReadyReport (gid md : Nat) (win : List Nat)
  /-- SLACK_WAVE_ARRIVAL (R375): A slack wave reaches a module, which forwards it and delivers it to member cores. -/
  | slackWaveArrival (job w0 w1 w2 : Nat)
  /-- BERTH_SCRUB_WRITEBACK (R292): A corrected berth word is written back 2 cycles after its read unless a write intervened. -/
  | berthScrubWriteback (key : Nat)
  /-- WARM_SCRUB_WRITEBACK (R312): A corrected HBM granule is written back 32 cycles after its read unless a demand write intervened. -/
  | warmScrubWriteback (key : Nat)
  /-- HBM_REFRESH (R308): The refresh engine visits a row group, skipping it if recently activated. -/
  | hbmRefresh (ch : Nat)
  /-- HOST_WRITE (R310): A host write reaches HBM, partial writes merging by read-modify-write. -/
  | hostWrite (addr len : Nat) (data : Nat)
  /-- FIRMWARE_VERIFY_DONE (R352): The boot ROM finishes verifying the flash banks and loads one or stays in ROM. -/
  | firmwareVerifyDone (ok0 ok1 : Bool)
  /-- SELF_TEST_COMPLETE (R349): The cold self-test finishes and the module enters RUN or ANCHOR. -/
  | selfTestComplete (pass : Bool)
  /-- HEK_CHANGE (R349): A helium temperature reading above limits scales allotments or sends the module to ANCHOR. -/
  | hekChange (v : Nat)
  /-- MODULE_LIMIT_EXCEEDED (R356): Warm draw above 2.0 kW or cold load above 32 W runs the cap procedure. -/
  | moduleLimitExceeded (warm : Bool)
  /-- BIAS_DOMAIN_FAILURE (R290): A regulator excursion puts a bias domain in FAILED, ending its resident contexts. -/
  | biasDomainFailure (d : Nat)
  /-- DOMAIN_RECOVERY_START (R290): Once a FAILED domain is empty the pilot moves it to OFF and ramps it. -/
  | domainRecoveryStart (d : Nat)
  /-- RAMP_END (R289): A domain's 65,536-cycle bias ramp ends. -/
  | rampEnd (d : Nat)
  /-- DOMAIN_SELF_TEST_DONE (R290): A recovering domain's self-test ends, returning it to ON or leaving it OFF. -/
  | domainSelfTestDone (d : Nat) (pass : Bool)
  /-- CAP_FRAME (R355): A cap datagram is received, authenticated and sets the budget in force. -/
  | capFrame (body mac : Nat)
  /-- RATIO_CHANGE (R359): A partition's clock ratio changes through a freeze-and-resume handshake. -/
  | ratioChange (p r : Nat)
  /-- CLOCK_RUN_PERIOD (R359): At a 4,096-cycle boundary a reduced-ratio cluster's clock starts or stops. -/
  | clockRunPeriod (clu : Nat)
  /-- ALLOTMENT_UPDATE (R354): A new refill and depth take effect at the next TIDE multiple of 16,384. -/
  | allotmentUpdate (p : Nat)
  /-- PARTITION_CONFIG_WRITE (R353): A privileged write of partition registers, refused if it breaks the partition limits. -/
  | partitionConfigWrite (p r v : Nat)
  /-- FJT_WRITE (R365): A write of a fabric job table entry, refused if its SKB is too small. -/
  | fjtWrite (n v : Nat)
  /-- LGRT_WRITE (R367): A write of a link grant cell, refused above 80 valid cells. -/
  | lgrtWrite (link cell v : Nat)
  /-- MAILBOX_IMAGE_WRITE (R352): A host writes a new firmware image through the mailbox for the next reset. -/
  | mailboxImageWrite (v : Nat)
  /-- REGISTER_WRITE (R327): A host write of a configuration register that has no behaviour of its own. -/
  | registerWrite (r v : Nat)
  /-- HELIUM_FLOW_CHANGE (R349): The helium supply flow HEF changes, and a WARM module with verified firmware moves to COOLDOWN once HEF is non-zero. -/
  | heliumFlowChange (v : Nat)
  /-- LINK_TRAINING_START (R363): A link whose far end appears, or that is retrained, enters TRAINING and begins measuring its delay. -/
  | linkTrainingStart (link : Nat)
  /-- PARTITION_WARM_CAP_REACHED (R357): A partition's warm draw reaches its WCAP, so its clock ratio is lowered and CAPCAUSE.PART is set. -/
  | partitionWarmCapReached (p : Nat)
  /-- CXL_REQUEST_SEND (R314): A capacity-tier request is sent on its port once its walk completes, and for dir 1 it reads its 64 quay bytes at that moment. -/
  | cxlRequestSend (id : Nat)
  /-- CORRECTED_WRITE_BACK (R168): A berth word that a demand read found correctable is written back corrected in the next cycle in which its service port is idle. -/
  | correctedWriteBack (key : Nat)
  /-- RNOP (R265): Router operation doing nothing. -/
  | rnop
  /-- RHALT (R265): Stops further router word issue. -/
  | rhalt
  /-- GANG_FREEZE (R153): A gang reaches a pending freeze point, diverting results in flight into snapshots and hold buffers. -/
  | gangFreeze
  /-- GANG_RESUME (R153): A frozen gang resumes every member at its chosen TIDE G with held effects at their counts. -/
  | gangResume
  /-- TASK_COMPLETE (R163): A task completes after its last effect, releasing allotments and writing its completion record. -/
  | taskComplete
  /-- LAUNCH_PACKET (R333): The pilot checks a LAUNCH packet, pins its manifest, allots stores and preloads the gang. -/
  | launchPacket
  /-- GANG_START (R334): A launched gang issues count 0 at its start TIDE, or starts frozen if not ready. -/
  | gangStart
  /-- STAGING_COMPLETE (R303): Capacity-tier staging of a manifest finishes and the waiting gang resumes. -/
  | stagingComplete
  /-- TABLE (R335): A TABLE packet launches many gangs against one base time. -/
  | table
  /-- TILE_PACKET (R337): A TILE packet submits a tile word of level 2 to 5 for a member context. -/
  | tilePacket
  /-- EVENT_PACKET (R337): An EVENT packet sets a module flag when its turn comes. -/
  | eventPacket
  /-- FENCE_PACKET (R336): A FENCE packet holds its queue until a named task completes. -/
  | fencePacket
  /-- LEASE (R345): A LEASE packet asks for a bounded raise of a gang's refill. -/
  | lease
  /-- LEASE_EXPIRY (R345): A granted lease's duration ends and its raise stops. -/
  | leaseExpiry
  /-- LEASE_REVOCATION (R345): The arbiter revokes a lease, posting a record and setting BOOSTREV. -/
  | leaseRevocation
  /-- LEASE_REVOCATION_END (R345): The raise of a revoked lease ends 100 microseconds after its record. -/
  | leaseRevocationEnd
  /-- CSEND (R340): Command-stream command ending the stream and writing its record. -/
  | csend
  /-- CSLN (R340): Command-stream command launching a packet. -/
  | csln
  /-- CSIN (R340): Command-stream command launching a packet with an indirect core count. -/
  | csin
  /-- CSJM (R340): Command-stream jump. -/
  | csjm
  /-- CSBR (R340): Command-stream conditional branch on a memory word. -/
  | csbr
  /-- CSLP (R340): Command-stream loop push. -/
  | cslp
  /-- CSEL (R340): Command-stream loop end. -/
  | csel
  /-- CSWF (R340): Command-stream wait on a module flag. -/
  | cswf
  /-- COMMAND_STREAM_WAIT_END (R340): A stream waiting on a flag or on SYNC completion continues. -/
  | commandStreamWaitEnd
  /-- SHARE_CREDIT (R342): At every TIDE multiple of 16,384 each gang's deficit and boost tokens are credited. -/
  | shareCredit
  /-- SHARE_DECISION (R342): At every TIDE multiple of 4,096 the pilot decides issue-slot switches per core. -/
  | shareDecision
  /-- HLM_REFILL (R152): The meter refills in wall time, repaying debt first and possibly ending a pause. -/
  | hlmRefill
  /-- TIDE_EXCHANGE (R364): Every 2^20 cycles modules exchange TIDE and trim their clocks. -/
  | tideExchange
  /-- FABRIC_LAUNCH_TIMEOUT (R366): A fabric gang whose reports are incomplete after 1 s is ended unstarted. -/
  | fabricLaunchTimeout
  /-- START_WAVE (R366): The ROOT pilot's start wave carries the fabric gang's start TIDE to every module. -/
  | startWave
  /-- SLACK_FREEZE (R376): Every gang of the job freezes at the count it reaches at T_s plus SKB. -/
  | slackFreeze
  /-- RESUME_WAVE (R379): A resume wave from the ROOT pilot resumes or steps the job's gangs at G. -/
  | resumeWave
  /-- STEP_END (R379): A stepped job reaches F plus n and freezes again with a step record. -/
  | stepEnd
  /-- DEBUG_STOP (R392): A DEBUG STOP triggers the job's slack wave. -/
  | debugStop
  /-- DEBUG_RESUME (R392): A DEBUG RESUME asks the ROOT pilot to resume a frozen job. -/
  | debugResume
  /-- DEBUG_STEP (R392): A DEBUG STEP asks the ROOT pilot to run the job n counts. -/
  | debugStep
  /-- DEBUG_READ (R392): A DEBUG READ copies a frozen context's image or quay bytes to a buffer. -/
  | debugRead
  /-- DEBUG_WRITE (R392): A DEBUG WRITE changes writable bits of a frozen context's image or quay. -/
  | debugWrite
  /-- DEBUG_BREAK (R392): A DEBUG BREAK sets or clears a context breakpoint. -/
  | debugBreak
  /-- DEBUG_TRACE (R392): A DEBUG TRACE sets the job's trace ring and record enables. -/
  | debugTrace
  /-- DEBUG_GRAPH (R390): A DEBUG GRAPH writes the job's wait-for graph. -/
  | debugGraph
  /-- DEBUG_END (R392): A DEBUG END ends the job. -/
  | debugEnd
  /-- TRACE_SAMPLE (R388): At every sampling TIDE a sample record is written per member context. -/
  | traceSample
  /-- BERTH_SCRUB (R292): The cold patrol scrubber reads a word of each bank every 256 cycles. -/
  | berthScrub
  /-- WARM_SCRUB (R312): The quay-die scrubber reads an HBM or quay granule on its reserved turn. -/
  | warmScrub
  /-- MODULE_RESET (R349): Power-on or reset puts the module in WARM with reset state. -/
  | moduleReset
  /-- COOLDOWN_TIMER (R349): HEK held at or below 4,400 mK for 10 minutes moves the module to SELFTEST. -/
  | cooldownTimer
  /-- CAP_RANK_APPLY (R356): A rank's new allotment and ratio come into force on the cap schedule. -/
  | capRankApply
  /-- TILE_CHILD_END (R214): A tile child ends or faults, which completes the tile word, releases a TFEN, ORs flags and writes the TILE record, or holds the parent with the tile child fault. -/
  | tileChildEnd
  deriving DecidableEq, Repr

end Sys2Proof
end

