-- ==== Sys2Proof/Decode.lean ====
section
/-! DEFINITION. Decoding and encoding of slots, bundles, router words and tile words, from the tables of 02. -/

namespace Sys2Proof

/-- Bits hi to lo of a word. -/
def fld (w hi lo : Nat) : Nat := w / 2 ^ lo % 2 ^ (hi + 1 - lo)

/-- The signed value of an n-bit field (02 R28). -/
def sx (n v : Nat) : Int := if v < 2 ^ (n - 1) then (v : Int) else (v : Int) - 2 ^ n

/-- The signed value of an n-bit field that the k bits of an extension widen where a header lends them (02 R26 to R28,
08 R165): without a header the field is n bits wide. -/
def sxe (n k : Nat) (lent : Bool) (v e : Nat) : Int := if lent then sx (n + k) (v + fld e (k - 1) 0 * 2 ^ n) else sx n v

/-- The n-bit field of a signed value. -/
def toFld (n : Nat) (i : Int) : Nat := (i % 2 ^ n).toNat

/-- One bit as a Bool. -/
def bit (w i : Nat) : Bool := w / 2 ^ i % 2 == 1

/-- The code of a ElemTy. -/
def ElemTy.code : ElemTy → Nat
  | .i4 => 0
  | .i8 => 1
  | .i16 => 2
  | .i32 => 3
  | .i64 => 4
  | .n4 => 5
  | .n8 => 6
  | .n16 => 7
  | .n32 => 8
  | .n64 => 9
  | .bf16 => 10
  | .f16 => 11
  | .f32 => 12
  | .f64 => 13
  | .e4m3 => 14
  | .e5m2 => 15

/-- The ElemTy of a code; a reserved code names none. -/
def ElemTy.ofCode : Nat → Option ElemTy
  | 0 => some .i4
  | 1 => some .i8
  | 2 => some .i16
  | 3 => some .i32
  | 4 => some .i64
  | 5 => some .n4
  | 6 => some .n8
  | 7 => some .n16
  | 8 => some .n32
  | 9 => some .n64
  | 10 => some .bf16
  | 11 => some .f16
  | 12 => some .f32
  | 13 => some .f64
  | 14 => some .e4m3
  | 15 => some .e5m2
  | _ => none

/-- The code of a FTy. -/
def FTy.code : FTy → Nat
  | .f32 => 0
  | .bf16 => 1
  | .f16 => 2
  | .f64 => 3

/-- The FTy of a code; a reserved code names none. -/
def FTy.ofCode : Nat → Option FTy
  | 0 => some .f32
  | 1 => some .bf16
  | 2 => some .f16
  | 3 => some .f64
  | _ => none

/-- The code of a Rnd. -/
def Rnd.code : Rnd → Nat
  | .rn => 0
  | .rz => 1
  | .ru => 2
  | .rd => 3
  | .rs => 4

/-- The Rnd of a code; a reserved code names none. -/
def Rnd.ofCode : Nat → Option Rnd
  | 0 => some .rn
  | 1 => some .rz
  | 2 => some .ru
  | 3 => some .rd
  | 4 => some .rs
  | _ => none

/-- The code of a Cond. -/
def Cond.code : Cond → Nat
  | .eq => 0
  | .ne => 1
  | .lt => 2
  | .le => 3
  | .gt => 4
  | .ge => 5
  | .ltn => 6
  | .len => 7
  | .gtn => 8
  | .gen => 9

/-- The Cond of a code; a reserved code names none. -/
def Cond.ofCode : Nat → Option Cond
  | 0 => some .eq
  | 1 => some .ne
  | 2 => some .lt
  | 3 => some .le
  | 4 => some .gt
  | 5 => some .ge
  | 6 => some .ltn
  | 7 => some .len
  | 8 => some .gtn
  | 9 => some .gen
  | _ => none

/-- The code of a Scope. -/
def Scope.code : Scope → Nat
  | .lane => 0
  | .slc => 1
  | .ctx => 2
  | .core => 3
  | .clu => 4
  | .die => 5
  | .stk => 6
  | .cold => 7
  | .quay => 8
  | .mod => 9
  | .fab => 10
  | .sys => 11

/-- The Scope of a code; a reserved code names none. -/
def Scope.ofCode : Nat → Option Scope
  | 0 => some .lane
  | 1 => some .slc
  | 2 => some .ctx
  | 3 => some .core
  | 4 => some .clu
  | 5 => some .die
  | 6 => some .stk
  | 7 => some .cold
  | 8 => some .quay
  | 9 => some .mod
  | 10 => some .fab
  | 11 => some .sys
  | _ => none

/-- The code of a ESize. -/
def ESize.code : ESize → Nat
  | .w4 => 0
  | .w8 => 1
  | .w16 => 2
  | .w32 => 3
  | .w64 => 4

/-- The ESize of a code; a reserved code names none. -/
def ESize.ofCode : Nat → Option ESize
  | 0 => some .w4
  | 1 => some .w8
  | 2 => some .w16
  | 3 => some .w32
  | 4 => some .w64
  | _ => none

/-- The code of a RedOp. -/
def RedOp.code : RedOp → Nat
  | .sum => 0
  | .min => 1
  | .max => 2

/-- The RedOp of a code; a reserved code names none. -/
def RedOp.ofCode : Nat → Option RedOp
  | 0 => some .sum
  | 1 => some .min
  | 2 => some .max
  | _ => none

/-- The code of a AtomOp. -/
def AtomOp.code : AtomOp → Nat
  | .add => 0
  | .and => 1
  | .or => 2
  | .xor => 3
  | .min => 4
  | .max => 5
  | .xchg => 6
  | .cas => 7

/-- The AtomOp of a code; a reserved code names none. -/
def AtomOp.ofCode : Nat → Option AtomOp
  | 0 => some .add
  | 1 => some .and
  | 2 => some .or
  | 3 => some .xor
  | 4 => some .min
  | 5 => some .max
  | 6 => some .xchg
  | 7 => some .cas
  | _ => none

/-- The code of a AtomW. -/
def AtomW.code : AtomW → Nat
  | .i32 => 0
  | .n32 => 1
  | .i64 => 2
  | .n64 => 3
  | .f32 => 4

/-- The AtomW of a code; a reserved code names none. -/
def AtomW.ofCode : Nat → Option AtomW
  | 0 => some .i32
  | 1 => some .n32
  | 2 => some .i64
  | 3 => some .n64
  | 4 => some .f32
  | _ => none

/-- The code of a XmScope. -/
def XmScope.code : XmScope → Nat
  | .clu => 0
  | .die => 1

/-- The XmScope of a code; a reserved code names none. -/
def XmScope.ofCode : Nat → Option XmScope
  | 0 => some .clu
  | 1 => some .die
  | _ => none

/-- The code of a RTy. -/
def RTy.code : RTy → Nat
  | .t0 => 0
  | .t1 => 1
  | .t2 => 2
  | .t3 => 3

/-- The RTy of a code; a reserved code names none. -/
def RTy.ofCode : Nat → Option RTy
  | 0 => some .t0
  | 1 => some .t1
  | 2 => some .t2
  | 3 => some .t3
  | _ => none

/-- The type of a form-Q slot, from its extension bit 3 and its bit w (05 R99). -/
def FTy.ofQ (x w : Nat) : FTy :=
  if x = 0 then (if w = 0 then .f32 else .bf16) else (if w = 0 then .f64 else .f16)

/-- Extension bit 3 of a form-Q type. -/
def FTy.qExt : FTy → Nat
  | .f32 | .bf16 => 0
  | .f64 | .f16 => 1

/-- Bit w of a form-Q type. -/
def FTy.qW : FTy → Nat
  | .f32 | .f64 => 0
  | .bf16 | .f16 => 1

/-- The guard of a slot word (02 R23). -/
def decodeGuard (w : Nat) : Guard := ⟨bit w 31, fld w 30 27⟩

/-- The guard bits of a slot word. -/
def Guard.bits (g : Guard) : Nat := g.neg.toNat * 2 ^ 31 + g.p * 2 ^ 27

/-- The bits `b` of an opcode with the guard above them. -/
def slotBase (g : Guard) (b : Nat) : Nat := b + g.bits

/-- A word with field `v` put in at bit `lo`. -/
def putF (acc v lo : Nat) : Nat := acc + v * 2 ^ lo

/-! ### Slot words: one decoder per major of 02 R34 -/

/-- Major 0x01: BR, BRI, CALL, RET, LOOP, ENDL, LEAVE, END, YIELD, WAIT, SETF, CLRF, TSTF, TRAP, RTE, GET, SET, LAUNCH, TISS, SLACK, BKPT, MARK, FENCE. -/
def decode01 (g : Guard) (w e : Nat) : Option Instr :=
  if fld w 20 11 = 0 ∧ e = 0 then
    some (.br g (fld w 10 0))
  else if fld w 20 16 = 1 ∧ fld w 10 0 = 0 ∧ e = 0 then
    some (.bri g (fld w 15 11))
  else if fld w 20 11 = 64 ∧ e = 0 then
    some (.call g (fld w 10 0))
  else if fld w 20 0 = 196608 ∧ e = 0 then
    some (.ret g)
  else if fld w 20 16 = 4 ∧ e = 0 then
    some (.loop g (fld w 15 11) (fld w 10 0))
  else if fld w 20 0 = 327680 ∧ e = 0 then
    some (.endl g)
  else if fld w 20 0 = 393216 ∧ e = 0 then
    some (.leave g)
  else if fld w 20 0 = 458752 ∧ e = 0 then
    some (.endTask g)
  else if fld w 20 0 = 524288 ∧ e = 0 then
    some (.yield g)
  else if fld w 20 11 = 288 ∧ fld w 6 6 = 0 ∧ e = 0 then
    (Scope.ofCode (fld w 10 7)).bind fun scope => some (.wait g scope (fld w 5 0))
  else if fld w 20 11 = 320 ∧ fld w 6 6 = 0 ∧ e = 0 then
    (Scope.ofCode (fld w 10 7)).bind fun scope => some (.setf g scope (fld w 5 0))
  else if fld w 20 11 = 352 ∧ fld w 6 6 = 0 ∧ e = 0 then
    (Scope.ofCode (fld w 10 7)).bind fun scope => some (.clrf g scope (fld w 5 0))
  else if fld w 20 15 = 24 ∧ fld w 11 11 = 0 ∧ fld w 6 6 = 0 ∧ e = 0 then
    (Scope.ofCode (fld w 10 7)).bind fun scope => some (.tstf g (fld w 14 12) scope (fld w 5 0))
  else if fld w 20 11 = 416 ∧ e = 0 then
    some (.trap g (fld w 10 0))
  else if fld w 20 0 = 917504 ∧ e = 0 then
    some (.rte g)
  else if fld w 20 16 = 15 ∧ e = 0 then
    some (.get g (fld w 15 11) (fld w 10 0))
  else if fld w 20 16 = 16 ∧ e = 0 then
    some (.set g (fld w 15 11) (fld w 10 0))
  else if fld w 20 16 = 17 ∧ fld w 10 0 = 0 ∧ e = 0 then
    some (.launch g (fld w 15 11))
  else if fld w 20 16 = 18 ∧ fld w 10 0 = 0 ∧ e = 0 then
    some (.tiss g (fld w 15 11))
  else if fld w 20 11 = 608 ∧ e = 0 then
    some (.slack g (fld w 10 0))
  else if fld w 20 11 = 640 ∧ e = 0 then
    some (.bkpt g (fld w 10 0))
  else if fld w 20 11 = 672 ∧ e = 0 then
    some (.mark g (fld w 10 0))
  else if fld w 20 11 = 704 ∧ fld w 6 0 = 0 ∧ e = 0 then
    (Scope.ofCode (fld w 10 7)).bind fun scope => some (.fence g scope)
  else none

/-- Major 0x08: ADD, SUB, MUL, MULH, AND, OR, XOR, ANDN, SHL, SHR, SRA, MIN, MAX, CLZ, POPC, MOV. -/
def decode08 (g : Guard) (w e : Nat) : Option Instr :=
  if fld w 5 0 = 0 ∧ e = 0 then
    some (.add g (fld w 20 16) (fld w 15 11) (fld w 10 6))
  else if fld w 5 0 = 2 ∧ e = 0 then
    some (.sub g (fld w 20 16) (fld w 15 11) (fld w 10 6))
  else if fld w 5 0 = 4 ∧ e = 0 then
    some (.mul g (fld w 20 16) (fld w 15 11) (fld w 10 6))
  else if fld w 5 1 = 3 ∧ e = 0 then
    some (.mulh g (bit w 0) (fld w 20 16) (fld w 15 11) (fld w 10 6))
  else if fld w 5 0 = 8 ∧ e = 0 then
    some (.and g (fld w 20 16) (fld w 15 11) (fld w 10 6))
  else if fld w 5 0 = 10 ∧ e = 0 then
    some (.or g (fld w 20 16) (fld w 15 11) (fld w 10 6))
  else if fld w 5 0 = 12 ∧ e = 0 then
    some (.xor g (fld w 20 16) (fld w 15 11) (fld w 10 6))
  else if fld w 5 0 = 14 ∧ e = 0 then
    some (.andn g (fld w 20 16) (fld w 15 11) (fld w 10 6))
  else if fld w 5 0 = 16 ∧ e = 0 then
    some (.shl g (fld w 20 16) (fld w 15 11) (fld w 10 6))
  else if fld w 5 0 = 18 ∧ e = 0 then
    some (.shr g (fld w 20 16) (fld w 15 11) (fld w 10 6))
  else if fld w 5 0 = 20 ∧ e = 0 then
    some (.sra g (fld w 20 16) (fld w 15 11) (fld w 10 6))
  else if fld w 5 1 = 11 ∧ e = 0 then
    some (.min g (bit w 0) (fld w 20 16) (fld w 15 11) (fld w 10 6))
  else if fld w 5 1 = 12 ∧ e = 0 then
    some (.max g (bit w 0) (fld w 20 16) (fld w 15 11) (fld w 10 6))
  else if fld w 10 0 = 26 ∧ e = 0 then
    some (.clz g (fld w 20 16) (fld w 15 11))
  else if fld w 10 0 = 28 ∧ e = 0 then
    some (.popc g (fld w 20 16) (fld w 15 11))
  else if fld w 10 0 = 30 ∧ e = 0 then
    some (.mov g (fld w 20 16) (fld w 15 11))
  else none

/-- Major 0x09: ADDI. -/
def decode09 (g : Guard) (w e : Nat) (h : Bool) : Option Instr :=
  some (.addi g (fld w 20 16) (fld w 15 11) (sxe 11 7 h (fld w 10 0) e))

/-- Major 0x0A: LI. -/
def decode0A (g : Guard) (w e : Nat) (h : Bool) : Option Instr :=
  some (.li g (fld w 20 16) (sxe 16 7 h (fld w 15 0) e))

/-- Major 0x0B: LIH. -/
def decode0B (g : Guard) (w e : Nat) : Option Instr :=
  if e = 0 then
    some (.lih g (fld w 20 16) (fld w 15 0))
  else none

/-- Major 0x0C: SEL. -/
def decode0C (g : Guard) (w e : Nat) : Option Instr :=
  if fld w 0 0 = 0 ∧ e = 0 then
    some (.sel g (fld w 20 16) (fld w 15 11) (fld w 10 6) (fld w 5 1))
  else none

/-- Major 0x0D: CMP. -/
def decode0D (g : Guard) (w e : Nat) : Option Instr :=
  if fld w 5 4 = 0 ∧ e = 0 then
    (Cond.ofCode (fld w 3 0)).bind fun cond => some (.cmp g cond (fld w 20 16) (fld w 15 11) (fld w 10 6))
  else none

/-- Major 0x10: VADD, VSUB. -/
def decode10 (g : Guard) (w e : Nat) : Option Instr :=
  if fld w 0 0 = 0 ∧ e = 0 then
    (ElemTy.ofCode (fld w 4 1)).bind fun ty => some (.vadd g ty (bit w 5) (fld w 20 16) (fld w 15 11) (fld w 10 6))
  else if fld w 0 0 = 1 ∧ e = 0 then
    (ElemTy.ofCode (fld w 4 1)).bind fun ty => some (.vsub g ty (bit w 5) (fld w 20 16) (fld w 15 11) (fld w 10 6))
  else none

/-- Major 0x11: VMUL, VMULH. -/
def decode11 (g : Guard) (w e : Nat) : Option Instr :=
  if fld w 0 0 = 0 ∧ e = 0 then
    (ElemTy.ofCode (fld w 4 1)).bind fun ty => some (.vmul g ty (bit w 5) (fld w 20 16) (fld w 15 11) (fld w 10 6))
  else if fld w 5 5 = 0 ∧ fld w 0 0 = 1 ∧ e = 0 then
    (ElemTy.ofCode (fld w 4 1)).bind fun ty => some (.vmulh g ty (fld w 20 16) (fld w 15 11) (fld w 10 6))
  else none

/-- Major 0x12: VMAD, VDOT4. -/
def decode12 (g : Guard) (w e : Nat) : Option Instr :=
  if fld w 0 0 = 0 ∧ e = 0 then
    (ElemTy.ofCode (fld w 4 1)).bind fun ty => some (.vmad g ty (bit w 5) (fld w 20 16) (fld w 15 11) (fld w 10 6))
  else if fld w 0 0 = 1 ∧ e = 0 then
    (ElemTy.ofCode (fld w 4 1)).bind fun ty => some (.vdot4 g ty (bit w 5) (fld w 20 16) (fld w 15 11) (fld w 10 6))
  else none

/-- Major 0x13: VMIN, VMAX. -/
def decode13 (g : Guard) (w e : Nat) : Option Instr :=
  if fld w 5 5 = 0 ∧ fld w 0 0 = 0 ∧ e = 0 then
    (ElemTy.ofCode (fld w 4 1)).bind fun ty => some (.vmin g ty (fld w 20 16) (fld w 15 11) (fld w 10 6))
  else if fld w 5 5 = 0 ∧ fld w 0 0 = 1 ∧ e = 0 then
    (ElemTy.ofCode (fld w 4 1)).bind fun ty => some (.vmax g ty (fld w 20 16) (fld w 15 11) (fld w 10 6))
  else none

/-- Major 0x14: VAND, VOR. -/
def decode14 (g : Guard) (w e : Nat) : Option Instr :=
  if fld w 5 0 = 6 ∧ e = 0 then
    some (.vand g (fld w 20 16) (fld w 15 11) (fld w 10 6))
  else if fld w 5 0 = 7 ∧ e = 0 then
    some (.vor g (fld w 20 16) (fld w 15 11) (fld w 10 6))
  else none

/-- Major 0x15: VXOR, VANDN. -/
def decode15 (g : Guard) (w e : Nat) : Option Instr :=
  if fld w 5 0 = 6 ∧ e = 0 then
    some (.vxor g (fld w 20 16) (fld w 15 11) (fld w 10 6))
  else if fld w 5 0 = 7 ∧ e = 0 then
    some (.vandn g (fld w 20 16) (fld w 15 11) (fld w 10 6))
  else none

/-- Major 0x16: VSHL, VSHR. -/
def decode16 (g : Guard) (w e : Nat) : Option Instr :=
  if fld w 0 0 = 0 ∧ e = 0 then
    (ElemTy.ofCode (fld w 4 1)).bind fun ty => some (.vshl g ty (bit w 5) (fld w 20 16) (fld w 15 11) (fld w 10 6))
  else if fld w 5 5 = 0 ∧ fld w 0 0 = 1 ∧ e = 0 then
    (ElemTy.ofCode (fld w 4 1)).bind fun ty => some (.vshr g ty (fld w 20 16) (fld w 15 11) (fld w 10 6))
  else none

/-- Major 0x17: VSRA, VABS, VNEG, VCLZ, VPOPC, VMOV, VBC, VIOTA, VRED. -/
def decode17 (g : Guard) (w e : Nat) : Option Instr :=
  if fld w 5 5 = 0 ∧ fld w 0 0 = 0 ∧ e = 0 then
    (ElemTy.ofCode (fld w 4 1)).bind fun ty => some (.vsra g ty (fld w 20 16) (fld w 15 11) (fld w 10 6))
  else if fld w 10 6 = 0 ∧ fld w 0 0 = 1 ∧ e = 0 then
    (ElemTy.ofCode (fld w 4 1)).bind fun ty => some (.vabs g ty (bit w 5) (fld w 20 16) (fld w 15 11))
  else if fld w 10 6 = 1 ∧ fld w 0 0 = 1 ∧ e = 0 then
    (ElemTy.ofCode (fld w 4 1)).bind fun ty => some (.vneg g ty (bit w 5) (fld w 20 16) (fld w 15 11))
  else if fld w 10 5 = 4 ∧ fld w 0 0 = 1 ∧ e = 0 then
    (ElemTy.ofCode (fld w 4 1)).bind fun ty => some (.vclz g ty (fld w 20 16) (fld w 15 11))
  else if fld w 10 5 = 6 ∧ fld w 0 0 = 1 ∧ e = 0 then
    (ElemTy.ofCode (fld w 4 1)).bind fun ty => some (.vpopc g ty (fld w 20 16) (fld w 15 11))
  else if fld w 10 0 = 263 ∧ e = 0 then
    some (.vmov g (fld w 20 16) (fld w 15 11))
  else if fld w 10 5 = 10 ∧ fld w 0 0 = 1 ∧ e = 0 then
    (ElemTy.ofCode (fld w 4 1)).bind fun ty => some (.vbc g ty (fld w 20 16) (fld w 15 11))
  else if fld w 15 5 = 12 ∧ fld w 0 0 = 1 ∧ e = 0 then
    (ElemTy.ofCode (fld w 4 1)).bind fun ty => some (.viota g ty (fld w 20 16))
  else if fld w 10 6 = 7 ∧ fld w 0 0 = 1 ∧ e = 0 then
    (ElemTy.ofCode (fld w 4 1)).bind fun ty => (RedOp.ofCode (fld w 20 19)).bind fun op => some (.vred g ty (bit w 5) op (fld w 18 16) (fld w 15 11))
  else none

/-- Major 0x18: FADD, FSUB. -/
def decode18 (g : Guard) (w e : Nat) : Option Instr :=
  if fld w 0 0 = 0 ∧ e = 0 then
    (FTy.ofCode (fld w 2 1)).bind fun ft => (Rnd.ofCode (fld w 5 3)).bind fun rnd => some (.fadd g ft rnd (fld w 20 16) (fld w 15 11) (fld w 10 6))
  else if fld w 0 0 = 1 ∧ e = 0 then
    (FTy.ofCode (fld w 2 1)).bind fun ft => (Rnd.ofCode (fld w 5 3)).bind fun rnd => some (.fsub g ft rnd (fld w 20 16) (fld w 15 11) (fld w 10 6))
  else none

/-- Major 0x19: FMUL, FMIN. -/
def decode19 (g : Guard) (w e : Nat) : Option Instr :=
  if fld w 0 0 = 0 ∧ e = 0 then
    (FTy.ofCode (fld w 2 1)).bind fun ft => (Rnd.ofCode (fld w 5 3)).bind fun rnd => some (.fmul g ft rnd (fld w 20 16) (fld w 15 11) (fld w 10 6))
  else if fld w 5 3 = 0 ∧ fld w 0 0 = 1 ∧ e = 0 then
    (FTy.ofCode (fld w 2 1)).bind fun ft => some (.fmin g ft (fld w 20 16) (fld w 15 11) (fld w 10 6))
  else none

/-- Major 0x1A: FMAX, FCPS. -/
def decode1A (g : Guard) (w e : Nat) : Option Instr :=
  if fld w 5 3 = 0 ∧ fld w 0 0 = 0 ∧ e = 0 then
    (FTy.ofCode (fld w 2 1)).bind fun ft => some (.fmax g ft (fld w 20 16) (fld w 15 11) (fld w 10 6))
  else if fld w 5 3 = 0 ∧ fld w 0 0 = 1 ∧ e = 0 then
    (FTy.ofCode (fld w 2 1)).bind fun ft => some (.fcps g ft (fld w 20 16) (fld w 15 11) (fld w 10 6))
  else none

/-- Major 0x1B: FABS, FNEG, FRCP, FRSQ, FSQRT, FEXP2, FLOG2, FTANH, FCLS, FRED. -/
def decode1B (g : Guard) (w e : Nat) : Option Instr :=
  if fld w 10 3 = 0 ∧ fld w 0 0 = 0 ∧ e = 0 then
    (FTy.ofCode (fld w 2 1)).bind fun ft => some (.fabs g ft (fld w 20 16) (fld w 15 11))
  else if fld w 10 3 = 8 ∧ fld w 0 0 = 0 ∧ e = 0 then
    (FTy.ofCode (fld w 2 1)).bind fun ft => some (.fneg g ft (fld w 20 16) (fld w 15 11))
  else if fld w 10 6 = 2 ∧ fld w 0 0 = 0 ∧ e = 0 then
    (FTy.ofCode (fld w 2 1)).bind fun ft => (Rnd.ofCode (fld w 5 3)).bind fun rnd => some (.frcp g ft rnd (fld w 20 16) (fld w 15 11))
  else if fld w 10 6 = 3 ∧ fld w 0 0 = 0 ∧ e = 0 then
    (FTy.ofCode (fld w 2 1)).bind fun ft => (Rnd.ofCode (fld w 5 3)).bind fun rnd => some (.frsq g ft rnd (fld w 20 16) (fld w 15 11))
  else if fld w 10 6 = 4 ∧ fld w 0 0 = 0 ∧ e = 0 then
    (FTy.ofCode (fld w 2 1)).bind fun ft => (Rnd.ofCode (fld w 5 3)).bind fun rnd => some (.fsqrt g ft rnd (fld w 20 16) (fld w 15 11))
  else if fld w 10 6 = 5 ∧ fld w 0 0 = 0 ∧ e = 0 then
    (FTy.ofCode (fld w 2 1)).bind fun ft => (Rnd.ofCode (fld w 5 3)).bind fun rnd => some (.fexp2 g ft rnd (fld w 20 16) (fld w 15 11))
  else if fld w 10 6 = 6 ∧ fld w 0 0 = 0 ∧ e = 0 then
    (FTy.ofCode (fld w 2 1)).bind fun ft => (Rnd.ofCode (fld w 5 3)).bind fun rnd => some (.flog2 g ft rnd (fld w 20 16) (fld w 15 11))
  else if fld w 10 6 = 7 ∧ fld w 0 0 = 0 ∧ e = 0 then
    (FTy.ofCode (fld w 2 1)).bind fun ft => (Rnd.ofCode (fld w 5 3)).bind fun rnd => some (.ftanh g ft rnd (fld w 20 16) (fld w 15 11))
  else if fld w 10 3 = 64 ∧ fld w 0 0 = 0 ∧ e = 0 then
    (FTy.ofCode (fld w 2 1)).bind fun ft => some (.fcls g ft (fld w 20 16) (fld w 15 11))
  else if fld w 10 6 = 9 ∧ fld w 0 0 = 0 ∧ e = 0 then
    (FTy.ofCode (fld w 2 1)).bind fun ft => (Rnd.ofCode (fld w 5 3)).bind fun rnd => (RedOp.ofCode (fld w 20 19)).bind fun op => some (.fred g ft rnd op (fld w 18 16) (fld w 15 11))
  else none

/-- Major 0x1C: FMA. -/
def decode1C (g : Guard) (w e : Nat) : Option Instr :=
  if fld e 6 4 = 0 then
    (Rnd.ofCode (fld e 2 0)).bind fun rnd => some (.fma g (FTy.ofQ (fld e 3 3) (fld w 0 0)) rnd (fld w 20 16) (fld w 15 11) (fld w 10 6) (fld w 5 1))
  else none

/-- Major 0x1D: FMS. -/
def decode1D (g : Guard) (w e : Nat) : Option Instr :=
  if fld e 6 4 = 0 then
    (Rnd.ofCode (fld e 2 0)).bind fun rnd => some (.fms g (FTy.ofQ (fld e 3 3) (fld w 0 0)) rnd (fld w 20 16) (fld w 15 11) (fld w 10 6) (fld w 5 1))
  else none

/-- Major 0x1E: FNMA. -/
def decode1E (g : Guard) (w e : Nat) : Option Instr :=
  if fld e 6 4 = 0 then
    (Rnd.ofCode (fld e 2 0)).bind fun rnd => some (.fnma g (FTy.ofQ (fld e 3 3) (fld w 0 0)) rnd (fld w 20 16) (fld w 15 11) (fld w 10 6) (fld w 5 1))
  else none

/-- Major 0x20: VCMP. -/
def decode20 (g : Guard) (w e : Nat) : Option Instr :=
  if e = 0 then
    (ElemTy.ofCode (fld w 3 0)).bind fun ty => (Cond.ofCode (fld w 7 4)).bind fun cond => some (.vcmp g ty cond (fld w 20 18) (fld w 17 13) (fld w 12 8))
  else none

/-- Major 0x21: FCMP. -/
def decode21 (g : Guard) (w e : Nat) : Option Instr :=
  if e = 0 then
    (ElemTy.ofCode (fld w 3 0)).bind fun ty => (Cond.ofCode (fld w 7 4)).bind fun cond => some (.fcmp g ty cond (fld w 20 18) (fld w 17 13) (fld w 12 8))
  else none

/-- Major 0x22: PAND, POR, PXOR, PNOT, PMOV, PCNT. -/
def decode22 (g : Guard) (w e : Nat) : Option Instr :=
  if fld w 5 0 = 0 ∧ e = 0 then
    some (.pand g (fld w 20 16) (fld w 15 11) (fld w 10 6))
  else if fld w 5 0 = 1 ∧ e = 0 then
    some (.por g (fld w 20 16) (fld w 15 11) (fld w 10 6))
  else if fld w 5 0 = 2 ∧ e = 0 then
    some (.pxor g (fld w 20 16) (fld w 15 11) (fld w 10 6))
  else if fld w 10 0 = 3 ∧ e = 0 then
    some (.pnot g (fld w 20 16) (fld w 15 11))
  else if fld w 10 0 = 4 ∧ e = 0 then
    some (.pmov g (fld w 20 16) (fld w 15 11))
  else if fld w 10 0 = 5 ∧ e = 0 then
    some (.pcnt g (fld w 20 16) (fld w 15 11))
  else none

/-- Major 0x23: VSEL. -/
def decode23 (g : Guard) (w e : Nat) : Option Instr :=
  if fld w 1 0 = 0 ∧ e = 0 then
    some (.vsel g (fld w 20 16) (fld w 15 11) (fld w 10 6) (fld w 5 2))
  else none

/-- Major 0x24: CVT. -/
def decode24 (g : Guard) (w e : Nat) : Option Instr :=
  if e = 0 then
    (ElemTy.ofCode (fld w 10 7)).bind fun dty => (ElemTy.ofCode (fld w 6 3)).bind fun sty => (Rnd.ofCode (fld w 2 0)).bind fun rnd => some (.cvt g dty sty rnd (fld w 20 16) (fld w 15 11))
  else none

/-- Major 0x25: CVT_SAT. -/
def decode25 (g : Guard) (w e : Nat) : Option Instr :=
  if e = 0 then
    (ElemTy.ofCode (fld w 10 7)).bind fun dty => (ElemTy.ofCode (fld w 6 3)).bind fun sty => (Rnd.ofCode (fld w 2 0)).bind fun rnd => some (.cvtSat g dty sty rnd (fld w 20 16) (fld w 15 11))
  else none

/-- Major 0x26: CVTB, CVTG, AMAXR, SEED, SEED_FROM_VECTOR, PACK, UNPK. -/
def decode26 (g : Guard) (w e : Nat) : Option Instr :=
  if fld w 10 9 = 0 ∧ fld w 5 3 = 0 ∧ e = 0 then
    (Rnd.ofCode (fld w 2 0)).bind fun rnd => some (.cvtb g (bit w 8) (bit w 7) (bit w 6) rnd (fld w 20 16) (fld w 15 11))
  else if fld w 10 0 = 8 ∧ e = 0 then
    some (.cvtg g (fld w 20 16) (fld w 15 11))
  else if fld w 15 0 = 16 ∧ e = 0 then
    some (.amaxr g (fld w 20 16))
  else if fld w 20 0 = 24 ∧ e = 0 then
    some (.seed g)
  else if fld w 20 16 = 0 ∧ fld w 10 0 = 88 ∧ e = 0 then
    some (.seedFromVector g (fld w 15 11))
  else if fld w 5 0 = 32 ∧ e = 0 then
    some (.pack g (fld w 10 9) (fld w 8 6) (fld w 20 16) (fld w 15 11))
  else if fld w 5 0 = 40 ∧ e = 0 then
    some (.unpk g (fld w 10 9) (fld w 8 6) (fld w 20 16) (fld w 15 11))
  else none

/-- Major 0x28: ZIP2, ZIP3, ZIP4, UZP2, UZP3, UZP4, PERM. -/
def decode28 (g : Guard) (w e : Nat) : Option Instr :=
  if fld w 2 0 = 0 ∧ e = 0 then
    (ESize.ofCode (fld w 5 3)).bind fun size => some (.zip2 g size (fld w 20 16) (fld w 15 11) (fld w 10 6))
  else if fld w 10 6 = 0 ∧ fld w 2 0 = 1 ∧ e = 0 then
    (ESize.ofCode (fld w 5 3)).bind fun size => some (.zip3 g size (fld w 20 16) (fld w 15 11))
  else if fld w 10 6 = 0 ∧ fld w 2 0 = 2 ∧ e = 0 then
    (ESize.ofCode (fld w 5 3)).bind fun size => some (.zip4 g size (fld w 20 16) (fld w 15 11))
  else if fld w 2 0 = 3 ∧ e = 0 then
    (ESize.ofCode (fld w 5 3)).bind fun size => some (.uzp2 g size (fld w 20 16) (fld w 15 11) (fld w 10 6))
  else if fld w 10 6 = 0 ∧ fld w 2 0 = 4 ∧ e = 0 then
    (ESize.ofCode (fld w 5 3)).bind fun size => some (.uzp3 g size (fld w 20 16) (fld w 15 11))
  else if fld w 10 6 = 0 ∧ fld w 2 0 = 5 ∧ e = 0 then
    (ESize.ofCode (fld w 5 3)).bind fun size => some (.uzp4 g size (fld w 20 16) (fld w 15 11))
  else if fld w 2 0 = 6 ∧ e = 0 then
    (ESize.ofCode (fld w 5 3)).bind fun size => some (.perm g size (fld w 20 16) (fld w 15 11) (fld w 10 6))
  else none

/-- Major 0x29: SLIDE. -/
def decode29 (g : Guard) (w e : Nat) (h : Bool) : Option Instr :=
  some (.slide g (fld w 20 16) (fld w 15 11) (sxe 11 7 h (fld w 10 0) e))

/-- Major 0x2A: DRV, TAP, XCP. -/
def decode2A (g : Guard) (w e : Nat) : Option Instr :=
  if fld w 20 16 = 0 ∧ fld w 7 0 = 0 ∧ e = 0 then
    some (.drv g (fld w 10 8) (fld w 15 11))
  else if fld w 15 11 = 0 ∧ fld w 7 0 = 64 ∧ e = 0 then
    some (.tap g (fld w 20 16) (fld w 10 8))
  else if fld w 7 0 = 128 ∧ e = 0 then
    some (.xcp g (fld w 20 16) (fld w 10 8) (fld w 15 11))
  else none

/-- Major 0x2C: DTX, DTU, DTC, DTS, DTZ, DTQ. -/
def decode2C (g : Guard) (w e : Nat) : Option Instr :=
  if fld w 3 0 = 0 ∧ e = 0 then
    some (.dtx g (fld w 5 4) (fld w 20 16) (fld w 15 11) (fld w 10 6))
  else if fld w 10 6 = 0 ∧ fld w 3 0 = 2 ∧ e = 0 then
    some (.dtu g (fld w 5 4) (fld w 20 16) (fld w 15 11))
  else if fld w 20 20 = 0 ∧ fld w 16 16 = 0 ∧ fld w 3 0 = 4 ∧ e = 0 then
    some (.dtc g (fld w 5 4) (fld w 19 17) (fld w 15 11) (fld w 10 6))
  else if fld w 10 0 = 6 ∧ e = 0 then
    some (.dts g (fld w 20 16) (fld w 15 11))
  else if fld w 20 6 = 0 ∧ fld w 3 0 = 8 ∧ e = 0 then
    some (.dtz g (fld w 5 4))
  else if fld w 15 6 = 0 ∧ fld w 3 0 = 10 ∧ e = 0 then
    some (.dtq g (fld w 5 4) (fld w 20 16))
  else none

/-- Major 0x2D: DTLD. -/
def decode2D (g : Guard) (w e : Nat) (h : Bool) : Option Instr :=
  if fld w 20 18 = 0 then
    some (.dtld g (fld w 17 16) (fld w 15 11) (sxe 11 7 h (fld w 10 0) e))
  else none

/-- Major 0x30: VLD, VST. -/
def decode30 (g : Guard) (w e : Nat) (h : Bool) : Option Instr :=
  if fld w 10 10 = 0 then
    some (.vld g (fld w 20 16) (fld w 15 11) (sxe 10 7 h (fld w 9 0) e))
  else if fld w 10 10 = 1 then
    some (.vst g (fld w 20 16) (fld w 15 11) (sxe 10 7 h (fld w 9 0) e))
  else none

/-- Major 0x31: LDS, STS. -/
def decode31 (g : Guard) (w e : Nat) (h : Bool) : Option Instr :=
  if fld w 10 10 = 0 then
    some (.lds g (fld w 20 16) (fld w 15 11) (sxe 10 7 h (fld w 9 0) e))
  else if fld w 10 10 = 1 then
    some (.sts g (fld w 20 16) (fld w 15 11) (sxe 10 7 h (fld w 9 0) e))
  else none

/-- Major 0x32: VLDS, VLDX, VSTX, RSET, RPUSH, RINFO. -/
def decode32 (g : Guard) (w e : Nat) : Option Instr :=
  if fld w 5 0 = 0 ∧ e = 0 then
    some (.vlds g (fld w 20 16) (fld w 15 11) (fld w 10 6))
  else if fld w 5 0 = 8 ∧ e = 0 then
    some (.vldx g (fld w 20 16) (fld w 15 11) (fld w 10 6))
  else if fld w 5 0 = 16 ∧ e = 0 then
    some (.vstx g (fld w 20 16) (fld w 15 11) (fld w 10 6))
  else if fld w 20 19 = 0 ∧ fld w 10 0 = 24 ∧ e = 0 then
    some (.rset g (fld w 18 16) (fld w 15 11))
  else if fld w 20 19 = 0 ∧ fld w 15 0 = 32 ∧ e = 0 then
    some (.rpush g (fld w 18 16))
  else if fld w 15 14 = 0 ∧ fld w 10 0 = 40 ∧ e = 0 then
    some (.rinfo g (fld w 20 16) (fld w 13 11))
  else none

/-- Major 0x33: ATOM. -/
def decode33 (g : Guard) (w e : Nat) : Option Instr :=
  if e = 0 then
    (AtomOp.ofCode (fld w 5 3)).bind fun op => (AtomW.ofCode (fld w 2 0)).bind fun wd => some (.atom g op wd (fld w 20 16) (fld w 15 11) (fld w 10 6))
  else none

/-- Major 0x34: XIN, XOUT. -/
def decode34 (g : Guard) (w e : Nat) : Option Instr :=
  if fld w 3 0 = 0 ∧ fld e 6 3 = 0 then
    some (.xin g (fld w 20 16) (fld w 15 7 + fld e 2 0 * 2 ^ 9) (fld w 6 4))
  else if fld w 3 0 = 8 ∧ fld e 6 3 = 0 then
    some (.xout g (fld w 20 16) (fld w 15 7 + fld e 2 0 * 2 ^ 9) (fld w 6 4))
  else none

/-- Major 0x35: XINM. -/
def decode35 (g : Guard) (w e : Nat) : Option Instr :=
  if fld e 6 3 = 0 then
    (XmScope.ofCode (fld w 2 0)).bind fun scope => some (.xinm g scope (fld w 20 16) (fld w 15 7 + fld e 2 0 * 2 ^ 9) (fld w 6 3))
  else none

/-- Major 0x36: XINR. -/
def decode36 (g : Guard) (w e : Nat) : Option Instr :=
  if fld w 20 19 = 0 ∧ fld w 3 0 = 0 ∧ fld e 6 3 = 0 then
    some (.xinr g (fld w 18 16) (fld w 15 7 + fld e 2 0 * 2 ^ 9) (fld w 6 4))
  else none

/-- Major 0x37: XINA, XOUTA, XCAL. -/
def decode37 (g : Guard) (w e : Nat) : Option Instr :=
  if fld w 20 19 = 0 ∧ fld w 7 0 = 0 ∧ e = 0 then
    some (.xina g (fld w 18 16) (fld w 15 8))
  else if fld w 20 19 = 0 ∧ fld w 7 0 = 1 ∧ e = 0 then
    some (.xouta g (fld w 18 16) (fld w 15 8))
  else if fld w 15 0 = 2 ∧ e = 0 then
    some (.xcal g (fld w 20 16))
  else none

/-- Major 0x38: MCALL, MSET, MGET, MZERO, MPOP, MPSH, MLOAD. -/
def decode38 (g : Guard) (w e : Nat) : Option Instr :=
  if fld w 20 18 = 0 ∧ fld w 9 0 = 0 ∧ e = 0 then
    some (.mcall g (fld w 17 10))
  else if fld w 20 18 = 1 ∧ fld w 14 10 = 0 ∧ fld w 4 0 = 0 ∧ e = 0 then
    some (.mset g (fld w 17 15) (fld w 9 5))
  else if fld w 20 18 = 2 ∧ fld w 14 10 = 0 ∧ fld w 4 0 = 0 ∧ e = 0 then
    some (.mget g (fld w 17 15) (fld w 9 5))
  else if fld w 20 18 = 3 ∧ fld w 14 0 = 0 ∧ e = 0 then
    some (.mzero g (fld w 17 15))
  else if fld w 20 18 = 4 ∧ fld w 14 10 = 0 ∧ fld w 4 3 = 0 ∧ e = 0 then
    some (.mpop g (fld w 9 5) (fld w 17 15) (fld w 2 0))
  else if fld w 20 18 = 5 ∧ fld w 14 10 = 0 ∧ fld w 4 3 = 0 ∧ e = 0 then
    some (.mpsh g (fld w 9 5) (fld w 17 15) (fld w 2 0))
  else if fld w 20 18 = 6 ∧ fld w 4 0 = 0 ∧ e = 0 then
    some (.mload g (fld w 17 10) (fld w 9 5))
  else none

/-- Major 0x39: SLD. -/
def decode39 (g : Guard) (w e : Nat) (h : Bool) : Option Instr :=
  if fld w 20 19 = 0 then
    some (.sld g (fld w 18 16) (fld w 15 11) (sxe 11 7 h (fld w 10 0) e))
  else none

/-- Major 0x3B: TRN, TRNO. -/
def decode3B (g : Guard) (w e : Nat) : Option Instr :=
  if fld w 20 16 = 0 ∧ fld w 10 9 = 0 ∧ fld w 5 0 = 0 ∧ e = 0 then
    some (.trn g (fld w 15 11) (fld w 8 6))
  else if fld w 15 9 = 0 ∧ fld w 5 0 = 1 ∧ e = 0 then
    some (.trno g (fld w 20 16) (fld w 8 6))
  else none

/-- Major 0x3C: CE_LD, CE_ST, CE_AL, CE_AS, CE_GTH, CE_FIL, RT_LD, RT_GO, RT_STOP, BX_SEND, BX_POST. -/
def decode3C (g : Guard) (w e : Nat) : Option Instr :=
  if fld w 20 17 = 0 then
    some (.ceLd g (fld w 16 12) (fld w 11 7) (fld w 6 0 + fld e 6 0 * 2 ^ 7))
  else if fld w 20 17 = 1 then
    some (.ceSt g (fld w 16 12) (fld w 11 7) (fld w 6 0 + fld e 6 0 * 2 ^ 7))
  else if fld w 20 17 = 2 then
    some (.ceAl g (fld w 16 12) (fld w 11 7) (fld w 6 0 + fld e 6 0 * 2 ^ 7))
  else if fld w 20 17 = 3 then
    some (.ceAs g (fld w 16 12) (fld w 11 7) (fld w 6 0 + fld e 6 0 * 2 ^ 7))
  else if fld w 20 17 = 4 then
    some (.ceGth g (fld w 16 12) (fld w 11 7) (fld w 6 0 + fld e 6 0 * 2 ^ 7))
  else if fld w 20 17 = 5 then
    some (.ceFil g (fld w 16 12) (fld w 11 7) (fld w 6 0 + fld e 6 0 * 2 ^ 7))
  else if fld w 20 17 = 6 then
    some (.rtLd g (fld w 16 12) (fld w 11 7) (fld w 6 0 + fld e 6 0 * 2 ^ 7))
  else if fld w 20 17 = 7 then
    some (.rtGo g (fld w 16 12) (fld w 11 7) (fld w 6 0 + fld e 6 0 * 2 ^ 7))
  else if fld w 20 7 = 8192 then
    some (.rtStop g (fld w 6 0 + fld e 6 0 * 2 ^ 7))
  else if fld w 20 17 = 9 then
    some (.bxSend g (fld w 16 12) (fld w 11 7) (fld w 6 0 + fld e 6 0 * 2 ^ 7))
  else if fld w 20 17 = 10 ∧ fld w 6 4 = 0 ∧ e = 0 then
    some (.bxPost g (fld w 16 12) (fld w 11 7) (fld w 3 0))
  else none

/-- Major 0x3D: CE_CXL_TO_QUAY, CE_CXL_TO_TIER. -/
def decode3D (g : Guard) (w e : Nat) : Option Instr :=
  if fld w 0 0 = 0 ∧ fld e 6 1 = 0 then
    some (.ceCxlToQuay g (fld w 20 10 + fld e 0 0 * 2 ^ 11) (fld w 9 5) (fld w 4 1))
  else if fld w 0 0 = 1 ∧ fld e 6 1 = 0 then
    some (.ceCxlToTier g (fld w 20 10 + fld e 0 0 * 2 ^ 11) (fld w 9 5) (fld w 4 1))
  else none

/-- Major 0x3E: SYS, CTXS, CTXR. -/
def decode3E (g : Guard) (w e : Nat) : Option Instr :=
  if fld w 20 16 = 0 ∧ e = 0 then
    some (.sys g (fld w 15 11) (fld w 10 4) (fld w 3 0))
  else if fld w 20 2 = 16384 ∧ e = 0 then
    some (.ctxs g (fld w 1 0))
  else if fld w 20 2 = 32768 ∧ e = 0 then
    some (.ctxr g (fld w 1 0))
  else none

/-- The instruction of a slot word with its extension (02 R27, R34); none for a null slot, a header and a
reserved or ill-formed encoding. -/
def decodeSlot (w e : Nat) (lent : Bool) : Option Instr :=
  match fld w 26 21 with
  | 0x01 => decode01 (decodeGuard w) w e
  | 0x08 => decode08 (decodeGuard w) w e
  | 0x09 => decode09 (decodeGuard w) w e lent
  | 0x0A => decode0A (decodeGuard w) w e lent
  | 0x0B => decode0B (decodeGuard w) w e
  | 0x0C => decode0C (decodeGuard w) w e
  | 0x0D => decode0D (decodeGuard w) w e
  | 0x10 => decode10 (decodeGuard w) w e
  | 0x11 => decode11 (decodeGuard w) w e
  | 0x12 => decode12 (decodeGuard w) w e
  | 0x13 => decode13 (decodeGuard w) w e
  | 0x14 => decode14 (decodeGuard w) w e
  | 0x15 => decode15 (decodeGuard w) w e
  | 0x16 => decode16 (decodeGuard w) w e
  | 0x17 => decode17 (decodeGuard w) w e
  | 0x18 => decode18 (decodeGuard w) w e
  | 0x19 => decode19 (decodeGuard w) w e
  | 0x1A => decode1A (decodeGuard w) w e
  | 0x1B => decode1B (decodeGuard w) w e
  | 0x1C => decode1C (decodeGuard w) w e
  | 0x1D => decode1D (decodeGuard w) w e
  | 0x1E => decode1E (decodeGuard w) w e
  | 0x20 => decode20 (decodeGuard w) w e
  | 0x21 => decode21 (decodeGuard w) w e
  | 0x22 => decode22 (decodeGuard w) w e
  | 0x23 => decode23 (decodeGuard w) w e
  | 0x24 => decode24 (decodeGuard w) w e
  | 0x25 => decode25 (decodeGuard w) w e
  | 0x26 => decode26 (decodeGuard w) w e
  | 0x28 => decode28 (decodeGuard w) w e
  | 0x29 => decode29 (decodeGuard w) w e lent
  | 0x2A => decode2A (decodeGuard w) w e
  | 0x2C => decode2C (decodeGuard w) w e
  | 0x2D => decode2D (decodeGuard w) w e lent
  | 0x30 => decode30 (decodeGuard w) w e lent
  | 0x31 => decode31 (decodeGuard w) w e lent
  | 0x32 => decode32 (decodeGuard w) w e
  | 0x33 => decode33 (decodeGuard w) w e
  | 0x34 => decode34 (decodeGuard w) w e
  | 0x35 => decode35 (decodeGuard w) w e
  | 0x36 => decode36 (decodeGuard w) w e
  | 0x37 => decode37 (decodeGuard w) w e
  | 0x38 => decode38 (decodeGuard w) w e
  | 0x39 => decode39 (decodeGuard w) w e lent
  | 0x3B => decode3B (decodeGuard w) w e
  | 0x3C => decode3C (decodeGuard w) w e
  | 0x3D => decode3D (decodeGuard w) w e
  | 0x3E => decode3E (decodeGuard w) w e
  | _ => none

/-- The word and the extension of a slot instruction; none for the other rows of the table. -/
def Instr.slotWord : Instr → Option (Nat × Nat)
  | .br g target => some ((putF (slotBase g 0x00200000) target 0), 0)
  | .bri g s => some ((putF (slotBase g 0x00210000) s 11), 0)
  | .call g target => some ((putF (slotBase g 0x00220000) target 0), 0)
  | .ret g => some ((slotBase g 0x00230000), 0)
  | .loop g s imm => some ((putF (putF (slotBase g 0x00240000) s 11) imm 0), 0)
  | .endl g => some ((slotBase g 0x00250000), 0)
  | .leave g => some ((slotBase g 0x00260000), 0)
  | .endTask g => some ((slotBase g 0x00270000), 0)
  | .yield g => some ((slotBase g 0x00280000), 0)
  | .wait g scope f => some ((putF (putF (slotBase g 0x00290000) scope.code 7) f 0), 0)
  | .setf g scope f => some ((putF (putF (slotBase g 0x002A0000) scope.code 7) f 0), 0)
  | .clrf g scope f => some ((putF (putF (slotBase g 0x002B0000) scope.code 7) f 0), 0)
  | .tstf g pp scope f => some ((putF (putF (putF (slotBase g 0x002C0000) pp 12) scope.code 7) f 0), 0)
  | .trap g code => some ((putF (slotBase g 0x002D0000) code 0), 0)
  | .rte g => some ((slotBase g 0x002E0000), 0)
  | .get g s n => some ((putF (putF (slotBase g 0x002F0000) s 11) n 0), 0)
  | .set g s n => some ((putF (putF (slotBase g 0x00300000) s 11) n 0), 0)
  | .launch g s => some ((putF (slotBase g 0x00310000) s 11), 0)
  | .tiss g s => some ((putF (slotBase g 0x00320000) s 11), 0)
  | .slack g code => some ((putF (slotBase g 0x00330000) code 0), 0)
  | .bkpt g code => some ((putF (slotBase g 0x00340000) code 0), 0)
  | .mark g code => some ((putF (slotBase g 0x00350000) code 0), 0)
  | .fence g scope => some ((putF (slotBase g 0x00360000) scope.code 7), 0)
  | .add g d a b => some ((putF (putF (putF (slotBase g 0x01000000) d 16) a 11) b 6), 0)
  | .sub g d a b => some ((putF (putF (putF (slotBase g 0x01000002) d 16) a 11) b 6), 0)
  | .mul g d a b => some ((putF (putF (putF (slotBase g 0x01000004) d 16) a 11) b 6), 0)
  | .mulh g u d a b => some ((putF (putF (putF (putF (slotBase g 0x01000006) u.toNat 0) d 16) a 11) b 6), 0)
  | .and g d a b => some ((putF (putF (putF (slotBase g 0x01000008) d 16) a 11) b 6), 0)
  | .or g d a b => some ((putF (putF (putF (slotBase g 0x0100000A) d 16) a 11) b 6), 0)
  | .xor g d a b => some ((putF (putF (putF (slotBase g 0x0100000C) d 16) a 11) b 6), 0)
  | .andn g d a b => some ((putF (putF (putF (slotBase g 0x0100000E) d 16) a 11) b 6), 0)
  | .shl g d a b => some ((putF (putF (putF (slotBase g 0x01000010) d 16) a 11) b 6), 0)
  | .shr g d a b => some ((putF (putF (putF (slotBase g 0x01000012) d 16) a 11) b 6), 0)
  | .sra g d a b => some ((putF (putF (putF (slotBase g 0x01000014) d 16) a 11) b 6), 0)
  | .min g u d a b => some ((putF (putF (putF (putF (slotBase g 0x01000016) u.toNat 0) d 16) a 11) b 6), 0)
  | .max g u d a b => some ((putF (putF (putF (putF (slotBase g 0x01000018) u.toNat 0) d 16) a 11) b 6), 0)
  | .clz g d a => some ((putF (putF (slotBase g 0x0100001A) d 16) a 11), 0)
  | .popc g d a => some ((putF (putF (slotBase g 0x0100001C) d 16) a 11), 0)
  | .mov g d a => some ((putF (putF (slotBase g 0x0100001E) d 16) a 11), 0)
  | .addi g d a imm => some ((putF (putF (putF (slotBase g 0x01200000) d 16) a 11) (toFld 18 imm % 2 ^ 11) 0), toFld 18 imm / 2 ^ 11)
  | .li g d imm => some ((putF (putF (slotBase g 0x01400000) d 16) (toFld 23 imm % 2 ^ 16) 0), toFld 23 imm / 2 ^ 16)
  | .lih g d imm => some ((putF (putF (slotBase g 0x01600000) d 16) imm 0), 0)
  | .sel g d a b c => some ((putF (putF (putF (putF (slotBase g 0x01800000) d 16) a 11) b 6) c 1), 0)
  | .cmp g cond d a b => some ((putF (putF (putF (putF (slotBase g 0x01A00000) cond.code 0) d 16) a 11) b 6), 0)
  | .vadd g ty sat d a b => some ((putF (putF (putF (putF (putF (slotBase g 0x02000000) ty.code 1) sat.toNat 5) d 16) a 11) b 6), 0)
  | .vsub g ty sat d a b => some ((putF (putF (putF (putF (putF (slotBase g 0x02000001) ty.code 1) sat.toNat 5) d 16) a 11) b 6), 0)
  | .vmul g ty sat d a b => some ((putF (putF (putF (putF (putF (slotBase g 0x02200000) ty.code 1) sat.toNat 5) d 16) a 11) b 6), 0)
  | .vmulh g ty d a b => some ((putF (putF (putF (putF (slotBase g 0x02200001) ty.code 1) d 16) a 11) b 6), 0)
  | .vmad g ty sat d a b => some ((putF (putF (putF (putF (putF (slotBase g 0x02400000) ty.code 1) sat.toNat 5) d 16) a 11) b 6), 0)
  | .vdot4 g ty sat d a b => some ((putF (putF (putF (putF (putF (slotBase g 0x02400001) ty.code 1) sat.toNat 5) d 16) a 11) b 6), 0)
  | .vmin g ty d a b => some ((putF (putF (putF (putF (slotBase g 0x02600000) ty.code 1) d 16) a 11) b 6), 0)
  | .vmax g ty d a b => some ((putF (putF (putF (putF (slotBase g 0x02600001) ty.code 1) d 16) a 11) b 6), 0)
  | .vand g d a b => some ((putF (putF (putF (slotBase g 0x02800006) d 16) a 11) b 6), 0)
  | .vor g d a b => some ((putF (putF (putF (slotBase g 0x02800007) d 16) a 11) b 6), 0)
  | .vxor g d a b => some ((putF (putF (putF (slotBase g 0x02A00006) d 16) a 11) b 6), 0)
  | .vandn g d a b => some ((putF (putF (putF (slotBase g 0x02A00007) d 16) a 11) b 6), 0)
  | .vshl g ty sat d a b => some ((putF (putF (putF (putF (putF (slotBase g 0x02C00000) ty.code 1) sat.toNat 5) d 16) a 11) b 6), 0)
  | .vshr g ty d a b => some ((putF (putF (putF (putF (slotBase g 0x02C00001) ty.code 1) d 16) a 11) b 6), 0)
  | .vsra g ty d a b => some ((putF (putF (putF (putF (slotBase g 0x02E00000) ty.code 1) d 16) a 11) b 6), 0)
  | .vabs g ty sat d a => some ((putF (putF (putF (putF (slotBase g 0x02E00001) ty.code 1) sat.toNat 5) d 16) a 11), 0)
  | .vneg g ty sat d a => some ((putF (putF (putF (putF (slotBase g 0x02E00041) ty.code 1) sat.toNat 5) d 16) a 11), 0)
  | .vclz g ty d a => some ((putF (putF (putF (slotBase g 0x02E00081) ty.code 1) d 16) a 11), 0)
  | .vpopc g ty d a => some ((putF (putF (putF (slotBase g 0x02E000C1) ty.code 1) d 16) a 11), 0)
  | .vmov g d a => some ((putF (putF (slotBase g 0x02E00107) d 16) a 11), 0)
  | .vbc g ty d a => some ((putF (putF (putF (slotBase g 0x02E00141) ty.code 1) d 16) a 11), 0)
  | .viota g ty d => some ((putF (putF (slotBase g 0x02E00181) ty.code 1) d 16), 0)
  | .vred g ty sat op d a => some ((putF (putF (putF (putF (putF (slotBase g 0x02E001C1) ty.code 1) sat.toNat 5) op.code 19) d 16) a 11), 0)
  | .fadd g ft rnd d a b => some ((putF (putF (putF (putF (putF (slotBase g 0x03000000) ft.code 1) rnd.code 3) d 16) a 11) b 6), 0)
  | .fsub g ft rnd d a b => some ((putF (putF (putF (putF (putF (slotBase g 0x03000001) ft.code 1) rnd.code 3) d 16) a 11) b 6), 0)
  | .fmul g ft rnd d a b => some ((putF (putF (putF (putF (putF (slotBase g 0x03200000) ft.code 1) rnd.code 3) d 16) a 11) b 6), 0)
  | .fmin g ft d a b => some ((putF (putF (putF (putF (slotBase g 0x03200001) ft.code 1) d 16) a 11) b 6), 0)
  | .fmax g ft d a b => some ((putF (putF (putF (putF (slotBase g 0x03400000) ft.code 1) d 16) a 11) b 6), 0)
  | .fcps g ft d a b => some ((putF (putF (putF (putF (slotBase g 0x03400001) ft.code 1) d 16) a 11) b 6), 0)
  | .fabs g ft d a => some ((putF (putF (putF (slotBase g 0x03600000) ft.code 1) d 16) a 11), 0)
  | .fneg g ft d a => some ((putF (putF (putF (slotBase g 0x03600040) ft.code 1) d 16) a 11), 0)
  | .frcp g ft rnd d a => some ((putF (putF (putF (putF (slotBase g 0x03600080) ft.code 1) rnd.code 3) d 16) a 11), 0)
  | .frsq g ft rnd d a => some ((putF (putF (putF (putF (slotBase g 0x036000C0) ft.code 1) rnd.code 3) d 16) a 11), 0)
  | .fsqrt g ft rnd d a => some ((putF (putF (putF (putF (slotBase g 0x03600100) ft.code 1) rnd.code 3) d 16) a 11), 0)
  | .fexp2 g ft rnd d a => some ((putF (putF (putF (putF (slotBase g 0x03600140) ft.code 1) rnd.code 3) d 16) a 11), 0)
  | .flog2 g ft rnd d a => some ((putF (putF (putF (putF (slotBase g 0x03600180) ft.code 1) rnd.code 3) d 16) a 11), 0)
  | .ftanh g ft rnd d a => some ((putF (putF (putF (putF (slotBase g 0x036001C0) ft.code 1) rnd.code 3) d 16) a 11), 0)
  | .fcls g ft d a => some ((putF (putF (putF (slotBase g 0x03600200) ft.code 1) d 16) a 11), 0)
  | .fred g ft rnd op d a => some ((putF (putF (putF (putF (putF (slotBase g 0x03600240) ft.code 1) rnd.code 3) op.code 19) d 16) a 11), 0)
  | .fma g ft rnd d a b c => some ((putF (putF (putF (putF (putF (slotBase g 0x03800000) ft.qW 0) d 16) a 11) b 6) c 1), rnd.code + ft.qExt * 2 ^ 3)
  | .fms g ft rnd d a b c => some ((putF (putF (putF (putF (putF (slotBase g 0x03A00000) ft.qW 0) d 16) a 11) b 6) c 1), rnd.code + ft.qExt * 2 ^ 3)
  | .fnma g ft rnd d a b c => some ((putF (putF (putF (putF (putF (slotBase g 0x03C00000) ft.qW 0) d 16) a 11) b 6) c 1), rnd.code + ft.qExt * 2 ^ 3)
  | .vcmp g ty cond pp a b => some ((putF (putF (putF (putF (putF (slotBase g 0x04000000) ty.code 0) cond.code 4) pp 18) a 13) b 8), 0)
  | .fcmp g ty cond pp a b => some ((putF (putF (putF (putF (putF (slotBase g 0x04200000) ty.code 0) cond.code 4) pp 18) a 13) b 8), 0)
  | .pand g d a b => some ((putF (putF (putF (slotBase g 0x04400000) d 16) a 11) b 6), 0)
  | .por g d a b => some ((putF (putF (putF (slotBase g 0x04400001) d 16) a 11) b 6), 0)
  | .pxor g d a b => some ((putF (putF (putF (slotBase g 0x04400002) d 16) a 11) b 6), 0)
  | .pnot g d a => some ((putF (putF (slotBase g 0x04400003) d 16) a 11), 0)
  | .pmov g d a => some ((putF (putF (slotBase g 0x04400004) d 16) a 11), 0)
  | .pcnt g d a => some ((putF (putF (slotBase g 0x04400005) d 16) a 11), 0)
  | .vsel g d a b p => some ((putF (putF (putF (putF (slotBase g 0x04600000) d 16) a 11) b 6) p 2), 0)
  | .cvt g dty sty rnd d a => some ((putF (putF (putF (putF (putF (slotBase g 0x04800000) dty.code 7) sty.code 3) rnd.code 0) d 16) a 11), 0)
  | .cvtSat g dty sty rnd d a => some ((putF (putF (putF (putF (putF (slotBase g 0x04A00000) dty.code 7) sty.code 3) rnd.code 0) d 16) a 11), 0)
  | .cvtb g bf16 dx4 dec rnd d a => some ((putF (putF (putF (putF (putF (putF (slotBase g 0x04C00000) bf16.toNat 8) dx4.toNat 7) dec.toNat 6) rnd.code 0) d 16) a 11), 0)
  | .cvtg g d a => some ((putF (putF (slotBase g 0x04C00008) d 16) a 11), 0)
  | .amaxr g d => some ((putF (slotBase g 0x04C00010) d 16), 0)
  | .seed g => some ((slotBase g 0x04C00018), 0)
  | .seedFromVector g a => some ((putF (slotBase g 0x04C00058) a 11), 0)
  | .pack g w part d a => some ((putF (putF (putF (putF (slotBase g 0x04C00020) w 9) part 6) d 16) a 11), 0)
  | .unpk g w part d a => some ((putF (putF (putF (putF (slotBase g 0x04C00028) w 9) part 6) d 16) a 11), 0)
  | .zip2 g size d a b => some ((putF (putF (putF (putF (slotBase g 0x05000000) size.code 3) d 16) a 11) b 6), 0)
  | .zip3 g size d a => some ((putF (putF (putF (slotBase g 0x05000001) size.code 3) d 16) a 11), 0)
  | .zip4 g size d a => some ((putF (putF (putF (slotBase g 0x05000002) size.code 3) d 16) a 11), 0)
  | .uzp2 g size d a b => some ((putF (putF (putF (putF (slotBase g 0x05000003) size.code 3) d 16) a 11) b 6), 0)
  | .uzp3 g size d a => some ((putF (putF (putF (slotBase g 0x05000004) size.code 3) d 16) a 11), 0)
  | .uzp4 g size d a => some ((putF (putF (putF (slotBase g 0x05000005) size.code 3) d 16) a 11), 0)
  | .perm g size d a b => some ((putF (putF (putF (putF (slotBase g 0x05000006) size.code 3) d 16) a 11) b 6), 0)
  | .slide g d a n => some ((putF (putF (putF (slotBase g 0x05200000) d 16) a 11) (toFld 18 n % 2 ^ 11) 0), toFld 18 n / 2 ^ 11)
  | .drv g st a => some ((putF (putF (slotBase g 0x05400000) st 8) a 11), 0)
  | .tap g d st => some ((putF (putF (slotBase g 0x05400040) d 16) st 8), 0)
  | .xcp g d st a => some ((putF (putF (putF (slotBase g 0x05400080) d 16) st 8) a 11), 0)
  | .dtx g k d a b => some ((putF (putF (putF (putF (slotBase g 0x05800000) k 4) d 16) a 11) b 6), 0)
  | .dtu g k d a => some ((putF (putF (putF (slotBase g 0x05800002) k 4) d 16) a 11), 0)
  | .dtc g k pp a b => some ((putF (putF (putF (putF (slotBase g 0x05800004) k 4) pp 17) a 11) b 6), 0)
  | .dts g d a => some ((putF (putF (slotBase g 0x05800006) d 16) a 11), 0)
  | .dtz g k => some ((putF (slotBase g 0x05800008) k 4), 0)
  | .dtq g k d => some ((putF (putF (slotBase g 0x0580000A) k 4) d 16), 0)
  | .dtld g k a imm => some ((putF (putF (putF (slotBase g 0x05A00000) k 16) a 11) (toFld 18 imm % 2 ^ 11) 0), toFld 18 imm / 2 ^ 11)
  | .vld g d a disp => some ((putF (putF (putF (slotBase g 0x06000000) d 16) a 11) (toFld 17 disp % 2 ^ 10) 0), toFld 17 disp / 2 ^ 10)
  | .vst g d a disp => some ((putF (putF (putF (slotBase g 0x06000400) d 16) a 11) (toFld 17 disp % 2 ^ 10) 0), toFld 17 disp / 2 ^ 10)
  | .lds g d a disp => some ((putF (putF (putF (slotBase g 0x06200000) d 16) a 11) (toFld 17 disp % 2 ^ 10) 0), toFld 17 disp / 2 ^ 10)
  | .sts g d a disp => some ((putF (putF (putF (slotBase g 0x06200400) d 16) a 11) (toFld 17 disp % 2 ^ 10) 0), toFld 17 disp / 2 ^ 10)
  | .vlds g d a b => some ((putF (putF (putF (slotBase g 0x06400000) d 16) a 11) b 6), 0)
  | .vldx g d a b => some ((putF (putF (putF (slotBase g 0x06400008) d 16) a 11) b 6), 0)
  | .vstx g d a b => some ((putF (putF (putF (slotBase g 0x06400010) d 16) a 11) b 6), 0)
  | .rset g ring a => some ((putF (putF (slotBase g 0x06400018) ring 16) a 11), 0)
  | .rpush g ring => some ((putF (slotBase g 0x06400020) ring 16), 0)
  | .rinfo g d ring => some ((putF (putF (slotBase g 0x06400028) d 16) ring 11), 0)
  | .atom g op wd d a b => some ((putF (putF (putF (putF (putF (slotBase g 0x06600000) op.code 3) wd.code 0) d 16) a 11) b 6), 0)
  | .xin g v q sz => some ((putF (putF (putF (slotBase g 0x06800000) v 16) (q % 2 ^ 9) 7) sz 4), q / 2 ^ 9)
  | .xout g v q sz => some ((putF (putF (putF (slotBase g 0x06800008) v 16) (q % 2 ^ 9) 7) sz 4), q / 2 ^ 9)
  | .xinm g scope v q mask => some ((putF (putF (putF (putF (slotBase g 0x06A00000) scope.code 0) v 16) (q % 2 ^ 9) 7) mask 3), q / 2 ^ 9)
  | .xinr g ring q sz => some ((putF (putF (putF (slotBase g 0x06C00000) ring 16) (q % 2 ^ 9) 7) sz 4), q / 2 ^ 9)
  | .xina g lat h => some ((putF (putF (slotBase g 0x06E00000) lat 16) h 8), 0)
  | .xouta g lat h => some ((putF (putF (slotBase g 0x06E00001) lat 16) h 8), 0)
  | .xcal g d => some ((putF (slotBase g 0x06E00002) d 16), 0)
  | .mcall g n => some ((putF (slotBase g 0x07000000) n 10), 0)
  | .mset g m s => some ((putF (putF (slotBase g 0x07040000) m 15) s 5), 0)
  | .mget g m s => some ((putF (putF (slotBase g 0x07080000) m 15) s 5), 0)
  | .mzero g lat => some ((putF (slotBase g 0x070C0000) lat 15), 0)
  | .mpop g v lat grp => some ((putF (putF (putF (slotBase g 0x07100000) v 5) lat 15) grp 0), 0)
  | .mpsh g v lat grp => some ((putF (putF (putF (slotBase g 0x07140000) v 5) lat 15) grp 0), 0)
  | .mload g n s => some ((putF (putF (slotBase g 0x07180000) n 10) s 5), 0)
  | .sld g lat a imm => some ((putF (putF (putF (slotBase g 0x07200000) lat 16) a 11) (toFld 18 imm % 2 ^ 11) 0), toFld 18 imm / 2 ^ 11)
  | .trn g a grp => some ((putF (putF (slotBase g 0x07600000) a 11) grp 6), 0)
  | .trno g d grp => some ((putF (putF (slotBase g 0x07600001) d 16) grp 6), 0)
  | .ceLd g a b off => some ((putF (putF (putF (slotBase g 0x07800000) a 12) b 7) (off % 2 ^ 7) 0), off / 2 ^ 7)
  | .ceSt g a b off => some ((putF (putF (putF (slotBase g 0x07820000) a 12) b 7) (off % 2 ^ 7) 0), off / 2 ^ 7)
  | .ceAl g a b off => some ((putF (putF (putF (slotBase g 0x07840000) a 12) b 7) (off % 2 ^ 7) 0), off / 2 ^ 7)
  | .ceAs g a b off => some ((putF (putF (putF (slotBase g 0x07860000) a 12) b 7) (off % 2 ^ 7) 0), off / 2 ^ 7)
  | .ceGth g a b off => some ((putF (putF (putF (slotBase g 0x07880000) a 12) b 7) (off % 2 ^ 7) 0), off / 2 ^ 7)
  | .ceFil g a b off => some ((putF (putF (putF (slotBase g 0x078A0000) a 12) b 7) (off % 2 ^ 7) 0), off / 2 ^ 7)
  | .rtLd g a b off => some ((putF (putF (putF (slotBase g 0x078C0000) a 12) b 7) (off % 2 ^ 7) 0), off / 2 ^ 7)
  | .rtGo g a b off => some ((putF (putF (putF (slotBase g 0x078E0000) a 12) b 7) (off % 2 ^ 7) 0), off / 2 ^ 7)
  | .rtStop g off => some ((putF (slotBase g 0x07900000) (off % 2 ^ 7) 0), off / 2 ^ 7)
  | .bxSend g a b off => some ((putF (putF (putF (slotBase g 0x07920000) a 12) b 7) (off % 2 ^ 7) 0), off / 2 ^ 7)
  | .bxPost g a b f => some ((putF (putF (putF (slotBase g 0x07940000) a 12) b 7) f 0), 0)
  | .ceCxlToQuay g q s f => some ((putF (putF (putF (slotBase g 0x07A00000) (q % 2 ^ 11) 10) s 5) f 1), q / 2 ^ 11)
  | .ceCxlToTier g q s f => some ((putF (putF (putF (slotBase g 0x07A00001) (q % 2 ^ 11) 10) s 5) f 1), q / 2 ^ 11)
  | .sys g s n f => some ((putF (putF (putF (slotBase g 0x07C00000) s 11) n 4) f 0), 0)
  | .ctxs g c => some ((putF (slotBase g 0x07C10000) c 0), 0)
  | .ctxr g c => some ((putF (slotBase g 0x07C20000) c 0), 0)
  | .bundleIssue _ => none
  | .rnop => none
  | .rld _ _ _ => none
  | .rldc _ _ _ _ => none
  | .rldi _ _ => none
  | .radd _ _ _ _ => none
  | .rmax _ _ _ _ => none
  | .rmin _ _ _ _ => none
  | .rand _ _ _ => none
  | .rflt _ _ _ => none
  | .rthr _ _ _ _ => none
  | .rmov _ _ => none
  | .rst _ _ _ => none
  | .rstc _ _ _ _ => none
  | .rpsh _ _ _ => none
  | .rflg _ => none
  | .rhalt => none
  | .routerWordIssue _ => none
  | .tmul _ => none
  | .tmuls _ => none
  | .tadd _ => none
  | .tscl _ => none
  | .tred _ => none
  | .tcpy _ => none
  | .txps _ => none
  | .tdig _ => none
  | .tfil _ => none
  | .tfen _ => none
  | .matrixCallStart _ => none
  | .matrixCallRetire _ => none
  | .lockSlot _ _ => none
  | .engineSlot _ _ => none
  | .hbmCalendarAccess _ => none
  | .faultTaken _ => none
  | .gangFreeze => none
  | .gangResume => none
  | .contextSaveStart _ => none
  | .watchdogExpiry _ => none
  | .taskComplete => none
  | .qtailWrite _ _ => none
  | .launchPacket => none
  | .deviceLaunch _ => none
  | .gangStart => none
  | .stagingComplete => none
  | .table => none
  | .tilePacket => none
  | .eventPacket => none
  | .fencePacket => none
  | .lease => none
  | .leaseExpiry => none
  | .leaseRevocation => none
  | .leaseRevocationEnd => none
  | .sysNop _ => none
  | .sysClock _ => none
  | .sysLease _ => none
  | .sysTokens _ => none
  | .sysUserRecord _ => none
  | .csend => none
  | .csln => none
  | .csin => none
  | .csjm => none
  | .csbr => none
  | .cslp => none
  | .csel => none
  | .cswf => none
  | .commandStreamWaitEnd => none
  | .shareCredit => none
  | .shareDecision => none
  | .hlmRefill => none
  | .cxlRequestComplete _ _ => none
  | .cxlRequestTimeout _ => none
  | .sysReply _ => none
  | .bxSendArrival _ _ _ _ _ => none
  | .bxPostArrival _ _ _ _ _ _ => none
  | .bxPostAck _ _ _ => none
  | .flitReceive _ _ => none
  | .linkTrained _ => none
  | .linkFailed _ => none
  | .tideExchange => none
  | .gangReadyReport _ _ _ => none
  | .fabricLaunchTimeout => none
  | .startWave => none
  | .slackWaveArrival _ _ _ _ => none
  | .slackFreeze => none
  | .resumeWave => none
  | .stepEnd => none
  | .debugStop => none
  | .debugResume => none
  | .debugStep => none
  | .debugRead => none
  | .debugWrite => none
  | .debugBreak => none
  | .debugTrace => none
  | .debugGraph => none
  | .debugEnd => none
  | .traceSample => none
  | .berthScrub => none
  | .berthScrubWriteback _ => none
  | .warmScrub => none
  | .warmScrubWriteback _ => none
  | .hbmRefresh _ => none
  | .hostWrite _ _ _ => none
  | .moduleReset => none
  | .firmwareVerifyDone _ _ => none
  | .cooldownTimer => none
  | .selfTestComplete _ => none
  | .hekChange _ => none
  | .moduleLimitExceeded _ => none
  | .biasDomainFailure _ => none
  | .domainRecoveryStart _ => none
  | .rampEnd _ => none
  | .domainSelfTestDone _ _ => none
  | .capFrame _ _ => none
  | .capRankApply => none
  | .ratioChange _ _ => none
  | .clockRunPeriod _ => none
  | .allotmentUpdate _ => none
  | .partitionConfigWrite _ _ _ => none
  | .fjtWrite _ _ => none
  | .lgrtWrite _ _ _ => none
  | .mailboxImageWrite _ => none
  | .registerWrite _ _ => none
  | .heliumFlowChange _ => none
  | .linkTrainingStart _ => none
  | .partitionWarmCapReached _ => none
  | .cxlRequestSend _ => none
  | .correctedWriteBack _ => none
  | .tileChildEnd => none

/-! ### Bundles (02 R21 to R27, R38) -/

/-- Slot `n` of a bundle (02 R21). -/
def bundleSlot (b n : Nat) : Nat := fld b (32 * n + 31) (32 * n)

/-- A null slot (02 R25). -/
def nullSlot (w : Nat) : Bool := fld w 31 27 == 16 || (fld w 26 21 == 0 && fld w 20 0 == 0)

/-- A header that is not a null slot (02 R26). -/
def isHeader (w : Nat) : Bool := fld w 26 21 == 0x3F && !nullSlot w

/-- The extension that slot 0 lends to slot `n` (02 R26). -/
def slotExt (b n : Nat) : Nat :=
  let h := bundleSlot b 0
  if isHeader h && n != 0 then fld h (7 * n - 1) (7 * n - 7) else 0

/-- Whether a header lends slot `n` an extension, be it 0 (02 R26). -/
def slotLent (b n : Nat) : Bool := isHeader (bundleSlot b 0) && n != 0

/-- The resource classes of 02 R38. -/
inductive SlotClass
  | s | v | l | x | m | g
  deriving DecidableEq, Repr

/-- The class of a major (02 R34); none for null slots, headers and reserved majors. -/
def majorClass (m : Nat) : Option SlotClass :=
  if m = 0x01 ∨ (0x08 ≤ m ∧ m ≤ 0x0D) ∨ m = 0x3E then some .s
  else if (0x10 ≤ m ∧ m ≤ 0x1E) ∨ (0x20 ≤ m ∧ m ≤ 0x26) then some .v
  else if (0x28 ≤ m ∧ m ≤ 0x2A) ∨ m = 0x2C ∨ m = 0x3B then some .x
  else if m = 0x2D ∨ (0x30 ≤ m ∧ m ≤ 0x37) then some .l
  else if m = 0x38 ∨ m = 0x39 then some .m
  else if m = 0x3C ∨ m = 0x3D then some .g
  else none

/-- The class of a slot word (02 R38). -/
def slotClass (w : Nat) : Option SlotClass := if nullSlot w then none else majorClass (fld w 26 21)

/-- How many slots of a bundle have class `c`. -/
def classCount (b : Nat) (c : SlotClass) : Nat :=
  ([0, 1, 2, 3].filter fun n => slotClass (bundleSlot b n) == some c).length

/-- The classes over their limit, as FINFO of the bundle-resource fault names them (10 R218 code 2). -/
def resourceOver (b : Nat) : Nat :=
  (decide (1 < classCount b .s)).toNat + (decide (2 < classCount b .v)).toNat * 2
    + (decide (1 < classCount b .l)).toNat * 4 + (decide (1 < classCount b .x)).toNat * 8
    + (decide (1 < classCount b .m)).toNat * 16 + (decide (1 < classCount b .g)).toNat * 32

/-- The bits of a bundle that holds `w` in slot 0 and nothing else. -/
def soloBundle (w : Nat) : Nat := w % 2 ^ 32

/-! ### Router words (15 R264, R265) -/

/-- A router operation in slot `n` of its word; none for an operation the slot does not take or a field that
must be zero and is not. -/
def decodeRouterOp (n w : Nat) : Option Instr :=
  let opc := fld w 39 36
  let d := fld w 35 33
  let a := fld w 32 30
  let b := fld w 29 27
  let x := fld w 23 20
  let stp := fld w 19 12
  let gr := fld w 11 0
  if opc = 0 then (if fld w 35 0 = 0 then some .rnop else none)
  else if n = 0 then
    if opc = 1 then (if fld w 32 20 = 0 then some (.rld d stp gr) else none)
    else if opc = 2 then (if fld w 32 24 = 0 ∧ x < 4 then some (.rldc d x stp gr) else none)
    else if opc = 3 then (if fld w 32 16 = 0 then some (.rldi d (fld w 15 0)) else none)
    else none
  else if n = 1 then
    if opc = 4 then
      if fld w 23 0 = 0 then (RTy.ofCode (fld w 26 24)).bind fun t => some (.radd t d a b) else none
    else if opc = 5 then
      if fld w 23 0 = 0 then (RTy.ofCode (fld w 26 24)).bind fun t => some (.rmax t d a b) else none
    else if opc = 6 then
      if fld w 23 0 = 0 then (RTy.ofCode (fld w 26 24)).bind fun t => some (.rmin t d a b) else none
    else if opc = 7 then (if fld w 26 0 = 0 then some (.rand d a b) else none)
    else if opc = 8 then (if fld w 29 16 = 0 then some (.rflt d a (fld w 15 0)) else none)
    else if opc = 9 then
      if fld w 23 0 = 0 ∧ fld w 26 24 < 3 then
        (RTy.ofCode (fld w 26 24)).bind fun t => some (.rthr t d a b)
      else none
    else if opc = 10 then (if fld w 29 0 = 0 then some (.rmov d a) else none)
    else none
  else if n = 2 then
    if opc = 11 then
      if d = 0 ∧ fld w 29 20 = 0 then some (.rst a stp gr) else none
    else if opc = 12 then
      if d = 0 ∧ fld w 29 24 = 0 then some (.rstc x a stp gr) else none
    else if opc = 13 then
      if fld w 29 24 = 0 ∧ fld w 19 0 = 0 then some (.rpsh x d a) else none
    else if opc = 14 then (if fld w 35 6 = 0 then some (.rflg (fld w 5 0)) else none)
    else if opc = 15 then (if fld w 35 0 = 0 then some .rhalt else none)
    else none
  else none

/-- The 40-bit encoding of a router operation; none for the other rows. -/
def Instr.routerOp : Instr → Option Nat
  | .rnop => some 0
  | .rld d stp gr => some (1 * 2 ^ 36 + d * 2 ^ 33 + stp * 2 ^ 12 + gr)
  | .rldc d x stp gr => some (2 * 2 ^ 36 + d * 2 ^ 33 + x * 2 ^ 20 + stp * 2 ^ 12 + gr)
  | .rldi d imm => some (3 * 2 ^ 36 + d * 2 ^ 33 + imm)
  | .radd t d a b => some (4 * 2 ^ 36 + d * 2 ^ 33 + a * 2 ^ 30 + b * 2 ^ 27 + t.code * 2 ^ 24)
  | .rmax t d a b => some (5 * 2 ^ 36 + d * 2 ^ 33 + a * 2 ^ 30 + b * 2 ^ 27 + t.code * 2 ^ 24)
  | .rmin t d a b => some (6 * 2 ^ 36 + d * 2 ^ 33 + a * 2 ^ 30 + b * 2 ^ 27 + t.code * 2 ^ 24)
  | .rand d a b => some (7 * 2 ^ 36 + d * 2 ^ 33 + a * 2 ^ 30 + b * 2 ^ 27)
  | .rflt d a m => some (8 * 2 ^ 36 + d * 2 ^ 33 + a * 2 ^ 30 + m)
  | .rthr t d a b => some (9 * 2 ^ 36 + d * 2 ^ 33 + a * 2 ^ 30 + b * 2 ^ 27 + t.code * 2 ^ 24)
  | .rmov d a => some (10 * 2 ^ 36 + d * 2 ^ 33 + a * 2 ^ 30)
  | .rst a stp gr => some (11 * 2 ^ 36 + a * 2 ^ 30 + stp * 2 ^ 12 + gr)
  | .rstc x a stp gr => some (12 * 2 ^ 36 + a * 2 ^ 30 + x * 2 ^ 20 + stp * 2 ^ 12 + gr)
  | .rpsh x d a => some (13 * 2 ^ 36 + d * 2 ^ 33 + a * 2 ^ 30 + x * 2 ^ 20)
  | .rflg n => some (14 * 2 ^ 36 + n)
  | .rhalt => some (15 * 2 ^ 36)
  | _ => none

/-- The three operations of a router word, in slot order 0, 1, 2, with its CTL and TGT; none when an operation
is illegal or CTL is reserved. -/
def decodeRouterWord (w : Nat) : Option (Instr × Instr × Instr × Nat × Nat) :=
  match decodeRouterOp 0 (fld w 119 80), decodeRouterOp 1 (fld w 79 40), decodeRouterOp 2 (fld w 39 0) with
  | some a, some b, some c => if fld w 121 120 < 2 then some (a, b, c, fld w 121 120, fld w 127 122) else none
  | _, _, _ => none

/-! ### Tile words (02 R42 to R45) -/

/-- The format of a 5-bit code (02 R29). -/
def TileFmt.ofCode (n : Nat) : Option TileFmt :=
  if n < 16 then (ElemTy.ofCode n).map .elem
  else if n = 16 then some .dx8 else if n = 17 then some .dx4 else if n = 18 then some .g4
  else if n = 19 then some .s24 else none

/-- The 58 bits of an operand descriptor (02 R44). -/
def decodeTileDesc (v : Nat) : TileDesc := ⟨fld v 3 0, fld v 17 4, fld v 57 18⟩

/-- The bits of an operand descriptor. -/
def TileDesc.bits (d : TileDesc) : Nat := d.sto + d.str * 2 ^ 4 + d.adr * 2 ^ 18

/-- The fields of a tile word but for its operation (02 R42). -/
def decodeTileFields (v : Nat) : TileWord :=
  { lvl := fld v 6 4, fa := fld v 11 7, fb := fld v 16 12, fc := fld v 21 17, acc := bit v 22, ta := bit v 23,
    tb := bit v 24, sat := bit v 25, rnd := fld v 28 26, aux := fld v 31 29, tm := fld v 47 32, tn := fld v 63 48,
    tk := fld v 79 64, dsa := decodeTileDesc (fld v 139 82), dsb := decodeTileDesc (fld v 197 140),
    dsc := decodeTileDesc (fld v 255 198) }

/-- The tile operation of a 256-bit word (02 R42); none for a reserved op or a non-zero reserved bit. -/
def decodeTile (v : Nat) : Option Instr :=
  let t := decodeTileFields v
  if fld v 81 80 ≠ 0 then none
  else match fld v 3 0 with
  | 0 => some (.tmul t)
  | 1 => some (.tmuls t)
  | 2 => some (.tadd t)
  | 3 => some (.tscl t)
  | 4 => some (.tred t)
  | 5 => some (.tcpy t)
  | 6 => some (.txps t)
  | 7 => some (.tdig t)
  | 8 => some (.tfil t)
  | 9 => some (.tfen t)
  | _ => none

/-- The bits of a tile word with operation code `op`. -/
def TileWord.bits (t : TileWord) (op : Nat) : Nat :=
  op + t.lvl * 2 ^ 4 + t.fa * 2 ^ 7 + t.fb * 2 ^ 12 + t.fc * 2 ^ 17 + t.acc.toNat * 2 ^ 22 + t.ta.toNat * 2 ^ 23
    + t.tb.toNat * 2 ^ 24 + t.sat.toNat * 2 ^ 25 + t.rnd * 2 ^ 26 + t.aux * 2 ^ 29 + t.tm * 2 ^ 32 + t.tn * 2 ^ 48
    + t.tk * 2 ^ 64 + t.dsa.bits * 2 ^ 82 + t.dsb.bits * 2 ^ 140 + t.dsc.bits * 2 ^ 198

/-- The 256-bit encoding of a tile operation; none for the other rows. -/
def Instr.tileBits : Instr → Option Nat
  | .tmul t => some (t.bits 0)
  | .tmuls t => some (t.bits 1)
  | .tadd t => some (t.bits 2)
  | .tscl t => some (t.bits 3)
  | .tred t => some (t.bits 4)
  | .tcpy t => some (t.bits 5)
  | .txps t => some (t.bits 6)
  | .tdig t => some (t.bits 7)
  | .tfil t => some (t.bits 8)
  | .tfen t => some (t.bits 9)
  | _ => none

/-! ### Limits on operands (02 R35, R36, 05 R118, 06 R139, 08 R188, 09 R216) -/

/-- An integer type. -/
def ElemTy.isInt (t : ElemTy) : Bool := t.code < 10

/-- A signed integer type. -/
def ElemTy.isSigned (t : ElemTy) : Bool := t.code < 5

/-- The width of a type in bits (02 R29, 03 R48, R51). -/
def ElemTy.width : ElemTy → Nat
  | .i4 | .n4 => 4
  | .i8 | .n8 | .e4m3 | .e5m2 => 8
  | .i16 | .n16 | .bf16 | .f16 => 16
  | .i32 | .n32 | .f32 => 32
  | .i64 | .n64 | .f64 => 64

/-- The width of an element-size code (02 R33). -/
def ESize.width : ESize → Nat
  | .w4 => 4
  | .w8 => 8
  | .w16 => 16
  | .w32 => 32
  | .w64 => 64

/-- A flag that the named scope's file holds (08 R179). -/
def flagOk (sc : Scope) (f : Nat) : Bool :=
  match sc with
  | .core => decide (f < 16)
  | .clu | .mod => decide (f < 64)
  | _ => false

/-- A group of `n` consecutive registers that neither passes v31 nor spans v15 and v16 (02 R35). -/
def groupOk (r n : Nat) : Bool := decide (r + n ≤ 32) && (decide (r + n ≤ 16) || decide (16 ≤ r))

/-- The control registers of 07 R143. -/
def cregNamed (n : Nat) : Bool :=
  [0, 1, 2, 3, 4, 5, 6, 8, 9, 10, 11, 12, 13, 16, 17, 18, 19, 20, 21, 22, 23, 24, 25, 26, 27, 28].contains n

/-- The control registers that SET may name (07 R143). -/
def cregSettable (n : Nat) : Bool := [0, 4, 5, 8, 9, 10, 11, 12, 13, 16, 17, 21, 23, 24, 25, 28].contains n

/-- The control registers whose SET is privileged (07 R143). -/
def cregPrivileged (n : Nat) : Bool := [21, 23, 24, 25].contains n

/-- Operands inside an instruction's stated limits (02 R36); a slot that decodes but is not legal is an illegal encoding. DESIGN CHOICE (log
81): a CVTB may have any rounding code, whichever direction its descriptor selects. -/
def Instr.legal : Instr → Bool
  | .loop _ s imm => if s = 0 then decide (1 ≤ imm) else decide (imm = 0)
  | .wait _ sc f | .setf _ sc f | .clrf _ sc f => flagOk sc f
  | .tstf _ pp sc f => decide (1 ≤ pp) && flagOk sc f
  | .get _ _ n => cregNamed n
  | .set _ _ n => cregSettable n
  | .fence _ sc => sc != .lane && sc != .slc
  | .vadd _ t _ _ _ _ | .vsub _ t _ _ _ _ | .vmin _ t _ _ _ | .vmax _ t _ _ _ | .vshl _ t _ _ _ _
  | .vshr _ t _ _ _ | .vsra _ t _ _ _ | .vclz _ t _ _ | .vpopc _ t _ _ | .vbc _ t _ _ | .viota _ t _ => t.isInt
  | .vmul _ t _ _ _ _ | .vmad _ t _ _ _ _ | .vmulh _ t _ _ _ => t.isInt && decide (t.width ≤ 32)
  | .vdot4 _ t _ _ _ _ => t == .i8 || t == .n8 || t == .i4 || t == .n4
  | .vabs _ t _ _ _ => t.isSigned
  | .vneg _ t sat _ _ => t.isInt && (t.isSigned || !sat)
  | .vred _ t sat op _ _ => t.isInt && (op == .sum || !sat)
  | .frcp _ ft r _ _ | .frsq _ ft r _ _ | .fsqrt _ ft r _ _ | .fexp2 _ ft r _ _ | .flog2 _ ft r _ _
  | .ftanh _ ft r _ _ => ft != .f64 && r != .rs
  | .fred _ _ r _ _ _ => r != .rs
  | .vcmp _ t _ pp _ _ => t.isInt && decide (1 ≤ pp)
  | .fcmp _ t c pp _ _ => (t == .bf16 || t == .f16 || t == .f32 || t == .f64) && decide (c.code ≤ 5) && decide (1 ≤ pp)
  | .pand _ d a b | .por _ d a b | .pxor _ d a b => decide (2 ≤ d ∧ d < 16 ∧ a < 16 ∧ b < 16)
  | .pnot _ d a | .pmov _ d a => decide (2 ≤ d ∧ d < 16 ∧ a < 16)
  | .pcnt _ _ a => decide (a < 16)
  | .pack _ w p _ _ | .unpk _ w p _ _ => decide (w < 3 ∧ p < 32 / 2 ^ (w + 2))
  | .zip2 _ _ d _ _ | .uzp2 _ _ d _ _ => groupOk d 2
  | .zip3 _ _ d a | .uzp3 _ _ d a => groupOk d 3 && groupOk a 3
  | .zip4 _ _ d a | .uzp4 _ _ d a => groupOk d 4 && groupOk a 4
  | .perm _ z _ _ _ => z != .w4
  | .slide _ _ _ n => decide (-127 ≤ n ∧ n ≤ 127)
  | .dtc _ _ pp _ _ => decide (1 ≤ pp)
  | .atom _ op w _ _ _ => w != .f32 || op == .add
  | .xin _ _ _ sz | .xout _ _ _ sz | .xinr _ _ _ sz => decide (sz < 7)
  | .xinm _ _ _ _ mask => decide (mask ≠ 0)
  | .rthr t _ _ _ => t != .t3
  | _ => true

/-! ### The words of the opcode table -/

/-- Whether the words of a slot instruction need a header: an extension bit that is not 0, or a signed field that does not
fit its in-slot bits (02 R26 to R28). -/
def Instr.needsHeader (i : Instr) : Bool :=
  match i with
  | .addi _ _ _ n | .slide _ _ _ n | .dtld _ _ _ n | .sld _ _ _ n => !decide (-1024 ≤ n ∧ n < 1024)
  | .vld _ _ _ n | .vst _ _ _ n | .lds _ _ _ n | .sts _ _ _ n => !decide (-512 ≤ n ∧ n < 512)
  | .li _ _ n => !decide (-32768 ≤ n ∧ n < 32768)
  | _ => (i.slotWord.map fun p => decide (p.2 ≠ 0)).getD false

/-- The words of an instruction: a slot word (32 bits), above it its extension (7 bits) and a bit that is 1 where the
extension takes a header; a router operation (40 bits) or a tile word (256 bits); an event of the table has no word. -/
def encode (i : Instr) : Option Nat :=
  match i.slotWord with
  | some (w, e) => some (if i.needsHeader then w + e * 2 ^ 32 + 2 ^ 39 else w)
  | none =>
    match i.routerOp with
    | some w => some w
    | none => i.tileBits

/-- The instruction that the decoder reads from a table row's bits: a slot word stands in slot 0 of a bundle
that holds nothing else, so no header lends it an extension. -/
def decodeTableWord (nbits w : Nat) : Option Instr :=
  if nbits = 32 then
    let b := soloBundle w
    if nullSlot (bundleSlot b 0) || isHeader (bundleSlot b 0) then none else decodeSlot (bundleSlot b 0) (slotExt b 0) (slotLent b 0)
  else none

end Sys2Proof
end

