-- ==== Sys2Proof/Machine/Store.lean ====
section
/-! DEFINITION. Sparse maps and byte memory in one canonical form, and the addresses of the machine's stores. -/

namespace Sys2Proof.Machine

/-! ### Sparse maps: a key not listed holds the default -/

/-- A sparse map: pairs of key and value, keys strictly rising, no value equal to the default. -/
abbrev SMap (α : Type) := List (Nat × α)

namespace SMap

/-- The value at a key. -/
def get {α : Type} (d : α) : SMap α → Nat → α
  | [], _ => d
  | (k, v) :: m, n => if k = n then v else get d m n

/-- A key and value put in before the first greater key. -/
def insert {α : Type} : SMap α → Nat → α → SMap α
  | [], n, x => [(n, x)]
  | (k, v) :: m, n, x => if n < k then (n, x) :: (k, v) :: m else (k, v) :: insert m n x

/-- A key taken out. -/
def erase {α : Type} (m : SMap α) (n : Nat) : SMap α := m.filter fun e => e.1 != n

/-- The map with `x` at key `n`. -/
def put {α : Type} [DecidableEq α] (d : α) (m : SMap α) (n : Nat) (x : α) : SMap α :=
  if x = d then erase m n else insert (erase m n) n x

/-- The value at a key of a map of optional entries. -/
def find {α : Type} : SMap α → Nat → Option α
  | [], _ => none
  | (k, v) :: m, n => if k = n then some v else find m n

/-- The map with entry `x` at key `n`, whatever `x` is. -/
def set {α : Type} (m : SMap α) (n : Nat) (x : α) : SMap α := insert (erase m n) n x

/-- The canonical form: keys strictly rising and no value equal to the default. -/
def wf {α : Type} [DecidableEq α] (d : α) : SMap α → Bool
  | [] => true
  | (k, v) :: m => decide (v ≠ d) && m.all (fun e => decide (k < e.1)) && wf d m

end SMap

/-! ### Byte memory -/

/-- Byte memory over keys (see `Place`). -/
abbrev Memory := List Host.Cell

/-- What a byte that is not listed reads as. DESIGN CHOICE (log 1): no chapter gives the stores' contents. -/
def unlistedByte : BitVec 8 := 0

namespace Memory

/-- One byte. -/
def read (m : Memory) (k : Nat) : BitVec 8 := SMap.get unlistedByte m k

/-- One byte written; the canonical form is kept. -/
def write (m : Memory) (k : Nat) (b : BitVec 8) : Memory := SMap.put unlistedByte m k b

/-- The canonical form: keys strictly rising, no entry equal to what an unlisted byte reads as. -/
def wf (m : Memory) : Bool := SMap.wf unlistedByte m

/-- `n` bytes, least significant first, as a number. -/
def readN (m : Memory) (k : Nat) : Nat → Nat
  | 0 => 0
  | n + 1 => (m.read k).toNat + 256 * readN m (k + 1) n

/-- The low `n` bytes of `v` written, least significant first, where the byte's bit of `mask` is 1. -/
def writeN (m : Memory) (k n v mask : Nat) : Memory :=
  match n with
  | 0 => m
  | n + 1 =>
    let m' := if mask % 2 = 1 then m.write k (BitVec.ofNat 8 v) else m
    writeN m' (k + 1) n (v / 256) (mask / 2)

end Memory

/-- Byte enables of `n` whole bytes. -/
def allBytes (n : Nat) : Nat := 2 ^ n - 1

/-! ### The stores -/

/-- A store of bytes; the argument numbers the core, the cluster or the job. -/
inductive Place
  | berth (core : Nat)        -- own berth, 64 KiB (07 R146)
  | cluster (clu : Nat)       -- cluster berth, 256 KiB (15 R253)
  | quay (core : Nat)         -- quay file, 4,096 registers of 512 bytes (07)
  | acc (core : Nat)          -- accumulator store, 256 tiles of 4 KiB (07)
  | latch (core : Nat)        -- accumulator latches, 8 x 4,096 bytes (09 R192)
  | scale (core : Nat)        -- scale latches, 8 x 128 bytes (09 R208)
  | trans (core : Nat)        -- transposer, row-major (09 R209, 10 R402)
  | chart (core : Nat)        -- chart slots, 4 x 576 bytes (06 R122)
  | routine (core : Nat)      -- microprogram store, 256 x 64 bytes (09 R196)
  | bundles (core : Nat)      -- bundle store, 2,048 x 16 bytes (02 R21)
  | drain (core : Nat)        -- drain buffer, 4 KiB (15 R253)
  | hbm                       -- HBM by warm physical address (18 R298)
  | tier                      -- capacity tier by warm physical address (18 R298)
  | host                      -- host memory (18 R298)
  | flash                     -- firmware flash and mailbox (21 R352)
  deriving DecidableEq, Repr

/-- The number of a store. -/
def Place.code : Place → Nat
  | .berth c => 16 * c
  | .cluster c => 16 * c + 1
  | .quay c => 16 * c + 2
  | .acc c => 16 * c + 3
  | .latch c => 16 * c + 4
  | .scale c => 16 * c + 5
  | .trans c => 16 * c + 6
  | .chart c => 16 * c + 7
  | .routine c => 16 * c + 8
  | .bundles c => 16 * c + 9
  | .drain c => 16 * c + 10
  | .hbm => 11
  | .tier => 12
  | .host => 13
  | .flash => 14

/-- The memory key of byte `off` of a store. -/
def Place.key (p : Place) (off : Nat) : Nat := p.code * 2 ^ 64 + off % 2 ^ 64

end Sys2Proof.Machine
end

