-- ==== Sys2Proof/Machine/State.lean ====
section
/-! DEFINITION. The state of one TL1024 module, as plain data, and the state right after module reset. -/

namespace Sys2Proof.Machine

/-! ### Where an act runs -/

/-- The frame of an act: which context it belongs to, the count and slot of its bundle, and what the bundle
captured at issue (04 R79, R80; 02 R24). For a router operation `x` is the context that issued RT.GO and `t` the
issue cycle; for a tile operation and an event `id` names its record. -/
structure Frame where
  x     : Nat := 0            -- context: module core number * 4 + context number
  hnd   : Bool := false       -- counts are handler counts (10 R224)
  t     : Nat := 0            -- issue count
  re    : Bool := false       -- slot of a re-entry bundle (10 R226)
  slice : Nat := 0            -- slice that executes (04 R80)
  slot  : Nat := 0
  addr  : Nat := 0            -- bundle address
  bits  : Nat := 0            -- the slot's word
  rbv   : Nat := 0            -- rotating bases captured at issue
  rbp   : Nat := 0
  fmask : Nat := 0            -- FMASK in force at issue (03 R60)
  allot : Option Word := none -- ALLOT in force at the issue of a bundle (07 R143)
  gt    : BitVec 128 := 0     -- guards of all lanes at issue, for the slots that read them there
  cap   : Word := 0           -- a scalar operand captured at issue
  capv  : BitVec 4096 := 0    -- a vector operand captured at issue
  old   : Nat := 0            -- reads what the program left at the handled fault of that number of `Ctx.past`, 0 what stands
  id    : Nat := 0
  pre   : Bool := false       -- its bundle, a re-entry bundle, issued in cycle G - 1, where `cap` of a GET was read (10 R226)
  rt    : Bool := false       -- an operation of the router: no slot of a bundle, so no fault cancels it (15 R265)
  deriving DecidableEq, Repr

/-- One act of the machine: an instruction, operation or event with its frame. -/
structure Act where
  i  : Instr
  fr : Frame := {}
  deriving DecidableEq, Repr

/-- A slot of the bundle being issued: an act, or a slot whose encoding is illegal (02 R40). -/
inductive Staged
  | run (a : Act)
  | bad (fr : Frame)
  deriving DecidableEq, Repr

/-! ### Effects that have not happened yet -/

/-- A register of a context, or one slice of one. -/
inductive Loc
  | s (r : Nat)               -- scalar register
  | v (r k : Nat)             -- physical vector register, slice
  | p (r k : Nat)             -- physical predicate register, slice
  | dsr (k : Nat)
  | gen (k : Nat)             -- generators of a slice
  | strm (i : Nat)            -- stream boundary register 7 * st + boundary
  | m (n : Nat)               -- matrix parameter register
  deriving DecidableEq, Repr

/-- A flag file (08 R179). -/
inductive FlagFile
  | core (c : Nat)
  | clu (c : Nat)
  | mod
  deriving DecidableEq, Repr

/-- A step of a tile word's port (09 R212, R213, 15 R270 to R273, 17 R294). -/
inductive TileStep
  | emit (k : Nat)            -- child k goes to its slice, core or cluster
  | accIn (k : Nat)           -- C's block k is read for its latch
  | call (k : Nat)            -- the call of block k
  | out (k : Nat)             -- block k is converted and written
  | feed (j s i : Nat)        -- the i-th tile of position (j, s) is pushed
  | child (k j s : Nat)       -- the call of child k for position (j, s)
  | drain (k j : Nat)         -- block j of child k is copied to its drain buffer
  | reduce (j : Nat)          -- position j is reduced and converted
  | slot (k i : Nat)          -- an inbound slot of child k's band, or of B for k = 32
  | outSlot (k i : Nat)       -- an outbound slot of child k's band of C
  | whole                     -- a word of the module port performs
  deriving DecidableEq, Repr

/-- What a pending effect does when it is due. The first group lands in the land phase of a cycle, the second
performs in the perform phase (07 R147, R155). -/
inductive Effect
  -- landings
  | reg (loc : Loc) (val mask : Gran)                               -- register landing
  | regAt (y : Nat) (loc : Loc) (val mask : Gran)                   -- the same in context y (08 R177)
  | load (loc : Loc) (srcs : List (Nat × Nat × Nat)) (mask : Gran)  -- register landing read from memory: key, bytes, place
  | fetch (loc : Loc) (srcs : List (Nat × Nat × Nat)) (mask : Gran) (land : Nat)  -- bytes read now, landing later
  | creg (n : Nat) (val : Word)                                     -- SET takes effect (07 R143)
  | landMem (key n val mask : Nat)                                  -- latch, scale latch, transposer, chart, routine
  | flagsOr (bits : Nat)                                            -- sticky flags merge (03 R60, R61)
  | readFlag (pp rbp : Nat) (file : FlagFile) (n : Nat)             -- TSTF reads (08 R180)
  | lpush (head cnt : Nat)                                          -- LOOP (08 R160)
  | lpop                                                            -- the last ENDL, and LEAVE (08 R161, R162)
  | rset (ring : Nat) (val : Word)
  | publish (y ring id : Nat)                                       -- a claimed tile of context y becomes poppable (08 R172)
  | pop (y ring : Nat)
  | claimPush (ring : Nat)                                          -- RPUSH claims and publishes (08 R173)
  | dtld (slot key : Nat)                                           -- DTLD reads its image (06 R126)
  | mload (n key : Nat)                                             -- MLOAD reads its record (09 R199)
  | sld (lat key : Nat)                                             -- SLD reads its bytes (09 R208)
  | mxSample (core id : Nat)                                        -- a call samples its routine (09 R201)
  | scaleCap (core id : Nat)                                        -- a step captures the scale latches (09 R202)
  | mxAcc (core id lat : Nat)                                       -- a start value is read (09 R203)
  | mxLand (core id : Nat)                                          -- a step's result lands
  | tissRead (key : Nat)                                            -- TISS reads its word (08 R185)
  | launchRead (key : Nat)                                          -- LAUNCH reads its record (08 R184)
  | warmCheck (id : Nat)                                            -- the engine checks a command's warm addresses (18 R301)
  | tile (id : Nat) (step : TileStep)
  | rtLoad (entry key : Nat)                                        -- a router word is read (15 R267)
  | rtForce (entry w : Nat)                                         -- and comes into force
  | rtGo (entry rcnt : Nat)
  | rtStop
  | wreg (n : Nat) (val : Gran) (mask : Gran)                       -- router register landing
  | wload (n key iter : Nat)                                        -- router register landing read from memory, of a word at ITER
  -- performs
  | store (key n val mask : Nat)
  | atom (op : AtomOp) (w : AtomW) (key : Nat) (b d : Word) (dst land : Nat)
  | bits (key off n val : Nat)                                      -- n bits from bit `off` of a byte on
  | flag (file : FlagFile) (n : Nat) (set : Bool) (kind : Nat) (waits : Bool)  -- setter kind; whether it waits for its context's earlier accesses
  | taint (key : Nat)                                               -- a granule written poisoned (18 R311)
  | record (en type ts0 tide ts3 : Nat)                             -- a trace record of a slot, once it has committed (23 R387, R394)
  | trig (cause code tide : Nat) (own : Bool)                       -- a trigger of the slack wave, once its slot has (22 R375)
  | amax (val : Nat) (ns : Bool)                                    -- AMAX merge (03 R63)
  | seedGen (k : Nat) (val mask : Gran)                             -- SEED's state at the end of the cycle (05 R113)
  | mxSum (core id : Nat)                                           -- the array has formed a step's sums
  | mxStep (core id : Nat)                                          -- an array step reads its tiles, after all writes
  | arrive (id : Nat)                                               -- a request of the capacity tier performs (18 R307, R314)
  | flagIn (file : FlagFile) (n setter : Nat)                       -- a set by an engine, a service or the outside (08 R179)
  | poke (key n val : Nat) (rep : Option (Nat × Nat))               -- a write of the host or a pilot, with what reports its loss (18 R310)
  | trace (job rec : Nat)                                           -- a trace record (23 R384)
  | writeBack (key n : Nat)                                         -- a word or granule written back corrected (08 R168, 17 R292, 18 R312)
  deriving DecidableEq, Repr

/-- A pending effect: the frame of the slot that made it says whose it is and whether `due` is a schedule count of
its gang or a handler count; under compatibility interlock it is not due before cycle `run` of the gang. One with `wall` set is due at
TIDE `wall` - 1, whether its gang runs or not. `pri` orders the effects of one cycle, then the frame's order (07 R147, R155; 10
R226). -/
structure Eff where
  fr  : Frame
  due : Nat
  run : Nat := 0
  pri : Nat := 0
  act : Effect
  wall : Nat := 0
  deriving DecidableEq, Repr

/-- A claim that a cancelled XINR keeps (08 R178, 10 R401): its slot by bundle address, the tile, the claim's number, and the counts at
which the XINR issued and would have landed. -/
structure KeptClaim where
  slot : Nat                                -- bundle address * 4 + slot
  tile : Nat
  id   : Nat
  t    : Nat
  land : Nat
  deriving DecidableEq, Repr

/-- A ring (08 R171): the fields of RINFO, the claims not yet published, and the claims kept for a replay. -/
structure Ring where
  base  : Nat := 0
  size  : Nat := 0            -- granules per tile, minus one
  depth : Nat := 0            -- tiles, minus one
  head  : Nat := 0
  clm   : Nat := 0
  count : Nat := 0
  claims : List (Nat × Nat × Bool) := []    -- claims in order: tile, number of the claim, published
  kept   : List KeptClaim := []             -- claims kept for a replay
  gran   : Nat := 0                         -- granules a router push has put into the open tile (15 R265)
  deriving DecidableEq, Repr

/-- Why a gang froze or asks to freeze, with what its condition needs. -/
inductive Why
  | wait (file : FlagFile) (n x addr t T : Nat) (pre : Bool)   -- the waiting context, its bundle, count and TIDE; the flag at T_F
  | yield (coop : Bool)                     -- cooperative: at a count up to YDL (10 R230)
  | fence (x : Nat) (ids : List Nat)
  | meter (x charge : Nat)                  -- context x was not admitted a bundle of that charge
  | slot                                    -- for want of the issue slot
  | staging
  | ctxop (c : Nat) (id : Nat)              -- CTXS or CTXR until the operation's last slot
  | save (c : Nat)                          -- CTXS of a running context
  | cxlFull (clu : Nat)
  | postFull (clu : Nat)
  | ratio
  | slack                                   -- the slack wave
  | fault (x : Nat)                         -- a fault that a handler takes
  | clock                                   -- outside a run period (21 R359)
  deriving DecidableEq, Repr

/-- What a landing or perform replaced (10 R222). -/
inductive Saved
  | reg (y : Nat) (loc : Loc) (old mask : Gran)
  | draw (k n : Nat) (mask : Gran)               -- `n` draws of each of the lanes of a slice (03 R57)
  | ended (old : Option Nat)                     -- an END
  | asked (g F : Nat) (why : Why)                -- a freeze request
  | mem (key n old mask : Nat)
  | creg (n : Nat) (old : Word)
  | flag (file : FlagFile) (n : Nat) (old : Bool)
  | loop (old : List (Nat × Nat))
  | xfer (count target : Nat)
  | ring (n : Nat) (old : Ring) (push : Bool)    -- an RSET, or an RPUSH's tile
  deriving DecidableEq, Repr

/-- An entry of the undo log. -/
structure Undo where
  x   : Nat
  hnd : Bool
  ord : Nat
  old : Saved
  land : Nat := 0            -- TIDE + 1 when it was made by a landing at the start of that cycle
  deriving DecidableEq, Repr

/-- A landing of the cycle in progress: a freeze at the count in hand takes it back and holds it (07 R153). -/
structure Landed where
  eff    : Eff
  y      : Nat                              -- the context it landed in
  psw    : Word                             -- PSW of that context before
  ring   : Ring                             -- its ring before, of a publication or a pop
  deriving DecidableEq, Repr

/-- A per-lane slot waiting for its next slice, or another act of a context at a later count. -/
structure Flight where
  x   : Nat
  hnd : Bool
  due : Nat
  run : Nat := 0
  act : Act
  deriving DecidableEq, Repr

/-- An act waiting for a TIDE. -/
structure Timed where
  at_ : Nat
  act : Act
  deriving DecidableEq, Repr

/-- A byte, or the 8 bits under one parity bit, that a soft error can strike (04 R85, 06 R137, 09 R192, 10 R231, 15 R275). -/
inductive Spot
  | reg (y : Nat) (l : Loc) (b : Nat)       -- of a register of context `y`, or of a slice of one
  | creg (y n : Nat)                        -- a control register of context `y`; a loop-stack level by its number
  | held (x : Nat) (hnd : Bool) (ord : Nat) (l : Loc) (b : Nat)   -- of what the snapshot buffer holds for a landing of a slot
  | heldMem (x : Nat) (hnd : Bool) (ord : Nat) (key : Nat)        -- the same for a landing in a latch, a chart copy or the own berth
  | heldCreg (x : Nat) (hnd : Bool) (ord : Nat) (n : Nat)         -- and for a SET
  | mem (key : Nat)                         -- of a latch, a chart copy or a drain buffer
  | wreg (clu n : Nat)                      -- a router register
  | word (clu entry : Nat)                  -- a router word
  deriving DecidableEq, Repr

/-- A failed parity: it stands from TIDE `at_` on, until a write lands on its place. -/
structure Soft where
  at_  : Nat
  spot : Spot
  snap : Bool := false                      -- it came from the snapshot buffer
  corr : Bool := false                      -- a correctable error of the snapshot buffer, which is counted as its entry lands (10 R231)
  deriving DecidableEq, Repr

/-- A detected fault that has not been taken (10 R218, R221). -/
structure PendFault where
  x     : Nat
  hnd   : Bool
  F     : Nat
  t     : Nat
  re    : Bool := false
  slot  : Nat
  addr  : Nat
  code  : Nat
  finfo : Word
  fbnd  : Word := 0
  bnd   : Bool := false
  rbv   : Nat := 0
  rbp   : Nat := 0
  deriving DecidableEq, Repr

/-! ### A context (07 R140, 04 R76) -/

/-- The register files of a context. -/
structure Regs where
  s  : SMap Word := []        -- s0 to s31
  v  : SMap Gran := []        -- physical register 8 r + slice
  p  : SMap LaneMask := []    -- physical predicate 8 r + slice
  d  : SMap Word := []        -- DSR of a slice
  g  : SMap Gran := []        -- generators of a slice
  st : SMap Gran := []        -- stream boundary registers
  m  : SMap Word := []        -- m0 to m7
  deriving DecidableEq, Repr

/-- What the program of a context left at a handled fault: its registers, and the bytes of charts and latches that a handler has
written over since (10 R224). -/
structure Past where
  regs  : Regs
  bytes : Memory := []
  deriving DecidableEq, Repr

/-- The resume record of a fault (10 R227 word 0). -/
structure Resume where
  pc    : Nat
  xfers : List (Nat × Nat)
  lb    : Bool
  re    : Bool               -- re-entry pending
  reAddr : Nat
  rbv   : Nat                -- the faulting bundle's captured bases
  rbp   : Nat
  F     : Nat
  out   : List Word := []    -- the re-entry bundle has issued in cycle G - 1: TIDE, HLMBAL, YDL and CAPCAUSE as it read them
  deriving DecidableEq, Repr

/-- Fault handling of a context in handler mode (10 R224). -/
structure Handler where
  cnt   : Nat                -- handler count
  start : Nat                -- TIDE of the first handler bundle
  first : Nat := 0           -- number of the first record that one of its slots may enter
  live  : Bool := true       -- false once RTE has issued
  held  : Option Nat := none -- TIDE from which it is held, by the meter or a FENCE
  deriving DecidableEq, Repr

/-- A crossing that still has lock slots to take (07 R150, 08 R175). `src` and `dst` are memory keys or, for a
vector register, the register number; slot `j` carries 64 bytes. -/
inductive CrossKind
  | xin (v : Nat) | xout (v : Nat) | xinm (die : Bool) (mask v : Nat) | xinr (ring tile id : Nat)
  | xina (lat : Nat) | xouta (lat : Nat) | launch | sys (n f : Nat) (arg : Word) | tiss (w : Nat)
  | bulk                     -- bytes that a context save, a restore or a preload crosses
  | die (job k : Nat)        -- the band of child k of a die word, or B for k = 32 (17 R294)
  deriving DecidableEq, Repr

/-- A crossing with its lock slots (07 R150, 08 R175). -/
structure Crossing where
  id    : Nat
  hnd   : Bool
  ord   : Nat
  fr    : Frame
  kind  : CrossKind
  out   : Bool
  src   : Nat                -- memory key of the source, where it has one
  dst   : Nat
  bytes : Nat
  slots : List Int           -- start counts of the slots; the first may start before issue
  next  : Nat := 0           -- index of the next slot to start
  stage : List Nat := []     -- outbound bytes read from registers, one granule a slot
  deriving DecidableEq, Repr

/-- The cycles from a slot's start to its landing or perform (07 R150, 08 R177, 17 R294). -/
def Crossing.lat (c : Crossing) : Nat :=
  match c.kind with
  | .xinm die _ _ => if die then 232 else 200
  | .die _ _ => if c.out then 160 else 232
  | _ => if c.out then 160 else 192

/-- An engine command whose granules have not all started (15 R258). -/
structure Command where
  id    : Nat
  hnd   : Bool
  ord   : Nat
  fr    : Frame
  op    : Nat                -- fn of 02 R34
  warm  : Nat                -- s[sa]
  desc  : Word               -- s[sb]
  start : Nat                -- S as a schedule count
  slots : List Int           -- start counts of the granules' slots
  next  : Nat := 0
  idx   : List Nat := []     -- row offsets that CE.GTH read at S
  fill  : Nat := 0           -- the 8 bytes CE.FIL read
  last  : Nat := 0           -- latest performing count known
  deriving DecidableEq, Repr

/-- A link cell that a granule of BX.SEND has taken (22 R368, R370): its link, the mode of its slot, the count and the TIDE at which the
cell's flit slot starts, and its position. -/
structure Cell where
  link  : Nat
  hnd   : Bool
  count : Nat
  tide  : Nat
  pos   : Nat
  deriving DecidableEq, Repr

/-- A context (07 R140): its registers, what its slots have in flight outside the core, and what a fault or a save keeps. -/
structure Ctx where
  resident : Bool := false
  gang     : Nat := 0                       -- index of its gang, when resident
  member   : Nat := 0                       -- member index within the gang on this module
  pc       : Nat := 0
  xfers    : List (Nat × Nat) := []         -- pending taken transfers: count of the fetch, target (08 R158)
  lb       : Bool := false                  -- loop-back pending for a bundle that issues again (10 R226)
  regs     : Regs := {}
  past     : List Past := []                -- what the program left at its handled faults, for its slots still in flight (10 R224)
  lstk     : List (Nat × Nat) := []         -- HEAD and CNT, outermost first (07 R143)
  rbv      : Nat := 0
  rbp      : Nat := 0
  psw      : Word := 0
  fmask    : Word := 0
  amax     : Word := 0
  fcause   : Word := 0
  finfo    : Word := 0
  fbnd     : Word := 0
  allot    : Word := 0
  hlmthr   : Word := 0
  ydl      : Word := 0xFFFFFFFFFFFFFFFF
  wdog     : Word := 0
  wcnt     : Nat := 0
  capcause : Word := 0
  owner    : Nat := 0                       -- CTXID [63:32]
  seed     : Word := 0
  rings    : SMap Ring := []
  cbBase   : Nat := 0                       -- cluster-berth window, bytes
  cbLen    : Nat := 0
  hent     : Option Nat := none             -- handler entry (10 R223)
  handler  : Option Handler := none
  resume   : Option Resume := none
  reent    : Option Resume := none          -- a re-entry bundle waiting to issue
  skip     : Nat := 0                       -- slots of the next bundle that have committed already (10 R226)
  charges  : List (Bool × Nat × Nat) := []  -- handler mode, ord and wb of debited crossings (07 R152)
  noIssue  : Bool := false                  -- a fault of a wider gang: no bundle from F on (10 R225)
  faulted  : Bool := false
  ended    : Option Nat := none             -- END issued: count from which the context is complete (08 R163)
  saved    : Bool := false                  -- saved by CTXS (10 R228)
  saving   : Bool := false
  savedFor : Option (Nat × Bool × Nat) := none  -- whose CTXS or CTXR it is: context, in handler mode, order of the slot
  bps      : SMap (Option Nat) := []        -- breakpoints 0 to 3 (23 R392)
  bpPass   : Bool := false                  -- the bundle at the breakpoint issues once after a resume
  tokens   : Nat := 0                       -- boost tokens (20 R344)
  perfP    : Nat := 0                       -- latest static performing count (08 R179)
  perfH    : Nat := 0                       -- the same of handler accesses, in handler counts
  effP     : Nat := 0                       -- latest count at which an effect of the task lands or performs (08 R163)
  crossings : List Crossing := []
  commands : List Command := []
  nonstatic : List Nat := []                -- ids of capacity-tier accesses and posts not yet performed
  ciLoads  : List (Nat × Nat × Nat) := []   -- interlock loads in flight: register, count, run cycle (10 R232)
  ciLoadsH : List (Nat × Nat × Nat) := []   -- the same of its handler, in handler counts
  ciHold   : Nat := 0                       -- null bundles the interlock has put in since task start
  nullTo   : Nat := 0                       -- null bundles issue at counts below this (08 R181)
  hwait    : List Nat := []                 -- non-static accesses that a FENCE of the handler waits for
  wave     : Option PendFault := none       -- cause of a slack wave that its gang has not yet frozen for
  cells    : List Cell := []                -- link cells taken by granules of BX.SEND (22 R368)
  lastT    : Nat := 0                       -- TIDE + 1 at which it issued last, and that bundle's address
  lastA    : Nat := 0
  bare     : Nat := 0                       -- bit 0: its block allots no quay units; bit 1: no tiles (20 R331)
  deriving DecidableEq, Repr

/-! ### A core -/

/-- What a step of a call has read and not yet added. -/
structure StepIn where
  idx    : Nat
  uw     : Nat                              -- microword
  a      : Nat                              -- tile bytes
  b      : Nat
  scales : Nat                              -- scale latches, 1,024 bytes
  deriving DecidableEq, Repr

/-- The child of a tile word that a call or a fault belongs to: its job, level, index and first row and column in the
job's C (09 R215). -/
structure TileRef where
  job  : Nat
  lvl  : Nat
  cidx : Nat
  row  : Nat
  col  : Nat
  k    : Nat := 0                           -- elements of K that its call covers
  pos  : Nat := 0                           -- position of a cluster word
  out  : Option (Nat × TileStep) := none    -- the step of the word that follows the call, so many counts after W
  deriving DecidableEq, Repr

/-- A call of the array (09 R201 to R203, 10 R402). -/
structure Call where
  id     : Nat
  fr     : Frame
  y      : Nat                              -- the context whose rings and latches it uses
  rout   : Nat
  m      : List Word := []                  -- m0 to m7 as sampled
  code   : List Word := []                  -- header and microwords as sampled
  start  : Nat := 0                         -- S
  free   : Nat := 0                         -- count at which its input is free, S until it has sampled
  n      : Nat := 0                         -- steps
  step   : Nat := 0                         -- next step
  uw     : Nat := 0                         -- its microword
  reps   : List Nat := [0, 0, 0, 0, 0, 0, 0]
  acc    : List (Nat × Nat) := []           -- latch and the sums inside the array
  ins    : List StepIn := []
  flags  : Nat := 0
  scales : Nat := 0                         -- scale latches captured for the next step
  dead   : Bool := false                    -- faulted or cancelled: no further step
  tile   : Option TileRef := none           -- the tile word it runs for
  deriving DecidableEq, Repr

/-- A core: its issue slot, core flags and array (07 R154, 08 R179, 09 R201). Its stores are bytes of memory. The issue slot that a gang has
on a dock core stands in an entry of its own, above those of the module's cores (21 R351). -/
structure Core where
  holder  : Option Nat := none              -- context number that holds the issue slot (07 R154)
  gap     : Nat := 0                        -- TIDE + 1 of the null bundle that a handover of the slot has issued (07 R154)
  flags   : BitVec 16 := 0
  calls   : List Call := []                 -- calls that have not retired, in issue order
  avail   : Bool := true                    -- not marked unavailable (17 R291)
  defect  : Bool := false                   -- self-test has found a defect that no spare repairs
  hbm     : List (Nat × Bool × Nat × Nat) := []   -- accesses held in the channel calendar: context, mode, count, TIDE (18 R305)
  deriving DecidableEq, Repr

/-! ### A cluster (15 R253) -/

/-- The router stage of a cluster (15 R253, R264 to R268). -/
structure Router where
  buf    : SMap Nat := []                   -- loop buffer, 64 words
  w      : SMap Gran := []
  rcnt   : Nat := 0
  iter   : Nat := 0
  entry  : Nat := 0
  active : Bool := false
  x      : Nat := 0                         -- context that issued RT.GO
  hnd    : Bool := false
  perfP  : Nat := 0                         -- latest performing count of its stores
  endAt  : Nat := 0                         -- last landing or perform of an issued operation
  addr   : Nat := 0                         -- bundle address, slot and issue count of the RT.GO
  slot   : Nat := 0
  goT    : Nat := 0
  next   : Nat := 0                         -- count of the next word
  deriving DecidableEq, Repr

/-- Whether the router runs a program of context `x`, started in handler mode or not, that has not halted (15 R267). -/
def Router.runsFor (r : Router) (x : Nat) (hnd : Bool) : Bool := r.active && r.x == x && r.hnd == hnd

/-- A cluster (15 R253, R256, R261). Its berth and drain buffers are bytes of memory. -/
structure Cluster where
  flags  : BitVec 64 := 0
  router : Router := {}
  holding : Option Nat := none              -- holding gang (15 R256)
  cxl    : Nat := 0                         -- CE.CXL outstanding
  posts  : Nat := 0                         -- BX.POST outstanding
  ratio  : Nat := 0                         -- clock ratio 1, 1/2, 1/4 as 0, 1, 2 (21 R359)
  stopped : Bool := false                   -- outside its run period
  deriving DecidableEq, Repr

/-! ### A tile word in progress (09 R211 to R215, 15 R269 to R274, 17 R293 to R295) -/

/-- A tile word at the port that runs it. -/
structure TileJob where
  id     : Nat
  op     : Nat
  w      : TileWord
  lvl    : Nat                              -- level of the port that runs it
  core   : Nat                              -- module core of the port, or first core of its cluster or die
  y      : Nat                              -- context it acts for
  fr     : Frame                            -- the issuing slot
  parent : Option Nat := none
  cidx   : Nat := 0
  start  : Nat := 0                         -- parent issue count T
  row0   : Nat := 0                         -- first row and column in the parent's C
  col0   : Nat := 0
  mesh   : Nat := 0                         -- added cycles of each sub-tile
  run    : Bool := false                    -- it has started
  open_  : Nat := 0                         -- children not ended
  flags  : Nat := 0
  parts  : List (Nat × List Nat) := []      -- partial results of a reduction by child
  failed : Option Nat := none               -- cause code of a fault of it or a child
  bad    : Option Nat := none               -- the child that failed
  stop   : Option Nat := none               -- position of a cluster word from which nothing is written
  offA   : Nat := 0                         -- bits of A, B and C before its first row, beyond the descriptor's 64-byte unit
  offB   : Nat := 0
  offC   : Nat := 0
  done   : Option Nat := none               -- count of completion
  fill   : Nat := 0                         -- the fill value of a TFIL, read from the word that the issued word's dsc names (02 R43)
  accFl  : Nat := 0                         -- flags of the reading of C's block for the next call (09 R212)
  packet : Option (Nat × Nat) := none       -- queue and packet of a TILE packet
  deriving DecidableEq, Repr

/-! ### A gang and its task (20 R330, R341, R342; 07 R152, R153) -/

/-- An extent of a translation window (18 R300). -/
structure Extent where
  va    : Nat                               -- VA[45:16] of the first byte
  len   : Nat                               -- 64 KiB units
  pa    : Nat                               -- PA[51:16] of the first byte
  ns    : Bool := false
  w     : Bool := false
  deriving DecidableEq, Repr

/-- A freeze asked for at count `F` (07 R153). -/
structure FreezeReq where
  F   : Nat
  why : Why
  deriving DecidableEq, Repr

/-- Whether a gang issues (07 R153). -/
inductive RunState
  | waiting                                 -- launched, count 0 not issued
  | running
  | frozen
  | ended
  deriving DecidableEq, Repr

/-- A gang on this module (20 R330): its task, its counts, its freezes, its meter and its windows. -/
structure Gang where
  live    : Bool := false
  run     : RunState := .waiting
  job     : Nat := 0
  gidx    : Nat := 0
  tag     : Nat := 0
  queue   : Nat := 0
  packet  : Nat := 0                        -- packet index in its queue
  record  : Nat := 0
  process : Nat := 0
  part    : Nat := 0
  members : List Nat := []                  -- contexts on this module
  share   : Nat := 0
  skb     : Nat := 0
  hold    : Bool := false
  shrw    : Bool := false
  grace   : Nat := 0
  nmod    : Nat := 0                        -- modules spanned, minus one
  tick    : Nat := 0
  sch     : Nat := 0                        -- count of the cycle in progress, or F while frozen
  cyc     : Nat := 0                        -- the same with the null bundles of the interlock (10 R232)
  anchor  : Nat := 0
  start   : Option Nat := none              -- chosen start TIDE S
  F       : Nat := 0
  TF      : Nat := 0
  served  : List Why := []                  -- what the freeze in force serves
  reqs    : List FreezeReq := []
  G       : Option Nat := none              -- chosen resume TIDE
  floor  : Nat := 0                         -- no G comes before it: the G of a resume wave
  left   : List Why := []                   -- conditions of it that have not held yet
  heir   : Option Nat := none               -- gang that takes its slots: a switch has been decided (20 R342)
  kind   : Nat := 0                         -- 0 a packet, 1 a device launch, 2 an entry of a table, 3 a stream
  bal     : Nat := 0                        -- meter balance, wb
  debt    : Nat := 0
  depth   : Nat := 0                        -- K
  refill  : Nat := 0                        -- refill per wall microsecond, wb
  frac    : Nat := 0                        -- refill not yet a whole wb
  deficit : Int := 0
  leases  : List (Nat × Nat × Bool) := []   -- rate, end TIDE, revoked
  window  : List Extent := []               -- translation window
  manifest : List (Nat × Nat) := []         -- address and length of each extent of its manifest (01 R18)
  peers   : List (Nat × List Extent) := []  -- windows that the modules of a fabric gang sent (22 R366)
  staged  : Bool := true
  pages   : List (Nat × Nat × Bool) := []   -- staged pages: PA[51:16] of the pool's page and of the tier's, and W (18 R303)
  ready   : Bool := false
  dock    : Bool := false                   -- it runs on dock cores (21 R351)
  routines : List Nat := []                 -- routines that its image loads (09 R200)
  far     : List (Nat × Nat) := []          -- other modules it spans, with the clock ratio that its members have there (21 R359)
  ending  : Option (Nat × Nat × Nat) := none    -- STATUS, CAUSE and SCH of an end that waits for its accesses (19 R322)
  rel     : Nat := 0                        -- `State.hostSeen` at the tail write that released its task, or 0 (19 R321)
  deriving DecidableEq, Repr

/-! ### The module -/

/-- What waits in a queue: a packet of the ring by its index, the record of a device launch with the owner of the launching context (20
R338), or the packet of a table's entry. -/
structure QItem where
  seq   : Nat
  idx   : Option Nat := none
  data  : Nat := 0
  owner : Nat := 0
  tbl   : Option Nat := none                -- of an entry of a table: the number of the TABLE packet (20 R335)
  rel   : Nat := 0                          -- `State.hostSeen` at the tail write that released it (19 R321)
  deriving DecidableEq, Repr

/-- A packet that the pilot has taken up and that has not completed. -/
structure QTask where
  seq  : Nat
  tag  : Nat
  job  : Nat
  idx  : Option Nat
  record : Nat                              -- address of its completion record, or 0
  rel  : Nat := 0                           -- that of its packet (19 R321)
  deriving DecidableEq, Repr

/-- A queue and the pilot's state for it (20 R327, R336, R340). -/
structure Queue where
  qbase : Word := 0
  qcfg  : Word := 0
  qtail : Nat := 0
  qhead : Nat := 0
  items : List QItem := []                  -- released, not taken up
  dev   : List QItem := []                  -- device launches of a queue that holds a command stream
  tasks : List QTask := []                  -- taken up, not completed
  nextSeq : Nat := 0                        -- numbers its packets
  lastS : Nat := 0                          -- start TIDE of the latest task (R336)
  cspos : Option (Bool × Nat) := none       -- command-stream position: a virtual address, or a command of the ring
  csloop : List (Nat × Nat) := []           -- head, count
  cswait : Option Nat := none               -- module flag waited for
  strm  : Nat := 0                          -- streams that have ended; the number of the one in hand
  csring : Nat := 0                         -- the ring entry of its last command in the ring
  rel   : Nat := 0                          -- `State.hostSeen` at its last tail write (19 R321)
  deriving DecidableEq, Repr

/-- A partition (21 R353, R355). -/
structure Part where
  clu   : List Word := [0, 0, 0, 0]         -- PCLU0 to PCLU3
  pcfg  : Word := 0
  pevq  : Word := 0
  ratio : Nat := 0                          -- clock ratio 1, 1/2, 1/4 as 0, 1, 2
  base  : Nat := 0                          -- cold allotment before the helium's limit, mW
  allot : Nat := 0                          -- cold allotment in force, mW (C')
  warm  : Nat := 0                          -- warm allotment in force, mW (W')
  low   : Nat := 0                          -- least ratio index that its own warm cap holds it to
  shake : Option (Nat × Nat) := none        -- a change of ratio under way: the new ratio, its step (21 R359)
  chg   : Nat := 0                          -- changes of allotment or ratio
  cause : Nat := 0                          -- CAPCAUSE [6:0] (21 R357)
  evCount : Nat := 0                        -- event records written
  account : Nat := 0                        -- wb charged to the pilot account (20 R333, 23 R392)
  deriving DecidableEq, Repr

/-- A bias domain (17 R289, R290): 0 OFF, 1 RAMP, 2 TEST, 3 ON, 4 FAILED. -/
structure Domain where
  st   : Nat := 0
  end_ : Nat := 0
  fails : Nat := 0                          -- times it has entered FAILED
  ramped : Bool := false                    -- it has passed RAMP since the module entered SELFTEST (21 R349)
  deriving DecidableEq, Repr

/-- A flash bank (21 R352): its image, the image's security version, and the SHA-384 hashes of the two public keys that it is signed
for. -/
structure Bank where
  image   : Nat := 0
  version : Nat := 0
  rsaHash : Nat := 0
  slhHash : Nat := 0
  deriving DecidableEq, Repr

/-- What is fused in the module (21 R352, R355): the hashes of its public keys, the rollback counter and the hall key. -/
structure Fuses where
  rsaHash  : Nat := 0
  slhHash  : Nat := 0
  rollback : Nat := 0
  hallKey  : Nat := 0
  deriving DecidableEq, Repr

/-- A Baoskyx link (22 R361 to R363): 0 DOWN, 1 TRAINING, 2 UP, 3 FAILED. -/
structure Link where
  st    : Nat := 0
  lat    : Nat := 0
  delay  : Nat := 0                         -- the one-way delay that training measured (22 R363)
  nbr    : Nat := 0                         -- LNKST.NBR, NLNK and FECC
  nlnk   : Nat := 0
  fecc   : Nat := 0
  silent : Nat := 0
  replay : Nat := 0
  grants : SMap Word := []
  deriving DecidableEq, Repr

/-- A capacity-tier request (18 R314). -/
structure CxlReq where
  id   : Nat
  x    : Nat
  gid  : Nat
  dir  : Bool                               -- true: to the tier
  tier : Nat                                -- physical address
  key  : Nat                                -- quay key
  sent : Option Nat := none
  done : Bool := false                      -- it has completed and waits for the gang to resume (15 R263)
  bad  : Bool := false
  data : Nat := 0                           -- the quay bytes that it sent, or what its completion returned
  poison : Bool := false                    -- they carry poison
  cmd  : Nat := 0                           -- command it belongs to
  hnd  : Bool := false                      -- its slot's mode and order
  ord  : Nat := 0
  flag : Nat × Nat := (0, 0)                -- cluster and flag
  addr : Nat := 0                           -- issuing bundle
  deriving DecidableEq, Repr

/-- What a message asks for. -/
inductive MsgKind
  | launch                                  -- a device launch: `a` its queue, `data` its record (08 R184)
  | sys                                     -- `a` the service, `b` the flag, `d` the SCH of its issue, `data` the argument, then the reply (08 R187)
  | send                                    -- a granule of BX.SEND on its way to this module (22 R368)
  | post                                    -- a post of another module (22 R371)
  | posted                                  -- a post of this module that waits for its acknowledgement
  | tile                                    -- a tile word on its way, or what has become of one (22 R373, 02 R45)
  | report                                  -- a ready report, or that a launch was rejected (22 R366)
  | start                                   -- a start wave
  | wave                                    -- a slack wave (22 R375)
  | resume                                  -- a resume wave (22 R379)
  | ratio                                   -- the clock ratio of a fabric job's gangs on this module: `b` (21 R359)
  | tide                                    -- TIDE, in `data`, with the TIDE root that the module knows, in `b` (22 R364)
  deriving DecidableEq, Repr

/-- A message of the outside or between pilots that has not been dealt with. -/
structure Msg where
  id   : Nat
  kind : MsgKind
  a    : Nat := 0
  b    : Nat := 0
  c    : Nat := 0
  d    : Nat := 0
  data : Nat := 0
  x    : Nat := 0
  fr   : Frame := {}
  link : Nat := 0                           -- of one that leaves: its link, the TIDE of its flit slot, and above 0 its granule position
  slot : Nat := 0                           -- in that flit plus 1; with 0 it goes in the header (22 R361)
  pos  : Nat := 0
  deriving DecidableEq, Repr

/-- A trace ring (23 R384) of a job. -/
structure Trace where
  base  : Nat := 0                          -- warm virtual address of the ring
  log   : Nat := 0
  enab  : Nat := 0
  per   : Nat := 0
  proc  : Nat := 0
  deriving DecidableEq, Repr

/-- The slack state of a job: its cause record and what the wave does (22 R375 to R380). -/
structure Slack where
  st    : Nat := 0                          -- 0 running, 1 frozen and resumable, 2 frozen for good, 3 stepping
  omod  : Nat := 0
  ocore : Nat := 0
  octx  : Nat := 0
  addr  : Nat := 0
  code  : Nat := 0
  arg   : Nat := 0
  sch   : Nat := 0
  Ts    : Nat := 0
  ntrig : Nat := 0
  queue : Nat := 0                          -- queue that released the job's first packet, plus one (22 R380)
  seq   : Nat := 0
  wave  : Bool := false                     -- a wave is in flight
  seen  : List (Nat × Nat × Nat × Nat) := []    -- waves in flight that have reached the module: T_s and origin
  wide  : Bool := false                     -- its cause is a fault of a wider gang
  n     : Nat := 0                          -- counts of the step under way
  from_ : List (Nat × Nat) := []            -- and the count that each gang runs it from
  G     : Option Nat := none                -- chosen resume TIDE
  deriving DecidableEq, Repr

/-- What comes next in a cycle: its performs, the count of the next cycle with what the pilots do at its start, or
its landings and issues. -/
inductive Phase
  | perform | manage | land
  deriving DecidableEq, Repr

/-- A write of the host to host memory: what it replaced, and the bytes of it that no write of the module has replaced since (19
R321). -/
structure HostWrite where
  key  : Nat
  n    : Nat
  old  : Nat
  mask : Nat
  deriving DecidableEq, Repr

/-- The module's own registers and pilots. -/
structure Module where
  mstat  : Word := 0                        -- 21 R348
  flags  : BitVec 64 := 0                   -- module flags
  bank   : Option Nat := none               -- firmware bank loaded
  image  : Option Nat := none               -- image staged through the mailbox
  banks  : List Bank := [{}, {}]            -- the two flash banks
  fuses  : Fuses := {}
  coolSince : Option Nat := none
  queues : SMap Queue := []
  parts  : SMap Part := []
  domains : SMap Domain := []
  links  : SMap Link := []
  modid  : Word := 0
  num    : Nat := 0                         -- the module number in effect (22 R362)
  reports : List (Nat × Nat × List Nat) := []   -- ready reports: job and gang index, module, window (22 R366)
  firsts : List (Nat × Nat) := []           -- job and gang index, and the TIDE at which the ROOT pilot got its first report
  rejected : List (Nat × Nat × Nat) := []   -- posts of which a granule was rejected: module, context, issue count (22 R371)
  root   : Nat := 4096                      -- the TIDE root it knows; 4,096 while none of its links is UP (22 R364)
  trim   : Int := 0                         -- parts in 2^20 by which its clock period is lengthened (22 R364)
  fjt    : SMap Word := []
  slkcr  : SMap Word := []                  -- slack cause records: 4 * entry + word, the queues' from entry 16 on
  procs  : SMap Nat := []                   -- process: level-1 table address + 1
  tau0   : Nat := 0                         -- launch-clock reference, ns
  T0     : Nat := 0
  hlmcal : Word := 0x1E00
  mboost : Word := 0
  caps   : List (Nat × Nat × Nat) := [(0, 0, 0), (0, 0, 0)]   -- HALL and RACK: SEQ + 1, BUDGET + 1, SP (21 R355)
  limits : Nat := 0                         -- bit 0 the warm limit holds, bit 1 the cold limit (21 R356)
  rate   : Nat := 2 ^ 25                    -- cycles per ns of the launch-clock map, in 2^-20 (20 R334)
  cbk    : SMap Nat := []                   -- window length that the pilot is told for a context, in KiB plus 1 (15 R254, 16 R277)
  jobs   : SMap Slack := []
  traces : SMap Trace := []
  setters : SMap Nat := []                  -- last setter of a flag (23 R389): kind * 2^12 + number + 1
  edges  : List (Nat × Nat × Nat × Nat) := []   -- wait-for edges: job * 2^12 + waiter, flag, setter, waits closed (23 R390)
  out    : List Msg := []                   -- what has left the module on its links
  msgs   : List Msg := []                   -- SYS requests, posts, sends and packets in transit
  cxl    : List CxlReq := []
  ilv    : Nat := 0                         -- ports that the capacity tier interleaves over, as a power of two (18 R313)
  act    : SMap Nat := []                   -- activation stamps by row group of a bank: TIDE + 1 (18 R308)
  refreshed : SMap Nat := []                -- refreshes made, by stack
  skipped : SMap Nat := []
  errs   : SMap Nat := []                   -- corrected errors by cold store, HBM stack and quay die (10 R231, 18 R309)
  regs   : SMap Word := []                  -- configuration registers without behaviour of their own (20 R327)
  hostLog : List HostWrite := []            -- the host's writes to host memory, newest first (19 R321)
  deriving DecidableEq, Repr

/-- The module. -/
structure State where
  tide   : Nat                              -- 00 R7
  phase  : Phase
  agenda : List Act                         -- acts left in the cycle (log 5)
  staged : List Staged                      -- slots left of the bundle being issued
  fr     : Frame                            -- frame of the act in hand
  flight : List Flight
  timed  : List Timed
  pend   : List Eff
  landed : List Landed                      -- landings of the cycle in progress, newest first (log 18)
  undo   : List Undo
  faults : List PendFault
  mem    : Memory
  poison : List Nat                         -- granule keys that read as poisoned (18 R309, R311)
  ecc    : SMap Nat                         -- words with a correctable (1; 3 where its write-back was cancelled) or uncorrectable (2) error (08 R168)
  soft   : List Soft                        -- parity failures, also those still to come (10 R231, log 9)
  ctxs   : SMap Ctx
  cores  : SMap Core
  clus   : SMap Cluster
  gangs  : SMap Gang
  tiles  : List TileJob
  mod    : Module
  nextId : Nat                              -- numbers acts' records
  free   : Nat                              -- counter of free values (log 6)
  inputs : List Timed                       -- what the outside will do and when, oldest first
  deriving DecidableEq, Repr

/-- Why a run stops without a next state: nothing makes one stop. Every fault of the part is an effect of the model (10
R221 to R225), and an address that does not exist is one of its faults. -/
inductive Fault
  deriving DecidableEq, Repr

/-- Why the model gives no meaning. -/
inductive Refusal
  /-- Raised by the arm of an instruction that has no meaning yet. Safe: the model stops. -/
  | notModelled (mnemonic : String)
  deriving DecidableEq, Repr

/-- The module right after reset (00 R7, 07 R140 to R145, 15 R253, 20 R327, 21 R348, R353): every register at
the spec's value, and where the spec gives none at the value that log 1, 2, 3 and 14 name. -/
def State.reset : State :=
  { tide := 0, phase := .manage, agenda := [], staged := [], fr := {}, flight := [], timed := [], pend := []
    landed := [], undo := [], faults := [], mem := [], poison := [], ecc := [], soft := [], ctxs := [], cores := [], clus := [], gangs := [], tiles := []
    mod := {}, nextId := 0, free := 0, inputs := [] }

end Sys2Proof.Machine
end

