-- ==== Sys2Proof/Machine/Ops.lean ====
section
/-! DEFINITION. The named operations over registers, memory, counts, freezes and faults that the meanings share,
with the taking of a fault and the return from one (10 R221 to R226). -/

namespace Sys2Proof.Machine

/-- The outcome of a step. -/
abbrev Result := Host.Outcome State Fault Refusal

/-! ### Places of contexts, cores and clusters (17 R283) -/

/-- The module core of a context. -/
def coreOf (x : Nat) : Nat := x / 4

/-- The cluster of a core. -/
def clusterOf (c : Nat) : Nat := c / 4

/-- The die of a core. -/
def dieOf (c : Nat) : Nat := c / 128

/-- The bias domain of a core. -/
def domainOf (c : Nat) : Nat :=
  4 * (c / 128) + (c / 4 % 32) / 8

/-- The mesh column and row of a core. -/
def meshPos (c : Nat) : Nat × Nat :=
  let n := c / 4 % 32
  let q := n / 8
  (4 * (q % 2) + n % 4, 2 * (q / 2) + n % 8 / 4)

/-- The hop distance of two cores of one die. -/
def hops (c1 c2 : Nat) : Nat :=
  let p1 := meshPos c1
  let p2 := meshPos c2
  (p1.1 - p2.1) + (p2.1 - p1.1) + (p1.2 - p2.2) + (p2.2 - p1.2)

namespace State

/-! ### Records -/

/-- The context `x`. -/
def ctx (s : State) (x : Nat) : Ctx := SMap.get {} s.ctxs x

/-- The state with context `x` replaced. -/
def setCtx (s : State) (x : Nat) (c : Ctx) : State := { s with ctxs := SMap.put {} s.ctxs x c }

/-- The core `c`. -/
def core (s : State) (c : Nat) : Core := SMap.get {} s.cores c

/-- The state with core `c` replaced. -/
def setCore (s : State) (c : Nat) (k : Core) : State := { s with cores := SMap.put {} s.cores c k }

/-- The cluster `c`. -/
def clu (s : State) (c : Nat) : Cluster := SMap.get {} s.clus c

/-- The state with cluster `c` replaced. -/
def setClu (s : State) (c : Nat) (k : Cluster) : State := { s with clus := SMap.put {} s.clus c k }

/-- The gang with index `g`. -/
def gang (s : State) (g : Nat) : Gang := SMap.get {} s.gangs g

/-- The state with gang `g` replaced. -/
def setGang (s : State) (g : Nat) (k : Gang) : State := { s with gangs := SMap.put {} s.gangs g k }

/-- The gang of context `x`. -/
def gangOf (s : State) (x : Nat) : Gang := s.gang (s.ctx x).gang

/-- A context changed by a function. -/
def updCtx (s : State) (x : Nat) (f : Ctx → Ctx) : State := s.setCtx x (f (s.ctx x))

/-- A gang changed by a function. -/
def updGang (s : State) (g : Nat) (f : Gang → Gang) : State := s.setGang g (f (s.gang g))

/-- The module's own record changed by a function. -/
def updMod (s : State) (f : Module → Module) : State := { s with mod := f s.mod }

/-- A new number for a record. -/
def fresh (s : State) : Nat × State := (s.nextId, { s with nextId := s.nextId + 1 })

/-- A free value of width `w` (log 6). -/
def freeValue (s : State) (w : Nat) : BitVec w × State := (Config.freeValue w s.free, { s with free := s.free + 1 })

end State

/-- Every member of the gang is on one core of one module (07 R153, R223). -/
def Gang.oneCore (g : Gang) : Bool :=
  g.nmod == 0 && match g.members with
    | [] => true
    | x :: xs => xs.all fun y => coreOf y == coreOf x

/-- The clusters of a gang's members. -/
def Gang.clusters (g : Gang) : List Nat := (g.members.map fun x => clusterOf (coreOf x)).eraseDups

/-- The cores of a gang's members. -/
def Gang.cores (g : Gang) : List Nat := (g.members.map coreOf).eraseDups

/-- Cycles of TIDE in one count: 2,048 on dock cores (21 R351). -/
def Gang.pace (g : Gang) : Nat := if g.dock then 2048 else 1

/-- The freeze point of a request made at count `t` (07 R153). -/
def Gang.reqPoint (g : Gang) (t : Nat) : Nat := if g.oneCore then t + 1 else t + g.skb

namespace State

/-- A freeze request of gang `g` at count `F`. -/
def request (s : State) (g F : Nat) (why : Why) : State :=
  s.updGang g fun k => { k with reqs := k.reqs ++ [⟨F, why⟩] }

/-- A freeze request of the act in hand, which a fault of its slot takes back (10 R222). -/
def ask (s : State) (g F : Nat) (why : Why) : State :=
  { s.request g F why with undo := ⟨s.fr.x, s.fr.hnd, s.fr.t * 8 + (if s.fr.re then 0 else 4) + s.fr.slot, .asked g F why, 0⟩ :: s.undo }

/-! ### Counts -/

/-- The count of the cycle in progress on the clock that context `x` uses (10 R224). -/
def now (s : State) (x : Nat) (hnd : Bool) : Nat :=
  if hnd then ((s.ctx x).handler.map Handler.cnt).getD 0 else (s.gangOf x).sch

/-- The same clock with the null bundles of the compatibility interlock: it runs with TIDE (10 R232). -/
def clk (s : State) (x : Nat) (hnd : Bool) : Nat :=
  if hnd then ((s.ctx x).handler.map Handler.cnt).getD 0 else (s.gangOf x).cyc

/-- Whether the clock of a context's acts runs: its gang's, or its handler's, which stops outside the cluster's run periods (21
R359). -/
def clockRuns (s : State) (x : Nat) (hnd : Bool) : Bool :=
  let g := s.gangOf x
  if hnd then (s.ctx x).handler.isSome && (g.dock || !(s.clu (clusterOf (coreOf x))).stopped) else g.run == .running

/-- The TIDE that places the acts of context `x` in the calendars: a gang on dock cores counts the same phases at its
own pace (21 R351). -/
def cal (s : State) (x : Nat) (hnd : Bool) : Nat :=
  let g := s.gangOf x
  if !g.dock then s.tide else if hnd then g.cyc + 2 + s.clk x true else g.cyc

/-- The TIDE at which the bundle in hand issued: a re-entry bundle's is that of cycle G - 1 (10 R226). -/
def issueTide (s : State) : Nat := if s.fr.pre then s.tide - 1 else s.tide

/-- The schedule count that records name: F in handler mode (23 R385). -/
def schOf (s : State) : Nat := if s.fr.hnd then (s.gangOf s.fr.x).F else s.fr.t

/-- A count as records and commands name it: from the anchor, or in handler mode from the handler's first bundle,
modulo 2^32 (10 R218, R220, 15 R257). -/
def fromAnchor (s : State) (n : Nat) : Nat :=
  (((n : Int) - (if s.fr.hnd then 0 else (s.gangOf s.fr.x).anchor : Nat)) % 2 ^ 32).toNat

end State

/-- The order of a frame's effects: issue count, then a re-entry bundle before the bundle of its count, then slot
(07 R147, 10 R226). -/
def Frame.ord (f : Frame) : Nat := f.t * 8 + (if f.re then 0 else 4) + f.slot

/-- Who an effect belongs to where faults cancel and the undo log keeps: its context, or the router, whose operations are no slots of a
bundle (15 R265). -/
def Frame.who (f : Frame) : Nat := if f.rt then f.x + 4096 else f.x

/-- The frame of what comes from outside every context: a pilot, the host, the capacity tier. -/
def outside : Frame := { x := 4096 }

/-- The bundle of an order key. -/
def bundleKey (ord : Nat) : Nat := ord / 4

namespace State

/-- An effect pushed for the act in hand, due at count `due`. -/
def push (s : State) (due : Nat) (act : Effect) (pri : Nat := 1) (run : Nat := 0) : State :=
  { s with pend := s.pend ++ [⟨{ s.fr with cap := 0, capv := 0, gt := 0 }, due, run, pri, act, 0⟩] }

/-- A trace record of the slot in hand, written once no slot below it can take it back (23 R387, R394). -/
def record (s : State) (en type ts0 tide ts3 : Nat) : State := s.push s.fr.t (.record en type ts0 tide ts3) 9

/-- An effect that performs at the end of this cycle by TIDE, whoever's it is. -/
def later (s : State) (fr : Frame) (pri : Nat) (act : Effect) : State := { s with pend := s.pend ++ [⟨fr, 0, 0, pri, act, s.tide + 1⟩] }

/-- An effect pushed for the act in hand, due `n` counts on by TIDE, at the pace of its gang's clock, also while that gang is frozen. -/
def pushWall (s : State) (n : Nat) (act : Effect) : State :=
  let x := s.fr.x
  let fr := { s.fr with cap := 0, capv := 0, gt := 0 }
  { s with pend := s.pend ++ [⟨fr, s.now x s.fr.hnd + n, 0, 1, act, s.tide + n * (s.gangOf x).pace + 1⟩] }

/-- An act of the context in hand put off to count `due`. -/
def fly (s : State) (due : Nat) (i : Instr) (fr : Frame) : State :=
  { s with flight := s.flight ++ [⟨fr.x, fr.hnd, due, 0, ⟨i, fr⟩⟩] }

/-- Whether compatibility interlock governs the act in hand (10 R232). -/
def ci (s : State) : Bool := (s.ctx s.fr.x).psw.getLsbD 10

/-- An effect due at a value of the clock of `clk`, on which the calendars run: outside the interlock the schedule
count itself (07 R149, 10 R232). -/
def pushClk (s : State) (at_ : Nat) (act : Effect) (pri : Nat := 1) : State :=
  if s.ci && !s.fr.hnd then s.push 0 act pri at_ else s.push at_ act pri

/-- An act put off on the same clock. -/
def flyClk (s : State) (at_ : Nat) (i : Instr) (fr : Frame) : State :=
  if s.ci && !fr.hnd then { s with flight := s.flight ++ [⟨fr.x, fr.hnd, 0, at_, ⟨i, fr⟩⟩] } else s.fly at_ i fr

/-- An act put off to TIDE `T`. -/
def timedAt (s : State) (T : Nat) (i : Instr) (fr : Frame := {}) : State :=
  { s with timed := s.timed ++ [⟨T, ⟨i, fr⟩⟩] }

/-- A per-lane slot goes on in the next slice one cycle later (04 R80). -/
def nextSlice (s : State) (i : Instr) (fr : Frame) : State :=
  if fr.slice < 7 then s.fly (fr.t + fr.slice + 1) i { fr with slice := fr.slice + 1 } else s

end State

/-! ### Stochastic generators (03 R57) -/

/-- One draw: the new state, which is also the number drawn. -/
def draw (g : Nat) : Nat :=
  let a := Nat.xor g (g * 2 ^ 13 % 2 ^ 32)
  let b := Nat.xor a (a / 2 ^ 17)
  Nat.xor b (b * 2 ^ 5 % 2 ^ 32)

/-- The state before one draw: each of its three shifts undone. -/
def drawnFrom (u : Nat) : Nat :=
  let sh := fun (n y : Nat) => Nat.xor u (y * 2 ^ n % 2 ^ 32)
  let b := sh 5 (sh 5 (sh 5 (sh 5 (sh 5 (sh 5 u)))))
  let a := Nat.xor b (b / 2 ^ 17)
  Nat.xor (Nat.xor a (a * 2 ^ 13 % 2 ^ 32)) (a * 2 ^ 26 % 2 ^ 32)

/-- The state before `n` draws. -/
def undraw : Nat → Nat → Nat
  | 0, g => g
  | n + 1, g => undraw n (drawnFrom g)

/-- The registers that differ from run to run: TIDE, HLMBAL, YDL and CAPCAUSE (07 R143, 23 R394). -/
def runRegs : List Nat := [3, 22, 24, 26]

/-! ### Registers (07 R140, R144, 04 R77) -/

/-- The physical vector register of a name under base `rbv` (07 R144). -/
def physV (rbv r : Nat) : Nat := if r < 16 then r else 16 + (r - 16 + rbv) % 16

/-- The physical predicate of a name under base `rbp` (07 R144). -/
def physP (rbp p : Nat) : Nat := if p < 8 then p else 8 + (p - 8 + rbp) % 8

/-- A register of a context as 512 bits; s0 and p1 read zero, p0 reads ones. -/
def Regs.read (r : Regs) : Loc → Gran
  | .s n => if n = 0 then 0 else (SMap.get 0 r.s n).setWidth 512
  | .v n k => SMap.get 0 r.v (8 * n + k)
  | .p n k => if n = 0 then 0xFFFF else if n = 1 then 0 else (SMap.get 0 r.p (8 * n + k)).setWidth 512
  | .dsr k => (SMap.get 0 r.d k).setWidth 512
  | .gen k => SMap.get 0 r.g k
  | .strm i => SMap.get 0 r.st i
  | .m n => (SMap.get 0 r.m n).setWidth 512

/-- A register written whole; a write to s0, p0 or p1 lands nowhere. -/
def Regs.put (r : Regs) (l : Loc) (x : Gran) : Regs :=
  match l with
  | .s n => if n = 0 then r else { r with s := SMap.put 0 r.s n (x.setWidth 64) }
  | .v n k => { r with v := SMap.put 0 r.v (8 * n + k) x }
  | .p n k => if n < 2 then r else { r with p := SMap.put 0 r.p (8 * n + k) (x.setWidth 16) }
  | .dsr k => { r with d := SMap.put 0 r.d k (x.setWidth 64) }
  | .gen k => { r with g := SMap.put 0 r.g k x }
  | .strm i => { r with st := SMap.put 0 r.st i x }
  | .m n => { r with m := SMap.put 0 r.m n (x.setWidth 64) }

/-- The bits of `val` under `mask`, the rest kept. -/
def mergeBits (old val mask : Gran) : Gran := (old &&& ~~~mask) ||| (val &&& mask)

/-- A register written under a mask. -/
def Regs.write (r : Regs) (l : Loc) (val mask : Gran) : Regs := r.put l (mergeBits (r.read l) val mask)

/-- The mask of a whole register. -/
def allBits : Gran := BitVec.allOnes 512

/-- The registers an act reads: those the program left at a handled fault when the act belongs to a bundle issued before it, the
context's own otherwise (10 R224). -/
def Ctx.view (c : Ctx) (old : Nat) : Regs :=
  if old = 0 then c.regs else ((c.past[old - 1]?).map Past.regs).getD c.regs

/-- The context as the bundle of a frame finds its allotment: a SET of ALLOT acts from the next bundle on (07 R143). -/
def Ctx.asIssued (c : Ctx) (fr : Frame) : Ctx := { c with allot := fr.allot.getD c.allot }

/-- Context `y` as the bundle of a frame finds its allotment: its own as at its issue (07 R143). -/
def State.ctxFor (s : State) (y : Nat) (fr : Frame) : Ctx :=
  if y = fr.x then (SMap.get {} s.ctxs y).asIssued fr else SMap.get {} s.ctxs y

/-- An effect of the program on its registers, in what its slots in flight at its handled faults see, too; a handler's effect they do
not see. -/
def Ctx.withRegs (c : Ctx) (hnd : Bool) (f : Regs → Regs) : Ctx :=
  { c with regs := f c.regs, past := if hnd then c.past else c.past.map fun p => { p with regs := f p.regs } }

namespace State

/-- Memory as the act in hand reads a chart or a latch: a slot in flight at a handled fault reads them as the program left them (07
R153, 10 R224). -/
def seenMem (s : State) : Memory :=
  match (if s.fr.old = 0 then none else (s.ctx s.fr.x).past[s.fr.old - 1]?) with
  | some p => p.bytes.foldl (fun (m : Memory) e => m.write e.1 e.2) s.mem
  | none => s.mem

/-- What a write of a handler to charts or latches takes from the program's slots in flight is kept for them; the program's own write
replaces it. -/
def keepBefore (s : State) (x : Nat) (hnd : Bool) (key n mask : Nat) : State :=
  if (s.ctx x).past.isEmpty then s
  else
    let keep := fun (m : Memory) => (List.range n).foldl (fun (m : Memory) i =>
      if !bit mask i then m
      else if hnd then (if m.any fun e => e.1 == key + i then m else SMap.set m (key + i) (s.mem.read (key + i)))
      else m.filter fun e => e.1 != key + i) m
    s.updCtx x fun c => { c with past := c.past.map fun p => { p with bytes := keep p.bytes } }

/-- A register as the act in hand reads it. -/
def reg (s : State) (l : Loc) : Gran := ((s.ctx s.fr.x).view s.fr.old).read l

/-- Scalar register `r` as the act in hand reads it. -/
def sget (s : State) (r : Nat) : Word := (s.reg (.s r)).setWidth 64

/-- Slice `k` of the vector register named `r`. -/
def vget (s : State) (r k : Nat) : Gran := s.reg (.v (physV s.fr.rbv r) k)

/-- Slice `k` of the predicate named `p`. -/
def pget (s : State) (p k : Nat) : LaneMask := (s.reg (.p (physP s.fr.rbp p) k)).setWidth 16

/-- The guards of the lanes of slice `k` (02 R23, R24). -/
def laneGuard (s : State) (g : Guard) (k : Nat) : LaneMask := if g.neg then ~~~(s.pget g.p k) else s.pget g.p k

/-- The guard of a slot that reads it once, from lane 0 of slice 0 (02 R24). -/
def onceGuard (s : State) (g : Guard) : Bool := (s.laneGuard g 0).getLsbD 0

/-- The guards of all 128 lanes. -/
def allGuards (s : State) (g : Guard) : BitVec 128 :=
  BitVec.ofNat 128 (([0, 1, 2, 3, 4, 5, 6, 7].map fun k => (s.laneGuard g k).toNat * 2 ^ (16 * k)).foldl (· + ·) 0)

/-- A scalar result landing at count `due`. -/
def landS (s : State) (r : Nat) (v : Word) (due : Nat) : State := s.push due (.reg (.s r) (v.setWidth 512) allBits)

/-- A slice of a vector result landing at count `due` under a bit mask. -/
def landV (s : State) (r k : Nat) (v mask : Gran) (due : Nat) : State :=
  s.push due (.reg (.v (physV s.fr.rbv r) k) v mask)

/-- A slice of a predicate result landing at count `due` under a lane mask. -/
def landP (s : State) (p k : Nat) (v mask : LaneMask) (due : Nat) : State :=
  s.push due (.reg (.p (physP s.fr.rbp p) k) (v.setWidth 512) (mask.setWidth 512))

end State

/-- Each lane's mask bit spread over its 32 bits. -/
def laneBits (m : LaneMask) : Gran :=
  BitVec.ofNat 512 (((List.range 16).map fun l => if m.getLsbD l then 0xFFFFFFFF * 2 ^ (32 * l) else 0).foldl (· + ·) 0)

/-- The guards of slice `k` among those of all lanes. -/
def sliceOf (g : BitVec 128) (k : Nat) : LaneMask := BitVec.ofNat 16 (g.toNat / 2 ^ (16 * k))

/-- A slice of a 4,096-bit register image. -/
def granOf (v : BitVec 4096) (k : Nat) : Gran := BitVec.ofNat 512 (v.toNat / 2 ^ (512 * k))

/-- A slice put into a 4,096-bit image whose slice is zero. -/
def withGran (v : BitVec 4096) (k : Nat) (x : Gran) : BitVec 4096 := v ||| BitVec.ofNat 4096 (x.toNat * 2 ^ (512 * k))

/-! ### Faults (10 R218 to R222) -/

/-- The place of a cause in the order of checks within one slot (10 R221); the bundle-resource fault comes first
(02 R39). -/
def causeRank (code : Nat) : Nat :=
  match code with
  | 2 => 0 | 1 => 1 | 3 => 2 | 4 => 3 | 5 => 4 | 6 => 5 | 12 => 6 | 14 => 7 | 13 => 8 | 7 => 9 | 22 => 10 | 20 => 11
  | 11 => 12 | 8 => 13 | 10 => 14 | 9 => 15 | 21 => 16 | 15 => 17 | 23 => 18
  | _ => 19

/-- Two faults of one slot. -/
def PendFault.sameSlot (a b : PendFault) : Bool :=
  a.x == b.x && a.hnd == b.hnd && a.t == b.t && a.re == b.re && a.slot == b.slot && a.bnd == b.bnd

/-- A detected fault added to the pending ones: of one slot the first by its checks stays, and the flags of an
enabled FP exception gather. -/
def addFault (f : PendFault) : List PendFault → List PendFault
  | [] => [f]
  | e :: es =>
    if f.sameSlot e && !f.bnd then
      if f.code = e.code then { e with finfo := if f.code = 10 then e.finfo ||| f.finfo else e.finfo } :: es
      else if f.F < e.F || (f.F == e.F && decide (causeRank f.code < causeRank e.code)) then f :: es
      else e :: es
    else e :: addFault f es

namespace State

/-- A fault of the act in hand, taken at count `F`. -/
def raise (s : State) (code : Nat) (finfo fbnd : Word) (F : Nat) (bnd : Bool := false) : State :=
  { s with faults := addFault ⟨s.fr.x, s.fr.hnd, F, s.fr.t, s.fr.re, s.fr.slot, s.fr.addr, code, finfo, fbnd, bnd,
    s.fr.rbv, s.fr.rbp⟩ s.faults }

/-- An issue fault of the slot in hand: F is its issue count, and no later slot of its bundle commits. -/
def raiseIssue (s : State) (code : Nat) (finfo : Word) (fbnd : Word := 0) : State :=
  { s.raise code finfo fbnd s.fr.t with staged := [] }

/-- An execution fault detected at count `D` (10 R221). -/
def raiseExec (s : State) (code : Nat) (finfo fbnd : Word) (D : Nat) : State := s.raise code finfo fbnd (D + 1)

/-- A boundary fault with its own freeze point. -/
def raiseBoundary (s : State) (code : Nat) (finfo : Word) (F : Nat) : State := s.raise code finfo 0 F true

/-- The privilege fault with a reason (10 R219). -/
def privilege (s : State) (reason : Nat) : State := s.raiseIssue 3 (BitVec.ofNat 64 reason)

/-- The privileged mode bit (07 R141). -/
def priv (s : State) : Bool := (s.ctx s.fr.x).psw.getLsbD 11

/-- The latest performing count of the context's static accesses raised to `n` (08 R179). -/
def notePerf (s : State) (n : Nat) : State :=
  s.updCtx s.fr.x fun c =>
    if s.fr.hnd then { c with perfH := Nat.max c.perfH n }
    else { c with perfP := Nat.max c.perfP n, effP := Nat.max c.effP n }

/-- The latest count of an effect of the task raised to `n` (08 R163). -/
def noteEff (s : State) (n : Nat) : State :=
  s.updCtx s.fr.x fun c => if s.fr.hnd then { c with perfH := Nat.max c.perfH n } else { c with effP := Nat.max c.effP n }

end State

/-- A field of ALLOT (07 R145). -/
def Ctx.allotF (c : Ctx) (hi lo : Nat) : Nat := fld c.allot.toNat hi lo

/-- The end of an allotted range, at most the end of its store. -/
def rangeEnd (base len store : Nat) : Nat := Nat.min (base + len + 1) store

/-- The first and last-plus-one byte of the context's berth allotment. -/
def Ctx.berthRange (c : Ctx) : Nat × Nat :=
  (c.allotF 37 34 * 4096, rangeEnd (c.allotF 37 34) (c.allotF 33 30) 16 * 4096)

/-- A bundle address inside the context's bundle-store allotment. -/
def Ctx.bundleIn (c : Ctx) (a : Nat) : Bool :=
  decide (c.allotF 47 43 * 64 ≤ a ∧ a < rangeEnd (c.allotF 47 43) (c.allotF 42 38) 32 * 64)

/-- A quay register inside the allotment. -/
def Ctx.quayIn (c : Ctx) (q : Nat) : Bool :=
  !bit c.bare 0 && decide (c.allotF 29 23 * 32 ≤ q ∧ q < rangeEnd (c.allotF 29 23) (c.allotF 22 16) 128 * 32)

/-- An accumulator-store tile inside the allotment. -/
def Ctx.tileIn (c : Ctx) (h : Nat) : Bool :=
  !bit c.bare 1 && decide (c.allotF 15 11 * 8 ≤ h ∧ h < rangeEnd (c.allotF 15 11) (c.allotF 10 6) 32 * 8)

/-- A latch inside AMASK. -/
def Ctx.latchIn (c : Ctx) (a : Nat) : Bool := bit (c.allotF 59 52) a

/-- A chart slot inside KMASK. -/
def Ctx.chartIn (c : Ctx) (k : Nat) : Bool := bit (c.allotF 63 60) k

/-- ALLOT.LK. -/
def Ctx.lk (c : Ctx) : Nat := c.allotF 51 48

/-! ### Cold addresses (07 R146, 08 R167, 17 R285, R286) -/

/-- A cold address that passed its checks: the memory key, and the added latency of reads, landings, performs and
an atomic's two counts, with the order class of its writes. -/
structure Cold where
  key   : Nat
  read  : Nat                -- a load reads its bytes this long after its slice's execution
  land  : Nat
  perf  : Nat
  aPerf : Nat
  aLand : Nat
  pri   : Nat
  deriving DecidableEq, Repr

/-- The bounds of `n` bytes at own-berth address `a` against a context's allotment: the reason of R219 if they
fail. -/
def ownBound (c : Ctx) (a n : Nat) : Option Nat :=
  if a / 2 ^ 16 % 2 ^ 14 ≠ 0 then some 2
  else if decide (c.berthRange.1 ≤ a % 2 ^ 16 ∧ a % 2 ^ 16 + n ≤ c.berthRange.2) then none else some 1

/-- The same for an access that reaches only the own berth: another selector has reason 4. -/
def ownOnly (c : Ctx) (a n : Nat) : Option Nat := if a / 2 ^ 30 ≠ 0 then some 4 else ownBound c a n

/-- The place and the timing of cold address `a` of context `x` (07 R146, 08 R167, 17 R285). -/
def coldPlace (x a : Nat) : Cold :=
  let core := coreOf x
  match a / 2 ^ 30 with
  | 0 => ⟨(Place.berth core).key (a % 2 ^ 16), 6, 6, 2, 4, 8, 0⟩
  | 1 => ⟨(Place.cluster (clusterOf core)).key (a % 2 ^ 18), 14, 14, 10, 12, 20, core % 4⟩
  | _ =>
    let tc := dieOf core * 128 + a / 2 ^ 16 % 128
    let h := hops core tc
    ⟨(Place.berth tc).key (a % 2 ^ 16), 7 + 2 * h, 14 + 4 * h, 10 + 2 * h, 12 + 2 * h, 20 + 4 * h, 1 + core⟩

/-- A cold access of `n` bytes by context `x`: its place and timing, or the reason of R219. -/
def coldAccess (s : State) (x a n : Nat) : Cold ⊕ Nat :=
  let c := s.ctx x
  let sel := a / 2 ^ 30
  if sel = 0 then
    match ownBound c a n with
    | some r => .inr r
    | none => .inl (coldPlace x a)
  else if sel = 1 then
    if a / 2 ^ 18 % 2 ^ 12 ≠ 0 then .inr 2
    else if c.cbBase ≤ a % 2 ^ 18 ∧ a % 2 ^ 18 + n ≤ c.cbBase + c.cbLen then .inl (coldPlace x a)
    else .inr 3
  else if sel = 2 then
    if a / 2 ^ 23 % 2 ^ 7 ≠ 0 then .inr 2
    else
      let tx := (dieOf (coreOf x) * 128 + a / 2 ^ 16 % 128) * 4 + x % 4
      let t := s.ctx tx
      if t.resident ∧ t.gang = c.gang ∧ ownBound t (a % 2 ^ 16) n = none then .inl (coldPlace x a)
      else .inr 3
  else .inr 2

namespace State

/-- The berth-bound fault of the slot in hand (10 R218 code 4). -/
def berthBound (s : State) (reason lane addr : Nat) : State :=
  s.raiseIssue 4 (BitVec.ofNat 64 (reason + lane * 8)) (BitVec.ofNat 64 addr)

/-! ### Flags (08 R179) -/

/-- A flag of a file. -/
def flagVal (s : State) (f : FlagFile) (n : Nat) : Bool :=
  match f with
  | .core c => (s.core c).flags.getLsbD n
  | .clu c => (s.clu c).flags.getLsbD n
  | .mod => s.mod.flags.getLsbD n

/-- A flag set or cleared. -/
def setFlag (s : State) (f : FlagFile) (n : Nat) (v : Bool) : State :=
  match f with
  | .core c =>
    let k := s.core c
    s.setCore c { k with flags := if v then k.flags ||| BitVec.ofNat 16 (2 ^ n) else k.flags &&& ~~~BitVec.ofNat 16 (2 ^ n) }
  | .clu c =>
    let k := s.clu c
    s.setClu c { k with flags := if v then k.flags ||| BitVec.ofNat 64 (2 ^ n) else k.flags &&& ~~~BitVec.ofNat 64 (2 ^ n) }
  | .mod =>
    s.updMod fun m => { m with flags := if v then m.flags ||| BitVec.ofNat 64 (2 ^ n) else m.flags &&& ~~~BitVec.ofNat 64 (2 ^ n) }

end State

/-- The number of a flag among all flags. -/
def flagKey (f : FlagFile) (n : Nat) : Nat :=
  match f with
  | .mod => n
  | .clu c => 64 * (c + 1) + n
  | .core c => 64 * (c + 512) + n

/-- A list sorted by a total order: an element goes before the first greater one. -/
def insertBy {α : Type} (le : α → α → Bool) (x : α) : List α → List α
  | [] => [x]
  | y :: ys => if le x y then x :: y :: ys else y :: insertBy le x ys

/-- A list in the order of `le`; equal elements keep their places. -/
def sortBy {α : Type} (le : α → α → Bool) (l : List α) : List α := l.foldr (insertBy le) []

namespace State

/-! ### Parity (04 R85, 10 R231) -/

/-- The failed parity of a place, if it has failed by now. -/
def failed (s : State) (p : Spot) : Option Soft := s.soft.find? fun e => !e.corr && decide (e.at_ ≤ s.tide) && e.spot == p

/-- A write sets the parity of the places that it lands on afresh: their failures up to now no longer stand (04 R85). -/
def freshen (s : State) (hit : Spot → Bool) : State :=
  { s with soft := if s.soft.isEmpty then [] else s.soft.filter fun e => !(decide (e.at_ ≤ s.tide) && hit e.spot) }

/-- The parity of what a context holds set afresh: each of its registers is written. -/
def freshenCtx (s : State) (y : Nat) : State :=
  s.freshen fun p => match p with
    | .reg z _ _ | .creg z _ => z == y
    | _ => false

end State

/-- Whether a place is a byte of memory that a write of `n` bytes at `key` under `mask` lands on. -/
def Spot.inBytes (key n mask : Nat) : Spot → Bool
  | .mem k => decide (key ≤ k ∧ k < key + n) && bit mask (k - key)
  | _ => false

/-- Whether a place is under one parity bit of register `l` of context `y` with a bit that a write under `mask` lands on. -/
def Spot.inReg (y : Nat) (l : Loc) (mask : Gran) : Spot → Bool
  | .reg z l' b => z == y && l' == l && mask.toNat / 256 ^ b % 256 != 0
  | _ => false

/-- The failures after a landing of slot `ord` of context `x` in register `l` of context `y`: those of the bytes it lands on end,
and what the snapshot buffer held with an uncorrectable error lands with its parity failed (10 R231). -/
def softLanded (T : Nat) (x : Nat) (hnd : Bool) (ord y : Nat) (l : Loc) (mask : Gran) : List Soft → List Soft
  | [] => []
  | e :: r =>
    let rest := softLanded T x hnd ord y l mask r
    if T < e.at_ then e :: rest
    else match e.spot with
      | .held x' h o l' b =>
        if x' == x && h == hnd && o == ord && l' == l then
          if mask.toNat / 256 ^ b % 256 = 0 then e :: rest else ⟨e.at_, .reg y l b, true, false⟩ :: rest
        else e :: rest
      | p => if p.inReg y l mask then rest else e :: rest

/-- Where a byte of a held SET of register `n` of context `x` lands. -/
def Spot.landsCreg (x n : Nat) : Spot → Option Spot
  | .heldCreg _ _ _ m => if m = n then some (.creg x n) else none
  | _ => none

/-- Where a held byte lands as `n` bytes are written at `key` under `mask`. -/
def Spot.landsMem (key n mask : Nat) : Spot → Option Spot
  | .heldMem _ _ _ k => if decide (key ≤ k ∧ k < key + n) && bit mask (k - key) then some (.mem k) else none
  | _ => none

/-- The failures of what the snapshot buffer holds for other landings of slot `ord` of context `x`, moved to the places that `place`
names, now that the slot lands there (10 R231). -/
def softHeld (T : Nat) (x : Nat) (hnd : Bool) (ord : Nat) (place : Spot → Option Spot) (l : List Soft) : List Soft :=
  l.map fun e =>
    let mine := match e.spot with
      | .heldMem x' h o _ | .heldCreg x' h o _ => x' == x && h == hnd && o == ord
      | _ => false
    if mine && decide (e.at_ ≤ T) then
      match place e.spot with
      | some p => ⟨e.at_, p, true, false⟩
      | none => e
    else e

namespace State

/-! ### Writes with an undo log (10 R222) -/

/-- TIDE + 1 in the phase of a cycle's landings: the mark of their undo entries. -/
def landMark (s : State) : Nat := if s.phase = .land then s.tide + 1 else 0

/-- A register of context `y` written now by the bundle of order `ord` of context `x`; what it held is kept. -/
def writeRegAt (s : State) (x : Nat) (hnd : Bool) (ord y : Nat) (l : Loc) (val mask : Gran) : State :=
  let c := s.ctx y
  let s := s.setCtx y (c.withRegs hnd fun r => r.write l val mask)
  { s with
    undo := ⟨x, hnd, ord, .reg y l (c.regs.read l &&& mask) mask, s.landMark⟩ :: s.undo
    soft := softLanded s.tide x hnd ord y l mask s.soft }

/-- The same in the context's own registers. -/
def writeReg (s : State) (x : Nat) (hnd : Bool) (ord : Nat) (l : Loc) (val mask : Gran) : State :=
  s.writeRegAt x hnd ord x l val mask

/-- Memory written now; what it held is kept. -/
def writeMem (s : State) (x : Nat) (hnd : Bool) (ord : Nat) (key n val mask : Nat) : State :=
  { s with
    mem := s.mem.writeN key n val mask
    undo := ⟨x, hnd, ord, .mem key n (s.mem.readN key n) mask, s.landMark⟩ :: s.undo
    soft := (s.freshen (Spot.inBytes key n mask)).soft }

/-- A flag written now; what it held is kept. -/
def writeFlag (s : State) (x : Nat) (hnd : Bool) (ord : Nat) (f : FlagFile) (n : Nat) (v : Bool) : State :=
  let s' := s.setFlag f n v
  { s' with undo := ⟨x, hnd, ord, .flag f n (s.flagVal f n), s.landMark⟩ :: s.undo }

/-- Lanes of the generators of slice `k` advanced by `n` draws each of the slot in hand (03 R57). -/
def writeDraw (s : State) (k n : Nat) (val mask : Gran) : State :=
  let x := s.fr.x
  let s' := s.updCtx x fun c => c.withRegs s.fr.hnd fun r => r.write (.gen k) val mask
  { s' with undo := ⟨x, s.fr.hnd, s.fr.ord, .draw k n mask, 0⟩ :: s.undo }

/-- Sticky flags merged into PSW. They stay when a SET of PSW that has landed is taken back: only a SET clears them (03 R60,
R61). -/
def mergeFlags (s : State) (x bits : Nat) : State :=
  let w := BitVec.ofNat 64 (bits * 16)
  { s.updCtx x (fun c => { c with psw := c.psw ||| w }) with
    undo := s.undo.map fun u => match u.old with
      | .creg 0 o => if u.x = x then { u with old := .creg 0 (o ||| w) } else u
      | _ => u }

end State

/-! ### Control registers (07 R141 to R144) -/

/-- The register a number names, of a context, as 64 bits; the counters that GET reads come from the gang and the
module. -/
def cregRead (s : State) (x : Nat) (hnd : Bool) (n : Nat) : Word :=
  let c := s.ctx x
  let g := s.gangOf x
  match n with
  | 0 => c.psw
  | 1 => BitVec.ofNat 64 (if hnd then g.F else g.sch)
  | 2 => BitVec.ofNat 64 g.anchor
  | 3 => BitVec.ofNat 64 s.tide
  | 4 => BitVec.ofNat 64 c.rbv
  | 5 => BitVec.ofNat 64 c.rbp
  | 6 => BitVec.ofNat 64 c.lstk.length
  | 16 => c.amax
  | 17 => c.fmask
  | 18 => c.fcause
  | 19 => c.finfo
  | 20 => c.fbnd
  | 21 => c.allot
  | 22 => BitVec.ofNat 64 g.bal
  | 23 => c.hlmthr
  | 24 => c.ydl
  | 25 => c.wdog
  | 26 => c.capcause
  | 27 => BitVec.ofNat 64 (c.owner * 2 ^ 32 + coreOf x * 4 + x % 4)
  | 28 => c.seed
  | _ =>
    if 8 ≤ n ∧ n ≤ 13 then
      match c.lstk[n - 8]? with
      | some e => BitVec.ofNat 64 (e.1 * 2 ^ 32 + e.2 % 2 ^ 32)
      | none => 0
    else 0

/-- The generator that SEED gives lane `L` (03 R58). -/
def seedLane (seed : Word) (L : Nat) : Nat :=
  let g := Nat.xor (Nat.xor (seed.toNat % 2 ^ 32) (seed.toNat / 2 ^ 32)) ((L + 1) * 0x9E3779B9 % 2 ^ 32)
  if g = 0 then 0x6D2B79F5 else g

/-- The generators of slice `k` from SEED. -/
def seedSlice (seed : Word) (k : Nat) : Gran :=
  BitVec.ofNat 512 (((List.range 16).map fun l => seedLane seed (16 * k + l) * 2 ^ (32 * l)).foldl (· + ·) 0)

/-- All generators loaded from SEED. -/
def Regs.seed (r : Regs) (seed : Word) : Regs :=
  (List.range 8).foldl (fun r k => r.put (.gen k) (seedSlice seed k)) r

/-- PSW's writable bits: the sticky flags and SR (07 R141). -/
def pswRW : Word := 0x3F3

/-- A SET that takes effect: the register's writable fields (07 R143). The generators that a SET of SEED loads are
written beside it, where it lands. -/
def cregWrite (c : Ctx) (n : Nat) (v : Word) : Ctx :=
  match n with
  | 0 => { c with psw := (c.psw &&& ~~~pswRW) ||| (v &&& pswRW) }
  | 4 => { c with rbv := v.toNat % 16 }
  | 5 => { c with rbp := v.toNat % 8 }
  | 16 => { c with amax := v &&& 0x1FFFFFFFF }
  | 17 => { c with fmask := v &&& 0x3F }
  | 21 => { c with allot := v &&& ~~~0x3F, bare := 0 }
  | 23 => { c with hlmthr := v }
  | 24 => { c with ydl := v }
  | 25 => { c with wdog := v &&& 0xC0000000FFFFFFFF, wcnt := 0 }
  | 28 => { c with seed := v }
  | _ =>
    if 8 ≤ n ∧ n ≤ 13 then
      if n - 8 < c.lstk.length then { c with lstk := c.lstk.set (n - 8) (fld v.toNat 42 32, v.toNat % 2 ^ 32) } else c
    else c

/-- The larger of two FP32 magnitudes as bits: magnitudes order as their bits do (03 R63). -/
def amaxMerge (a : Word) (val : Nat) (ns : Bool) : Word :=
  BitVec.ofNat 64 (Nat.max (a.toNat % 2 ^ 32) val + (if ns || a.getLsbD 32 then 2 ^ 32 else 0))

/-- An input magnitude merged into AMAX; it stays when a SET of AMAX or an AMAXR is taken back (03 R61, R63). -/
def State.mergeAmax (s : State) (x val : Nat) (ns : Bool) : State :=
  { s.updCtx x (fun c => { c with amax := amaxMerge c.amax val ns }) with
    undo := s.undo.map fun u => match u.old with
      | .creg 16 o => if u.x = x then { u with old := .creg 16 (amaxMerge o val ns) } else u
      | _ => u }

/-! ### Rings (08 R171, R172) -/

/-- The ring `n` of a context. -/
def Ctx.ring (c : Ctx) (n : Nat) : Ring := SMap.get {} c.rings n

/-- The context with ring `n` replaced. -/
def Ctx.setRing (c : Ctx) (n : Nat) (r : Ring) : Ctx := { c with rings := SMap.put {} c.rings n r }

/-- The own-berth byte at which tile `i` starts. -/
def Ring.tileByte (r : Ring) (i : Nat) : Nat := (r.base + i * (r.size + 1)) * 64

/-- A claim of one tile under number `id`: the tile and the ring after it, or none when the ring is full. -/
def Ring.claim (r : Ring) (id : Nat) : Option (Nat × Ring) :=
  if r.count + r.claims.length = r.depth + 1 then none
  else some (r.clm, { r with clm := (r.clm + 1) % (r.depth + 1), claims := r.claims ++ [(r.clm, id, false)] })

/-- TAIL passes the published tiles at the front of the claims. -/
def passTail : List (Nat × Nat × Bool) → Nat → List (Nat × Nat × Bool) × Nat
  | (_, _, true) :: cs, n => passTail cs (n + 1)
  | cs, n => (cs, n)

/-- The publication of a claim; a number that no claim of the ring has any more is discarded (08 R173). -/
def Ring.publish (r : Ring) (id : Nat) : Ring :=
  let cs := r.claims.map fun e => if e.2.1 = id then (e.1, id, true) else e
  let p := passTail cs r.count
  { r with claims := p.1, count := p.2 }

/-- A pop of the head tile. -/
def Ring.pop (r : Ring) : Ring :=
  if r.count = 0 then r else { r with head := (r.head + 1) % (r.depth + 1), count := r.count - 1 }

/-- The word that RINFO returns (08 R171). -/
def Ring.word (r : Ring) : Word :=
  BitVec.ofNat 64 (r.base + r.size * 2 ^ 16 + r.depth * 2 ^ 24 + r.head * 2 ^ 32 + r.clm * 2 ^ 40 + r.count * 2 ^ 48)

/-- A ring set from a scalar (08 R173). -/
def Ring.ofWord (w : Word) : Ring :=
  { base := fld w.toNat 9 0, size := fld w.toNat 21 16, depth := fld w.toNat 29 24 }

/-! ### The meter (07 R152) -/

/-- The meter debited by a charge; what the balance does not cover becomes debt. A gang on dock cores has no charges (21
R351). -/
def Gang.debit (g : Gang) (c : Nat) : Gang :=
  if g.dock then g
  else if c ≤ g.bal then { g with bal := g.bal - c } else { g with bal := 0, debt := g.debt + (c - g.bal) }

/-- A charge credited back, first against the debt. -/
def Gang.credit (g : Gang) (c : Nat) : Gang :=
  if g.dock then g
  else if c ≤ g.debt then { g with debt := g.debt - c }
  else { g with debt := 0, bal := Nat.min g.depth (g.bal + (c - g.debt)) }

/-- The effective threshold H of a gang. -/
def Gang.threshold (g : Gang) (hthr : Nat) : Nat :=
  if g.oneCore then hthr else Nat.max hthr ((g.members.map coreOf).eraseDups.length * g.skb * 16384)

/-- Whether the meter admits a charge. -/
def Gang.admits (g : Gang) (hthr c : Nat) : Bool :=
  c == 0 || (g.debt == 0 && (decide (g.threshold hthr + c ≤ g.bal) || (decide (g.depth < c + g.threshold hthr) && g.bal == g.depth)))

/-! ### Taking a fault (10 R221 to R225) and returning (R226) -/

/-- The order in which faults are taken: least F, then issue count, then slot. -/
def PendFault.before (a b : PendFault) : Bool :=
  decide (a.F < b.F) || (a.F == b.F && (decide (a.t < b.t) || (a.t == b.t && decide (a.slot < b.slot))))

/-- The first fault of a list of the context and mode. -/
def firstFault (x : Nat) (hnd : Bool) : List PendFault → Option PendFault
  | [] => none
  | f :: fs =>
    match firstFault x hnd fs with
    | none => if f.x == x && f.hnd == hnd then some f else none
    | some g => if f.x == x && f.hnd == hnd && f.before g then some f else some g

/-- The slots that a fault cancels: slots n to 3 of its bundle; a boundary fault cancels none (10 R222). -/
def PendFault.cancels (f : PendFault) (x : Nat) (hnd : Bool) (ord : Nat) : Bool :=
  let o := f.t * 8 + (if f.re then 0 else 4)
  !f.bnd && x == f.x && hnd == f.hnd && decide (o + f.slot ≤ ord ∧ ord < o + 4)

/-- The bits a saved value covers handed to the next newer entry of the same place; what is left comes back. -/
def handUp (l : Loc) (old mask : Gran) (y : Nat) : List Undo → List Undo × Gran
  | [] => ([], mask)
  | u :: us =>
    match handUp l old mask y us with
    | (us', left) =>
      match u.old with
      | .reg y' l' o m =>
        if y' == y && l' = l then ({ u with old := .reg y' l' (mergeBits o old (m &&& left)) m } :: us', left &&& ~~~m)
        else (u :: us', left)
      | _ => (u :: us', left)

/-- Generators with `n` draws taken back in the lanes under `mask`. -/
def undrawn (n : Nat) (g mask : Gran) : Gran :=
  mergeBits g (BitVec.ofNat 512 (((List.range 16).map fun l => undraw n (g.toNat / 2 ^ (32 * l) % 2 ^ 32) * 2 ^ (32 * l)).foldl (· + ·) 0)) mask

/-- Draws of slice `k` taken back, with loads of the generators since: a load keeps what stood before it, and a lane that has been loaded
stays. -/
def handUpDraw (y k n : Nat) (mask : Gran) : List Undo → List Undo × Gran
  | [] => ([], mask)
  | u :: us =>
    match handUpDraw y k n mask us with
    | (us', left) =>
      match u.old with
      | .reg y' (.gen k') o m =>
        if y' = y ∧ k' = k then ({ u with old := .reg y' (.gen k') (undrawn n o (m &&& left)) m } :: us', left &&& ~~~m)
        else (u :: us', left)
      | _ => (u :: us', left)

/-- The same for memory: byte by byte over an entry that covers the key. -/
def handUpMem (key n old mask : Nat) : List Undo → List Undo × Nat
  | [] => ([], mask)
  | u :: us =>
    match handUpMem key n old mask us with
    | (us', left) =>
      match u.old with
      | .mem key' n' o m =>
        if key' = key ∧ n' = n then
          let take := Nat.land m left
          let o' := (List.range n).foldl (fun a i =>
            a + (if bit take i then old / 256 ^ i % 256 else o / 256 ^ i % 256) * 256 ^ i) 0
          ({ u with old := .mem key' n' o' m } :: us', Nat.xor left take)
        else (u :: us', left)
      | _ => (u :: us', left)

/-- One cancelled write taken back. `newer` is what the log holds above it, newest first. -/
def takeBack (s : State) (u : Undo) (newer : List Undo) : State × List Undo :=
  match u.old with
  | .reg y l old mask =>
    let p := handUp l old mask y newer
    let s := s.freshen (Spot.inReg y l p.2)
    (s.updCtx y fun c => c.withRegs u.hnd fun r => r.write l old p.2, p.1)
  | .draw k n mask =>
    -- one slot's draws are taken back: those of other slots stay made
    let p := handUpDraw u.x k n mask newer
    (s.updCtx u.x fun c => c.withRegs u.hnd fun r => r.put (.gen k) (undrawn n (r.read (.gen k)) p.2), p.1)
  | .ended old => (s.updCtx u.x fun c => { c with ended := old }, newer)
  | .asked g F why => (s.updGang g fun k => { k with reqs := k.reqs.filter fun r => r != ⟨F, why⟩ }, newer)
  | .mem key n old mask =>
    let p := handUpMem key n old mask newer
    ({ s.freshen (Spot.inBytes key n p.2) with mem := s.mem.writeN key n old p.2 }, p.1)
  | .creg n old =>
    if newer.any (fun v => v.x == u.x && match v.old with | .creg m _ => m == n | _ => false) then
      (s, newer.map fun v => if v.x == u.x then (match v.old with | .creg m o => { v with old := .creg m (if m = n then old else o) } | _ => v) else v)
    else (s.updCtx u.x fun c => cregWrite c n old, newer)
  | .loop old =>
    if newer.any (fun v => v.x == u.x && match v.old with | .loop _ => true | _ => false) then (s, newer)
    else (s.updCtx u.x fun c => { c with lstk := old }, newer)
  | .ring n old push =>
    let undoRing := fun (r : Ring) =>
      if push then (if r.count = 0 then r else { r with clm := (r.clm + r.depth) % (r.depth + 1), count := r.count - 1 }) else old
    (s.updCtx u.x fun c => { c with rings := SMap.put {} c.rings n (undoRing (SMap.get {} c.rings n)) }, newer)
  | .xfer count target => (s.updCtx u.x fun c => { c with xfers := c.xfers.filter fun e => e != (count, target) }, newer)
  | .flag f n old =>
    if newer.any (fun v => match v.old with | .flag g m _ => decide (g = f ∧ m = n) | _ => false) then (s, newer)
    else (s.setFlag f n old, newer)

/-- A command that a cluster's limit can put off to the freeze point of its gang (15 R261, 22 R371). -/
def limited : Instr → Bool
  | .ceCxlToQuay .. | .ceCxlToTier .. | .bxPost .. => true
  | _ => false

/-- A tile word, as an act. -/
def tileInstr : Instr → Bool
  | .tmul _ | .tmuls _ | .tadd _ | .tscl _ | .tred _ | .tcpy _ | .txps _ | .tdig _ | .tfil _ | .tfen _ => true
  | _ => false

/-- The undo log worked off from its newest entry: cancelled writes are taken back and leave the log. -/
def revert (cancel : Undo → Bool) : List Undo → List Undo → State → State × List Undo
  | [], newer, s => (s, newer)
  | u :: us, newer, s =>
    if cancel u then
      match takeBack s u newer with
      | (s', newer') => revert cancel us newer' s'
    else revert cancel us (newer ++ [u]) s

namespace State

/-- What a fault cancels leaves no trace: provisional writes come back, nothing of the slots lands or performs
later, their crossings and commands end and their charges are credited; a pending fault of a cancelled slot is
dropped (10 R221, R222). A cancelled XINR keeps its claim (08 R178). -/
def cancel (s : State) (f : PendFault) : State :=
  let kill := fun (x : Nat) (hnd : Bool) (ord : Nat) => f.cancels x hnd ord
  let r := revert (fun u => kill u.x u.hnd u.ord) s.undo [] s
  let put_off := (r.1.flight.filter fun e => limited e.act.i && kill e.x e.hnd e.act.fr.ord).map fun e => e.act.fr.id
  let s := { r.1 with
    undo := r.2
    soft := r.1.soft.filter fun e => match e.spot with
      | .held x hnd o _ _ | .heldMem x hnd o _ | .heldCreg x hnd o _ => !(kill x hnd o)
      | _ => true
    pend := r.1.pend.filter fun e => !(kill e.fr.who e.fr.hnd e.fr.ord) || (match e.act with | .amax _ _ => true | _ => false)
    flight := r.1.flight.filter fun e => !(kill e.x e.hnd e.act.fr.ord)
    faults := r.1.faults.filter fun e => !(kill e.x e.hnd (e.t * 8 + (if e.re then 0 else 4) + e.slot)) }
  let c := s.ctx f.x
  let dead := c.crossings.filter fun k => kill k.fr.x k.hnd k.ord
  let rings := dead.foldl (fun m k => match k.kind with
    | .xinr ring tile id =>
      let r : Ring := SMap.get {} m ring
      if r.claims.contains (tile, id, false) then
        SMap.put {} m ring { r with
          kept := r.kept ++ [⟨k.fr.addr * 4 + k.fr.slot, tile, id, k.fr.t, (k.slots.getLastD 0 + k.lat).toNat⟩] }
      else m
    | _ => m) c.rings
  let gone := fun (e : Msg) => (match e.kind with | .launch | .sys | .posted => true | _ => false) && kill e.x e.fr.hnd e.fr.ord
  let posts := s.mod.msgs.filter fun e => gone e && (match e.kind with | .posted => true | _ => false)
  let reqs := s.mod.cxl.filter fun r => kill r.x r.hnd r.ord
  let cxls := (reqs.map fun r => r.cmd).eraseDups
  let s := s.updMod fun m => { m with msgs := m.msgs.filter fun e => !gone e, cxl := m.cxl.filter fun r => !(kill r.x r.hnd r.ord) }
  let clu := clusterOf (coreOf f.x)
  let s := if cxls.isEmpty && posts.isEmpty then s
    else s.setClu clu { s.clu clu with cxl := (s.clu clu).cxl - cxls.length, posts := (s.clu clu).posts - posts.length }
  let back := ((c.charges.filter fun e => kill f.x e.1 e.2.1).map fun e => e.2.2).foldl (· + ·) 0
  let s := s.setCtx f.x { c with
    rings := rings
    commands := c.commands.filter fun k => !(kill f.x k.hnd k.ord)
    nonstatic := c.nonstatic.filter fun n => !(cxls.contains n || put_off.contains n || posts.any fun e => e.id == n)
    charges := c.charges.filter fun e => !(kill f.x e.1 e.2.1) }
  -- what the slots have on its way, as a crossing or to the pilot, whose acts carry a slot's word
  let s := { s with ctxs := s.ctxs.map fun (e : Nat × Ctx) => (e.1, { e.2 with
    crossings := e.2.crossings.filter fun k => !(kill k.fr.x k.hnd k.ord) }) }
  let s := { s with timed := s.timed.filter fun e => e.act.fr.bits == 0 || !(kill e.act.fr.x e.act.fr.hnd e.act.fr.ord) }
  -- a save that has not started is not made
  let s := ((List.range 4).map fun i => f.x / 4 * 4 + i).foldl (fun s y =>
    let c := s.ctx y
    if (c.savedFor.any fun e => kill e.1 e.2.1 e.2.2) && !(c.crossings.any fun k => k.kind == .bulk) then
      s.setCtx y { c with saving := false, savedFor := none }
    else s) s
  let s := { s with tiles := s.tiles.filter fun j => !(kill j.fr.who j.fr.hnd j.fr.ord) }
  let k := s.core (coreOf f.x)
  let calls := k.calls.filter fun e => !(kill e.fr.who e.fr.hnd e.fr.ord)
  let s := s.setCore (coreOf f.x) { k with calls := calls }
  s.updGang c.gang fun g => g.credit back

end State

/-- FCAUSE of a fault (10 R220); a bundle of a handler has a handler count (R224). -/
def PendFault.fcause (f : PendFault) (nest : Bool) (anchor : Nat) : Word :=
  BitVec.ofNat 64 (f.addr * 2 ^ 53 + f.slot * 2 ^ 51 + (if f.bnd then 2 ^ 50 else 0) + (if nest then 2 ^ 49 else 0)
    + f.code * 2 ^ 32 + (((f.t : Int) - (if f.hnd then 0 else anchor : Nat)) % 2 ^ 32).toNat)

/-- PSW with SR as a fault sets it (10 R223). -/
def pswFault (psw : Word) (sr : Nat) : Word := (psw &&& ~~~3) ||| BitVec.ofNat 64 (sr % 4)

/-- Conditions under which a handler takes a fault (10 R223). -/
def handlerTakes (s : State) (f : PendFault) : Bool :=
  (s.gangOf f.x).oneCore && !(16 ≤ f.code && f.code ≤ 19) && !(s.ctx f.x).psw.getLsbD 3 && (s.ctx f.x).hent.isSome && !f.hnd

namespace State

/-- The records of a fault written, with SR; a fault raised in handler mode leaves the program's SR (10 R220, R223). -/
def faultRecords (s : State) (f : PendFault) (nest : Bool) (anchor : Nat) : State :=
  (s.freshen fun p => match p with | .creg y n => y == f.x && decide (18 ≤ n ∧ n ≤ 20) | _ => false).updCtx f.x fun c => { c with
    fcause := f.fcause nest anchor
    finfo := f.finfo
    fbnd := f.fbnd
    psw := if nest then c.psw else pswFault c.psw (if f.bnd then 0 else f.slot) }

/-- Where the issue slot that a context uses is kept: its core's, or, for a gang on dock cores, that of its own dock core for it (21
R351). -/
def slotKey (s : State) (x : Nat) : Nat := if (s.gangOf x).dock then 1024 * ((s.ctx x).gang + 1) + coreOf x else coreOf x

/-- Fault entry with a handler (10 R223): the records by the anchor that stood at the fault, TH, the resume record, and the
handler's first bundle two cycles after T_F. The registers as the program leaves them stay readable for its slots in flight. -/
def faultEntry (s : State) (f : PendFault) (anchor : Nat) : State :=
  let s := s.faultRecords f false anchor
  let c := s.ctx f.x
  let g := s.gangOf f.x
  let same := f.F == f.t && !f.bnd && !f.re
  let res : Resume := { pc := if same then f.addr else c.pc, xfers := c.xfers, lb := same && c.lb,
                        re := !f.bnd && !same, reAddr := f.addr, rbv := f.rbv, rbp := f.rbp, F := f.F }
  let s := s.setCtx f.x { c with
    psw := c.psw ||| 8
    resume := some res
    reent := none
    past := c.past ++ [{ regs := c.regs }]
    ciLoadsH := []
    handler := some { cnt := 0, start := g.TF + (if g.dock then 4096 else 2), first := s.nextId }
    pc := c.hent.getD 0
    xfers := []
    lb := false
    skip := 0
    perfH := 0 }
  let s := s.setCore (s.slotKey f.x) { s.core (s.slotKey f.x) with holder := some (f.x % 4), gap := 0 }
  let mark := fun (fr : Frame) => if fr.x == f.x && !fr.hnd && fr.old == 0 then { fr with old := c.past.length + 1 } else fr
  { s with
    flight := s.flight.map fun e => { e with act := { e.act with fr := mark e.act.fr } }
    pend := s.pend.map fun e => match e.act with
      | .mxSample _ _ => { e with fr := mark e.fr }
      | _ => e }

/-- The least TIDE G with G - T_F a positive multiple of 4,096 counts of `pace` cycles and G above `n` (07 R153). -/
def leastG (pace TF n : Nat) : Nat :=
  let u := 4096 * pace
  if n < TF + u then TF + u else TF + ((n - TF) / u + 1) * u

/-- Return from a fault (10 R226): TH clears, the program's next bundle and its pending transfers come back, and
either the bundle of count F issues again without its committed slots, or the re-entry bundle waits to issue. -/
def faultReturn (s : State) (x : Nat) : State :=
  s.updCtx x fun c =>
    match c.resume with
    | none => { c with psw := c.psw &&& ~~~8, handler := none }
    | some r => { c with
        psw := c.psw &&& ~~~8
        handler := c.handler.map fun h => { h with live := false }
        pc := r.pc
        xfers := r.xfers
        lb := r.lb
        skip := if r.re then 0 else c.psw.toNat % 4
        reent := if r.re then some r else none
        resume := none }

end State

end Sys2Proof.Machine
end

