-- ==== Sys2Proof/Machine/Num.lean ====
section
/-! DEFINITION. Exact arithmetic, formats and rounding (03 R48 to R75). -/

namespace Sys2Proof.Machine

/-! ### Elements of a slice (03 R49) -/

/-- The `n` elements of width `w` of a number, lowest first. -/
def elems (w : Nat) : Nat → Nat → List Nat
  | 0, _ => []
  | n + 1, v => v % 2 ^ w :: elems w n (v / 2 ^ w)

/-- Elements of width `w` put together, lowest first. -/
def packE (w : Nat) : List Nat → Nat
  | [] => 0
  | x :: xs => x % 2 ^ w + 2 ^ w * packE w xs

/-- The elements of one slice. -/
def granE (w : Nat) (v : Gran) : List Nat := elems w (512 / w) v.toNat

/-- A slice from its elements. -/
def eGran (w : Nat) (l : List Nat) : Gran := BitVec.ofNat 512 (packE w l)

/-- The bits of an element whose two's complement value is `i`. -/
def ofInt (w : Nat) (i : Int) : Nat := (i % 2 ^ w).toNat

/-- The value of an element: signed or plain (03 R48). -/
def intVal (signed : Bool) (w v : Nat) : Int := if signed && decide (2 ^ (w - 1) ≤ v) then (v : Int) - 2 ^ w else v

/-- The least and greatest value of a type (03 R48). -/
def intRange (signed : Bool) (w : Nat) : Int × Int :=
  if signed then (-(2 ^ (w - 1)), 2 ^ (w - 1) - 1) else (0, 2 ^ w - 1)

/-- A value clamped to a range. -/
def clampI (r : Int × Int) (i : Int) : Int := if i < r.1 then r.1 else if r.2 < i then r.2 else i

/-- An exact result kept modulo 2^w or clamped (03 R50). -/
def fit (signed sat : Bool) (w : Nat) (e : Int) : Nat := ofInt w (if sat then clampI (intRange signed w) e else e)

/-- The mask of the elements that the lanes' guards let through: a 64-bit element follows its even lane (05 R90). -/
def elemMask (w : Nat) (g : LaneMask) : Gran :=
  if w = 64 then laneBits (BitVec.ofNat 16 (((List.range 8).map fun i => if g.getLsbD (2 * i) then 3 * 4 ^ i else 0).foldl (· + ·) 0))
  else laneBits g

/-- Whether the guards let element `i` of a slice through. -/
def elemOn (w : Nat) (g : LaneMask) (i : Nat) : Bool := if w = 64 then g.getLsbD (2 * i) else g.getLsbD (i * w / 32)

/-! ### Floating-point values (03 R51, R52) -/

/-- A decoded value: a finite one is (-1)^neg * m * 2^e. -/
inductive FV
  | nan (sig : Bool)
  | inf (neg : Bool)
  | fin (neg : Bool) (m : Nat) (e : Int)
  deriving DecidableEq, Repr

/-- A format: exponent and fraction widths, and whether it is E4M3. -/
structure Fmt where
  eb  : Nat
  fb  : Nat
  e4m3 : Bool := false
  deriving DecidableEq, Repr

def Fmt.f64 : Fmt := { eb := 11, fb := 52 }
def Fmt.f32 : Fmt := { eb := 8, fb := 23 }
def Fmt.f16 : Fmt := { eb := 5, fb := 10 }
def Fmt.bf16 : Fmt := { eb := 8, fb := 7 }
def Fmt.e5m2 : Fmt := { eb := 5, fb := 2 }
def Fmt.fe4m3 : Fmt := { eb := 4, fb := 3, e4m3 := true }

/-- The width of a format. -/
def Fmt.width (f : Fmt) : Nat := 1 + f.eb + f.fb

/-- The least exponent of a normal number. -/
def Fmt.emin (f : Fmt) : Int := 2 - 2 ^ (f.eb - 1)

/-- The magnitude pattern that is no longer finite: infinity, or the NaN of E4M3. -/
def Fmt.top (f : Fmt) : Nat := if f.e4m3 then 0x7F else (2 ^ f.eb - 1) * 2 ^ f.fb

/-- The canonical NaN (03 R51). -/
def Fmt.nan (f : Fmt) : Nat := if f.e4m3 then 0x7F else f.top + 2 ^ (f.fb - 1)

/-- The sign bit. -/
def Fmt.signBit (f : Fmt) (neg : Bool) : Nat := if neg then 2 ^ (f.eb + f.fb) else 0

/-- The value of a pattern. -/
def Fmt.decode (f : Fmt) (v : Nat) : FV :=
  let neg := bit v (f.eb + f.fb)
  let ex := v / 2 ^ f.fb % 2 ^ f.eb
  let fr := v % 2 ^ f.fb
  let mag := v % 2 ^ (f.eb + f.fb)
  if f.e4m3 && mag == 0x7F then .nan false
  else if !f.e4m3 && ex == 2 ^ f.eb - 1 then
    if fr = 0 then .inf neg else .nan (!bit fr (f.fb - 1))
  else if ex = 0 then .fin neg fr (f.emin - f.fb)
  else .fin neg (2 ^ f.fb + fr) (f.emin - f.fb + (ex - 1 : Nat))

/-- The format of a floating-point type; integers have none. -/
def elemFmt : ElemTy → Option Fmt
  | .bf16 => some .bf16
  | .f16 => some .f16
  | .f32 => some .f32
  | .f64 => some .f64
  | .e4m3 => some .fe4m3
  | .e5m2 => some .e5m2
  | _ => none

/-- The format of a form-A type. -/
def ftFmt : FTy → Fmt
  | .f32 => .f32
  | .bf16 => .bf16
  | .f16 => .f16
  | .f64 => .f64

/-- Exception flags, bit n for FMASK bit n (07 R142). -/
def flNX : Nat := 1
def flUF : Nat := 2
def flOF : Nat := 4
def flDZ : Nat := 8
def flNV : Nat := 16
def flTDE : Nat := 32

/-- Two sets of flags together. -/
def flOr (a b : Nat) : Nat := Nat.lor a b

/-! ### Rounding (03 R55 to R57) -/

/-- Whether a magnitude is rounded up: integer part `i`, remainder `r` over 2^d, and whether more lies below. -/
def roundUp (rnd : Rnd) (u : Nat) (neg : Bool) (i r d : Nat) (sticky : Bool) : Bool :=
  match rnd with
  | .rn => decide (2 ^ d < 2 * r) || (decide (2 * r = 2 ^ d) && (sticky || i % 2 == 1)) 
  | .rz => false
  | .ru => !neg && (r != 0 || sticky)
  | .rd => neg && (r != 0 || sticky)
  | .rs => decide (u < r * 2 ^ 32 / 2 ^ d)

/-- A magnitude m * 2^e as an integer number of units 2^q, rounded, and whether that is exact. -/
def roundInt (rnd : Rnd) (u : Nat) (neg : Bool) (m : Nat) (e q : Int) (sticky : Bool) : Nat × Bool :=
  if q ≤ e then
    let i := m * 2 ^ (e - q).toNat
    (i + (roundUp rnd u neg i 0 0 sticky).toNat, !sticky)
  else
    let d := (q - e).toNat
    let i := m / 2 ^ d
    let r := m % 2 ^ d
    (i + (roundUp rnd u neg i r d sticky).toNat, r == 0 && !sticky)

/-- The result of an overflow (03 R56): the magnitude pattern. -/
def Fmt.overflow (f : Fmt) (rnd : Rnd) (neg sat : Bool) : Nat :=
  let big := match rnd with
    | .rn => true
    | .rz | .rs => false
    | .ru => !neg
    | .rd => neg
  if sat || !big then f.top - 1 else f.top

/-- The exact value (-1)^neg * m * 2^e, with more below it when `sticky`, rounded to a format: its bits and its
flags. `u` is the draw of .rs. -/
def Fmt.round (f : Fmt) (rnd : Rnd) (u : Nat) (sat neg : Bool) (m : Nat) (e : Int) (sticky : Bool := false) : Nat × Nat :=
  if m = 0 && !sticky then (f.signBit neg, 0)
  else
    let E : Int := (Nat.log2 m : Int) + e
    let q0 : Int := f.emin - f.fb
    let q : Int := if E < f.emin then q0 else E - f.fb
    let r := roundInt rnd u neg m e q sticky
    let mag := (q - q0).toNat * 2 ^ f.fb + r.1
    if f.top ≤ mag then (f.signBit neg + f.overflow rnd neg sat, flOF + flNX)
    else
      let tiny := decide (E < f.emin) &&
        !(decide (E = f.emin - 1) && (roundInt rnd u neg m e (E - f.fb) sticky).1 == 2 ^ (f.fb + 1))
      (f.signBit neg + mag, if r.2 then 0 else flNX + (if tiny then flUF else 0))

/-- A value rounded to a format; a NaN becomes the canonical NaN, with NV when signalling (03 R53). -/
def Fmt.ofFV (f : Fmt) (rnd : Rnd) (u : Nat) (sat : Bool) : FV → Nat × Nat
  | .nan sig => (f.nan, if sig then flNV else 0)
  | .inf neg =>
    if f.e4m3 then (if sat then (f.signBit neg + 0x7E, 0) else (f.signBit neg + 0x7F, flNV))
    else (f.signBit neg + f.top, 0)
  | .fin neg m e => f.round rnd u sat neg m e

/-! ### Exact sums and products -/

/-- A finite value as an integer number of units 2^q, for q at most its exponent. -/
def finInt (neg : Bool) (m : Nat) (e q : Int) : Int :=
  let i : Int := (m * 2 ^ (e - q).toNat : Nat)
  if neg then -i else i

/-- Negation. -/
def FV.neg : FV → FV
  | .nan s => .nan s
  | .inf n => .inf (!n)
  | .fin n m e => .fin (!n) m e

/-- The exact sum; the sign of an exact zero is that of R55. The flag is NV for opposite infinities. -/
def FV.add (rnd : Rnd) (a b : FV) : FV × Nat :=
  match a, b with
  | .nan s, .nan t => (.nan false, if s || t then flNV else 0)
  | .nan s, _ => (.nan false, if s then flNV else 0)
  | _, .nan t => (.nan false, if t then flNV else 0)
  | .inf n, .inf k => if n = k then (.inf n, 0) else (.nan false, flNV)
  | .inf n, _ => (.inf n, 0)
  | _, .inf k => (.inf k, 0)
  | .fin n m e, .fin k p d =>
    let q := if e < d then e else d
    let i := finInt n m e q + finInt k p d q
    if i = 0 then (.fin (if m = 0 ∧ p = 0 ∧ n = k then n else rnd == .rd) 0 q, 0)
    else (.fin (decide (i < 0)) i.natAbs q, 0)

/-- The exact product. -/
def FV.mul (a b : FV) : FV × Nat :=
  match a, b with
  | .nan s, .nan t => (.nan false, if s || t then flNV else 0)
  | .nan s, _ => (.nan false, if s then flNV else 0)
  | _, .nan t => (.nan false, if t then flNV else 0)
  | .inf n, .inf k => (.inf (n != k), 0)
  | .inf n, .fin k p _ => if p = 0 then (.nan false, flNV) else (.inf (n != k), 0)
  | .fin n m _, .inf k => if m = 0 then (.nan false, flNV) else (.inf (n != k), 0)
  | .fin n m e, .fin k p d => (.fin (n != k) (m * p) (e + d), 0)

/-- An operation's exact value rounded, with the flags of both. -/
def Fmt.finish (f : Fmt) (rnd : Rnd) (u : Nat) (r : FV × Nat) : Nat × Nat :=
  let p := f.ofFV rnd u false r.1
  (p.1, flOr r.2 p.2)

/-- A sum rounded once (05 R100). -/
def Fmt.add (f : Fmt) (rnd : Rnd) (u a b : Nat) : Nat × Nat := f.finish rnd u ((f.decode a).add rnd (f.decode b))

/-- A difference rounded once. -/
def Fmt.sub (f : Fmt) (rnd : Rnd) (u a b : Nat) : Nat × Nat := f.finish rnd u ((f.decode a).add rnd (f.decode b).neg)

/-- A product rounded once. -/
def Fmt.mul (f : Fmt) (rnd : Rnd) (u a b : Nat) : Nat × Nat := f.finish rnd u ((f.decode a).mul (f.decode b))

/-- A fused multiply-add rounded once: the product negated when `np`, the addend when `nc`; 0 times infinity raises
NV even beside a quiet NaN addend. -/
def Fmt.fma (f : Fmt) (rnd : Rnd) (u : Nat) (np nc : Bool) (a b c : Nat) : Nat × Nat :=
  let p := (f.decode a).mul (f.decode b)
  let pv := if np then p.1.neg else p.1
  let cv := if nc then (f.decode c).neg else f.decode c
  let r := pv.add rnd cv
  f.finish rnd u (r.1, flOr p.2 r.2)

/-! ### Comparison -/

/-- An ordering of two values that are not NaNs: less, equal or greater; -0 equals +0. -/
def FV.cmp (a b : FV) : Ordering :=
  match a, b with
  | .inf n, .inf k => if n = k then .eq else if n then .lt else .gt
  | .inf n, _ => if n then .lt else .gt
  | _, .inf k => if k then .gt else .lt
  | .fin n m e, .fin k p d =>
    let q := if e < d then e else d
    compare (finInt n m e q) (finInt k p d q)
  | _, _ => .eq

/-- A NaN. -/
def FV.isNaN : FV → Bool
  | .nan _ => true
  | _ => false

/-- A signalling NaN. -/
def FV.isSNaN : FV → Bool
  | .nan s => s
  | _ => false

/-- The sign of a value. -/
def FV.sign : FV → Bool
  | .nan _ => false
  | .inf n => n
  | .fin n _ _ => n

/-- FMIN and FMAX: -0 lies below +0, and the chosen operand's bits come back exactly (05 R101). -/
def Fmt.minmax (f : Fmt) (max : Bool) (a b : Nat) : Nat × Nat :=
  let x := f.decode a
  let y := f.decode b
  let fl := if x.isSNaN || y.isSNaN then flNV else 0
  if x.isNaN && y.isNaN then (f.nan, fl)
  else if x.isNaN then (b, fl)
  else if y.isNaN then (a, fl)
  else
    let lt := match x.cmp y with
      | .lt => true
      | .gt => false
      | .eq => x.sign && !y.sign
    (if lt != max then a else b, fl)

/-! ### Conversions (03 R62) -/

/-- A value rounded to an integer by `rnd` and clamped to a range: NaN gives 0; clamping and NaN raise NV. -/
def FV.toIntR (rnd : Rnd) (u : Nat) (r : Int × Int) : FV → Int × Nat
  | .nan _ => (0, flNV)
  | .inf n => (if n then r.1 else r.2, flNV)
  | .fin n m e =>
    let p := roundInt rnd u n m e 0 false
    let i : Int := if n then -(p.1 : Int) else p.1
    if i < r.1 ∨ r.2 < i then (clampI r i, flNV) else (i, if p.2 then 0 else flNX)

/-- Whether a conversion rounds its element, and so draws under .rs (05 R108). -/
def cvtRounds (s d : ElemTy) : Bool :=
  match elemFmt s, elemFmt d with
  | none, none => false
  | none, some _ => true
  | some _, none => true
  | some fs, some fd => s != d && !(decide (fs.eb ≤ fd.eb ∧ fs.fb ≤ fd.fb))

/-- One element converted: its bits and flags. A wider integer takes the value exactly, with or without .sat. DESIGN CHOICE
(log 71): an integer of equal width and other signedness keeps its bits, or is clamped under .sat, as a narrower one is. -/
def cvtElem (s d : ElemTy) (rnd : Rnd) (u : Nat) (sat : Bool) (v : Nat) : Nat × Nat :=
  match elemFmt s, elemFmt d with
  | none, none => (fit d.isSigned (sat && decide (d.width ≤ s.width)) d.width (intVal s.isSigned s.width v), 0)
  | none, some f =>
    let i := intVal s.isSigned s.width v
    f.round rnd u sat (decide (i < 0)) i.natAbs 0
  | some f, none =>
    let p := (f.decode v).toIntR rnd u (intRange d.isSigned d.width)
    (ofInt d.width p.1, p.2)
  | some f, some g => g.ofFV rnd u sat (f.decode v)

/-! ### Draws (03 R57) -/

/-! ### Special functions (05 R103), each a value known to far more places than any format keeps -/

/-- Places kept below the point. -/
def fxP : Nat := 512

/-- ln 2 in units of 2^-512. -/
def ln2 : Nat := 0xb17217f7d1cf79abc9e3b39803f2f6af40f343267298b62d8a0d175b8baafa2be7b876206debac98559552fb4afa1b10ed2eae35c138214427573b291169b825

/-- The integer square root, by `k` binary digits from the top. -/
def isqrt : Nat → Nat → Nat → Nat
  | 0, _, r => r
  | k + 1, n, r => isqrt k n (if (r + 2 ^ k) * (r + 2 ^ k) ≤ n then r + 2 ^ k else r)

/-- The sum of y^j / j! from j on, in units of 2^-512. -/
def expSeries : Nat → Nat → Nat → Nat → Nat
  | 0, _, _, _ => 0
  | k + 1, y, j, t => t + expSeries k y (j + 1) (t * y / 2 ^ fxP / (j + 1))

/-- e^y for y at most ln 2. -/
def expFx (y : Nat) : Nat := expSeries 110 y 0 (2 ^ fxP)

/-- The sum of w^(2 j + 1) / (2 j + 1), with w2 the square of w. -/
def atanhSeries : Nat → Nat → Nat → Nat → Nat
  | 0, _, _, _ => 0
  | k + 1, w2, j, t => t / (2 * j + 1) + atanhSeries k w2 (j + 1) (t * w2 / 2 ^ fxP)

/-- ln z for z from 1 to 2. -/
def lnFx (z : Nat) : Nat :=
  let w := (z - 2 ^ fxP) * 2 ^ fxP / (z + 2 ^ fxP)
  2 * atanhSeries 180 (w * w / 2 ^ fxP) 0 w

/-- A finite value as a fixed-point number of units 2^-512, rounded down in magnitude. -/
def toFx (m : Nat) (e : Int) : Nat :=
  if -(fxP : Int) ≤ e then m * 2 ^ (e + fxP).toNat else m / 2 ^ (-(fxP : Int) - e).toNat

/-- FRCP: 1/x. -/
def Fmt.frcp (f : Fmt) (rnd : Rnd) (a : Nat) : Nat × Nat :=
  match f.decode a with
  | .nan s => (f.nan, if s then flNV else 0)
  | .inf n => (f.signBit n, 0)
  | .fin n m e =>
    if m = 0 then (f.signBit n + f.top, flDZ)
    else f.round rnd 0 false n (2 ^ 128 / m) (-128 - e) (2 ^ 128 % m != 0)

/-- FSQRT: the square root. -/
def Fmt.fsqrt (f : Fmt) (rnd : Rnd) (a : Nat) : Nat × Nat :=
  match f.decode a with
  | .nan s => (f.nan, if s then flNV else 0)
  | .inf n => if n then (f.nan, flNV) else (f.top, 0)
  | .fin n m e =>
    if m = 0 then (f.signBit n, 0)
    else if n then (f.nan, flNV)
    else
      let m' := if e % 2 = 0 then m * 2 ^ 128 else m * 2 ^ 129
      let e' := if e % 2 = 0 then e - 128 else e - 129
      let r := isqrt 90 m' 0
      f.round rnd 0 false false r (e' / 2) (r * r != m')

/-- FRSQ: 1 over the square root. -/
def Fmt.frsq (f : Fmt) (rnd : Rnd) (a : Nat) : Nat × Nat :=
  match f.decode a with
  | .nan s => (f.nan, if s then flNV else 0)
  | .inf n => if n then (f.nan, flNV) else (0, 0)
  | .fin n m e =>
    if m = 0 then (f.signBit n + f.top, flDZ)
    else if n then (f.nan, flNV)
    else
      -- 1/sqrt(m 2^e) = sqrt(2^(2k) / m) 2^(-k) 2^(-e/2), with an even exponent
      let m' := if e % 2 = 0 then m else 2 * m
      let e' := if e % 2 = 0 then e else e - 1
      let q := 2 ^ 256 / m'
      let r := isqrt 129 q 0
      f.round rnd 0 false false r (-128 - e' / 2) (r * r * m' != 2 ^ 256)

/-- 2 to the power y of units 2^-512, with the integer part `n` apart. -/
def exp2Fx (fr : Nat) : Nat := expFx (fr * ln2 / 2 ^ fxP)

/-- FEXP2: 2^x. -/
def Fmt.fexp2 (f : Fmt) (rnd : Rnd) (a : Nat) : Nat × Nat :=
  match f.decode a with
  | .nan s => (f.nan, if s then flNV else 0)
  | .inf n => if n then (0, 0) else (f.top, 0)
  | .fin n m e =>
    if m = 0 then f.round rnd 0 false false 1 0
    else if decide (10 ≤ (Nat.log2 m : Int) + e) then
      f.round rnd 0 false false 1 (if n then -1000 else 1000) true
    else
      -- x = k + fr / 2^512 with k its floor
      let x : Int := if n then -(toFx m e : Int) else toFx m e
      let k := x / 2 ^ fxP
      let fr := (x % 2 ^ fxP).toNat
      if fr = 0 then f.round rnd 0 false false 1 k
      else f.round rnd 0 false false (exp2Fx fr) (k - fxP) true

/-- FLOG2: the logarithm to base 2. -/
def Fmt.flog2 (f : Fmt) (rnd : Rnd) (a : Nat) : Nat × Nat :=
  match f.decode a with
  | .nan s => (f.nan, if s then flNV else 0)
  | .inf n => if n then (f.nan, flNV) else (f.top, 0)
  | .fin n m e =>
    if m = 0 then (f.signBit true + f.top, flDZ)
    else if n then (f.nan, flNV)
    else
      let L := Nat.log2 m
      let E : Int := (L : Int) + e
      if m = 2 ^ L then f.round rnd 0 false (decide (E < 0)) E.natAbs 0
      else
        let v : Int := E * 2 ^ fxP + (lnFx (m * 2 ^ (fxP - L)) * 2 ^ fxP / ln2 : Nat)
        f.round rnd 0 false (decide (v < 0)) v.natAbs (-(fxP : Int)) true

/-- FTANH: the hyperbolic tangent. -/
def Fmt.ftanh (f : Fmt) (rnd : Rnd) (a : Nat) : Nat × Nat :=
  match f.decode a with
  | .nan s => (f.nan, if s then flNV else 0)
  | .inf n => f.round rnd 0 false n 1 0
  | .fin n m e =>
    let E : Int := (Nat.log2 m : Int) + e
    if m = 0 then (f.signBit n, 0)
    else if E < -20 then f.round rnd 0 false n (m * 2 ^ 100 - 1) (e - 100) true
    else if 6 ≤ E then f.round rnd 0 false n (2 ^ 200 - 1) (-200) true
    else
      let y := 2 * toFx m e
      let k := y / ln2
      let ex := expFx (y - k * ln2) * 2 ^ k
      f.round rnd 0 false n ((ex - 2 ^ fxP) * 2 ^ fxP / (ex + 2 ^ fxP)) (-(fxP : Int)) true

/-! ### Block and group formats (03 R64 to R68) -/

/-- The value of a DX element in a block whose exponents are `e0` and `e1`; `dx4` chooses the format (03 R65). -/
def dxVal (dx4 : Bool) (e0 e1 v : Nat) : FV :=
  if e0 = 255 ∨ e1 = 255 then .nan false
  else
    let mb := if dx4 then 2 else 6
    let f : Int := if dx4 then 1 else 5
    let ex : Int := if bit v (mb + 1) then e1 else e0
    .fin (bit v mb) (v % 2 ^ mb) (ex - 127 - f)

/-- A block of 64 values encoded (03 R66): the elements, the two exponents and the flags. `us` are the draws. -/
def dxEncode (dx4 : Bool) (rnd : Rnd) (xs : List FV) (us : List Nat) : List Nat × Nat × Nat × Nat :=
  let bad := xs.any fun x => match x with
    | .fin _ _ _ => false
    | _ => true
  if bad then
    (xs.map fun _ => 0, 255, 255, if xs.any (fun x => x.isSNaN || (match x with | .inf _ => true | _ => false)) then flNV else 0)
  else
    let mb := if dx4 then 2 else 6
    let M := 2 ^ mb - 1
    let f : Int := if dx4 then 1 else 5
    let k := if dx4 then 2 else 6
    -- floor(log2 A) of the largest magnitude
    let lg := xs.foldl (fun (a : Option Int) x => match x with
      | .fin _ m e => if m = 0 then a else
          let l : Int := (Nat.log2 m : Int) + e
          match a with
          | none => some l
          | some b => some (if b < l then l else b)
      | _ => a) none
    let e0 : Nat := match lg with
      | none => 0
      | some l => Nat.min 254 (l + 127).toNat
    let e1 := e0 - k
    let one := fun (x : FV) (u : Nat) => match x with
      | .fin n m e =>
        let r1 := roundInt rnd u n m e ((e1 : Int) - 127 - f) false
        let r0 := roundInt rnd u n m e ((e0 : Int) - 127 - f) false
        let sg := n.toNat * 2 ^ mb
        if r1.1 ≤ M then
          (2 ^ (mb + 1) + sg + r1.1, (if r1.2 then 0 else flNX + (if m ≠ 0 ∧ r1.1 = 0 then flUF else 0)))
        else
          (sg + Nat.min M r0.1, if M < r0.1 then flOF + flNX
            else if r0.2 then 0 else flNX + (if m ≠ 0 ∧ r0.1 = 0 then flUF else 0))
      | _ => (0, 0)
    let rs := List.zipWith one xs us
    (rs.map (·.1), e0, e1, (rs.map (·.2)).foldl flOr 0)

/-- The exact product (q - z) * scale of a G4 weight, with NV for zero times infinity and for a signalling NaN scale (03 R59,
R68). -/
def g4Exact (scale z q : Nat) : FV × Nat :=
  let d : Int := (q : Int) - z
  match Fmt.bf16.decode scale with
  | .nan s => (.nan false, if s then flNV else 0)
  | .inf n => if d = 0 then (.nan false, flNV) else (.inf (n != decide (d < 0)), 0)
  | .fin n m e => (.fin (n != decide (d < 0)) (m * d.natAbs) e, 0)

/-- A G4 weight expanded to BF16. -/
def g4Expand (scale z q : Nat) : Nat × Nat :=
  let p := g4Exact scale z q
  Fmt.bf16.finish .rn 0 p

/-- An input magnitude as AMAX takes it: an FP32 value rounded up, or none for a NaN (03 R63). -/
def amaxIn : FV → Option Nat
  | .nan _ => none
  | .inf _ => some Fmt.f32.top
  | .fin _ m e => some (Fmt.f32.round .ru 0 false false m e).1

/-! ### Pairwise trees and chains (03 R71, R74) -/

/-- One level of a pairwise tree: combines elements 2j and 2j+1. -/
def treeLevel (op : Nat → Nat → Nat × Nat) : List Nat → List Nat × Nat
  | a :: b :: r =>
    let p := op a b
    let q := treeLevel op r
    (p.1 :: q.1, flOr p.2 q.2)
  | l => (l, 0)

/-- A pairwise tree of `k` levels. -/
def tree (op : Nat → Nat → Nat × Nat) : Nat → List Nat → Nat → Nat × Nat
  | 0, l, fl => (l.headD 0, fl)
  | k + 1, l, fl =>
    let p := treeLevel op l
    tree op k p.1 (flOr fl p.2)

/-- A chain from the first element on. -/
def chain (op : Nat → Nat → Nat × Nat) : List Nat → Nat × Nat
  | [] => (0, 0)
  | y :: ys => ys.foldl (fun a x => let p := op a.1 x; (p.1, flOr a.2 p.2)) (y, 0)

/-- Each slice's tree, then the chain over the eight slices. -/
def reduce8 (op : Nat → Nat → Nat × Nat) (lv : Nat) (sl : List (List Nat)) : Nat × Nat :=
  let ts := sl.map fun l => tree op lv l 0
  let c := chain op (ts.map (·.1))
  (c.1, flOr c.2 ((ts.map (·.2)).foldl flOr 0))

end Sys2Proof.Machine
end

