-- ==== Sys2Proof/Machine/Array.lean ====
section
/-! DEFINITION. The arithmetic of the array: classes, tile layouts and sums (09 R190, R191, R196, R197, R204; 03
R64 to R73). -/

namespace Sys2Proof.Machine

/-- How a class sums a K-step (03 R71, R72, R73). -/
inductive SumOrder
  | tree | exact | fused
  deriving DecidableEq, Repr

/-- A row of R190. -/
structure MClass where
  fa : Nat
  fb : Nat
  fc : Nat                  -- 0 FP32, 1 INT32, 2 FP64
  ks : Nat
  P  : Nat
  ab : Nat                  -- tile bytes of A
  bb : Nat
  order : SumOrder
  deriving DecidableEq, Repr

/-- Whether a class multiplies integers. -/
def MClass.ints (c : MClass) : Bool := decide (c.fa < 10)

/-- The class of a format combination; none for one the array does not accept (09 R190). -/
def mClass (fa fb fc : Nat) : Option MClass :=
  let i8 := fun f => f == 1 || f == 6
  let i4 := fun f => f == 0 || f == 5
  let f8 := fun f => f == 14 || f == 15
  if fc = 0 ∧ ((fa = 10 ∧ fb = 10) ∨ (fa = 11 ∧ fb = 11)) then some ⟨fa, fb, fc, 32, 32, 2048, 2048, .tree⟩
  else if fc = 0 ∧ fa = 19 ∧ fb = 10 then some ⟨fa, fb, fc, 32, 16, 1152, 2048, .tree⟩
  else if fc = 0 && f8 fa && f8 fb then some ⟨fa, fb, fc, 64, 32, 2048, 2048, .exact⟩
  else if decide (fc < 2) && i8 fa && i8 fb then some ⟨fa, fb, fc, 64, 32, 2048, 2048, .exact⟩
  else if fc = 0 ∧ fa = 16 ∧ fb = 16 then some ⟨fa, fb, fc, 64, 32, 2112, 2112, .exact⟩
  else if decide (fc < 2) && i4 fa && i4 fb then some ⟨fa, fb, fc, 128, 32, 2048, 2048, .exact⟩
  else if fc = 0 ∧ fa = 17 ∧ fb = 17 then some ⟨fa, fb, fc, 128, 32, 2176, 2176, .exact⟩
  else if fc = 0 && f8 fa && fb == 18 then some ⟨fa, fb, fc, 128, 32, 4096, 2304, .exact⟩
  else if fc = 0 ∧ fa = 12 ∧ fb = 12 then some ⟨fa, fb, fc, 32, 128, 4096, 4096, .fused⟩
  else if fc = 2 ∧ fa = 13 ∧ fb = 13 then some ⟨fa, fb, fc, 16, 1024, 4096, 4096, .fused⟩
  else none

/-- An element format: width in bits. -/
def fmtWidth (f : Nat) : Nat :=
  match ElemTy.ofCode f with
  | some .i4 | some .n4 => 4
  | some .i8 | some .n8 | some .e4m3 | some .e5m2 => 8
  | some .i16 | some .n16 | some .bf16 | some .f16 => 16
  | some .i32 | some .n32 | some .f32 => 32
  | some .i64 | some .n64 | some .f64 => 64
  | none => 8

/-- An integer as a value. -/
def FV.ofInt (i : Int) : FV := .fin (decide (i < 0)) i.natAbs 0

/-- The value of an element of a format (03 R51 to R54). -/
def fmtVal (f v : Nat) : FV :=
  match ElemTy.ofCode f with
  | some t =>
    match elemFmt t with
    | some m => m.decode v
    | none => FV.ofInt (intVal (match t with | .i4 | .i8 | .i16 | .i32 | .i64 => true | _ => false) (fmtWidth f) v)
  | none => .nan false

/-- Byte `i` of a tile. -/
def tileBits (t off n : Nat) : Nat := t / 2 ^ off % 2 ^ n

/-- A DX block of 64 elements at byte `b` of a tile (03 R64). -/
def dxRow (dx4 : Bool) (t b : Nat) : List FV :=
  let w := if dx4 then 4 else 8
  let e := if dx4 then 32 else 64
  let e0 := tileBits t (8 * (b + e)) 8
  let e1 := tileBits t (8 * (b + e + 1)) 8
  (List.range 64).map fun j => dxVal dx4 e0 e1 (tileBits t (8 * b + w * j) w)

/-- An element of K as an operand gives it: its value, none where it is absent, and the flags that reading it raises. -/
abbrev KElem := Option FV × Nat

/-- Elements without flags. -/
def plainElems (l : List FV) : List KElem := l.map fun v => (some v, 0)

/-- A G4 group of 64 weights at byte `b` of a tile, expanded, each with its flags (03 R67, R68). -/
def g4Row (t b : Nat) : List KElem :=
  let sc := tileBits t (8 * (b + 32)) 16
  let z := tileBits t (8 * (b + 34)) 4
  (List.range 64).map fun j =>
    let p := g4Expand sc z (tileBits t (8 * b + 4 * j) 4)
    (some (Fmt.bf16.decode p.1), p.2)

/-- A row segment of 32 sparse elements at byte `b` (03 R69, R70): an element of an illegal group is absent, and raises TDE. -/
def s24Row (t b : Nat) : List KElem :=
  let md := tileBits t (8 * (b + 32)) 32
  let nib := fun g => md / 2 ^ (4 * g) % 16
  (List.range 32).map fun j =>
    let g := j / 4
    if nib g / 4 ≤ nib g % 4 then (none, flTDE)
    else if j % 4 = nib g % 4 then (some (Fmt.bf16.decode (tileBits t (8 * b + 32 * g) 16)), 0)
    else if j % 4 = nib g / 4 then (some (Fmt.bf16.decode (tileBits t (8 * b + 32 * g + 16) 16)), 0)
    else (some (.fin false 0 0), 0)

/-- Row `i` of an A tile, or column `i` of a B tile, as its ks elements of K (09 R191). Elements past the first `n` complete a short
K: they are absent (03 R71). -/
def tileRow (f ks : Nat) (tr : Bool) (t i n : Nat) : List KElem :=
  let l :=
    if f = 16 then plainElems (dxRow false t (66 * i))
    else if f = 17 then plainElems (dxRow true t (68 * i) ++ dxRow true t (68 * i + 34))
    else if f = 18 then g4Row t (72 * i) ++ g4Row t (72 * i + 36)
    else if f = 19 then s24Row t (36 * i)
    else
      let w := fmtWidth f
      (List.range ks).map fun k => (some (fmtVal f (tileBits t ((if tr then 32 * k + i else ks * i + k) * w) w)), 0)
  l.take n ++ List.replicate (ks - n) (none, 0)

/-- The flags of a row of elements. -/
def elemFlags (l : List KElem) : Nat := (l.map fun e => e.2).foldl flOr 0

/-- An exact integer product: a zero has no sign. -/
def FV.unsigned0 : FV → FV
  | .fin n m e => .fin (n && m != 0) m e
  | x => x

/-- The products of a K-step; a pair with an absent element contributes exactly +0 (03 R70, R71), and so does an integer
product that is zero. -/
def products (ints : Bool) (a b : List KElem) : List FV × Nat :=
  let r := List.zipWith (fun (x y : KElem) => match x.1, y.1 with
    | some x, some y => let p := x.mul y; (if ints then p.1.unsigned0 else p.1, p.2)
    | _, _ => (.fin false 0 0, 0)) a b
  (r.map fun e => e.1, (r.map fun e => e.2).foldl flOr 0)

/-- A node of a tree or chain: the sum rounded to a format. -/
def roundAdd (f : Fmt) (a b : FV) : FV × Nat :=
  let p := f.finish .rn 0 (a.add .rn b)
  (f.decode p.1, p.2)

/-- One level of a tree of values. -/
def sumLevel : List FV → List FV × Nat
  | a :: b :: r =>
    let p := roundAdd .f32 a b
    let q := sumLevel r
    (p.1 :: q.1, flOr p.2 q.2)
  | l => (l, 0)

/-- The pairwise tree of R71. -/
def sumTree : Nat → List FV → Nat → FV × Nat
  | 0, l, fl => (l.headD (.fin false 0 0), fl)
  | k + 1, l, fl =>
    let p := sumLevel l
    sumTree k p.1 (flOr fl p.2)

/-- The exact sum of R72. DESIGN CHOICE (log 72): products that hold infinities of both signs raise NV whether or not a NaN
stands among them. -/
def exactSum : List FV → FV × Nat
  | [] => (.fin false 0 0, 0)
  | p :: ps =>
    (ps.foldl (fun a x => (a.add .rn x).1) p,
      if (p :: ps).contains (.inf false) && (p :: ps).contains (.inf true) then flNV else 0)

/-- The chain of fused multiply-adds of R73. -/
def fusedSum (f : Fmt) : List FV → FV → Nat → FV × Nat
  | [], acc, fl => (acc, fl)
  | p :: ps, acc, fl =>
    let r := roundAdd f acc p
    fusedSum f ps r.1 (flOr fl r.2)

/-- The integer value of an exact sum. -/
def FV.toInt : FV → Int
  | .fin n m e => finInt n m e 0
  | _ => 0

/-- One cell of a step: the accumulator after it and the flags. `sa` and `sb` are the scales of the row and column,
one where the descriptor asks for none. -/
def cell (c : MClass) (row col : List KElem) (sc : Option (FV × FV)) (acc : Nat) : Nat × Nat :=
  let ps := products c.ints row col
  match c.fc with
  | 1 => (ofInt 32 ((acc : Int) + (exactSum ps.1).1.toInt), 0)
  | k =>
    let f := if k = 2 then Fmt.f64 else Fmt.f32
    match c.order with
    | .tree =>
      let t := sumTree 5 ps.1 0
      let r := f.finish .rn 0 ((f.decode acc).add .rn t.1)
      (r.1, flOr ps.2 (flOr t.2 r.2))
    | .exact =>
      let e := exactSum ps.1
      let m := match sc with
        | none => (e.1, 0)
        | some (x, y) =>
          let p := e.1.mul x
          let q := p.1.mul y
          (q.1, flOr p.2 q.2)
      let r := f.finish .rn 0 ((f.decode acc).add .rn m.1)
      (r.1, flOr ps.2 (flOr e.2 (flOr m.2 r.2)))
    | .fused =>
      let r := fusedSum f ps.1 (f.decode acc) 0
      let p := f.ofFV .rn 0 false r.1
      (p.1, flOr ps.2 r.2)

/-- A whole step over the 32 by 32 block, of which `n` elements of K count: the new image and the flags. `sa` and `sb` are the 32
scale values of rows and of columns. -/
def blockStep (c : MClass) (ta tb : Bool) (a b n : Nat) (sa sb : Option (List FV)) (acc : Nat) : Nat × Nat :=
  let w := if c.fc = 2 then 64 else 32
  let rows := (List.range 32).map fun i => tileRow c.fa c.ks ta a i n
  let cols := (List.range 32).map fun j => tileRow c.fb c.ks tb b j n
  let one : FV := .fin false 1 0
  let cells := (List.range 1024).map fun n =>
    let i := n / 32
    let j := n % 32
    let sc := if sa.isNone && sb.isNone then none
      else some (((sa.map fun l => l.getD i one).getD one), ((sb.map fun l => l.getD j one).getD one))
    cell c (rows.getD i []) (cols.getD j []) sc (tileBits acc (w * n) w)
  (packE w (cells.map fun e => e.1),
    flOr ((cells.map fun e => e.2).foldl flOr 0) (((rows ++ cols).map elemFlags).foldl flOr 0))

/-! ### Routines (09 R194, R196, R197) -/

/-- A field of a descriptor. -/
def desc (m : List Word) (d hi lo : Nat) : Nat := fld ((m.getD d 0).toNat) hi lo

/-- The class of a routine header; none for an invalid one (09 R196). -/
def headerClass (h : Nat) : Option MClass :=
  if !bit h 63 || fld h 62 21 != 0 || fld h 6 0 != 0 then none
  else match mClass (fld h 20 16) (fld h 15 11) (fld h 10 9) with
    | none => none
    | some c =>
      let elem := decide (c.fa < 16 ∧ c.fb < 16)
      if (bit h 8 || bit h 7) && !elem then none else some c

/-- A microword of a routine; past u6 an implied END. -/
def microword (code : List Word) (u : Nat) : Nat := (code.getD (u + 1) 0).toNat

/-- Whether a microword is valid (09 R197, R206). -/
def microOk (u w : Nat) : Bool :=
  match fld w 63 60 with
  | 0 => fld w 59 0 == 0
  | 1 => fld w 54 0 == 0
  | 2 => fld w 53 0 == 0 && decide (fld w 56 54 < u)
  | _ => false

/-- The index of the first END. -/
def endIndex (code : List Word) : Nat := ((List.range 7).find? fun u => fld (microword code u) 63 60 == 0).getD 7

/-- The steps executed from microword `a` with all counts zero until microword `i` is passed (09 R197): a repeat runs
its body NREP times more. -/
def stepsTo (code m : List Word) : Nat → Nat → Nat
  | 0, _ => 0
  | i + 1, a =>
    if i < a then 0
    else
      let w := microword code i
      let base := stepsTo code m i a
      match fld w 63 60 with
      | 1 => base + 1
      | 2 => base + desc m (fld w 59 57) 47 32 * stepsTo code m i (fld w 56 54)
      | _ => base

/-- The next STEP from microword `u` on, with the repeat counts; none when the routine ends. A repeat whose body holds
no step falls through. -/
def nextStep (code m : List Word) : Nat → Nat → List Nat → Option (Nat × List Nat)
  | 0, _, _ => none
  | fuel + 1, u, reps =>
    let w := microword code u
    if 7 ≤ u then none
    else match fld w 63 60 with
      | 1 => some (u, reps)
      | 2 =>
        if reps.getD u 0 < desc m (fld w 59 57) 47 32 ∧ stepsTo code m u (fld w 56 54) ≠ 0 then
          nextStep code m fuel (fld w 56 54) (reps.set u (reps.getD u 0 + 1))
        else nextStep code m fuel (u + 1) (reps.set u 0)
      | _ => none

/-! ### Calls (09 R201 to R204) -/

/-- The microwords of a routine up to its first END with their indexes. -/
def usedWords (code : List Word) : List (Nat × Nat) :=
  (List.range (Nat.min 7 (endIndex code + 1))).map fun u => (u, microword code u)

/-- The steps and repeats of a routine with the descriptors they name. -/
def usedDescs (code : List Word) (op : Nat) : List Nat :=
  (usedWords code).filterMap fun e => if fld e.2 63 60 == op then some (fld e.2 59 57) else none

/-- The latches that a call names. -/
def callLats (c : Call) : List Nat := ((usedDescs c.code 1).map fun i => desc c.m i 2 0).eraseDups

/-- The bytes of a call's accumulator: one latch, or an FP64 pair. -/
def accBytes (c : Call) : Nat :=
  match headerClass (c.code.getD 0 0).toNat with
  | some k => if k.fc = 2 then 8192 else 4096
  | none => 4096

/-- The scales of a step: 32 values, or none where the descriptor asks for none (09 R204). -/
def stepScales (scales on lat : Nat) : Option (List FV) :=
  if on = 0 then none
  else some ((List.range 32).map fun i => Fmt.f32.decode (tileBits scales (8 * (128 * lat + 4 * i)) 32))

/-- The elements of K that step `i` of a call covers, all of the step for a program's call (03 R71). -/
def stepLen (c : Call) (k : MClass) (i : StepIn) : Nat :=
  match c.tile with
  | none => k.ks
  | some r => Nat.min k.ks (r.k - k.ks * i.idx)

/-- What step `i` of a call makes of the sums of its latch: the latch, the sums and the flags (09 R204). -/
def stepSums (c : Call) (k : MClass) (i : StepIn) (acc : Nat) : Nat × Nat :=
  let h := (c.code.getD 0 0).toNat
  let d := fld (microword c.code i.uw) 59 57
  blockStep k (bit h 8) (bit h 7) i.a i.b (stepLen c k i) (stepScales i.scales (desc c.m d 19 19) (desc c.m d 18 16))
    (stepScales i.scales (desc c.m d 23 23) (desc c.m d 22 20)) acc

end Sys2Proof.Machine
end

