-- ==== Sys2Proof/Machine/Flags.lean ====
section
/-! DEFINITION. The sticky flags and the stochastic draws of a slot (03 R57, R59 to R61). -/

namespace Sys2Proof.Machine.State

/-- Flags of a slot, bit n for FMASK bit n: they merge into PSW at count `due`, and those enabled in the FMASK in
force at the bundle's issue raise the enabled-FP-exception fault, detected at count `D` (03 R60, 10 R218 code 10). -/
def fpFlags (s : State) (fl due D : Nat) : State :=
  let s := if fl = 0 then s else s.push due (.flagsOr fl) 2
  let en := Nat.land (Nat.land fl s.fr.fmask) 0x1F
  if en = 0 then s else s.raiseExec 10 (BitVec.ofNat 64 en) 0 D

/-- An input magnitude merges into AMAX at count `due` (03 R63). -/
def amaxAt (s : State) (val : Nat) (ns : Bool) (due : Nat) : State :=
  if val = 0 && !ns then s else s.push due (.amax val ns)

end Sys2Proof.Machine.State

namespace Sys2Proof.Machine

/-- The draws of the elements of one slice, lowest element first: the numbers drawn (0 where none is drawn) and the
generators afterwards. Only elements that the guards let through draw; a 64-bit element draws from its even lane. -/
def drawElems (w : Nat) (on : Nat → Bool) : Nat → Nat → List Nat → List Nat × List Nat
  | 0, _, gens => ([], gens)
  | n + 1, i, gens =>
    if on i then
      let lane := if w = 64 then 2 * i else i * w / 32
      let u := draw (gens.getD lane 0)
      let r := drawElems w on n (i + 1) (gens.set lane u)
      (u :: r.1, r.2)
    else
      let r := drawElems w on n (i + 1) gens
      (0 :: r.1, r.2)

/-- The lanes that draw for `n` elements of width `w`. -/
def drawLanes (w n : Nat) (on : Nat → Bool) : LaneMask :=
  BitVec.ofNat 16 (((List.range n).filter on).foldl (fun m i => Nat.lor m (2 ^ (if w = 64 then 2 * i else i * w / 32))) 0)

namespace State

/-- The draws of `n` elements of width `w` in slice `k` when `rnd` is .rs, with the state after them; the generators of the
lanes that draw advance at once, and a cancelled slot gives the advance back (03 R57). -/
def draws (s : State) (rnd : Rnd) (w n k : Nat) (on : Nat → Bool) : List Nat × State :=
  if rnd = .rs then
    let r := drawElems w on n 0 (granE 32 (s.reg (.gen k)))
    (r.1, s.writeDraw k (Nat.max 1 (32 / w)) (eGran 32 r.2) (laneBits (drawLanes w n on)))
  else (List.replicate n 0, s)

end State

end Sys2Proof.Machine
end

