-- ==== Sys2Proof/Machine/Operands.lean ====
section
/-! DEFINITION. The operand forms of slots: per-lane slots over the elements of a slice, and slots that read their
guard once (02 R24, 04 R80, 05 R88, R90). -/

namespace Sys2Proof.Machine

/-- A per-lane slot in its slice: the value computed from the slice lands in vd at the slice's execution count plus
`lat`, in the elements that the guards let through, and the slot goes on in the next slice. -/
def laneSlot (i : Instr) (g : Guard) (w lat d : Nat) (val : Nat → Gran) (s : State) : Result :=
  let k := s.fr.slice
  .next ((s.landV d k (val k) (elemMask w (s.laneGuard g k)) (s.fr.t + k + lat)).nextSlice i s.fr)

/-- The value of a two-source slot, element by element. -/
def map2 (w : Nat) (f : Nat → Nat → Nat) (a b : Gran) : Gran := eGran w (List.zipWith f (granE w a) (granE w b))

/-- The value of a three-source slot, element by element. -/
def map3 (w : Nat) (f : Nat → Nat → Nat → Nat) (a b c : Gran) : Gran :=
  eGran w (List.zipWith (fun x (y : Nat × Nat) => f x y.1 y.2) (granE w a) (List.zip (granE w b) (granE w c)))

/-- The value of a one-source slot, element by element. -/
def map1 (w : Nat) (f : Nat → Nat) (a : Gran) : Gran := eGran w ((granE w a).map f)

/-- A slot that reads its guard once: it acts when the guard is true, and has no effect otherwise (02 R24). -/
def onceSlot (g : Guard) (s : State) (f : State → State) : Result := .next (if s.onceGuard g then f s else s)

/-- A scalar slot: its result lands at issue + `lat` (07 R148). -/
def scalarSlot (g : Guard) (d lat : Nat) (val : State → Word) (s : State) : Result :=
  onceSlot g s fun s => s.landS d (val s) (s.fr.t + lat)

/-- Flags of the elements that the guards let through. -/
def flagsOn (w : Nat) (gm : LaneMask) (r : List (Nat × Nat)) : Nat :=
  ((r.zipIdx).map fun e => if elemOn w gm e.2 then e.1.2 else 0).foldl flOr 0

/-- A per-lane floating-point slot in its slice: `f` gives the result and flags of an element from the draw and the
element's index. `extra` is what else the slot does with its flags known. -/
def fpSlot (i : Instr) (g : Guard) (w lat d : Nat) (rnd : Rnd) (f : Nat → Nat → Nat × Nat) (s : State) : Result :=
  let k := s.fr.slice
  let gm := s.laneGuard g k
  let n := 512 / w
  let p := s.draws rnd w n k (elemOn w gm)
  let r := List.zipWith f p.1 (List.range n)
  let due := s.fr.t + k + lat
  let s := p.2.landV d k (eGran w (r.map (·.1))) (elemMask w gm) due
  .next ((s.fpFlags (flagsOn w gm r) due (s.fr.t + 7 + lat)).nextSlice i s.fr)

/-- The latency of the arithmetic of a type (05 R89). -/
def arithLat (ft : FTy) : Nat := if ft = .f64 then 12 else 6

end Sys2Proof.Machine
end

