-- ==== Sys2Proof/Machine/Scalar.lean ====
section
/-! DEFINITION. The scalar instructions (08 R164 to R166), GET and SET (07 R143). -/

namespace Sys2Proof.Machine

/-- ADD (08 R164). -/
def execAdd (g : Guard) (d a b : Nat) (s : State) : Result := scalarSlot g d 1 (fun s => s.sget a + s.sget b) s

/-- SUB (08 R164). -/
def execSub (g : Guard) (d a b : Nat) (s : State) : Result := scalarSlot g d 1 (fun s => s.sget a - s.sget b) s

/-- MUL (08 R164): the low 64 bits, landing at t + 3. -/
def execMul (g : Guard) (d a b : Nat) (s : State) : Result := scalarSlot g d 3 (fun s => s.sget a * s.sget b) s

/-- The high 64 bits of the exact product. -/
def mulHigh (u : Bool) (a b : Word) : Word :=
  if u then BitVec.ofNat 64 (a.toNat * b.toNat / 2 ^ 64) else BitVec.ofInt 64 (a.toInt * b.toInt / 2 ^ 64)

/-- MULH (08 R164). -/
def execMulh (g : Guard) (u : Bool) (d a b : Nat) (s : State) : Result :=
  scalarSlot g d 3 (fun s => mulHigh u (s.sget a) (s.sget b)) s

/-- AND (08 R164). -/
def execAnd (g : Guard) (d a b : Nat) (s : State) : Result := scalarSlot g d 1 (fun s => s.sget a &&& s.sget b) s

/-- OR (08 R164). -/
def execOr (g : Guard) (d a b : Nat) (s : State) : Result := scalarSlot g d 1 (fun s => s.sget a ||| s.sget b) s

/-- XOR (08 R164). -/
def execXor (g : Guard) (d a b : Nat) (s : State) : Result := scalarSlot g d 1 (fun s => s.sget a ^^^ s.sget b) s

/-- ANDN (08 R164): a AND NOT b. -/
def execAndn (g : Guard) (d a b : Nat) (s : State) : Result := scalarSlot g d 1 (fun s => s.sget a &&& ~~~(s.sget b)) s

/-- SHL (08 R164): 0 when the count is 64 or more. -/
def execShl (g : Guard) (d a b : Nat) (s : State) : Result :=
  scalarSlot g d 1 (fun s => if 64 ≤ (s.sget b).toNat then 0 else s.sget a <<< (s.sget b).toNat) s

/-- SHR (08 R164). -/
def execShr (g : Guard) (d a b : Nat) (s : State) : Result :=
  scalarSlot g d 1 (fun s => if 64 ≤ (s.sget b).toNat then 0 else s.sget a >>> (s.sget b).toNat) s

/-- SRA (08 R164): 64 copies of bit 63 when the count is 64 or more. -/
def execSra (g : Guard) (d a b : Nat) (s : State) : Result :=
  scalarSlot g d 1 (fun s =>
    if 64 ≤ (s.sget b).toNat then (if (s.sget a).msb then BitVec.allOnes 64 else 0)
    else (s.sget a).sshiftRight (s.sget b).toNat) s

/-- Whether a word lies below another, signed or plain. -/
def wordLt (u : Bool) (a b : Word) : Bool := if u then a.ult b else a.slt b

/-- MIN (08 R164). -/
def execMin (g : Guard) (u : Bool) (d a b : Nat) (s : State) : Result :=
  scalarSlot g d 1 (fun s => if wordLt u (s.sget b) (s.sget a) then s.sget b else s.sget a) s

/-- MAX (08 R164). -/
def execMax (g : Guard) (u : Bool) (d a b : Nat) (s : State) : Result :=
  scalarSlot g d 1 (fun s => if wordLt u (s.sget a) (s.sget b) then s.sget b else s.sget a) s

/-- Leading zero bits of a `w`-bit number. -/
def clzN (w n : Nat) : Nat := if n = 0 then w else w - 1 - Nat.log2 n

/-- One bits among the low `w` bits. -/
def popN : Nat → Nat → Nat
  | 0, _ => 0
  | w + 1, n => n % 2 + popN w (n / 2)

/-- CLZ (08 R164). -/
def execClz (g : Guard) (d a : Nat) (s : State) : Result :=
  scalarSlot g d 1 (fun s => BitVec.ofNat 64 (clzN 64 (s.sget a).toNat)) s

/-- POPC (08 R164). -/
def execPopc (g : Guard) (d a : Nat) (s : State) : Result :=
  scalarSlot g d 1 (fun s => BitVec.ofNat 64 (popN 64 (s.sget a).toNat)) s

/-- MOV (08 R164). -/
def execMov (g : Guard) (d a : Nat) (s : State) : Result := scalarSlot g d 1 (fun s => s.sget a) s

/-- ADDI (08 R165). -/
def execAddi (g : Guard) (d a : Nat) (imm : Int) (s : State) : Result :=
  scalarSlot g d 1 (fun s => s.sget a + BitVec.ofInt 64 imm) s

/-- LI (08 R165). -/
def execLi (g : Guard) (d : Nat) (imm : Int) (s : State) : Result := scalarSlot g d 1 (fun _ => BitVec.ofInt 64 imm) s

/-- LIH (08 R165): sd is read at issue. -/
def execLih (g : Guard) (d imm : Nat) (s : State) : Result :=
  scalarSlot g d 1 (fun s => s.sget d <<< 16 ||| BitVec.ofNat 64 imm) s

/-- SEL (08 R165). -/
def execSel (g : Guard) (d a b c : Nat) (s : State) : Result :=
  scalarSlot g d 1 (fun s => if s.sget c = 0 then s.sget b else s.sget a) s

/-- A condition over two integers, with their unsigned values for conditions 6 to 9 (02 R31). -/
def condHolds (c : Cond) (x y : Int) (ux uy : Nat) : Bool :=
  match c with
  | .eq => x == y
  | .ne => x != y
  | .lt => decide (x < y)
  | .le => decide (x ≤ y)
  | .gt => decide (y < x)
  | .ge => decide (y ≤ x)
  | .ltn => decide (ux < uy)
  | .len => decide (ux ≤ uy)
  | .gtn => decide (uy < ux)
  | .gen => decide (uy ≤ ux)

/-- CMP (08 R165). -/
def execCmp (g : Guard) (c : Cond) (d a b : Nat) (s : State) : Result :=
  scalarSlot g d 1 (fun s =>
    if condHolds c (s.sget a).toInt (s.sget b).toInt (s.sget a).toNat (s.sget b).toNat then 1 else 0) s

/-- AMAX as GET reads it at its count: with the merges that land in that cycle (07 R147). -/
def amaxNow (s : State) (x : Nat) (hnd : Bool) : Word :=
  (s.pend.filter fun e => e.fr.x == x && e.fr.hnd == hnd && decide (e.due ≤ s.now x hnd)).foldl
    (fun a e => match e.act with
      | .amax v ns => amaxMerge a v ns
      | _ => a) (s.ctx x).amax

/-- GET (07 R143): lands at t + 1. One of a re-entry bundle has read its register in cycle G - 1 (10 R226). -/
def execGet (g : Guard) (r n : Nat) (s : State) : Result :=
  let read := fun (s : State) =>
    if s.fr.pre ∧ runRegs.contains n then s.fr.cap else if n = 16 then amaxNow s s.fr.x s.fr.hnd else cregRead s s.fr.x s.fr.hnd n
  onceSlot g s fun s =>
    let s' := if runRegs.contains n then s.record 4 6 1 s.issueTide (read s).toNat else s
    s'.landS r (read s) (s.fr.t + 1)

/-- SET (07 R143): effective for bundles issued at t + 1 and later; a privileged register needs PRIV. -/
def execSet (g : Guard) (r n : Nat) (s : State) : Result :=
  onceSlot g s fun s =>
    if cregPrivileged n && !s.priv then s.privilege 0
    else s.push (s.fr.t + 1) (.creg n (s.sget r)) 0

end Sys2Proof.Machine
end

