-- ==== Sys2Proof/Machine/VecInt.lean ====
section
/-! DEFINITION. The vector integer instructions (05 R93 to R98). -/

namespace Sys2Proof.Machine

/-- A two-source integer slot: `f` gives the exact result of two elements' values. -/
def intSlot (i : Instr) (g : Guard) (t : ElemTy) (sat : Bool) (lat d a b : Nat) (f : Int → Int → Int) (s : State) : Result :=
  let w := t.width
  let v := intVal t.isSigned w
  laneSlot i g w lat d (fun k => map2 w (fun x y => fit t.isSigned sat w (f (v x) (v y))) (s.vget a k) (s.vget b k)) s

/-- VADD (05 R94). -/
def execVadd (g : Guard) (t : ElemTy) (sat : Bool) (d a b : Nat) (s : State) : Result :=
  intSlot (.vadd g t sat d a b) g t sat 2 d a b (fun x y => x + y) s

/-- VSUB (05 R94). -/
def execVsub (g : Guard) (t : ElemTy) (sat : Bool) (d a b : Nat) (s : State) : Result :=
  intSlot (.vsub g t sat d a b) g t sat 2 d a b (fun x y => x - y) s

/-- VMUL (05 R94). -/
def execVmul (g : Guard) (t : ElemTy) (sat : Bool) (d a b : Nat) (s : State) : Result :=
  intSlot (.vmul g t sat d a b) g t sat 4 d a b (fun x y => x * y) s

/-- VMULH (05 R94): the high half of the exact product. -/
def execVmulh (g : Guard) (t : ElemTy) (d a b : Nat) (s : State) : Result :=
  intSlot (.vmulh g t d a b) g t false 4 d a b (fun x y => x * y / 2 ^ t.width) s

/-- VMIN (05 R94). -/
def execVmin (g : Guard) (t : ElemTy) (d a b : Nat) (s : State) : Result :=
  intSlot (.vmin g t d a b) g t false 2 d a b (fun x y => if x < y then x else y) s

/-- VMAX (05 R94). -/
def execVmax (g : Guard) (t : ElemTy) (d a b : Nat) (s : State) : Result :=
  intSlot (.vmax g t d a b) g t false 2 d a b (fun x y => if y < x then x else y) s

/-- VMAD (05 R95): vd is read as an addend in the execution cycle. -/
def execVmad (g : Guard) (t : ElemTy) (sat : Bool) (d a b : Nat) (s : State) : Result :=
  let w := t.width
  let v := intVal t.isSigned w
  laneSlot (.vmad g t sat d a b) g w 4 d
    (fun k => map3 w (fun z x y => fit t.isSigned sat w (v z + v x * v y)) (s.vget d k) (s.vget a k) (s.vget b k)) s

/-- The sum of products of the elements of two lanes. -/
def dotLane (t : ElemTy) (x y : Nat) : Int :=
  let w := t.width
  let v := intVal t.isSigned w
  (List.zipWith (fun p q => v p * v q) (elems w (32 / w) x) (elems w (32 / w) y)).foldl (· + ·) 0

/-- VDOT4 (05 R95): the accumulator lane has the signedness of the type. -/
def execVdot4 (g : Guard) (t : ElemTy) (sat : Bool) (d a b : Nat) (s : State) : Result :=
  laneSlot (.vdot4 g t sat d a b) g 32 4 d
    (fun k => map3 32 (fun z x y => fit t.isSigned sat 32 (intVal t.isSigned 32 z + dotLane t x y))
      (s.vget d k) (s.vget a k) (s.vget b k)) s

/-- VAND (05 R94): whole lanes. -/
def execVand (g : Guard) (d a b : Nat) (s : State) : Result :=
  laneSlot (.vand g d a b) g 32 2 d (fun k => s.vget a k &&& s.vget b k) s

/-- VOR (05 R94). -/
def execVor (g : Guard) (d a b : Nat) (s : State) : Result :=
  laneSlot (.vor g d a b) g 32 2 d (fun k => s.vget a k ||| s.vget b k) s

/-- VXOR (05 R94). -/
def execVxor (g : Guard) (d a b : Nat) (s : State) : Result :=
  laneSlot (.vxor g d a b) g 32 2 d (fun k => s.vget a k ^^^ s.vget b k) s

/-- VANDN (05 R94): A AND NOT B. -/
def execVandn (g : Guard) (d a b : Nat) (s : State) : Result :=
  laneSlot (.vandn g d a b) g 32 2 d (fun k => s.vget a k &&& ~~~(s.vget b k)) s

/-- VSHL of one element (05 R96): with saturation the exact product is clamped. -/
def shlElem (t : ElemTy) (sat : Bool) (x c : Nat) : Nat :=
  let w := t.width
  let v := intVal t.isSigned w x
  if c < w then fit t.isSigned sat w (v * 2 ^ c)
  else if sat && v != 0 then ofInt w (if v < 0 then (intRange t.isSigned w).1 else (intRange t.isSigned w).2) else 0

/-- VSHL (05 R96). -/
def execVshl (g : Guard) (t : ElemTy) (sat : Bool) (d a b : Nat) (s : State) : Result :=
  laneSlot (.vshl g t sat d a b) g t.width 2 d (fun k => map2 t.width (shlElem t sat) (s.vget a k) (s.vget b k)) s

/-- VSHR (05 R96): zeros enter. -/
def execVshr (g : Guard) (t : ElemTy) (d a b : Nat) (s : State) : Result :=
  laneSlot (.vshr g t d a b) g t.width 2 d
    (fun k => map2 t.width (fun x c => if c < t.width then x / 2 ^ c else 0) (s.vget a k) (s.vget b k)) s

/-- VSRA (05 R96): copies of the top bit enter. -/
def execVsra (g : Guard) (t : ElemTy) (d a b : Nat) (s : State) : Result :=
  let w := t.width
  laneSlot (.vsra g t d a b) g w 2 d
    (fun k => map2 w (fun x c => ofInt w (intVal true w x / 2 ^ Nat.min c w)) (s.vget a k) (s.vget b k)) s

/-- VABS (05 R97): the most negative value gives itself, or the largest with saturation. -/
def execVabs (g : Guard) (t : ElemTy) (sat : Bool) (d a : Nat) (s : State) : Result :=
  let w := t.width
  laneSlot (.vabs g t sat d a) g w 2 d
    (fun k => map1 w (fun x => fit true sat w ((intVal true w x).natAbs : Int)) (s.vget a k)) s

/-- VNEG (05 R97). -/
def execVneg (g : Guard) (t : ElemTy) (sat : Bool) (d a : Nat) (s : State) : Result :=
  let w := t.width
  laneSlot (.vneg g t sat d a) g w 2 d
    (fun k => map1 w (fun x => fit t.isSigned sat w (-(intVal t.isSigned w x))) (s.vget a k)) s

/-- VCLZ (05 R97). -/
def execVclz (g : Guard) (t : ElemTy) (d a : Nat) (s : State) : Result :=
  laneSlot (.vclz g t d a) g t.width 2 d (fun k => map1 t.width (clzN t.width) (s.vget a k)) s

/-- VPOPC (05 R97). -/
def execVpopc (g : Guard) (t : ElemTy) (d a : Nat) (s : State) : Result :=
  laneSlot (.vpopc g t d a) g t.width 2 d (fun k => map1 t.width (popN t.width) (s.vget a k)) s

/-- VMOV (05 R97). -/
def execVmov (g : Guard) (d a : Nat) (s : State) : Result :=
  laneSlot (.vmov g d a) g 32 2 d (fun k => s.vget a k) s

/-- The scalar operand of a per-lane slot: read once at t and carried with the bundle (05 R88). -/
def captureScalar (r : Nat) (s : State) : State := if s.fr.slice = 0 then { s with fr := { s.fr with cap := s.sget r } } else s

/-- VBC (05 R97): the low bits of a scalar in every element. -/
def execVbc (g : Guard) (t : ElemTy) (d a : Nat) (s : State) : Result :=
  let s := captureScalar a s
  laneSlot (.vbc g t d a) g t.width 2 d
    (fun _ => eGran t.width (List.replicate (512 / t.width) (s.fr.cap.toNat % 2 ^ t.width))) s

/-- VIOTA (05 R97): the low bits of the element's index in the register. -/
def execViota (g : Guard) (t : ElemTy) (d : Nat) (s : State) : Result :=
  let w := t.width
  laneSlot (.viota g t d) g w 2 d
    (fun k => eGran w ((List.range (512 / w)).map fun i => (k * (512 / w) + i) % 2 ^ w)) s

/-- The identity of a reduction over integers (03 R74). -/
def intIdentity (t : ElemTy) (op : RedOp) : Nat :=
  match op with
  | .sum => 0
  | .min => ofInt t.width (intRange t.isSigned t.width).2
  | .max => ofInt t.width (intRange t.isSigned t.width).1

/-- One node of an integer reduction. -/
def intNode (t : ElemTy) (sat : Bool) (op : RedOp) (x y : Nat) : Nat × Nat :=
  let w := t.width
  let v := intVal t.isSigned w
  match op with
  | .sum => (fit t.isSigned sat w (v x + v y), 0)
  | .min => (if v y < v x then y else x, 0)
  | .max => (if v x < v y then y else x, 0)

/-- The elements of slice `k` of a reduction's source, with the identity where the guard is false. -/
def redLeaves (w ident : Nat) (gm : LaneMask) (v : Gran) : List Nat :=
  (granE w v).zipIdx.map fun e => if elemOn w gm e.2 then e.1 else ident

/-- A reduction slot in its slice: the slice's leaves and guards are captured, and after slice 7 the result lands in
every slice at t + `lat`, with `fl` its flags (03 R74, 05 R98, R104). -/
def redSlot (i : Instr) (g : Guard) (w lat d ident a : Nat) (res : List (List Nat) → Nat × Nat) (s : State) : Result :=
  let k := s.fr.slice
  let gm := s.laneGuard g k
  let s := { s with fr := { s.fr with
    capv := withGran s.fr.capv k (eGran w (redLeaves w ident gm (s.vget a k)))
    gt := s.fr.gt ||| BitVec.ofNat 128 (gm.toNat * 2 ^ (16 * k)) } }
  if k < 7 then .next (s.nextSlice i s.fr)
  else
    let r := res ((List.range 8).map fun j => granE w (granOf s.fr.capv j))
    let due := s.fr.t + lat
    let s := (List.range 8).foldl (fun s j =>
      s.landV d j (eGran w (List.replicate (512 / w) r.1)) (elemMask w (sliceOf s.fr.gt j)) due) s
    .next (s.fpFlags r.2 due due)

/-- The levels of a slice's tree for an element width. -/
def treeLevels (w : Nat) : Nat := Nat.log2 (512 / w)

/-- VRED (05 R98). -/
def execVred (g : Guard) (t : ElemTy) (sat : Bool) (op : RedOp) (d a : Nat) (s : State) : Result :=
  redSlot (.vred g t sat op d a) g t.width 40 d (intIdentity t op) a
    (reduce8 (intNode t sat op) (treeLevels t.width)) s

end Sys2Proof.Machine
end

