-- ==== Sys2Proof/Machine/VecFloat.lean ====
section
/-! DEFINITION. The vector floating-point instructions (05 R99 to R104). -/

namespace Sys2Proof.Machine

/-- Element `j` of slice `k` of a vector register. -/
def elemAt (s : State) (w r k j : Nat) : Nat := (s.vget r k).toNat / 2 ^ (w * j) % 2 ^ w

/-- A two-source floating-point slot. -/
def fp2Slot (i : Instr) (g : Guard) (ft : FTy) (rnd : Rnd) (lat d a b : Nat) (f : Fmt → Nat → Nat → Nat → Nat × Nat)
    (s : State) : Result :=
  let F := ftFmt ft
  let k := s.fr.slice
  fpSlot i g F.width lat d rnd (fun u j => f F u (elemAt s F.width a k j) (elemAt s F.width b k j)) s

/-- A one-source floating-point slot. -/
def fp1Slot (i : Instr) (g : Guard) (ft : FTy) (rnd : Rnd) (lat d a : Nat) (f : Fmt → Nat → Nat × Nat) (s : State) : Result :=
  let F := ftFmt ft
  let k := s.fr.slice
  fpSlot i g F.width lat d rnd (fun _ j => f F (elemAt s F.width a k j)) s

/-- A fused slot: product negated when `np`, addend negated when `nc`. -/
def fmaSlot (i : Instr) (g : Guard) (ft : FTy) (rnd : Rnd) (np nc : Bool) (d a b c : Nat) (s : State) : Result :=
  let F := ftFmt ft
  let k := s.fr.slice
  fpSlot i g F.width (arithLat ft) d rnd
    (fun u j => F.fma rnd u np nc (elemAt s F.width a k j) (elemAt s F.width b k j) (elemAt s F.width c k j)) s

/-- FADD (05 R100). -/
def execFadd (g : Guard) (ft : FTy) (r : Rnd) (d a b : Nat) (s : State) : Result :=
  fp2Slot (.fadd g ft r d a b) g ft r (arithLat ft) d a b (fun F u x y => F.add r u x y) s

/-- FSUB (05 R100). -/
def execFsub (g : Guard) (ft : FTy) (r : Rnd) (d a b : Nat) (s : State) : Result :=
  fp2Slot (.fsub g ft r d a b) g ft r (arithLat ft) d a b (fun F u x y => F.sub r u x y) s

/-- FMUL (05 R100). -/
def execFmul (g : Guard) (ft : FTy) (r : Rnd) (d a b : Nat) (s : State) : Result :=
  fp2Slot (.fmul g ft r d a b) g ft r (arithLat ft) d a b (fun F u x y => F.mul r u x y) s

/-- FMIN (05 R101). -/
def execFmin (g : Guard) (ft : FTy) (d a b : Nat) (s : State) : Result :=
  fp2Slot (.fmin g ft d a b) g ft .rn 2 d a b (fun F _ x y => F.minmax false x y) s

/-- FMAX (05 R101). -/
def execFmax (g : Guard) (ft : FTy) (d a b : Nat) (s : State) : Result :=
  fp2Slot (.fmax g ft d a b) g ft .rn 2 d a b (fun F _ x y => F.minmax true x y) s

/-- FCPS (05 R102): A's magnitude with B's sign. -/
def execFcps (g : Guard) (ft : FTy) (d a b : Nat) (s : State) : Result :=
  fp2Slot (.fcps g ft d a b) g ft .rn 2 d a b
    (fun F _ x y => (x % 2 ^ (F.width - 1) + F.signBit (bit y (F.width - 1)), 0)) s

/-- FABS (05 R102). -/
def execFabs (g : Guard) (ft : FTy) (d a : Nat) (s : State) : Result :=
  fp1Slot (.fabs g ft d a) g ft .rn 2 d a (fun F x => (x % 2 ^ (F.width - 1), 0)) s

/-- FNEG (05 R102). -/
def execFneg (g : Guard) (ft : FTy) (d a : Nat) (s : State) : Result :=
  fp1Slot (.fneg g ft d a) g ft .rn 2 d a
    (fun F x => (x % 2 ^ (F.width - 1) + F.signBit (!bit x (F.width - 1)), 0)) s

/-- FRCP (05 R103). -/
def execFrcp (g : Guard) (ft : FTy) (r : Rnd) (d a : Nat) (s : State) : Result :=
  fp1Slot (.frcp g ft r d a) g ft r 10 d a (fun F x => F.frcp r x) s

/-- FRSQ (05 R103). -/
def execFrsq (g : Guard) (ft : FTy) (r : Rnd) (d a : Nat) (s : State) : Result :=
  fp1Slot (.frsq g ft r d a) g ft r 10 d a (fun F x => F.frsq r x) s

/-- FSQRT (05 R103). -/
def execFsqrt (g : Guard) (ft : FTy) (r : Rnd) (d a : Nat) (s : State) : Result :=
  fp1Slot (.fsqrt g ft r d a) g ft r 10 d a (fun F x => F.fsqrt r x) s

/-- FEXP2 (05 R103). -/
def execFexp2 (g : Guard) (ft : FTy) (r : Rnd) (d a : Nat) (s : State) : Result :=
  fp1Slot (.fexp2 g ft r d a) g ft r 10 d a (fun F x => F.fexp2 r x) s

/-- FLOG2 (05 R103). -/
def execFlog2 (g : Guard) (ft : FTy) (r : Rnd) (d a : Nat) (s : State) : Result :=
  fp1Slot (.flog2 g ft r d a) g ft r 10 d a (fun F x => F.flog2 r x) s

/-- FTANH (05 R103). -/
def execFtanh (g : Guard) (ft : FTy) (r : Rnd) (d a : Nat) (s : State) : Result :=
  fp1Slot (.ftanh g ft r d a) g ft r 10 d a (fun F x => F.ftanh r x) s

/-- The class bit of a value (05 R102). -/
def classBit (F : Fmt) (x : Nat) : Nat :=
  match F.decode x with
  | .nan sig => if sig then 0 else 1
  | .inf n => if n then 2 else 9
  | .fin n m e =>
    if m = 0 then (if n then 5 else 6)
    else if (Nat.log2 m : Int) + e < F.emin then (if n then 4 else 7)
    else (if n then 3 else 8)

/-- FCLS (05 R102). -/
def execFcls (g : Guard) (ft : FTy) (d a : Nat) (s : State) : Result :=
  fp1Slot (.fcls g ft d a) g ft .rn 2 d a (fun F x => (2 ^ classBit F x, 0)) s

/-- The identity of a floating-point reduction (03 R74, 05 R104). -/
def fpIdentity (F : Fmt) (op : RedOp) : Nat :=
  match op with
  | .sum => F.signBit true
  | .min => F.top
  | .max => F.signBit true + F.top

/-- One node of a floating-point reduction. -/
def fpNode (F : Fmt) (r : Rnd) (op : RedOp) (x y : Nat) : Nat × Nat :=
  match op with
  | .sum => F.add r 0 x y
  | .min => F.minmax false x y
  | .max => F.minmax true x y

/-- FRED (05 R104): flags of all nodes are set at the landing. -/
def execFred (g : Guard) (ft : FTy) (r : Rnd) (op : RedOp) (d a : Nat) (s : State) : Result :=
  let F := ftFmt ft
  redSlot (.fred g ft r op d a) g F.width (if ft = .f64 then 128 else 64) d (fpIdentity F op) a
    (reduce8 (fpNode F r op) (treeLevels F.width)) s

/-- FMA (05 R100). -/
def execFma (g : Guard) (ft : FTy) (r : Rnd) (d a b c : Nat) (s : State) : Result :=
  fmaSlot (.fma g ft r d a b c) g ft r false false d a b c s

/-- FMS (05 R100). -/
def execFms (g : Guard) (ft : FTy) (r : Rnd) (d a b c : Nat) (s : State) : Result :=
  fmaSlot (.fms g ft r d a b c) g ft r false true d a b c s

/-- FNMA (05 R100). -/
def execFnma (g : Guard) (ft : FTy) (r : Rnd) (d a b c : Nat) (s : State) : Result :=
  fmaSlot (.fnma g ft r d a b c) g ft r true false d a b c s

end Sys2Proof.Machine
end

