-- ==== Sys2Proof/Machine/Compare.lean ====
section
/-! DEFINITION. Compares and predicates (05 R105 to R107). -/

namespace Sys2Proof.Machine

/-- The lane bits of a compare over elements of width `w`: a lane's bit is 1 when every element of the lane holds, and
a 64-bit compare sets both lanes of the pair. -/
def laneResult (w : Nat) (r : List Bool) : LaneMask :=
  BitVec.ofNat 16 (((List.range 16).map fun l =>
    let ok := if w = 64 then r.getD (l / 2) false
      else (List.range (32 / w)).all fun j => r.getD (l * (32 / w) + j) false
    if ok then 2 ^ l else 0).foldl (· + ·) 0)

/-- The lanes a compare of width `w` writes: a 64-bit one follows the even lane's guard in both lanes. -/
def cmpMask (w : Nat) (g : LaneMask) : LaneMask :=
  if w = 64 then BitVec.ofNat 16 (((List.range 8).map fun i => if g.getLsbD (2 * i) then 3 * 4 ^ i else 0).foldl (· + ·) 0)
  else g

/-- A compare writes the pair in one landing: the result and its complement (04 R81). -/
def landPair (s : State) (pp k : Nat) (v mask : LaneMask) (due : Nat) : State :=
  (s.landP (2 * pp) k v mask due).landP (2 * pp + 1) k (~~~v) mask due

/-- VCMP (05 R105). -/
def execVcmp (g : Guard) (t : ElemTy) (c : Cond) (pp a b : Nat) (s : State) : Result :=
  let k := s.fr.slice
  let w := t.width
  let gm := cmpMask w (s.laneGuard g k)
  let v := intVal t.isSigned w
  let r := List.zipWith (fun x y => condHolds c (v x) (v y) x y) (granE w (s.vget a k)) (granE w (s.vget b k))
  .next ((landPair s pp k (laneResult w r) gm (s.fr.t + k + 3)).nextSlice (.vcmp g t c pp a b) s.fr)

/-- One floating-point compare: its bit and NV (05 R105). -/
def fcmpElem (F : Fmt) (c : Cond) (x y : Nat) : Bool × Nat :=
  let a := F.decode x
  let b := F.decode y
  let ordered := match c with
    | .lt | .le | .gt | .ge => true
    | _ => false
  let nan := a.isNaN || b.isNaN
  let fl := if (ordered && nan) || a.isSNaN || b.isSNaN then flNV else 0
  if nan then (c == .ne, fl)
  else
    let o : Int := match a.cmp b with
      | .lt => -1
      | .eq => 0
      | .gt => 1
    (condHolds c o 0 0 0, fl)

/-- FCMP (05 R105). -/
def execFcmp (g : Guard) (t : ElemTy) (c : Cond) (pp a b : Nat) (s : State) : Result :=
  let k := s.fr.slice
  let F := (elemFmt t).getD .f32
  let w := F.width
  let gm := s.laneGuard g k
  let r := List.zipWith (fcmpElem F c) (granE w (s.vget a k)) (granE w (s.vget b k))
  let due := s.fr.t + k + 3
  let s' := landPair s pp k (laneResult w (r.map (·.1))) (cmpMask w gm) due
  .next ((s'.fpFlags (flagsOn w gm (r.map fun e => (0, e.2))) due (s.fr.t + 10)).nextSlice (.fcmp g t c pp a b) s.fr)

/-- A predicate slot in its slice: each lane writes where its guard is true, two cycles later (05 R106). -/
def predSlot (i : Instr) (g : Guard) (d : Nat) (v : Nat → LaneMask) (s : State) : Result :=
  let k := s.fr.slice
  .next ((s.landP d k (v k) (s.laneGuard g k) (s.fr.t + k + 2)).nextSlice i s.fr)

/-- PAND (05 R106). -/
def execPand (g : Guard) (d a b : Nat) (s : State) : Result :=
  predSlot (.pand g d a b) g d (fun k => s.pget a k &&& s.pget b k) s

/-- POR (05 R106). -/
def execPor (g : Guard) (d a b : Nat) (s : State) : Result :=
  predSlot (.por g d a b) g d (fun k => s.pget a k ||| s.pget b k) s

/-- PXOR (05 R106). -/
def execPxor (g : Guard) (d a b : Nat) (s : State) : Result :=
  predSlot (.pxor g d a b) g d (fun k => s.pget a k ^^^ s.pget b k) s

/-- PNOT (05 R106). -/
def execPnot (g : Guard) (d a : Nat) (s : State) : Result :=
  predSlot (.pnot g d a) g d (fun k => ~~~(s.pget a k)) s

/-- PMOV (05 R106). -/
def execPmov (g : Guard) (d a : Nat) (s : State) : Result :=
  predSlot (.pmov g d a) g d (fun k => s.pget a k) s

/-- PCNT (05 R106): every lane of slice k receives the number of 1 bits of pa in slice k. -/
def execPcnt (g : Guard) (d a : Nat) (s : State) : Result :=
  laneSlot (.pcnt g d a) g 32 2 d (fun k => eGran 32 (List.replicate 16 (popN 16 (s.pget a k).toNat))) s

/-- VSEL (05 R107). -/
def execVsel (g : Guard) (d a b p : Nat) (s : State) : Result :=
  laneSlot (.vsel g d a b p) g 32 2 d (fun k => mergeBits (s.vget b k) (s.vget a k) (laneBits (s.pget p k))) s

end Sys2Proof.Machine
end

