-- ==== Sys2Proof/Machine/Convert.lean ====
section
/-! DEFINITION. Conversions, block formats, AMAXR, PACK, UNPK and SEED (05 R108 to R113, 03 R62 to R68). -/

namespace Sys2Proof.Machine

/-- The magnitude of an element as AMAX takes it: an integer counts as its value (03 R63), rounded up where FP32 does not hold it (DESIGN
CHOICE, log 103). -/
def elemIn (t : ElemTy) (v : Nat) : Option Nat :=
  match elemFmt t with
  | some F => amaxIn (F.decode v)
  | none =>
    let i := intVal t.isSigned t.width v
    amaxIn (.fin false i.natAbs 0)

/-- Inputs merged into AMAX at `due`: the largest magnitude, and NS for a NaN. -/
def amaxList (s : State) (l : List (Option Nat)) (due : Nat) : State :=
  s.amaxAt (l.foldl (fun a e => match e with
      | some v => Nat.max a v
      | none => a) 0) (l.any Option.isNone) due

/-- The place of element `i` of width `w` in a slice whose units are `W` wide (05 R108). -/
def cvtPlace (W w i : Nat) : Nat :=
  if W = 64 then 64 * i else 32 * (i / (32 / W)) + w * (i % (32 / W))

/-- CVT in its slice (05 R108). -/
def cvtSlot (i : Instr) (g : Guard) (sat : Bool) (dt st : ElemTy) (r : Rnd) (d a : Nat) (s : State) : Result :=
  let k := s.fr.slice
  let gm := s.laneGuard g k
  let W := Nat.max dt.width st.width
  let n := 512 / W
  let v := (s.vget a k).toNat
  let p := s.draws (if cvtRounds st dt then r else .rn) W n k (elemOn W gm)
  let src := (List.range n).map fun j => v / 2 ^ cvtPlace W st.width j % 2 ^ st.width
  let res := List.zipWith (fun u x => cvtElem st dt r u sat x) p.1 src
  let out := (res.zipIdx).map fun e => e.1.1 * 2 ^ cvtPlace W dt.width e.2
  let due := s.fr.t + k + 4
  let s := p.2.landV d k (BitVec.ofNat 512 (out.foldl (· + ·) 0)) (elemMask W gm) due
  let s := s.fpFlags (flagsOn W gm res) due (s.fr.t + 11)
  let s := if dt == .e4m3 || dt == .e5m2 then
      amaxList s ((src.zipIdx.filter fun e => elemOn W gm e.2).map fun e => elemIn st e.1) (s.fr.t + 11)
    else s
  .next (s.nextSlice i s.fr)

/-- CVT (05 R108). -/
def execCvt (g : Guard) (dt st : ElemTy) (r : Rnd) (d a : Nat) (s : State) : Result :=
  cvtSlot (.cvt g dt st r d a) g false dt st r d a s

/-- CVT.sat (05 R108). -/
def execCvtSat (g : Guard) (dt st : ElemTy) (r : Rnd) (d a : Nat) (s : State) : Result :=
  cvtSlot (.cvtSat g dt st r d a) g true dt st r d a s

/-- A whole register as one number, slice 0 lowest (03 R49). -/
def wholeReg (s : State) (r : Nat) : Nat :=
  ((List.range 8).map fun k => (s.vget r k).toNat * 2 ^ (512 * k)).foldl (· + ·) 0

/-- A whole register image landing in slice k at t + `lat` + k, each lane under its guard as read at t. -/
def landWhole (s : State) (d lat : Nat) (gt : BitVec 128) (v : Nat) : State :=
  (List.range 8).foldl (fun s k =>
    s.landV d k (BitVec.ofNat 512 (v / 2 ^ (512 * k))) (laneBits (sliceOf gt k)) (s.fr.t + lat + k)) s

/-- The guard and the element width of a per-lane slot that draws. -/
def drawForm : Instr → Option (Guard × Nat)
  | .fadd g ft .rs _ _ _ | .fsub g ft .rs _ _ _ | .fmul g ft .rs _ _ _ | .fma g ft .rs _ _ _ _ | .fms g ft .rs _ _ _ _
  | .fnma g ft .rs _ _ _ _ => some (g, (ftFmt ft).width)
  | .cvt g dt st .rs _ _ | .cvtSat g dt st .rs _ _ => if cvtRounds st dt then some (g, Nat.max dt.width st.width) else none
  | _ => none

/-- The generators of slice `k` after the draws and loads that a slot in flight has still to make there, with the guards, the registers
and the SEED that it would meet now. -/
def foreseenGen (s : State) (k : Nat) (gens : Gran) (f : Flight) : Gran :=
  let fr := f.act.fr
  if f.x ≠ s.fr.x ∨ f.hnd ≠ s.fr.hnd ∨ k < fr.slice then gens
  else
    let s := { s with fr := fr }
    let put := fun (g : Guard) (v : Gran) => mergeBits gens v (laneBits (s.laneGuard g k))
    match f.act.i with
    | .seed g => put g (seedSlice fr.cap k)
    | .seedFromVector g a => put g (map1 32 (fun x => if x = 0 then 0x6D2B79F5 else x) (s.vget a k))
    | .cvtb _ bf _ _ _ _ _ =>
      let w := if bf then 16 else 32
      eGran 32 (drawElems w (elemOn w (sliceOf fr.gt k)) (512 / w) 0 (granE 32 gens)).2
    | i =>
      match drawForm i with
      | some (g, w) => eGran 32 (drawElems w (elemOn w (s.laneGuard g k)) (512 / w) 0 (granE 32 gens)).2
      | none => gens

/-- The numbers that the elements of a CVTB draw over the whole register. DESIGN CHOICE (log 43): its result lands before the slots
before it have executed in every slice, and so it takes at issue the numbers that are its own in program order as far as it can
see: those after the draws and loads that slots in flight have still to make, with what they would meet now. Its generators
advance in slice k at t + k (`cvtbAdvance`). -/
def drawWhole (s : State) (rnd : Rnd) (w : Nat) (gt : BitVec 128) : List Nat :=
  (List.range 8).flatMap fun k =>
    if rnd = .rs then
      (drawElems w (elemOn w (sliceOf gt k)) (512 / w) 0 (granE 32 (s.flight.foldl (foreseenGen s k) (s.reg (.gen k))))).1
    else List.replicate (512 / w) 0

/-- The generators that a CVTB advances in the slice of the frame, whose guards `gt` keeps, and its way to the next slice. -/
def cvtbAdvance (i : Instr) (r : Rnd) (w : Nat) (s : State) : State :=
  if r ≠ .rs then s
  else ((s.draws .rs w (512 / w) s.fr.slice (elemOn w (sliceOf s.fr.gt s.fr.slice))).2).nextSlice i s.fr

/-- CVTB encoding FP to blocks (05 R109, 03 R66). -/
def cvtbEncode (s : State) (F : Fmt) (dx4 : Bool) (r : Rnd) (gt : BitVec 128) (d a : Nat) : State :=
  let w := F.width
  let n := 4096 / w
  let v := wholeReg s a
  let on := fun j => gt.getLsbD (j * w / 32)
  let xs := (List.range n).map fun j => if on j then F.decode (v / 2 ^ (w * j) % 2 ^ w) else FV.fin false 0 0
  let us := drawWhole s r w gt
  let bw := if dx4 then 4 else 8
  let blocks := (List.range (n / 64)).map fun b =>
    dxEncode dx4 r ((xs.drop (64 * b)).take 64) ((us.drop (64 * b)).take 64)
  let img := (blocks.zipIdx.map fun e =>
    packE bw e.1.1 * 2 ^ (8 * (e.2 * 8 * bw)) + e.1.2.1 * 2 ^ (8 * (448 + 2 * e.2)) + e.1.2.2.1 * 2 ^ (8 * (449 + 2 * e.2))).foldl (· + ·) 0
  let fl := (blocks.map fun b => b.2.2.2).foldl flOr 0
  let s := landWhole s d 4 gt img
  let s := s.fpFlags fl (s.fr.t + 11) (s.fr.t + 11)
  amaxList s ((List.range n).filterMap fun j => if on j then some (amaxIn (xs.getD j (.nan false))) else none) (s.fr.t + 11)

/-- CVTB decoding blocks to FP (05 R109, 03 R65): exact, no flag. -/
def cvtbDecode (s : State) (F : Fmt) (dx4 : Bool) (gt : BitVec 128) (d a : Nat) : State :=
  let w := F.width
  let n := 4096 / w
  let v := wholeReg s a
  let bw := if dx4 then 4 else 8
  let vals := (List.range n).map fun j =>
    let b := j / 64
    dxVal dx4 (v / 2 ^ (8 * (448 + 2 * b)) % 256) (v / 2 ^ (8 * (449 + 2 * b)) % 256)
      (v / 2 ^ (b * 64 * bw + bw * (j % 64)) % 2 ^ bw)
  let img := packE w (vals.map fun x => (F.ofFV .rn 0 false x).1)
  let s := landWhole s d 4 gt img
  amaxList s ((List.range n).filterMap fun j =>
    if gt.getLsbD (j * w / 32) then some (amaxIn (vals.getD j (.nan false))) else none) (s.fr.t + 11)

/-- CVTB (05 R109): reads every slice and every guard at t; one that draws advances the generators of slice k at t + k. Dock cores have
no DX4 (21 R351). -/
def execCvtb (g : Guard) (bf dx4 dec : Bool) (r : Rnd) (d a : Nat) (s : State) : Result :=
  let i := Instr.cvtb g bf dx4 dec r d a
  let F := if bf then Fmt.bf16 else Fmt.f32
  if s.fr.slice ≠ 0 then .next (cvtbAdvance i r F.width s)
  else
    let gt := s.allGuards g
    if dx4 && (s.gangOf s.fr.x).dock && gt != 0 then .next (s.raiseIssue 22 (BitVec.ofNat 64 s.fr.bits))
    else if dec then .next (cvtbDecode s F dx4 gt d a)
    else
      let s := cvtbEncode s F dx4 r gt d a
      .next (cvtbAdvance i r F.width { s with fr := { s.fr with gt := gt } })

/-- CVTG (05 R110): four G4 groups expanded to BF16. AMAX takes the exact products. DESIGN CHOICE (log 73): NS also for the NaN
that an infinite scale gives a weight equal to the zero point. -/
def execCvtg (g : Guard) (d a : Nat) (s : State) : Result :=
  let gt := s.allGuards g
  let v := wholeReg s a
  let ex := (List.range 256).map fun j =>
    let gr := j / 64
    let scale := v / 2 ^ (8 * (128 + 4 * gr)) % 65536
    let z := v / 2 ^ (8 * (130 + 4 * gr)) % 16
    g4Exact scale z (v / 2 ^ (256 * gr + 4 * (j % 64)) % 16)
  let res := ex.map fun e => Fmt.bf16.finish .rn 0 e
  let on := fun j => gt.getLsbD (j / 2)
  let fl := (res.zipIdx.map fun e => if on e.2 then e.1.2 else 0).foldl flOr 0
  let s := landWhole s d 4 gt (packE 16 (res.map (·.1)))
  let s := s.fpFlags fl (s.fr.t + 11) (s.fr.t + 11)
  .next (amaxList s ((ex.zipIdx.filter fun e => on e.2).map fun e => amaxIn e.1.1) (s.fr.t + 11))

/-- AMAXR (05 R111): reads AMAX at t, clears it when lane 0's guard is true, and lands the value in lane pairs. A later slot of the bundle
reads the cleared register (DESIGN CHOICE, log 103). -/
def execAmaxr (g : Guard) (d : Nat) (s : State) : Result :=
  let k := s.fr.slice
  let s := if k = 0 then
      let c := s.ctx s.fr.x
      let s1 := { s with fr := { s.fr with cap := c.amax } }
      if s.onceGuard g then
        { s1.setCtx s.fr.x { c with amax := 0 } with undo := ⟨s.fr.x, s.fr.hnd, s.fr.ord, .creg 16 c.amax, 0⟩ :: s.undo }
      else s1
    else s
  laneSlot (.amaxr g d) g 64 2 d (fun _ => eGran 64 (List.replicate 8 s.fr.cap.toNat)) s

/-- The width of a PACK field (05 R112). -/
def packWidth (w : Nat) : Nat := 2 ^ (w + 2)

/-- PACK (05 R112): vd is read in the execution cycle. -/
def execPack (g : Guard) (w p d a : Nat) (s : State) : Result :=
  let W := packWidth w
  laneSlot (.pack g w p d a) g 32 2 d
    (fun k => map2 32 (fun z x => z - (z / 2 ^ (W * p) % 2 ^ W) * 2 ^ (W * p) + x % 2 ^ W * 2 ^ (W * p)) (s.vget d k) (s.vget a k)) s

/-- UNPK (05 R112): a field, zero-extended. -/
def execUnpk (g : Guard) (w p d a : Nat) (s : State) : Result :=
  let W := packWidth w
  laneSlot (.unpk g w p d a) g 32 2 d (fun k => map1 32 (fun x => x / 2 ^ (W * p) % 2 ^ W) (s.vget a k)) s

/-- SEED (05 R113): the generators of the guarded lanes from the SEED register, in place at the end of the cycle. -/
def execSeed (g : Guard) (s : State) : Result :=
  let k := s.fr.slice
  let s := if k = 0 then { s with fr := { s.fr with cap := (s.ctx s.fr.x).seed } } else s
  .next ((s.push (s.fr.t + k) (.seedGen k (seedSlice s.fr.cap k) (laneBits (s.laneGuard g k)))).nextSlice (.seed g) s.fr)

/-- SEED va (05 R113): each generator from its lane of va, a zero lane replaced. -/
def execSeedFromVector (g : Guard) (a : Nat) (s : State) : Result :=
  let k := s.fr.slice
  .next ((s.push (s.fr.t + k) (.seedGen k (map1 32 (fun x => if x = 0 then 0x6D2B79F5 else x) (s.vget a k))
    (laneBits (s.laneGuard g k)))).nextSlice (.seedFromVector g a) s.fr)

end Sys2Proof.Machine
end

