-- ==== Sys2Proof/Machine/Rearrange.lean ====
section
/-! DEFINITION. ZIP, UZP, PERM, SLIDE and the streams (05 R114 to R117, 04 R82, R83). -/

namespace Sys2Proof.Machine

/-- Several destination registers of a rearrangement, each under its own lanes' guards, three cycles later. -/
def landGroup (s : State) (d k : Nat) (gm : LaneMask) (l : List Gran) : State :=
  l.zipIdx.foldl (fun s e => s.landV (d + e.2) k e.1 (laneBits gm) (s.fr.t + k + 3)) s

/-- The slices of `m` consecutive registers as element lists. -/
def groupE (s : State) (w a m k : Nat) : List (List Nat) := (List.range m).map fun j => granE w (s.vget (a + j) k)

/-- Interleaving of sources: z[m i + j] is source j's element i; register r gets z[r n ..] (05 R114). -/
def zipE (w : Nat) (src : List (List Nat)) : List Gran :=
  let n := 512 / w
  let m := src.length
  (List.range m).map fun r => eGran w ((List.range n).map fun i =>
    let p := r * n + i
    (src.getD (p % m) []).getD (p / m) 0)

/-- De-interleaving: register j gets z[m i + j] of the sources in order (05 R114). -/
def uzpE (w : Nat) (src : List (List Nat)) : List Gran :=
  let n := 512 / w
  let m := src.length
  (List.range m).map fun j => eGran w ((List.range n).map fun i =>
    let p := m * i + j
    (src.getD (p / n) []).getD (p % n) 0)

/-- A rearrangement slot over its sources' elements. -/
def rearrSlot (i : Instr) (g : Guard) (d : Nat) (val : Nat → List Gran) (s : State) : Result :=
  let k := s.fr.slice
  .next ((landGroup s d k (s.laneGuard g k) (val k)).nextSlice i s.fr)

/-- ZIP2 (05 R114). -/
def execZip2 (g : Guard) (z : ESize) (d a b : Nat) (s : State) : Result :=
  rearrSlot (.zip2 g z d a b) g d (fun k => zipE z.width [granE z.width (s.vget a k), granE z.width (s.vget b k)]) s

/-- ZIP3 (05 R114). -/
def execZip3 (g : Guard) (z : ESize) (d a : Nat) (s : State) : Result :=
  rearrSlot (.zip3 g z d a) g d (fun k => zipE z.width (groupE s z.width a 3 k)) s

/-- ZIP4 (05 R114). -/
def execZip4 (g : Guard) (z : ESize) (d a : Nat) (s : State) : Result :=
  rearrSlot (.zip4 g z d a) g d (fun k => zipE z.width (groupE s z.width a 4 k)) s

/-- UZP2 (05 R114). -/
def execUzp2 (g : Guard) (z : ESize) (d a b : Nat) (s : State) : Result :=
  rearrSlot (.uzp2 g z d a b) g d (fun k => uzpE z.width [granE z.width (s.vget a k), granE z.width (s.vget b k)]) s

/-- UZP3 (05 R114). -/
def execUzp3 (g : Guard) (z : ESize) (d a : Nat) (s : State) : Result :=
  rearrSlot (.uzp3 g z d a) g d (fun k => uzpE z.width (groupE s z.width a 3 k)) s

/-- UZP4 (05 R114). -/
def execUzp4 (g : Guard) (z : ESize) (d a : Nat) (s : State) : Result :=
  rearrSlot (.uzp4 g z d a) g d (fun k => uzpE z.width (groupE s z.width a 4 k)) s

/-- PERM of one slice (05 R115). -/
def permE (w : Nat) (a b : Gran) : Gran :=
  let n := 512 / w
  let src := granE w a
  eGran w ((List.range n).map fun i =>
    let x := b.toNat / 2 ^ (8 * i) % 256
    if 0x80 ≤ x then 0 else src.getD (x % n) 0)

/-- PERM (05 R115). Each lane of a 64-bit element goes by its own guard (DESIGN CHOICE, log 103). -/
def execPerm (g : Guard) (z : ESize) (d a b : Nat) (s : State) : Result :=
  laneSlot (.perm g z d a b) g 32 3 d (fun k => permE z.width (s.vget a k) (s.vget b k)) s

/-- The last slice that a destination slice of a slide waits for: its own, or the eastern ones it reads. -/
def slideNeed (n : Int) (k : Nat) : Nat :=
  if n < 0 then Nat.min 7 (((16 * k + 15 : Int) - n) / 16).toNat else k

/-- The lanes of destination slice `k` of a slide over the lanes read so far (05 R116). -/
def slideSlice (n : Int) (src : BitVec 4096) (k : Nat) : Gran :=
  eGran 32 ((List.range 16).map fun (l : Nat) =>
    let p : Int := (16 * k + l : Int) - n
    if 0 ≤ p ∧ p ≤ 127 then src.toNat / 2 ^ (32 * p.toNat) % 2 ^ 32 else 0)

/-- SLIDE (05 R116): slice j of va and the guards of slice j are read at t + j; slice k lands at
t + k + 3 + ceil(|n| / 16). -/
def execSlide (g : Guard) (d a : Nat) (n : Int) (s : State) : Result :=
  let k := s.fr.slice
  let s := { s with fr := { s.fr with
    capv := withGran s.fr.capv k (s.vget a k)
    gt := s.fr.gt ||| BitVec.ofNat 128 ((s.laneGuard g k).toNat * 2 ^ (16 * k)) } }
  let lat := 3 + (n.natAbs + 15) / 16
  let s := (List.range 8).foldl (fun s j =>
    if slideNeed n j = k then
      s.landV d j (slideSlice n s.fr.capv j) (laneBits (sliceOf s.fr.gt j)) (s.fr.t + j + lat)
    else s) s
  .next (s.nextSlice (.slide g d a n) s.fr)

/-- The boundary register that slice `k` drives on stream `st`, if the row has one there (04 R82). -/
def outBoundary (st k : Nat) : Option Nat :=
  if st < 4 then (if k < 7 then some (7 * st + k) else none) else (if 0 < k then some (7 * st + (k - 1)) else none)

/-- The boundary register that slice `k` taps on stream `st`. -/
def inBoundary (st k : Nat) : Option Nat :=
  if st < 4 then (if 0 < k then some (7 * st + (k - 1)) else none) else (if k < 7 then some (7 * st + k) else none)

/-- A drive in slice `k`: the boundary's lanes can be read from the next cycle on (04 R82). -/
def driveSlice (s : State) (st k : Nat) (v : Gran) (gm : LaneMask) : State :=
  match outBoundary st k with
  | some j => s.push (s.fr.t + k + 1) (.reg (.strm j) v (laneBits gm))
  | none => s

/-- What a tap reads in slice `k`; zero at the row's edge. -/
def tapSlice (s : State) (st k : Nat) : Gran :=
  match inBoundary st k with
  | some j => s.reg (.strm j)
  | none => 0

/-- DRV (05 R117). -/
def execDrv (g : Guard) (st a : Nat) (s : State) : Result :=
  let k := s.fr.slice
  .next ((driveSlice s st k (s.vget a k) (s.laneGuard g k)).nextSlice (.drv g st a) s.fr)

/-- TAP (05 R117). -/
def execTap (g : Guard) (d st : Nat) (s : State) : Result :=
  laneSlot (.tap g d st) g 32 2 d (fun k => tapSlice s st k) s

/-- XCP (05 R117): drives and taps one stream in one slot. -/
def execXcp (g : Guard) (d st a : Nat) (s : State) : Result :=
  let k := s.fr.slice
  let gm := s.laneGuard g k
  let v := tapSlice s st k
  .next (((driveSlice s st k (s.vget a k) gm).landV d k v (laneBits gm) (s.fr.t + k + 2)).nextSlice (.xcp g d st a) s.fr)

end Sys2Proof.Machine
end

