-- ==== Sys2Proof/Machine/Transducer.lean ====
section
/-! DEFINITION. The digit transducers and their charts (06 R120 to R139). -/

namespace Sys2Proof.Machine

/-- The memory key of chart slot `n` in slice `k` of a core: each slice holds its copy (06 R121). -/
def chartKey (core k n : Nat) : Nat := (Place.chart core).key ((4 * k + n) * 576)

/-- The attribute word of a chart copy (06 R122). -/
def chartAttr (s : State) (core k n : Nat) : Nat := s.seenMem.readN (chartKey core k n + 512) 4

/-- Entry `i` of a chart copy. -/
def chartEntry (s : State) (core k n i : Nat) : Nat := s.seenMem.readN (chartKey core k n + 2 * i) 2

/-- Final entry of state `q`. -/
def chartFinal (s : State) (core k n q : Nat) : Nat := s.seenMem.readN (chartKey core k n + 516 + 2 * q) 2

/-- Fields of an attribute word (06 R124). -/
def attrW (a : Nat) : Nat := a % 4
def attrDir (a : Nat) : Bool := bit a 7
def attrAr (a : Nat) : Bool := bit a 8
def attrFin (a : Nat) : Bool := bit a 9
def attrStart (a : Nat) : Nat := fld a 15 12

/-- An illegal attribute word (06 R124). -/
def attrBad (a : Nat) : Bool :=
  attrW a == 0 || (attrAr a && attrW a == 3) || fld a 31 16 != 0 || fld a 11 10 != 0 || fld a 6 2 != 0

/-- Digits per lane word (06 R120). -/
def digits (w : Nat) : Nat := 32 / w

/-- The walk latency (06 R120). -/
def walkLat (w : Nat) : Nat := 4 + (digits w + 3) / 4

/-- An invalid entry met in a walk: digit position, state and the two digits. -/
structure WalkFault where
  j : Nat
  st : Nat
  da : Nat
  db : Nat
  deriving DecidableEq, Repr

/-- One lane's walk over the digit positions of a list (06 R129): state, output, last FL[0], or the first invalid
entry. `entry` gives entry `i` of the chart. -/
def walk (entry : Nat → Nat) (ar : Bool) (w x y : Nat) : List Nat → Nat → Nat → Bool → (Nat × Nat × Bool) ⊕ WalkFault
  | [], st, o, fin => .inl (st, o, fin)
  | j :: js, st, o, _ =>
    let a := x / 2 ^ (w * j) % 2 ^ w
    let b := if ar then y / 2 ^ (w * j) % 2 ^ w else 0
    let e := entry (if ar then st * 16 + a * 4 + b else st * 8 + a)
    if bit e 15 then walk entry ar w x y js (fld e 14 11) (o + (fld e 10 8 % 2 ^ w) * 2 ^ (w * j)) (bit e 4)
    else .inr ⟨j, st, a, b⟩

/-- The digit positions in walk order. -/
def walkOrder (dir : Bool) (n : Nat) : List Nat := if dir then (List.range n).reverse else List.range n

/-- The chart fault of a transducer slot (06 R134). -/
def State.chartFault (s : State) (kind slot : Nat) (rest D : Nat) : State :=
  s.raiseExec 8 (BitVec.ofNat 64 (kind * 2 ^ 52 + slot * 2 ^ 50 + rest)) 0 D

/-- The checks of a transducer slot before its lanes: KIND 2, 3 and 4 (06 R121, R124, R129). -/
def chartCheck (c : Ctx) (attr n : Nat) (arity : Option Bool) : Option Nat :=
  if !c.chartIn n then some 2
  else if attrBad attr then some 3
  else match arity with
    | some a => if a != attrAr attr then some 4 else none
    | none => none

/-- FINFO's lane fields for faulting lanes of slice `k` (06 R134). -/
def walkInfo (k : Nat) (fs : List (Nat × WalkFault)) : Nat :=
  match fs with
  | [] => 0
  | (l, f) :: _ =>
    k * 2 ^ 47 + ((fs.map fun e => 2 ^ e.1).foldl (· + ·) 0) * 2 ^ 31 + l * 2 ^ 27 + f.j * 2 ^ 22 + f.st * 2 ^ 18
      + f.da * 2 ^ 15 + f.db * 2 ^ 13

/-- A slice's DSR states put together. -/
def packDsr (l : List Nat) : Gran := BitVec.ofNat 512 (packE 4 l)

/-- Lane guards over DSR's 4-bit fields. -/
def dsrBits (gm : LaneMask) : Gran :=
  BitVec.ofNat 512 (((List.range 16).map fun l => if gm.getLsbD l then 15 * 2 ^ (4 * l) else 0).foldl (· + ·) 0)

/-- The DSR states of slice `k`. -/
def dsrStates (s : State) (k : Nat) : List Nat := elems 4 16 (s.reg (.dsr k)).toNat

/-- A walk in its slice (06 R129): `land` lands the output digits and the last flags. A slot with a faulting lane
lands nothing anywhere; its fault is detected at t + 7 + latency (10 R218), of an unallotted slot with the W of its attribute word (log
44). -/
def walkSlot (i : Instr) (g : Guard) (n a b : Nat) (arity : Option Bool)
    (land : State → Nat → List Nat → LaneMask → LaneMask → Nat → State) (s : State) : Result :=
  let k := s.fr.slice
  let core := coreOf s.fr.x
  let attr := chartAttr s core k n
  let gm := s.laneGuard g k
  let lat := walkLat (if attrW attr = 0 then 1 else attrW attr)
  let D := s.fr.t + 7 + lat
  let on := (List.range 16).filter fun l => gm.getLsbD l
  if on.isEmpty then .next (s.nextSlice i s.fr)
  else
    match chartCheck ((s.ctx s.fr.x).asIssued s.fr) attr n arity with
    | some kind => .next ((s.chartFault kind n 0 D).nextSlice i s.fr)
    | none =>
      let w := attrW attr
      let va := granE 32 (s.vget a k)
      let vb := granE 32 (s.vget b k)
      let st := dsrStates s k
      let rs := (List.range 16).map fun l =>
        walk (chartEntry s core k n) (attrAr attr) w (va.getD l 0) (vb.getD l 0) (walkOrder (attrDir attr) (digits w)) (st.getD l 0) 0 false
      let bad := on.filterMap fun l => match rs.getD l (.inl (0, 0, false)) with
        | .inr f => some (l, f)
        | .inl _ => none
      if bad.isEmpty then
        let ok := rs.map fun r => match r with
          | .inl p => p
          | .inr _ => (0, 0, false)
        let due := s.fr.t + k + lat
        let s := s.push due (.reg (.dsr k) (packDsr (ok.map (·.1))) (dsrBits gm))
        let lasts := BitVec.ofNat 16 ((ok.zipIdx.map fun e => if e.1.2.2 then 2 ^ e.2 else 0).foldl (· + ·) 0)
        .next ((land s k (ok.map fun e => e.2.1) lasts gm due).nextSlice i s.fr)
      else .next ((s.chartFault 0 n (walkInfo k bad) D).nextSlice i s.fr)

/-- DTX (06 R129). -/
def execDtx (g : Guard) (n d a b : Nat) (s : State) : Result :=
  walkSlot (.dtx g n d a b) g n a b (some true) (fun s k o _ gm due => s.landV d k (eGran 32 o) (laneBits gm) due) s

/-- DTU (06 R129). -/
def execDtu (g : Guard) (n d a : Nat) (s : State) : Result :=
  walkSlot (.dtu g n d a) g n a a (some false) (fun s k o _ gm due => s.landV d k (eGran 32 o) (laneBits gm) due) s

/-- DTC (06 R129): either arity; the pair receives FL[0] of the last transition and its complement. -/
def execDtc (g : Guard) (n pp a b : Nat) (s : State) : Result :=
  walkSlot (.dtc g n pp a b) g n a b none (fun s k _ lasts gm due => landPair s pp k lasts gm due) s

/-- DTS (06 R131): DSR and a register change places. -/
def execDts (g : Guard) (d a : Nat) (s : State) : Result :=
  let k := s.fr.slice
  let gm := s.laneGuard g k
  let due := s.fr.t + k + 2
  let s := s.push due (.reg (.dsr k) (packDsr ((granE 32 (s.vget a k)).map fun x => x % 16)) (dsrBits gm))
  .next ((s.landV d k (eGran 32 (dsrStates s k)) (laneBits gm) due).nextSlice (.dts g d a) s.fr)

/-- DTZ (06 R132): START into DSR. -/
def execDtz (g : Guard) (n : Nat) (s : State) : Result :=
  let k := s.fr.slice
  let attr := chartAttr s (coreOf s.fr.x) k n
  let gm := s.laneGuard g k
  if gm = 0 then .next (s.nextSlice (.dtz g n) s.fr)
  else
    match chartCheck ((s.ctx s.fr.x).asIssued s.fr) attr n none with
    | some kind => .next ((s.chartFault kind n 0 (s.fr.t + 9)).nextSlice (.dtz g n) s.fr)
    | none =>
      .next ((s.push (s.fr.t + k + 2) (.reg (.dsr k) (packDsr (List.replicate 16 (attrStart attr))) (dsrBits gm))).nextSlice
        (.dtz g n) s.fr)

/-- DTQ (06 R133): the final-state action. -/
def execDtq (g : Guard) (n d : Nat) (s : State) : Result :=
  let k := s.fr.slice
  let core := coreOf s.fr.x
  let attr := chartAttr s core k n
  let gm := s.laneGuard g k
  let D := s.fr.t + 11
  let on := (List.range 16).filter fun l => gm.getLsbD l
  if on.isEmpty then .next (s.nextSlice (.dtq g n d) s.fr)
  else
    match chartCheck ((s.ctx s.fr.x).asIssued s.fr) attr n none with
    | some kind => .next ((s.chartFault kind n 0 D).nextSlice (.dtq g n d) s.fr)
    | none =>
      let st := dsrStates s k
      let fs := st.map (chartFinal s core k n)
      let bad := (on.filter fun l => !bit (fs.getD l 0) 15).map fun l => (l, (⟨0, st.getD l 0, 0, 0⟩ : WalkFault))
      if bad.isEmpty then
        let due := s.fr.t + k + 4
        let s := s.landV d k (eGran 32 (fs.map fun f => fld f 7 4 * 16 + fld f 10 8)) (laneBits gm) due
        let s := if attrFin attr then
            s.push due (.reg (.dsr k) (packDsr (List.replicate 16 (attrStart attr))) (dsrBits gm)) else s
        .next (s.nextSlice (.dtq g n d) s.fr)
      else .next ((s.chartFault 1 n (walkInfo k bad) D).nextSlice (.dtq g n d) s.fr)

/-- DTLD (06 R126): the image is read at t + 2 and comes into force in slice k at t + 12 + k. Of several checks that fail the first in the
order 0, 4, 2, 1 gives the reason (DESIGN CHOICE, log 90). -/
def execDtld (g : Guard) (n a : Nat) (imm : Int) (s : State) : Result :=
  onceSlot g s fun s =>
    let c := s.ctx s.fr.x
    let addr := ((s.sget a).toInt + imm * 64) % 2 ^ 32
    let ad := addr.toNat
    let slotFault := fun (s : State) => s.raiseIssue 8 (BitVec.ofNat 64 (2 * 2 ^ 52 + n * 2 ^ 50))
    if ad % 64 ≠ 0 then s.berthBound 0 0 ad
    else match ownOnly c ad 576 with
      | some r => s.berthBound r 0 ad
      | none =>
        if !c.chartIn n then slotFault s
        else (s.push (s.fr.t + 2) (.dtld n ((Place.berth (coreOf s.fr.x)).key ad))).notePerf (s.fr.t + 2)

end Sys2Proof.Machine
end

