-- ==== Sys2Proof/Machine/Berth.lean ====
section
/-! DEFINITION. Berth loads and stores, gathers and scatters, rings and atomics (08 R167 to R174). -/

namespace Sys2Proof.Machine

/-- The address of a form-J access (08 R169): s[a] + disp * unit modulo 2^32. -/
def jAddr (s : State) (a : Nat) (disp unit : Int) : Nat := (((s.sget a).toInt + disp * unit) % 2 ^ 32).toNat

/-- A load of slice `k` (0 for a scalar) from the own berth under the interlock lands at the later of count t + 4 and
six cycles after issue (10 R232); any other load lands at t + k + land, and reads its bytes at t + k + read. -/
def loadAt (s : State) (c : Cold) (k : Nat) (l : Loc) (srcs : List (Nat × Nat × Nat)) (mask : Gran) : State :=
  if c.land = 6 && s.ci && !s.fr.hnd then
    (s.push (s.fr.t + k + 4) (.load l srcs mask) 1 (s.clk s.fr.x false + k + 6)).notePerf (s.fr.t + k + 6)
  else if c.read = c.land then (s.push (s.fr.t + k + c.land) (.load l srcs mask)).notePerf (s.fr.t + k + c.land)
  else (s.push (s.fr.t + k + c.read) (.fetch l srcs mask (s.fr.t + k + c.land))).notePerf (s.fr.t + k + c.land)

/-- An own-berth load noted for the interlock: register code, issue count, cycle of its landing (10 R232). -/
def noteCi (s : State) (reg : Nat) (c : Cold) : State :=
  if c.land = 6 && s.ci then
    let l := (reg, s.fr.t, s.clk s.fr.x s.fr.hnd + 6)
    s.updCtx s.fr.x fun k => if s.fr.hnd then { k with ciLoadsH := k.ciLoadsH ++ [l] } else { k with ciLoads := k.ciLoads ++ [l] }
  else s

/-- The lowest lane of a guard word. -/
def lowLane (g : BitVec 128) : Nat := ((List.range 128).filter fun l => g.getLsbD l).headD 0

/-- The checks of a 512-byte access (08 R169): alignment, then bounds. -/
def vecAccess (s : State) (ad : Nat) : Cold ⊕ Nat := if ad % 64 ≠ 0 then .inr 0 else coldAccess s s.fr.x ad 512

/-- The words that the lanes of a slice read from the 64 bytes at `key`: all of them as one where every lane does. -/
def laneSrcs (key : Nat) (g : LaneMask) : List (Nat × Nat × Nat) :=
  if g = 0xFFFF then [(key, 64, 0)] else ((List.range 16).filter fun l => g.getLsbD l).map fun l => (key + 4 * l, 4, 4 * l)

/-- VLD (08 R169): addresses and guards are read at t; a lane whose guard is false takes no part. -/
def execVld (g : Guard) (d a : Nat) (disp : Int) (s : State) : Result :=
  let gt := s.allGuards g
  let ad := jAddr s a disp 64
  if gt = 0 then .next s
  else match vecAccess s ad with
    | .inr r => .next (s.berthBound r (lowLane gt) ad)
    | .inl c =>
      let s := ((List.range 8).filter fun k => sliceOf gt k != 0).foldl (fun s k =>
        loadAt s c k (.v (physV s.fr.rbv d) k) (laneSrcs (c.key + 64 * k) (sliceOf gt k)) (laneBits (sliceOf gt k))) s
      .next (noteCi s (32 + physV s.fr.rbv d) c)

/-- The byte enables of a slice's lanes. -/
def laneBytes (g : LaneMask) : Nat :=
  ((List.range 16).map fun l => if g.getLsbD l then 15 * 2 ^ (4 * l) else 0).foldl (· + ·) 0

/-- The last slice with a true guard, of slices 0 to 7. -/
def lastSlice (gt : BitVec 128) : Nat := (((List.range 8).filter fun k => sliceOf gt k != 0).getLast?).getD 0

/-- VST in slice `k` after its check: the data is read at t + k and performs at the access's offset from there. -/
def vstSlice (g : Guard) (d a : Nat) (disp : Int) (c : Cold) (s : State) : State :=
  let k := s.fr.slice
  let s := if sliceOf s.fr.gt k = 0 then s else
    s.push (s.fr.t + k + c.perf) (.store (c.key + 64 * k) 64 (s.vget d k).toNat (laneBytes (sliceOf s.fr.gt k))) c.pri
  s.nextSlice (.vst g d a disp) s.fr

/-- VST (08 R169): address and guards are read and checked at t, and its last perform is known there (08 R179). -/
def execVst (g : Guard) (d a : Nat) (disp : Int) (s : State) : Result :=
  if s.fr.slice ≠ 0 then .next (vstSlice g d a disp (coldPlace s.fr.x s.fr.cap.toNat) s)
  else
    let gt := s.allGuards g
    let ad := jAddr s a disp 64
    if gt = 0 then .next s
    else match vecAccess s ad with
      | .inr r => .next (s.berthBound r (lowLane gt) ad)
      | .inl c => .next (vstSlice g d a disp c ({ s with fr := { s.fr with gt := gt, cap := BitVec.ofNat 64 ad } }.notePerf
          (s.fr.t + lastSlice gt + c.perf)))

/-- The checks of a scalar access of `n` bytes aligned to `n`. -/
def scalarAccess (s : State) (ad n : Nat) : Cold ⊕ Nat := if ad % n ≠ 0 then .inr 0 else coldAccess s s.fr.x ad n

/-- LDS (08 R169). -/
def execLds (g : Guard) (d a : Nat) (disp : Int) (s : State) : Result :=
  onceSlot g s fun s =>
    let ad := jAddr s a disp 8
    match scalarAccess s ad 8 with
    | .inr r => s.berthBound r 0 ad
    | .inl c => noteCi (loadAt s c 0 (.s d) [(c.key, 8, 0)] allBits) d c

/-- STS (08 R169). -/
def execSts (g : Guard) (d a : Nat) (disp : Int) (s : State) : Result :=
  onceSlot g s fun s =>
    let ad := jAddr s a disp 8
    match scalarAccess s ad 8 with
    | .inr r => s.berthBound r 0 ad
    | .inl c => (s.push (s.fr.t + c.perf) (.store c.key 8 (s.sget d).toNat (allBytes 8)) c.pri).notePerf (s.fr.t + c.perf)

/-- The check of one lane word of a gather or scatter (08 R170): only the own berth. -/
def laneCheck (c : Ctx) (ad : Nat) : Option Nat := if ad % 4 ≠ 0 then some 0 else ownOnly c ad 4

/-- The lanes with a true guard, with their addresses. -/
def laneAddrs (gt : BitVec 128) (f : Nat → Nat) : List (Nat × Nat) :=
  ((List.range 128).filter fun l => gt.getLsbD l).map fun l => (l, f l % 2 ^ 32)

/-- The first lane whose address fails its check, with the reason. -/
def laneFault (c : Ctx) : List (Nat × Nat) → Option (Nat × Nat × Nat)
  | [] => none
  | (l, ad) :: r =>
    match laneCheck c ad with
    | some reason => some (l, ad, reason)
    | none => laneFault c r

/-- A gather: every lane address is checked at issue, and the words land six cycles after their slice's execution. -/
def gather (s : State) (g : Guard) (d : Nat) (f : Nat → Nat) : State :=
  let gt := s.allGuards g
  let c := s.ctx s.fr.x
  let as := laneAddrs gt f
  match laneFault c as with
  | some (l, ad, r) => s.berthBound r l ad
  | none =>
    let cold : Cold := ⟨0, 6, 6, 2, 4, 8, 0⟩
    let key := fun ad => (Place.berth (coreOf s.fr.x)).key (ad % 2 ^ 16)
    if as.isEmpty then s
    else
      let s := ((List.range 8).filter fun k => sliceOf gt k != 0).foldl (fun s k =>
        loadAt s cold k (.v (physV s.fr.rbv d) k)
          ((as.filter fun e => e.1 / 16 == k).map fun e => (key e.2, 4, 4 * (e.1 % 16))) (laneBits (sliceOf gt k))) s
      noteCi s (32 + physV s.fr.rbv d) cold

/-- VLDS (08 R170): lane L reads a + L * b. -/
def execVlds (g : Guard) (d a b : Nat) (s : State) : Result :=
  .next (gather s g d fun l => (s.sget a).toNat + l * (s.sget b).toNat)

/-- VLDX (08 R170): lane L reads a + vb[L], with vb read at t in every slice. -/
def execVldx (g : Guard) (d a b : Nat) (s : State) : Result :=
  let v := wholeReg s b
  .next (gather s g d fun l => (s.sget a).toNat + v / 2 ^ (32 * l) % 2 ^ 32)

/-- The lane addresses of a VSTX by what it has captured at t. -/
def vstxAddrs (s : State) : List (Nat × Nat) :=
  laneAddrs s.fr.gt fun l => s.fr.cap.toNat + s.fr.capv.toNat / 2 ^ (32 * l) % 2 ^ 32

/-- VSTX in a slice after its check: the data of slice k is read at t + k; lanes of one slice that name one word leave the highest
lane's value. -/
def vstxSlice (g : Guard) (d a b : Nat) (s : State) : State :=
  let k := s.fr.slice
  let v := (s.vget d k).toNat
  let s := ((vstxAddrs s).filter fun e => e.1 / 16 == k).foldl (fun s e =>
    s.push (s.fr.t + k + 2) (.store ((Place.berth (coreOf s.fr.x)).key (e.2 % 2 ^ 16)) 4 (v / 2 ^ (32 * (e.1 % 16)) % 2 ^ 32) 15) 0) s
  s.nextSlice (.vstx g d a b) s.fr

/-- VSTX (08 R170): guards and addresses are read and checked at t. -/
def execVstx (g : Guard) (d a b : Nat) (s : State) : Result :=
  if s.fr.slice ≠ 0 then .next (vstxSlice g d a b s)
  else
    let s := { s with fr := { s.fr with gt := s.allGuards g, cap := s.sget a, capv := BitVec.ofNat 4096 (wholeReg s b) } }
    match laneFault (s.ctx s.fr.x) (vstxAddrs s) with
    | some (l, ad, r) => .next (s.berthBound r l ad)
    | none =>
      if s.fr.gt = 0 then .next s else .next (vstxSlice g d a b (s.notePerf (s.fr.t + lastSlice s.fr.gt + 2)))

/-- RSET (08 R173): at t + 1; the tiles must lie inside the berth allotment. -/
def execRset (g : Guard) (ring a : Nat) (s : State) : Result :=
  onceSlot g s fun s =>
    let w := s.sget a
    let r := Ring.ofWord w
    match ownBound (s.ctx s.fr.x) (r.base * 64) ((r.depth + 1) * (r.size + 1) * 64) with
    | some reason => s.berthBound reason 0 (r.base * 64)
    | none => s.push (s.fr.t + 1) (.rset ring w) 0

/-- RPUSH (08 R173): claims and publishes one tile, both at t + 2. -/
def execRpush (g : Guard) (ring : Nat) (s : State) : Result :=
  onceSlot g s fun s => s.push (s.fr.t + 2) (.claimPush ring) 5

/-- RINFO (08 R173): the state at t, landing at t + 1. -/
def execRinfo (g : Guard) (d ring : Nat) (s : State) : Result :=
  scalarSlot g d 1 (fun s => ((s.ctx s.fr.x).ring ring).word) s

/-- The bytes of an atomic's width. -/
def atomBytes : AtomW → Nat
  | .i32 | .n32 | .f32 => 4
  | .i64 | .n64 => 8

/-- The new value of an atomic and its flags (08 R174). -/
def atomNew (op : AtomOp) (w : AtomW) (old b d : Nat) : Nat × Nat :=
  let n := 8 * atomBytes w
  let sg := w == .i32 || w == .i64
  let v := intVal sg n
  match op with
  | .add => if w = .f32 then Fmt.f32.add .rn 0 old b else ((old + b) % 2 ^ n, 0)
  | .and => (Nat.land old b, 0)
  | .or => (Nat.lor old b, 0)
  | .xor => (Nat.xor old b, 0)
  | .min => (if v b < v old then b else old, 0)
  | .max => (if v old < v b then b else old, 0)
  | .xchg => (b, 0)
  | .cas => (if old = d then b else old, 0)

/-- The old value as it lands: extended by the width. -/
def atomOld (w : AtomW) (old : Nat) : Word :=
  match w with
  | .i32 => BitVec.ofInt 64 (intVal true 32 old)
  | _ => BitVec.ofNat 64 old

/-- ATOM (08 R174). -/
def execAtom (g : Guard) (op : AtomOp) (w : AtomW) (d a b : Nat) (s : State) : Result :=
  onceSlot g s fun s =>
    let ad := (s.sget a).toNat % 2 ^ 32
    match scalarAccess s ad (atomBytes w) with
    | .inr r => s.berthBound r 0 ad
    | .inl c =>
      ((s.push (s.fr.t + c.aPerf) (.atom op w c.key (s.sget b) (s.sget d) d (s.fr.t + c.aLand)) c.pri).notePerf
        (s.fr.t + c.aPerf)).noteEff (s.fr.t + c.aLand)

end Sys2Proof.Machine
end

