-- ==== Sys2Proof/Machine/Lock.lean ====
section
/-! DEFINITION. The lock calendar and the crossings (07 R149 to R151, 08 R175 to R178, R183). -/

namespace Sys2Proof.Machine

/-! ### The calendar (07 R149, R150) -/

/-- The period of a core's slots and the length of a rotation, inbound or outbound. -/
def slotPeriod (out : Bool) : Int × Int := if out then (256, 256) else (64, 128)

/-- The last start of a slot of core `c` at or before TIDE `T`. -/
def slotBefore (c : Nat) (out : Bool) (T : Int) : Int :=
  let p := (slotPeriod out).1
  T - (T - 8 * ((c : Int) % (p / 8))) % p

/-- Whether the slot starting at TIDE `S` lies in a rotation that the bits of `lk` hold. -/
def rotHeld (lk : Nat) (out : Bool) (S : Int) : Bool := bit lk (S / (slotPeriod out).2 % 4).toNat

/-- The next `n` starts from `S` on that lie in held rotations and that no crossing of `held` has taken. -/
def pickSlots (lk : Nat) (out : Bool) (held : List Int) : Nat → Nat → Int → List Int
  | 0, _, _ => []
  | _, 0, _ => []
  | fuel + 1, n + 1, S =>
    if rotHeld lk out S && !held.contains S then S :: pickSlots lk out held fuel n (S + (slotPeriod out).1)
    else pickSlots lk out held fuel (n + 1) (S + (slotPeriod out).1)

/-- The starts, as TIDEs, of the slots that crossings of context `x` hold in a direction, as a bundle of the program or
of the handler meets them (R224). -/
def ownSlots (s : State) (x : Nat) (hnd out : Bool) : List Int :=
  let g := s.gangOf x
  ((s.ctx x).crossings.filter fun c => c.out == out).flatMap fun c =>
    if c.kind = .bulk then c.slots
    else if c.hnd == hnd then c.slots.map fun S => (s.cal x hnd : Int) + (S - s.clk c.fr.x hnd)
    else if hnd then (c.slots.filter fun (S : Int) => decide (S < (g.cyc : Int))).map fun S => ((if g.dock then g.cyc else g.TF : Nat) : Int) - (g.cyc - S)
    else []

/-- The same of the other contexts of the core: the slots of a save or a restore are TIDEs, those of other crossings counts of a
clock that runs. -/
def otherSlots (s : State) (x : Nat) (out : Bool) : List Int :=
  if (s.gangOf x).dock then []
  else ((List.range 4).map fun i => x / 4 * 4 + i).flatMap fun y =>
    if y = x then []
    else ((s.ctx y).crossings.filter fun c => c.out == out).flatMap fun c =>
      if c.kind = .bulk then c.slots
      else if s.clockRuns c.fr.x c.hnd then c.slots.map fun S => (s.tide : Int) + (S - s.clk c.fr.x c.hnd)
      else []

/-- The slots of a core that a crossing issued now by context `x` cannot take: slots of different crossings never meet (07 R150). -/
def heldSlots (s : State) (x : Nat) (hnd out : Bool) : List Int := ownSlots s x hnd out ++ otherSlots s x out

/-- The slots of a crossing of `n` slots that the act in hand issued at TIDE `T`, as counts of its clock. -/
def slotsFrom (s : State) (lk : Nat) (out : Bool) (n : Nat) (T : Int) : List Int :=
  let x := s.fr.x
  let b := slotBefore (coreOf x) out T
  let first := if T - b < 8 then b else b + (slotPeriod out).1
  let held := heldSlots s x s.fr.hnd out
  (pickSlots lk out held (8 * (n + held.length + 2)) n first).map fun S => S - (s.cal x s.fr.hnd : Int) + (s.clk x s.fr.hnd : Int)

/-- The slots of a crossing of `n` slots issued now by the act in hand. -/
def takeSlots (s : State) (lk : Nat) (out : Bool) (n : Nat) : List Int := slotsFrom s lk out n (s.cal s.fr.x s.fr.hnd)

namespace State

/-- A value of the calendar's clock as a schedule count: the interlock's null bundles so far taken off (10 R232). -/
def toSch (s : State) (v : Nat) : Nat := v - (s.clk s.fr.x s.fr.hnd - s.now s.fr.x s.fr.hnd)

/-- An act of the calendar at clock value `S`: in this cycle when the slot has started, else at its start. -/
def atSlot (s : State) (S : Int) (i : Instr) (fr : Frame) : State :=
  if S ≤ s.clk fr.x fr.hnd then { s with agenda := s.agenda ++ [⟨i, fr⟩] } else s.flyClk S.toNat i fr

/-- A crossing entered with its slots: one LOCK_SLOT act for each. Its record goes once its last slot has ended. -/
def cross (s : State) (kind : CrossKind) (out : Bool) (lk src dst bytes : Nat) : State :=
  let n := (bytes + 63) / 64
  let slots := takeSlots s lk out n
  let p := s.fresh
  let id := p.1
  let s := p.2
  let k : Int := s.clk s.fr.x s.fr.hnd
  let fr := { s.fr with id := id }
  let s := s.updCtx s.fr.x fun c => { c with
    crossings := c.crossings.filter (fun e => e.hnd != fr.hnd || decide (e.next < e.slots.length) ||
        decide ((if e.fr.x = fr.x then k else s.clk e.fr.x e.hnd) < e.slots.getLastD 0 + 8)) ++
      [⟨id, fr.hnd, fr.ord, fr, kind, out, src, dst, bytes, slots, 0, []⟩] }
  let s := { s with fr := fr }
  let s := slots.foldl (fun s S => s.atSlot S (.lockSlot fr.x id) fr) s
  let d : Crossing := ⟨id, fr.hnd, fr.ord, fr, kind, out, src, dst, bytes, slots, 0, []⟩
  let last := s.toSch (slots.getLastD 0 + d.lat).toNat
  s.notePerf last

/-- The outbound crossings that the context in hand issued after a slot and of which no slot has started take their slots anew, and what
they have scheduled moves with them (08 R183, R189): `enter` is made of the state without them. -/
def reslot (s : State) (enter : State → State) : State :=
  let fr := s.fr
  let x := fr.x
  let mine := fun (k : Crossing) => k.out && k.hnd == fr.hnd && k.fr.x == x && k.kind != .bulk && decide (fr.ord < k.ord) && k.next == 0
  let ks := (s.ctx x).crossings.filter mine
  let s := s.updCtx x fun c => { c with crossings := c.crossings.filter fun k => !mine k }
  let s := enter { s with flight := s.flight.filter fun f => !(ks.any fun k => f.act.i == .lockSlot x k.id) }
  { ks.foldl (fun s k =>
    let T : Int := (s.cal x k.hnd : Int) - ((s.now x k.hnd : Int) - k.fr.t)
    let slots := slotsFrom { s with fr := k.fr } (s.ctx x).lk true k.slots.length T
    let moved := fun (e : Eff) =>
      if e.fr.id != k.id || e.fr.x != x then e
      else match (k.slots.zip slots).find? fun p => p.1 + 160 == ((if e.run = 0 then e.due else e.run : Nat) : Int) with
        | some p => if e.run = 0 then { e with due := (p.2 + 160).toNat } else { e with run := (p.2 + 160).toNat }
        | none => e
    let s := { s with pend := s.pend.map moved }
    let s := s.updCtx x fun c => { c with crossings := c.crossings ++ [{ k with slots := slots }] }
    slots.foldl (fun s S => s.atSlot S (.lockSlot x k.id) k.fr) s) s with fr := fr }

/-- A crossing of the context with its number. -/
def crossing (s : State) (x id : Nat) : Option Crossing := (s.ctx x).crossings.find? fun c => c.id == id

end State

/-- The charge of a crossing, in wb: 8 per inbound and 32 per outbound byte (07 R152). -/
def crossWb (out : Bool) (bytes : Nat) : Nat := (if out then 32 else 8) * bytes

/-- The timing fault of a crossing in a context that holds no slot (07 R149). -/
def State.noLock (s : State) : State :=
  s.raiseIssue 7 (BitVec.ofNat 64 (s.fromAnchor s.fr.t * (2 ^ 32 + 1)))

/-- The quay-bound fault (10 R218 code 5). -/
def State.quayBound (s : State) (tile : Bool) (n : Nat) : State :=
  s.raiseIssue 5 (if tile then 1 else 0) (BitVec.ofNat 64 n)

/-- The checks that the crossings of one quay register share, and then `f` with the context's LK: the bound, what
the crossing itself checks, then the calendar. -/
def quayCross (s : State) (q : Nat) (own : State → Option State) (f : Nat → State → State) : State :=
  let c := s.ctx s.fr.x
  if !c.quayIn q then s.quayBound false q
  else match own s with
    | some s => s
    | none => if c.lk = 0 then s.noLock else f c.lk s

/-- The bytes of a crossing's size code. -/
def crossBytes (sz : Nat) : Nat := 2 ^ (sz + 3)

/-- XIN (08 R176). -/
def execXin (g : Guard) (v q sz : Nat) (s : State) : Result :=
  onceSlot g s fun s => quayCross s q (fun _ => none) fun lk s =>
    s.cross (.xin (physV s.fr.rbv v)) false lk ((Place.quay (coreOf s.fr.x)).key (512 * q)) 0 (crossBytes sz)

/-- XOUT (08 R176): slice j of the register is read at t + j and performs in the quay 160 counts after slot j
starts. -/
def execXout (g : Guard) (v q sz : Nat) (s : State) : Result :=
  let j := s.fr.slice
  let dst := (Place.quay (coreOf s.fr.x)).key (512 * q)
  let b := crossBytes sz
  let put := fun (s : State) (k : Crossing) =>
    let n := Nat.min 64 (b - 64 * j)
    let S := k.slots.getD j 0
    let s := s.pushClk (S + 160).toNat (.store (dst + 64 * j) n (s.reg (.v (physV s.fr.rbv v) j)).toNat (allBytes n)) 0
    if 64 * (j + 1) < b ∧ j < 7 then s.nextSlice (.xout g v q sz) s.fr else s
  if j = 0 then
    onceSlot g s fun s => quayCross s q (fun _ => none) fun lk s =>
      let s := s.cross (.xout v) true lk 0 dst b
      match s.crossing s.fr.x s.fr.id with
      | some k => put s k
      | none => s
  else
    match s.crossing s.fr.x s.fr.id with
    | some k => .next (put s k)
    | none => .next s

/-- The contexts that XINM delivers to (08 R177). -/
def xinmTargets (x : Nat) (scope : XmScope) (mask : Nat) : List Nat :=
  let c := coreOf x
  let cores := match scope with
    | .clu => (List.range 4).filterMap fun i => if bit mask i then some (c / 4 * 4 + i) else none
    | .die => (List.range 128).filterMap fun i => if bit mask (i % 4) then some (c / 128 * 128 + i) else none
  cores.map fun k => k * 4 + x % 4

/-- Whether a context is a member of the gang of context `x`. -/
def sameGang (s : State) (x y : Nat) : Bool := (s.ctx y).resident && (s.ctx y).gang == (s.ctx x).gang

/-- Whether a cluster-berth granule lies in the union of the windows of a gang's contexts on the cluster (15 R254). -/
def inUnion (s : State) (gang clu g : Nat) : Bool :=
  (s.gang gang).members.any fun y =>
    clusterOf (coreOf y) == clu && decide ((s.ctx y).cbBase ≤ 64 * g ∧ 64 * g + 64 ≤ (s.ctx y).cbBase + (s.ctx y).cbLen)

/-- XINM (08 R177): the targets must belong to the issuing gang. -/
def execXinm (g : Guard) (scope : XmScope) (v q mask : Nat) (s : State) : Result :=
  onceSlot g s fun s =>
    if !((xinmTargets s.fr.x scope mask).all fun y => sameGang s s.fr.x y) then s.privilege 5
    else quayCross s q (fun _ => none) fun lk s =>
      s.cross (.xinm (scope == .die) mask (physV s.fr.rbv v)) false lk ((Place.quay (coreOf s.fr.x)).key (512 * q)) 0 512

/-- The claim that a replayed XINR finds kept (08 R178): only the slot of a re-entry bundle replays. -/
def keptClaim (s : State) (ring : Nat) : Option (Nat × Nat) :=
  if s.fr.re then
    let r := (s.ctx s.fr.x).ring ring
    match r.kept.find? fun e => e.slot == s.fr.addr * 4 + s.fr.slot with
    | some e => if r.claims.contains (e.tile, e.id, false) then some (e.tile, e.id) else none
    | none => none
  else none

/-- A claim of a tile of a ring at issue: the tile, the claim's number, and the state after it; none when the ring is
full (08 R172). -/
def claimTile (s : State) (x ring : Nat) : Option (Nat × Nat × State) :=
  let p := s.fresh
  match ((s.ctx x).ring ring).claim p.1 with
  | none => none
  | some (tile, r) => some (tile, p.1, p.2.updCtx x fun c => c.setRing ring r)

/-- The ring-overflow fault at issue (10 R218 code 14). -/
def State.ringOver (s : State) (ring : Nat) : State := s.raiseIssue 14 (BitVec.ofNat 64 ring)

/-- XINR (08 R178): the tile is claimed at issue, or the kept claim written again. -/
def execXinr (g : Guard) (ring q sz : Nat) (s : State) : Result :=
  onceSlot g s fun s =>
    let b := crossBytes sz
    let r := (s.ctx s.fr.x).ring ring
    let src := (Place.quay (coreOf s.fr.x)).key (512 * q)
    let full := (keptClaim s ring).isNone && r.count + r.claims.length == r.depth + 1
    quayCross s q (fun s => if 64 * (r.size + 1) < b || full then some (s.ringOver ring) else none) fun lk s =>
      match keptClaim s ring with
      | some (tile, id) =>
        let s := s.updCtx s.fr.x fun c =>
          c.setRing ring { r with kept := r.kept.filter fun e => e.id != id }
        s.cross (.xinr ring tile id) false lk src ((Place.berth (coreOf s.fr.x)).key (r.tileByte tile)) b
      | none =>
        match claimTile s s.fr.x ring with
        | none => s.ringOver ring
        | some (tile, id, s) =>
          s.cross (.xinr ring tile id) false lk src ((Place.berth (coreOf s.fr.x)).key (r.tileByte tile)) b

/-- The checks of a crossing between a latch and a tile (08 R176). -/
def latchCross (s : State) (lat h : Nat) (f : Nat → State → State) : State :=
  let c := s.ctx s.fr.x
  if !c.latchIn lat then s.privilege 2
  else if !c.tileIn h then s.quayBound true h
  else if c.lk = 0 then s.noLock
  else f c.lk s

/-- XINA (08 R176). -/
def execXina (g : Guard) (lat h : Nat) (s : State) : Result :=
  onceSlot g s fun s => latchCross s lat h fun lk s =>
    s.cross (.xina lat) false lk ((Place.acc (coreOf s.fr.x)).key (4096 * h)) ((Place.latch (coreOf s.fr.x)).key (4096 * lat)) 4096

/-- XOUTA (08 R176). -/
def execXouta (g : Guard) (lat h : Nat) (s : State) : Result :=
  onceSlot g s fun s => latchCross s lat h fun lk s =>
    s.cross (.xouta lat) true lk ((Place.latch (coreOf s.fr.x)).key (4096 * lat)) ((Place.acc (coreOf s.fr.x)).key (4096 * h)) 4096

/-- XCAL (07 R151): the calendar phase at issue. -/
def execXcal (g : Guard) (d : Nat) (s : State) : Result :=
  scalarSlot g d 1 (fun s =>
    let c := coreOf s.fr.x
    let T : Int := s.cal s.fr.x s.fr.hnd
    let oph := ((T - 8 * ((c % 32 : Nat) : Int)) % 256).toNat
    let iph := ((T - 8 * ((c % 8 : Nat) : Int)) % 64).toNat
    BitVec.ofNat 64 (c * 2 ^ 32 + (s.ctx s.fr.x).lk * 2 ^ 16 + oph * 2 ^ 8 + iph)) s

/-! ### A slot (07 R150, 08 R175) -/

/-- Whether the granule of a quay or accumulator-store key is poisoned (18 R309). -/
def State.poisoned (s : State) (key : Nat) : Bool := s.poison.contains (key / 64)

namespace State

/-- No store carries an error mark. -/
def noMarks (s : State) : Bool := s.ecc.isEmpty && s.poison.isEmpty && s.soft.isEmpty

/-- The first berth word of a list with an uncorrectable error. -/
def badWord (s : State) (keys : List Nat) : Option Nat := keys.find? fun k => SMap.get 0 s.ecc (k / 8) == 2

/-- The words that `n` bytes at a key lie in. -/
def wordsOf (key n : Nat) : List Nat := (List.range ((key % 8 + n + 7) / 8)).map fun i => key / 8 * 8 + 8 * i

/-- The first byte of a range whose parity has failed. -/
def failedByte (s : State) (key n : Nat) : Option Nat :=
  if s.soft.isEmpty then none else (List.range n).find? fun i => (s.failed (.mem (key + i))).isSome

end State

/-- FBND of the poison fault: 512 N + 64 granule, or from 0x20_0000 for a tile (18 R311). -/
def poisonAddr (key : Nat) : Nat :=
  let off := key % 2 ^ 64
  if (key / 2 ^ 64) % 16 = 3 then 0x200000 + off / 64 * 64 else off / 64 * 64

/-- The bit mask of the low `n` bytes of a granule. -/
def lowBytes (n : Nat) : Gran := BitVec.ofNat 512 (2 ^ (8 * n) - 1)


end Sys2Proof.Machine
end

