-- ==== Sys2Proof/Machine/Latch.lean ====
section
/-! DEFINITION. Latches and the transposer as slots reach them (09 R192 to R194, R209, R210). -/

namespace Sys2Proof.Machine

/-- The latch check of an M-class slot (07 R145): a latch outside AMASK raises the privilege fault. -/
def latchSlot (lat : Nat) (s : State) (f : State → State) : State :=
  if (s.ctx s.fr.x).latchIn lat then f s else s.privilege 2

/-- The latch bytes that slice `k` of MPOP and MPSH moves (09 R193). -/
def latchRowKey (core lat grp k : Nat) : Nat :=
  (Place.latch core).key (4096 * lat + 128 * (4 * grp + k / 2) + 64 * (k % 2))

/-- MZERO (09 R193). -/
def execMzero (g : Guard) (lat : Nat) (s : State) : Result :=
  onceSlot g s fun s => latchSlot lat s fun s =>
    s.push (s.fr.t + 2) (.landMem ((Place.latch (coreOf s.fr.x)).key (4096 * lat)) 4096 0 (allBytes 4096))

/-- A slot whose guard is read once and that works in every slice: the guard and the check in slice 0, then `f` in
each slice. -/
def everySlice (i : Instr) (g : Guard) (lat : Nat) (s : State) (f : State → Nat → State) : Result :=
  let go := fun (s : State) => (f s s.fr.slice).nextSlice i s.fr
  if s.fr.slice = 0 then onceSlot g s fun s => latchSlot lat s go else .next (go s)

/-- MPOP (09 R193): reads at t + k and lands at t + k + 8. -/
def execMpop (g : Guard) (v lat grp : Nat) (s : State) : Result :=
  everySlice (.mpop g v lat grp) g lat s fun s k =>
    s.landV v k (BitVec.ofNat 512 (s.seenMem.readN (latchRowKey (coreOf s.fr.x) lat grp k) 64)) allBits (s.fr.t + k + 8)

/-- MPSH (09 R193): lands in the latch at t + k + 4. -/
def execMpsh (g : Guard) (v lat grp : Nat) (s : State) : Result :=
  everySlice (.mpsh g v lat grp) g lat s fun s k =>
    s.push (s.fr.t + k + 4) (.landMem (latchRowKey (coreOf s.fr.x) lat grp k) 64 (s.vget v k).toNat (allBytes 64))

/-! ### The transposer (09 R209, R210) -/

/-- The check of the transposer: it belongs with the latches. -/
def transOk (s : State) : Bool := (s.ctx s.fr.x).allotF 59 52 != 0

/-- TRN (09 R209): the rows are in T from t + 10. -/
def execTrn (g : Guard) (a grp : Nat) (s : State) : Result :=
  let k := s.fr.slice
  if k = 0 && !transOk s && s.allGuards g != 0 then .next (s.privilege 2)
  else
    let key := (Place.trans (coreOf s.fr.x)).key (128 * (4 * grp + k / 2) + 64 * (k % 2))
    .next ((s.push (s.fr.t + 10) (.landMem key 64 (s.vget a k).toNat (laneBytes (s.laneGuard g k)))).nextSlice (.trn g a grp) s.fr)

/-- What TRNO gives slice `k` of row group `grp`: lane l is T[16 (k mod 2) + l][4 grp + k div 2]. -/
def transCol (s : State) (grp k : Nat) : Gran :=
  eGran 32 ((List.range 16).map fun l =>
    s.mem.readN ((Place.trans (coreOf s.fr.x)).key (128 * (16 * (k % 2) + l) + 4 * (4 * grp + k / 2))) 4)

/-- TRNO (09 R209): T is read at t, and slice k lands at t + k + 2. -/
def execTrno (g : Guard) (d grp : Nat) (s : State) : Result :=
  if s.fr.slice = 0 && !transOk s && s.allGuards g != 0 then .next (s.privilege 2)
  else
    let s := if s.fr.slice = 0 then
        { s with fr := { s.fr with capv := (List.range 8).foldl (fun v k => withGran v k (transCol s grp k)) 0 } } else s
    laneSlot (.trno g d grp) g 32 2 d (fun k => granOf s.fr.capv k) s

end Sys2Proof.Machine
end

