-- ==== Sys2Proof/Machine/Warm.lean ====
section
/-! DEFINITION. Warm memory: addresses, page tables, windows and the calendar's access counts (18 R298 to R301, R305);
the records that pilots write (21 R358, 23 R384); and the slack wave (22 R375 to R380). -/

namespace Sys2Proof.Machine

/-! ### Addresses (18 R298 to R300) -/

/-- The memory key of a warm physical address; none beyond its target. -/
def physKey (pa : Nat) : Option Nat :=
  let off := pa % 2 ^ 48
  match pa / 2 ^ 48 with
  | 0 => if off < 2 ^ 40 then some (Place.hbm.key off) else none
  | 1 => some (Place.tier.key off)
  | 2 => some (Place.host.key off)
  | 3 => some (Place.host.key (2 ^ 48 + off))
  | _ => none

/-- The place of HBM granule `g` (18 R304): its bank class, channel, stack, quay die and row. -/
def hbmBank (g : Nat) : Nat := g % 16
def hbmChannel (g : Nat) : Nat := g / 16 % 512
def hbmStack (g : Nat) : Nat := hbmChannel g / 32
def hbmDie (g : Nat) : Nat := hbmChannel g / 128
def hbmRow (g : Nat) : Nat := g / 8192

/-- The group of 8 rows of one bank of one channel that a granule lies in, as activation stamps are kept (18 R308). -/
def rowGroup (g : Nat) : Nat := hbmRow g / 8 * 8192 + g % 8192

/-- What a walk yields: the page's physical address, its size, W and STG. -/
structure Leaf where
  pa   : Nat
  size : Nat
  w    : Bool
  stg  : Bool
  deriving DecidableEq, Repr

/-- The reserved bits of a page-table entry. -/
def pteReserved (e : Nat) : Bool := fld e 63 52 != 0 || fld e 11 5 != 0 || bit e 2

/-- One level of the walk of `va` through the table at `base`; `lv` levels are left, 4 at the start. -/
def walkFrom (m : Memory) (va : Nat) : Nat → Nat → Option Leaf
  | 0, _ => none
  | lv + 1, base =>
    let idx := match lv + 1 with
      | 4 => fld va 45 41
      | 3 => fld va 40 33
      | 2 => fld va 32 25
      | _ => fld va 24 16
    if 2 ^ 40 ≤ base then none
    else
      let e := m.readN (Place.hbm.key (base + 8 * idx)) 8
      let pa := fld e 51 12 * 4096
      if !bit e 0 || pteReserved e then none
      else if bit e 3 then
        match lv + 1 with
        | 2 => if fld e 24 12 = 0 then some ⟨pa, 2 ^ 25, bit e 1, bit e 4⟩ else none
        | 1 => if fld e 15 12 = 0 then some ⟨pa, 2 ^ 16, bit e 1, bit e 4⟩ else none
        | _ => none
      else walkFrom m va lv pa

/-- The walk of a virtual address of a process (18 R299). -/
def State.walk (s : State) (proc va : Nat) : Option Leaf :=
  if va / 2 ^ 46 ≠ 0 then none
  else match SMap.get 0 s.mod.procs proc with
    | 0 => none
    | t + 1 => walkFrom s.mem va 4 t

/-- The physical address of a virtual one. -/
def State.virtPhys (s : State) (proc va : Nat) : Option Nat := (s.walk proc va).map fun l => l.pa + va % l.size

/-- The memory key of a virtual address of a process. -/
def State.virtKey (s : State) (proc va : Nat) : Option Nat := (s.virtPhys proc va).bind physKey

/-- The extent of a window that covers a virtual address. -/
def coverOf (w : List Extent) (va : Nat) : Option Extent :=
  if va / 2 ^ 46 ≠ 0 then none else w.find? fun e => decide (e.va ≤ va / 2 ^ 16 ∧ va / 2 ^ 16 < e.va + e.len)

/-- The physical address of a virtual one inside an extent. -/
def Extent.phys (e : Extent) (va : Nat) : Nat := (e.pa + (va / 2 ^ 16 - e.va)) * 2 ^ 16 + va % 2 ^ 16

/-- The check of one granule (18 R301): the KIND of the failure, if it fails. `ns` says whether the command is a
CE.CXL. -/
def granuleKind (w : List Extent) (va : Nat) (write ns : Bool) : Option Nat :=
  if va / 2 ^ 46 ≠ 0 then some 4
  else match coverOf w va with
    | none => some 0
    | some e => if write && !e.w then some 1 else if e.ns && !ns then some 2 else if !e.ns && ns then some 3 else none

/-- The first granule of a list that fails: its index, its address, and KIND. -/
def firstBad (w : List Extent) (write ns : Bool) : Nat → List Nat → Option (Nat × Nat × Nat)
  | _, [] => none
  | i, va :: r =>
    match granuleKind w va write ns with
    | some k => some (i, va, k)
    | none => firstBad w write ns (i + 1) r

/-- FINFO of the translation fault (18 R301). -/
def transInfo (gran kind : Nat) : Word := BitVec.ofNat 64 (Nat.min gran 0xFFFF * 256 + kind)

/-! ### Bytes of warm memory -/

namespace State

/-- The error of a word as a read finds it: 1 correctable, also where its write-back has been cancelled, 2 uncorrectable. -/
def wordEcc (s : State) (w : Nat) : Nat := if SMap.get 0 s.ecc w = 3 then 1 else SMap.get 0 s.ecc w

/-- The worst error of the words of granule `g` (18 R309). -/
def granuleEcc (s : State) (g : Nat) : Nat :=
  if s.ecc.isEmpty then 0 else ((List.range 8).map fun i => s.wordEcc (8 * g + i)).foldl Nat.max 0

/-- Which of `n` bytes at a key a write under `mask` reaches: a part of a poisoned HBM granule, or of a berth word with an
uncorrectable error, is discarded (18 R310, 08 R168). -/
def openBytes (s : State) (key n mask : Nat) : Nat :=
  if s.poison.isEmpty && s.ecc.isEmpty then mask
  else
    let whole := fun (a m : Nat) => (List.range m).all fun i => decide (key ≤ a + i ∧ a + i < key + n) && bit mask (a + i - key)
    (List.range n).foldl (fun a i =>
      let k := key + i
      let hbm := k / 2 ^ 64 == Place.hbm.code
      let shut := if hbm then (s.poison.contains (k / 64) || s.granuleEcc (k / 64) == 2) && !whole (k / 64 * 64) 64
        else SMap.get 0 s.ecc (k / 8) == 2 && !whole (k / 8 * 8) 8
      if bit mask i && !shut then a + 2 ^ i else a) 0

/-- The marks that stand after a write of `n` bytes under `mask`: what is written whole, a granule or a word, loses its poison and its
errors, and a part written into a word corrects it as the word is read first (08 R168, 18 R310). The other words of a quay granule keep
their errors, but a write-back of the granule that is on its way is cancelled (18 R312). -/
def clearMarks (s : State) (key n mask : Nat) : State :=
  if s.poison.isEmpty && s.ecc.isEmpty then s
  else
    let hits := fun (a : Nat) => decide (key ≤ a ∧ a < key + n) && bit mask (a - key)
    let whole := fun (a m : Nat) => (List.range m).all fun i => hits (a + i)
    let some_ := fun (a m : Nat) => (List.range m).any fun i => hits (a + i)
    let kept := s.ecc.filter fun e =>
      let a := if 8 * e.1 / 2 ^ 64 = Place.hbm.code then (8 * e.1 / 64 * 64, 64) else (8 * e.1, 8)
      !(if e.2 = 2 then whole a.1 a.2 else some_ a.1 a.2)
    { s with
      poison := s.poison.filter fun g => !whole (64 * g) 64
      ecc := kept.map fun e => (e.1, if e.2 = 1 && quayPlace (8 * e.1) && some_ (8 * e.1 / 64 * 64) 64 then 3 else e.2) }
where
  /-- Whether a key lies in a quay or an accumulator store. -/
  quayPlace (key : Nat) : Bool := key / 2 ^ 64 != Place.hbm.code && (key / 2 ^ 64 % 16 == 2 || key / 2 ^ 64 % 16 == 3)

/-- Bytes written at a key at once, outside every slot. -/
def poke (s : State) (key n val : Nat) : State :=
  ({ s with mem := s.mem.writeN key n val (s.openBytes key n (allBytes n)) }.clearMarks key n (allBytes n)).freshen
    (Spot.inBytes key n (allBytes n))

/-- A write of the host or of a pilot: it performs after the accesses of its cycle, or of the next when they are over (18 R307, R310).
`rep` is what an error record says of it when a part of a bad granule is discarded: a partition and its service (log 79). -/
def pilotWrite (s : State) (key n val : Nat) (rep : Option (Nat × Nat)) : State :=
  s.later outside pilotRank (.poke key n val rep)
where
  /-- Its place among the writes of its cycle. -/
  pilotRank : Nat := 2 ^ 20 + 1

/-! ### Host memory (19 R321) -/

/-- Whether a key lies in host memory. -/
def hostKey (key : Nat) : Bool := key / 2 ^ 64 == Place.host.code

/-- Whether an effect is a write of the host to host memory. A pilot's write names a service above all queues. -/
def hostWrites : Effect → Bool
  | .poke key _ _ (some (_, q)) => hostKey key && decide (q < 2 ^ 16)
  | _ => false

/-- The host's writes to host memory that it has made so far, plus 1: what a tail-pointer write finds (19 R321). -/
def hostSeen (s : State) : Nat := s.mod.hostLog.length + (s.pend.filter fun e => hostWrites e.act).length + 1

/-- Host memory as it stood at a tail-pointer write, with what the module has written since; `rel` = 0 takes it as it stands. -/
def hostMem (s : State) (rel : Nat) : Memory :=
  if rel = 0 then s.mem
  else (s.mod.hostLog.take (s.mod.hostLog.length + 1 - rel)).foldl (fun m w => m.writeN w.key w.n w.old w.mask) s.mem

/-- The module writes `n` bytes at a key: what an earlier host write replaced there counts no more. -/
def hostCover (s : State) (key n : Nat) : State :=
  if !hostKey key || s.mod.hostLog.isEmpty then s
  else s.updMod fun m => { m with hostLog := m.hostLog.map fun w =>
    { w with mask := ((List.range w.n).filter fun i => bit w.mask i && !decide (key ≤ w.key + i ∧ w.key + i < key + n)).foldl (fun a i => a + 2 ^ i) 0 } }

/-- A flag set by a pilot, a post or the outside: it comes after every write and every clear of its cycle (08 R179, 20 R337). -/
def setLate (s : State) (f : FlagFile) (n setter : Nat) : State :=
  if s.phase = .manage then
    (s.setFlag f n true).updMod fun m => { m with setters := SMap.put 0 m.setters (flagKey f n) setter }
  else s.later outside (2 ^ 20 + 3) (.flagIn f n setter)

/-- Memory as a pilot sees it, with its own writes of this cycle. -/
def pilotMem (s : State) : Memory :=
  s.pend.foldl (fun m e => match e.act with
    | .poke key n val _ => m.writeN key n val (allBytes n)
    | _ => m) s.mem

/-- Bytes of a process as a pilot reads them; zero where the address translates nowhere. -/
def peekVirt (s : State) (proc va n : Nat) : Nat :=
  match s.virtKey proc va with
  | some k => s.pilotMem.readN k n
  | none => 0

/-! ### The launch clock (20 R334) -/

/-- Launch-clock time now, in ns. -/
def clock (s : State) : Nat := s.mod.tau0 + (s.tide - s.mod.T0) * 2 ^ 20 / Nat.max 1 s.mod.rate

/-- TIDE of a launch-clock time, rounded down to a whole cycle. -/
def tideOf (s : State) (tau : Nat) : Nat :=
  if s.mod.tau0 ≤ tau then s.mod.T0 + (tau - s.mod.tau0) * s.mod.rate / 2 ^ 20
  else s.mod.T0 - ((s.mod.tau0 - tau) * s.mod.rate + 2 ^ 20 - 1) / 2 ^ 20

/-! ### Event records (21 R358) -/

/-- The partition `p`. -/
def part (s : State) (p : Nat) : Part := SMap.get {} s.mod.parts p

/-- The state with partition `p` replaced. -/
def setPart (s : State) (p : Nat) (k : Part) : State := s.updMod fun m => { m with parts := SMap.put {} m.parts p k }

/-- Whether a partition is enabled. -/
def partOn (s : State) (p : Nat) : Bool := (s.part p).pcfg.getLsbD 0

/-- An event record of a partition: the record first, then the count (19 R323). -/
def eventRec (s : State) (p type d0 d1 d2 : Nat) : State :=
  let k := s.part p
  let q := k.pevq.toNat
  if !s.partOn p then s
  else match physKey (q / 64 * 64) with
    | none => s
    | some base =>
      let i := k.evCount
      let r := type % 256 + p % 16 * 2 ^ 8 + d0 % 2 ^ 32 * 2 ^ 32 + s.tide % 2 ^ 64 * 2 ^ 64 + s.clock % 2 ^ 64 * 2 ^ 128
        + d1 % 2 ^ 64 * 2 ^ 192 + d2 % 2 ^ 64 * 2 ^ 256
      let rep := if type = 5 then none else some (p, 2 ^ 16 + type)
      let s := s.pilotWrite (base + 64 + 64 * (i % 2 ^ (q % 64))) 64 r rep
      let s := s.pilotWrite base 8 ((i + 1) % 2 ^ 32) rep
      s.setPart p { s.part p with evCount := i + 1 }

/-- The enabled partitions. -/
def partsOn (s : State) : List Nat := (List.range 16).filter s.partOn

/-- The partition of a core, by its cluster masks (21 R353). -/
def partOf (s : State) (core : Nat) : Option Nat :=
  s.partsOn.find? fun p => bit (((s.part p).clu.getD (clusterOf core / 64) 0).toNat) (clusterOf core % 64)

/-- A partition of a process: that of a queue it owns (20 R327). -/
def procPart (s : State) (proc : Nat) : Nat :=
  ((s.mod.queues.find? fun e => e.2.qcfg.toNat / 2 ^ 32 == proc).map fun e => fld e.2.qcfg.toNat 7 4).getD 0

/-- An error record (10 R231, 21 R358): bundle address, store, core and context, the address and the count; where a CXL port is to be named
it stands above the context, a host port as 32 or 33 (log 79). -/
def errorRec (s : State) (p addr store core ctx where_ sch : Nat) (port : Nat := 0) : State :=
  s.eventRec p 5 (addr % 2 ^ 11 + store % 8 * 2 ^ 11 + core % 1024 * 2 ^ 14 + ctx % 4 * 2 ^ 24 + port % 64 * 2 ^ 26) where_ sch

/-- An error record of the slot in hand: the store by its code of 10 R218, and the address. -/
def errorSlot (s : State) (store where_ : Nat) : State :=
  s.errorRec (s.gangOf s.fr.x).part s.fr.addr store (coreOf s.fr.x) (s.fr.x % 4) where_ s.schOf

/-- The code of a store in an error record (10 R218 code 11): own or cluster berth, HBM, a quay, an image in a core. -/
def storeCode (key : Nat) : Nat :=
  let p := key / 2 ^ 64
  if p = Place.hbm.code then 3
  else match p % 16 with
    | 0 => 0
    | 1 => 1
    | 2 | 3 => 4
    | _ => 5

/-- The context that an error record names for a store of the cold plane or of a quay: of a cluster the holding gang's first member
there (15 R275); none for HBM. -/
def placeCtx (s : State) (key : Nat) : Option Nat :=
  let p := key / 2 ^ 64
  if p = Place.hbm.code then none
  else if p % 16 = 1 then
    some (((s.clu (p / 16)).holding.bind fun g => (s.gang g).members.find? fun x => clusterOf (coreOf x) == p / 16).getD (16 * (p / 16)))
  else some (4 * (p / 16))

/-- An error record of a store that no slot has met, by the scrubber or a counter: to the partition of the place, or of all that
are enabled for HBM (log 79). -/
def errorPlace (s : State) (key where_ : Nat) : State :=
  match s.placeCtx key with
  | some x => (match s.partOf (coreOf x) with
    | some p => s.errorRec p 0 (storeCode key) (coreOf x) (x % 4) where_ (s.gangOf x).sch
    | none => s)
  | none => s.partsOn.foldl (fun s p => s.errorRec p 0 (storeCode key) 0 0 where_ 0) s

/-- The counter of corrected errors that a place belongs to: of a cold store, of an HBM stack, or of a quay die (10 R231, 18
R309). -/
def errKey (key : Nat) : Nat :=
  let p := key / 2 ^ 64
  if p = Place.hbm.code then 2 ^ 20 + hbmStack (key % 2 ^ 64 / 64)
  else if p % 16 = 2 ∨ p % 16 = 3 then 2 ^ 21 + p / 16 / 256
  else p

/-- An error record of a store word that the slot in hand has met: of a cluster berth whose holding gang is another, to that gang (15
R275). -/
def errorWord (s : State) (key store where_ : Nat) : State :=
  match (if key / 2 ^ 64 % 16 = 1 then s.placeCtx key else none) with
  | some x =>
    if (s.ctx x).gang = (s.ctx s.fr.x).gang then s.errorSlot store where_
    else s.errorRec (s.gangOf x).part s.fr.addr store (coreOf x) (x % 4) where_ (s.gangOf x).sch
  | none => s.errorSlot store where_

/-- A corrected error of the snapshot buffer of the core of context `x` counted, and recorded as the counter reaches its end (10 R231). -/
def countSnap (s : State) (x : Nat) : State :=
  let c := 2 ^ 22 + coreOf x
  let n := SMap.get 0 s.mod.errs c
  let s := s.updMod fun m => { m with errs := SMap.put 0 m.errs c (Nat.min (n + 1) 0xFFFF) }
  if n + 1 = 0xFFFF then s.errorRec (s.gangOf x).part 0 7 (coreOf x) (x % 4) 0 (s.gangOf x).sch else s

/-- A corrected error counted by its store, in a 16-bit counter that saturates; one that reaches its end is recorded (10 R231). -/
def countError (s : State) (key : Nat) : State :=
  let c := errKey key
  let n := SMap.get 0 s.mod.errs c
  let s := s.updMod fun m => { m with errs := SMap.put 0 m.errs c (Nat.min (n + 1) 0xFFFF) }
  if n + 1 = 0xFFFF then s.errorPlace key (key % 2 ^ 64) else s

/-- Words with a correctable error that a read has met are counted, and those of a berth written back corrected (08 R168, 10 R231). -/
def meetWords (s : State) (keys : List Nat) : State :=
  if s.ecc.isEmpty then s
  else (keys.filter fun k => s.wordEcc (k / 8) == 1).foldl (fun s k =>
    let s := s.countError k
    if k / 2 ^ 64 ≠ Place.hbm.code ∧ k / 2 ^ 64 % 16 < 2 then s.timedAt (s.tide + 1) (.correctedWriteBack k) else s) s

/-- A write of `n` bytes under `mask` that reads first, as it covers a part of a word or of an HBM granule, counts the correctable error
that it meets there (08 R168, 18 R309, R310). -/
def countPart (s : State) (key n mask : Nat) : State :=
  if s.ecc.isEmpty then s
  else
    let hits := fun (a : Nat) => decide (key ≤ a ∧ a < key + n) && bit mask (a - key)
    let unit := fun (w : Nat) => if 8 * w / 2 ^ 64 = Place.hbm.code then (8 * w / 64 * 64, 64) else (8 * w, 8)
    let part := fun (a m : Nat) => (List.range m).any (fun i => hits (a + i)) && !(List.range m).all fun i => hits (a + i)
    ((s.ecc.filter fun e => e.2 != 2 && part (unit e.1).1 (unit e.1).2).map fun e => (unit e.1).1).eraseDups.foldl countError s

/-- What a crossing issued in the cycle of its gang's resume reads of a granule that a capacity-tier copy held until G: the copy has performed
for every bundle issued from F on (08 R181, R182), while every other read of the cycle returns what stood before it (18 R307, log
86). -/
def released (s : State) (k : Crossing) (key : Nat) : Option CxlReq :=
  if k.hnd || k.fr.t != s.now k.fr.x false then none
  else (s.pend.filterMap fun e => match e.act with
    | .arrive id => if e.fr.id = (s.ctx k.fr.x).gang + 1 then s.mod.cxl.find? fun r => r.id == id && r.key == key else none
    | _ => none).getLast?

/-- An inbound slot reads its 64 bytes; a poisoned granule, or one with an uncorrectable error, raises the poison fault with D at the
slot's landing, and the error has its record (18 R311, 10 R231). -/
def inboundRead (s : State) (k : Crossing) (j land : Nat) (f : Nat → Nat → State → State) : State :=
  let n := Nat.min 64 (k.bytes - 64 * j)
  let key := k.src + 64 * j
  let poison := fun (s : State) => s.raiseExec 11 4 (BitVec.ofNat 64 (poisonAddr key)) (s.toSch land)
  match s.released k key with
  | some r => if r.poison || r.bad then poison s else f n (r.data % 2 ^ (8 * n)) s
  | none =>
    let bad := s.granuleEcc (key / 64) == 2
    if s.poisoned key || bad then
      let s := poison s
      if bad then s.errorSlot 4 (poisonAddr key) else s
    else f n (s.mem.readN key n) (s.meetWords (wordsOf key n))

/-- An activation of an HBM granule is stamped (18 R308). -/
def activate (s : State) (key : Nat) : State :=
  if key / 2 ^ 64 = Place.hbm.code then s.updMod fun m => { m with act := SMap.put 0 m.act (rowGroup (key % 2 ^ 64 / 64)) (s.tide + 1) } else s

/-- A pilot reads or writes `n` bytes at a key: the HBM granules that it meets are activated, and a correctable error of one that it reads
is counted (18 R308, R309). -/
def touch (s : State) (key n : Nat) (read : Bool := true) : State :=
  if key / 2 ^ 64 ≠ Place.hbm.code ∨ n = 0 then s
  else (List.range ((key % 64 + n + 63) / 64)).foldl (fun s i =>
    let g := key / 64 + i
    let s := s.activate (64 * g)
    if read && s.granuleEcc g == 1 then s.countError (64 * g) else s) s

/-- The page-table entries that a walk of `va` reads from the table at `base` on. -/
def walkKeys (m : Memory) (va : Nat) : Nat → Nat → List Nat
  | 0, _ => []
  | lv + 1, base =>
    let idx := match lv + 1 with
      | 4 => fld va 45 41
      | 3 => fld va 40 33
      | 2 => fld va 32 25
      | _ => fld va 24 16
    if 2 ^ 40 ≤ base then []
    else
      let key := Place.hbm.key (base + 8 * idx)
      let e := m.readN key 8
      key :: (if !bit e 0 || pteReserved e || bit e 3 then [] else walkKeys m va lv (fld e 51 12 * 4096))

/-- A pilot walks the page tables of a process for `va`. -/
def touchWalk (s : State) (proc va : Nat) : State :=
  match SMap.get 0 s.mod.procs proc with
  | 0 => s
  | t + 1 => if va / 2 ^ 46 ≠ 0 then s else (walkKeys s.mem va 4 t).foldl (fun s k => s.touch k 8) s

/-- A pilot reads `n` bytes of a process: a walk for each 64 KiB page, and the granules. -/
def touchVirt (s : State) (proc va n : Nat) : State :=
  (List.range ((va % 2 ^ 16 + n + 2 ^ 16 - 1) / 2 ^ 16)).foldl (fun s i =>
    let lo := if i = 0 then va else (va / 2 ^ 16 + i) * 2 ^ 16
    let hi := Nat.min (va + n) ((va / 2 ^ 16 + i + 1) * 2 ^ 16)
    let s := s.touchWalk proc lo
    match s.virtKey proc lo with
    | some k => s.touch k (hi - lo)
    | none => s) s

/-- Bytes of a process written by a pilot's service; an address that translates nowhere takes nothing (18 R299, R308). -/
def pokeVirt (s : State) (proc va n val : Nat) (rep : Option (Nat × Nat) := none) : State :=
  match s.virtKey proc va with
  | some k => (s.touchWalk proc va).pilotWrite k n val rep
  | none => s

/-- Poison put on a granule. -/
def poisonGranule (s : State) (g : Nat) : State := { s with poison := g :: s.poison.filter fun e => e != g }

/-- A page of 64 KiB copied, with the poison of its granules (18 R303, R311). -/
def copyPage (s : State) (src dst : Nat) : State :=
  let bad := if s.poison.isEmpty && s.ecc.isEmpty then []
    else (List.range 1024).filter fun i => s.poison.contains (src / 64 + i) || s.granuleEcc (src / 64 + i) == 2
  let s := s.poke dst (2 ^ 16) (s.mem.readN src (2 ^ 16))
  let s := (List.range 1024).foldl (fun s i => (s.activate (src + 64 * i)).activate (dst + 64 * i)) s
  bad.foldl (fun s i => s.poisonGranule (dst / 64 + i)) s

/-- A charge to the pilot account of a partition (20 R333). -/
def chargePilot (s : State) (p wb : Nat) : State := s.setPart p { s.part p with account := (s.part p).account + wb }

/-- The cold-soft-error fault of the slot in hand (04 R85, 10 R231): the file, the register, the lane and the slice that it names,
with its error record. What the snapshot buffer landed is its own file. -/
def softFault (s : State) (file num lane slice : Nat) (snap : Bool) (D : Nat) : State :=
  let f := if snap then 7 else file
  (s.raiseExec 20 (BitVec.ofNat 64 (slice + lane * 8 + num % 32 * 2 ^ 7 + f * 2 ^ 12)) 0 D).errorSlot f num

/-- The cold-soft-error fault of byte `b` of a latch. -/
def latchFault (s : State) (lat b D : Nat) : State := s.softFault 5 lat (b / 4 % 16) (b / 64 % 8) false D

/-! ### The trace (23 R384 to R389) -/

/-- A record put into a job's trace ring: it is dropped and counted when the ring is full. -/
def traceWrite (s : State) (job r : Nat) : State :=
  match SMap.find s.mod.traces job with
  | none => s
  | some t =>
    let s := s.touchVirt t.proc t.base 24
    let widx := s.peekVirt t.proc t.base 8 % 2 ^ 32
    let ridx := s.peekVirt t.proc (t.base + 8) 8 % 2 ^ 32
    let rep := some ((s.procPart t.proc), 2 ^ 16 + 2 ^ 8)
    if 2 ^ t.log ≤ (widx + 2 ^ 32 - ridx) % 2 ^ 32 then
      s.pokeVirt t.proc (t.base + 16) 8 (Nat.min (s.peekVirt t.proc (t.base + 16) 8 + 1) (2 ^ 64 - 1)) rep
    else
      let s := s.pokeVirt t.proc (t.base + 64 + 32 * (widx % 2 ^ t.log)) 32 r rep
      s.pokeVirt t.proc t.base 8 ((widx + 1) % 2 ^ 32) rep

/-- A record of a job's trace if `en` is among its enables. Those of one cycle are written together when everything else in it is over,
by core, context and type (23 R384). -/
def traceRec (s : State) (job en type addr x ts0 sch tide ts3 : Nat) : State :=
  match SMap.find s.mod.traces job with
  | none => s
  | some t =>
    if !bit t.enab en then s
    else
      let r := type + coreOf x % 1024 * 2 ^ 8 + x % 4 * 2 ^ 18 + addr % 2 ^ 11 * 2 ^ 20 + ts0 % 2 ^ 32 * 2 ^ 32
        + sch % 2 ^ 64 * 2 ^ 64 + tide % 2 ^ 64 * 2 ^ 128 + ts3 % 2 ^ 64 * 2 ^ 192
      s.later outside (2 ^ 21 + x % 4096 * 8 + type) (.trace job r)

/-- A trace record that names the bundle of the act in hand (23 R385). -/
def traceAct (s : State) (en type ts0 tide ts3 : Nat) : State :=
  s.traceRec (s.gangOf s.fr.x).job en type s.fr.addr s.fr.x ts0 s.schOf tide ts3

/-- The fault record of the trace (23 R386), written at fault entry. -/
def faultTrace (s : State) (f : PendFault) (nest : Bool) : State :=
  s.traceRec (s.gangOf f.x).job 2 4 f.addr f.x (f.code + (if f.bnd then 2 ^ 8 else 0) + f.slot * 2 ^ 9 + (if nest then 2 ^ 11 else 0))
    (if f.hnd then (s.gangOf f.x).F else f.t) s.tide f.finfo.toNat

/-! ### Members of a freeze (07 R153, 22 R376 to R379) -/

/-- The cause of a wave that freezes a context is entered: FCAUSE, FINFO, FBND and SR, or, of a step's end, FINFO and FBND beside the
cause that the wave before it left (23 R392, 24 R399, log 61). -/
def enterCause (s : State) (f : PendFault) : State :=
  let c := s.ctx f.x
  let s := s.faultTrace f c.handler.isSome
  let s := if f.code = 17 then s.updCtx f.x fun c => { c with finfo := f.finfo, fbnd := f.fbnd }
    else s.faultRecords f c.handler.isSome (s.gangOf f.x).anchor
  s.updCtx f.x fun c => { c with wave := none }

/-- A member of a gang that freezes: a bundle it has issued at this count stays issued, and the cause of a wave that
waits in it is entered when the wave is what freezes it. -/
def holdMember (s : State) (F : Nat) (wave : Bool) (x : Nat) : State :=
  let c := s.ctx x
  let s := if c.lastT = s.tide + 1 ∧ c.handler.isNone then s.updCtx x fun c => { c with nullTo := Nat.max c.nullTo (F + 1) } else s
  match (if wave then c.wave else none) with
  | some f => s.enterCause f
  | none => s

/-- A further condition for a gang that is frozen already (22 R376, 21 R359). -/
def join (s : State) (gi : Nat) (w : Why) : State :=
  let g := s.gang gi
  if g.served.contains w && g.left.contains w then s
  else
    let s := s.setGang gi { g with served := g.served ++ [w], left := g.left ++ [w], G := none }
    if w = .slack then g.members.foldl (fun s x => s.holdMember g.F true x) s else s

/-! ### Fabric jobs and the slack wave (22 R365, R375 to R380) -/

/-- The live gangs. -/
def liveGangs (s : State) : List (Nat × Gang) := s.gangs.filter fun e => e.2.live

/-- The valid fabric job table entry of a job: its two words. -/
def fjtOf (s : State) (job : Nat) : Option (Word × Word) :=
  ((List.range 16).map fun n => (SMap.get 0 s.mod.fjt (2 * n), SMap.get 0 s.mod.fjt (2 * n + 1))).find? fun e =>
    e.2.getLsbD 0 && e.1.toNat / 2 ^ 32 == job

/-- The skew bound of a job's slack wave (22 R376, R380). -/
def waveSkb (s : State) (job : Nat) : Nat :=
  match s.fjtOf job with
  | some e => e.1.toNat % 2 ^ 32
  | none => 1024

/-- This module's number. -/
def modNum (s : State) : Nat := s.mod.num

/-- The slack state of a job. -/
def slackOf (s : State) (job : Nat) : Slack := SMap.get {} s.mod.jobs job

/-- The slack state of a job replaced. -/
def setSlack (s : State) (job : Nat) (k : Slack) : State := s.updMod fun m => { m with jobs := SMap.put {} m.jobs job k }

/-- The TIDE of the next flit slot (22 R361). -/
def flitSlot (s : State) : Nat := (s.tide / 64 + 1) * 64

/-- A message that leaves on a link: in the header of the next flit, unless it names its slot (22 R361, R375). -/
def send (s : State) (m : Msg) : State :=
  s.updMod fun k => { k with out := k.out ++ [if m.slot = 0 then { m with slot := s.flitSlot } else m] }

end State

/-- The order in which one of two triggers is taken (22 R378). -/
def Slack.before (a b : Slack) : Bool :=
  decide (a.Ts < b.Ts) || (a.Ts == b.Ts && (decide (a.omod < b.omod) || (a.omod == b.omod
    && (decide (a.ocore < b.ocore) || (a.ocore == b.ocore && decide (a.octx < b.octx))))))

/-- The cause fields of a trigger over the wave state of the job. -/
def Slack.cause (w r : Slack) : Slack :=
  { w with omod := r.omod, ocore := r.ocore, octx := r.octx, addr := r.addr, code := r.code, arg := r.arg,
           sch := r.sch, Ts := r.Ts, wide := r.wide }

/-- Word 0 of a cause record (22 R377). -/
def Slack.word0 (k : Slack) : Nat :=
  k.omod % 4096 * 2 ^ 52 + k.ocore % 1024 * 2 ^ 42 + k.octx % 4 * 2 ^ 40 + k.addr % 2048 * 2 ^ 29 + k.code % 256 * 2 ^ 21
    + Nat.min k.ntrig 1023 * 2 ^ 11 + k.arg % 2048

/-- Word 3 of a cause record. -/
def Slack.word3 (k : Slack) (job : Nat) : Nat := job % 2 ^ 32 * 2 ^ 32 + k.seq % 2 ^ 30 * 4 + k.st % 4

namespace State

/-- The links toward a job's other modules. -/
def jobLinks (s : State) (job : Nat) : List Nat :=
  match s.fjtOf job with
  | some e => (List.range 16).filter fun l => e.2.getLsbD (48 + l)
  | none => []

/-- A message on every link of a job but one. -/
def sendJob (s : State) (job : Nat) (via : Option Nat) (m : Msg) : State :=
  (s.jobLinks job).foldl (fun s l => if some l = via then s else s.send { m with a := l, d := job, link := l }) s

/-- A trigger of a job's slack wave, made on this module or come on a link (22 R375, R378). One made while the job is frozen is dropped.
The first time a wave is met it goes on over the job's other links; the first of a job freezes its gangs at T_s + SKB; a further one
merges, also where it reaches the module when the job has frozen already. One that takes the place of a step's end is a wave of its own
(R379). -/
def waveIn (s : State) (job : Nat) (r : Slack) (via : Option Nat) : State :=
  let k := s.slackOf job
  let key := (r.Ts, r.omod, r.ocore, r.octx)
  let frozen := k.st == 1 || k.st == 2
  if k.seen.contains key || (frozen && decide (k.Ts + s.waveSkb job ≤ r.Ts)) then s
  else
    let s := s.sendJob job via { id := 0, kind := .wave, b := if r.wide then 1 else 0, c := r.word0,
                                 data := r.sch % 2 ^ 64 + r.Ts * 2 ^ 64 }
    let more := Nat.min (k.ntrig + 1) 1023
    let k := { k with seen := k.seen ++ [key] }
    if frozen then
      (s.setSlack job { (if r.before k then k.cause r else k) with ntrig := more }).timedAt s.tide
        (.slackWaveArrival job 0 0 0) { id := job, slot := 2 }
    else if k.wave && !r.before k then s.setSlack job { k with ntrig := more }
    else
      let s := s.setSlack job { k.cause r with ntrig := if k.wave && !(k.st == 3 && k.code == 17) then more else 0
                                               seq := if k.wave then k.seq else k.seq + 1, wave := true }
      (s.timedAt s.tide (.slackWaveArrival job 0 0 0) { id := job, slot := 1, t := s.tide }).timedAt (r.Ts + s.waveSkb job)
        .slackFreeze { id := job }

/-- A trigger made on this module. -/
def trigger (s : State) (job : Nat) (r : Slack) : State := s.waveIn job r none

/-- The trigger of a context (22 R375) with its cause code and argument, and the TIDE of its bundle's issue as T_s. -/
def triggerCtx (s : State) (x addr code arg sch tide : Nat) (wide : Bool := false) : State :=
  s.trigger (s.gangOf x).job { omod := s.modNum, ocore := coreOf x, octx := x % 4, addr := addr, code := code, arg := arg,
                               sch := sch, Ts := tide, wide := wide }

end State

end Sys2Proof.Machine
end

