-- ==== Sys2Proof/Machine/Slices.lean ====
section
/-! DEFINITION. What slots in flight at a freeze still land: their slices run on in the pipeline, and their results go to the snapshot
buffer (07 R153, 10 R401, 23 R393). -/

namespace Sys2Proof.Machine

/-- An instruction that goes from slice to slice, by its meaning. -/
def execSlice (i : Instr) (s : State) : Result :=
  match i with
  | .vadd g ty sat d a b => execVadd g ty sat d a b s
  | .vsub g ty sat d a b => execVsub g ty sat d a b s
  | .vmul g ty sat d a b => execVmul g ty sat d a b s
  | .vmulh g ty d a b => execVmulh g ty d a b s
  | .vmad g ty sat d a b => execVmad g ty sat d a b s
  | .vdot4 g ty sat d a b => execVdot4 g ty sat d a b s
  | .vmin g ty d a b => execVmin g ty d a b s
  | .vmax g ty d a b => execVmax g ty d a b s
  | .vand g d a b => execVand g d a b s
  | .vor g d a b => execVor g d a b s
  | .vxor g d a b => execVxor g d a b s
  | .vandn g d a b => execVandn g d a b s
  | .vshl g ty sat d a b => execVshl g ty sat d a b s
  | .vshr g ty d a b => execVshr g ty d a b s
  | .vsra g ty d a b => execVsra g ty d a b s
  | .vabs g ty sat d a => execVabs g ty sat d a s
  | .vneg g ty sat d a => execVneg g ty sat d a s
  | .vclz g ty d a => execVclz g ty d a s
  | .vpopc g ty d a => execVpopc g ty d a s
  | .vmov g d a => execVmov g d a s
  | .vbc g ty d a => execVbc g ty d a s
  | .viota g ty d => execViota g ty d s
  | .vred g ty sat op d a => execVred g ty sat op d a s
  | .fadd g ft rnd d a b => execFadd g ft rnd d a b s
  | .fsub g ft rnd d a b => execFsub g ft rnd d a b s
  | .fmul g ft rnd d a b => execFmul g ft rnd d a b s
  | .fmin g ft d a b => execFmin g ft d a b s
  | .fmax g ft d a b => execFmax g ft d a b s
  | .fcps g ft d a b => execFcps g ft d a b s
  | .fabs g ft d a => execFabs g ft d a s
  | .fneg g ft d a => execFneg g ft d a s
  | .frcp g ft rnd d a => execFrcp g ft rnd d a s
  | .frsq g ft rnd d a => execFrsq g ft rnd d a s
  | .fsqrt g ft rnd d a => execFsqrt g ft rnd d a s
  | .fexp2 g ft rnd d a => execFexp2 g ft rnd d a s
  | .flog2 g ft rnd d a => execFlog2 g ft rnd d a s
  | .ftanh g ft rnd d a => execFtanh g ft rnd d a s
  | .fcls g ft d a => execFcls g ft d a s
  | .fred g ft rnd op d a => execFred g ft rnd op d a s
  | .fma g ft rnd d a b c => execFma g ft rnd d a b c s
  | .fms g ft rnd d a b c => execFms g ft rnd d a b c s
  | .fnma g ft rnd d a b c => execFnma g ft rnd d a b c s
  | .vcmp g ty cond pp a b => execVcmp g ty cond pp a b s
  | .fcmp g ty cond pp a b => execFcmp g ty cond pp a b s
  | .pand g d a b => execPand g d a b s
  | .por g d a b => execPor g d a b s
  | .pxor g d a b => execPxor g d a b s
  | .pnot g d a => execPnot g d a s
  | .pmov g d a => execPmov g d a s
  | .pcnt g d a => execPcnt g d a s
  | .vsel g d a b p => execVsel g d a b p s
  | .cvt g dty sty rnd d a => execCvt g dty sty rnd d a s
  | .cvtSat g dty sty rnd d a => execCvtSat g dty sty rnd d a s
  | .cvtb g bf16 dx4 dec rnd d a => execCvtb g bf16 dx4 dec rnd d a s
  | .cvtg g d a => execCvtg g d a s
  | .amaxr g d => execAmaxr g d s
  | .seed g => execSeed g s
  | .seedFromVector g a => execSeedFromVector g a s
  | .pack g w part d a => execPack g w part d a s
  | .unpk g w part d a => execUnpk g w part d a s
  | .zip2 g size d a b => execZip2 g size d a b s
  | .zip3 g size d a => execZip3 g size d a s
  | .zip4 g size d a => execZip4 g size d a s
  | .uzp2 g size d a b => execUzp2 g size d a b s
  | .uzp3 g size d a => execUzp3 g size d a s
  | .uzp4 g size d a => execUzp4 g size d a s
  | .perm g size d a b => execPerm g size d a b s
  | .slide g d a n => execSlide g d a n s
  | .drv g st a => execDrv g st a s
  | .tap g d st => execTap g d st s
  | .xcp g d st a => execXcp g d st a s
  | .dtx g k d a b => execDtx g k d a b s
  | .dtu g k d a => execDtu g k d a s
  | .dtc g k pp a b => execDtc g k pp a b s
  | .dts g d a => execDts g d a s
  | .dtz g k => execDtz g k s
  | .dtq g k d => execDtq g k d s
  | .vst g d a disp => execVst g d a disp s
  | .vstx g d a b => execVstx g d a b s
  | .xout g v q sz => execXout g v q sz s
  | .mpop g v lat grp => execMpop g v lat grp s
  | .mpsh g v lat grp => execMpsh g v lat grp s
  | .trn g a grp => execTrn g a grp s
  | .trno g d grp => execTrno g d grp s
  | _ => .next s

/-- The context that an effect lands in. -/
def landsIn (e : Eff) : Nat :=
  match e.act with
  | .regAt y _ _ _ | .publish y _ _ | .pop y _ => y
  | _ => e.fr.x

/-- The bytes that a load would take now. -/
def gatherNow (m : Memory) (srcs : List (Nat × Nat × Nat)) : Nat :=
  srcs.foldl (fun a e => a + m.readN e.1 e.2.1 * 2 ^ (8 * e.2.2)) 0

/-- A held landing as the slices in flight at a freeze meet it, forwarded from the snapshot buffer. -/
def forward (s : State) (e : Eff) : State :=
  let put := fun (l : Loc) (v m : Gran) => s.updCtx (landsIn e) fun c => { c with regs := c.regs.write l v m }
  match e.act with
  | .reg l v m | .regAt _ l v m => put l v m
  | .seedGen k v m => put (.gen k) v m
  | .load l srcs m => put l (BitVec.ofNat 512 (gatherNow s.mem srcs)) m
  | .fetch l srcs m at_ => { s with pend := ⟨e.fr, at_, 0, e.pri, .reg l (BitVec.ofNat 512 (gatherNow s.mem srcs)) m, 0⟩ :: s.pend }
  | .creg n v => s.updCtx e.fr.x fun c =>
      let c := cregWrite c n v
      if n = 28 then { c with regs := c.regs.seed v } else c
  | .landMem key n v m => { s with mem := s.mem.writeN key n v m }
  | _ => s

/-- What the slices of context `x` run in cycle `u` of a freeze have started, beside what is listed already. -/
def drainAt (x : Nat) (p : State × List Eff) (u : Nat) : State × List Eff :=
  let q := p.1.pend.partition fun e => landsIn e == x && !e.fr.hnd && e.wall == 0 && decide (e.due ≤ u)
  let s := (sortBy (fun a b => decide (a.fr.ord ≤ b.fr.ord)) q.1).foldl forward { p.1 with pend := q.2 }
  let f := s.flight.partition fun f => f.x == x && !f.hnd && decide (f.due ≤ u)
  f.1.foldl (fun p f =>
    match execSlice f.act.i { p.1 with fr := f.act.fr } with
    | .next t => (t, p.2 ++ t.pend.drop p.1.pend.length)
    | _ => p) ({ s with flight := f.2 }, p.2)

/-- What the slots of a frozen context that are in flight will land or perform: their last slices run in seven cycles more (04 R80). -/
def drained (s : State) (x : Nat) : List Eff :=
  if s.flight.any fun f => f.x == x && !f.hnd then
    (((List.range 8).map fun i => s.now x false + i).foldl (drainAt x) (s, [])).2
  else []

end Sys2Proof.Machine
end

