-- ==== Sys2Proof/Machine/Image.lean ====
section
/-! DEFINITION. The image of a context in its save area (10 R227, R401, R402), as CTXS writes it, CTXR reads it and
a DEBUG packet sees it. -/

namespace Sys2Proof.Machine

/-- A chunk of an image: byte offset and value. -/
abbrev Chunk := Nat × Nat

/-- The number that holds every chunk at its offset. -/
def joinChunks (cs : List Chunk) : Nat := cs.foldl (fun a c => a + c.2 * 2 ^ (8 * c.1)) 0

/-- Bytes `n` at offset `off` of an image. -/
def imgBytes (img off n : Nat) : Nat := img / 2 ^ (8 * off) % 2 ^ (8 * n)

/-- Items of `n` bytes placed one after another from offset `off`. -/
def placeRun (off n : Nat) (vs : List Nat) : List Chunk := vs.zipIdx.map fun e => (off + n * e.2, e.1)

/-- Word 0 of the control block, the resume record (R227), of a context frozen outside handler mode or in it. -/
def resumeWord (c : Ctx) : Nat :=
  let sr := c.psw.toNat % 4
  let f := fun (pc : Nat) (xf : List (Nat × Nat)) (lb re : Bool) (ra : Nat) =>
    let x0 := xf[0]?
    let x1 := xf[1]?
    pc % 2048 + sr * 2 ^ 11 + (if re then 2 ^ 13 + ra % 2048 * 2 ^ 14 else 0)
      + (match x0 with | some e => 2 ^ 25 + e.2 % 2048 * 2 ^ 26 | none => 0)
      + (match x1 with | some e => 2 ^ 37 + e.2 % 2048 * 2 ^ 38 | none => 0) + (if lb then 2 ^ 49 else 0)
  match c.resume with
  | some r => f r.pc r.xfers r.lb r.re r.reAddr
  | none =>
    match c.reent with
    | some r => f c.pc c.xfers (c.lb && c.skip != 0) true r.reAddr
    | none => f c.pc c.xfers (c.lb && c.skip != 0) false 0

/-- The 64 control words without the snapshot length. -/
def controlWords (s : State) (x snap : Nat) : List Nat :=
  let c := s.ctx x
  let g := s.gangOf x
  let lst := (List.range 6).map fun i => (cregRead s x false (8 + i)).toNat
  [resumeWord c, g.sch, g.anchor, c.psw.toNat, c.fmask.toNat, c.amax.toNat, c.seed.toNat, c.rbv, c.rbp, c.lstk.length]
    ++ lst ++ [c.ydl.toNat, c.wdog.toNat, c.fcause.toNat, c.finfo.toNat, c.fbnd.toNat]
    ++ ((List.range 8).map fun i => (SMap.get 0 c.regs.m i).toNat) ++ ((List.range 8).map fun i => (c.ring i).word.toNat)
    ++ [c.allot.toNat, (match c.hent with | some h => 2 ^ 63 + h | none => 0), snap]

/-! ### Snapshot entries (R401) -/

/-- Fields of a snapshot entry's header besides the counts. -/
structure Entry where
  kind : Nat
  reg  : Nat := 0
  slice : Nat := 0
  addr : Nat := 0
  n    : Nat := 0
  mask : Nat := 0
  val  : Nat := 0
  deriving DecidableEq, Repr

/-- Byte enables of a bit mask. -/
def byteEnables (m : Gran) : Nat :=
  ((List.range 64).map fun i => if m.getLsbD (8 * i) then 2 ^ i else 0).foldl (· + ·) 0

/-- The entry of a landing in a register. -/
def regEntry (l : Loc) (val mask : Gran) : Option Entry :=
  match l with
  | .s r => some { kind := 0, reg := r, n := 8, mask := 0xFF, val := val.toNat % 2 ^ 64 }
  | .v r k => some { kind := 1, reg := r, slice := k, n := 64, mask := byteEnables mask, val := val.toNat }
  | .p r k => some { kind := 2, reg := r, slice := k, n := 2, mask := 3, val := val.toNat % 2 ^ 16 }
  | .dsr k => some { kind := 3, slice := k, n := 8, mask := 0xFF, val := val.toNat % 2 ^ 64 }
  | .m n => some { kind := 4, reg := n, n := 8, mask := 0xFF, val := val.toNat % 2 ^ 64 }
  | _ => none

/-- The store of a key: its kind in R401, its number and the cold address or offset; of a transposer row, the row and its byte. -/
def storeEntry (x key : Nat) : Option (Nat × Nat × Nat) :=
  let off := key % 2 ^ 64
  let p := key / 2 ^ 64
  let c := p / 16
  match p % 16 with
  | 0 => if c = coreOf x then some (9, 0, off) else some (11, 0, 2 * 2 ^ 30 + c % 128 * 2 ^ 16 + off)
  | 1 => some (10, 0, 2 ^ 30 + off)
  | 4 => some (6, off / 4096, off % 4096)
  | 5 => some (7, off / 128, off % 128)
  | 6 => some (8, off / 128, off % 128)
  | _ => none

/-- The ring of context `y` in whose claimed and unpublished tiles a berth key lies. -/
def claimedRing (s : State) (y key : Nat) : Option Nat :=
  (List.range 8).find? fun r =>
    let g := (s.ctx y).ring r
    g.claims.any fun e => !e.2.2 && (let k := (Place.berth (coreOf y)).key (g.tileByte e.1); decide (k ≤ key ∧ key < k + 64 * (g.size + 1)))

/-- The entry of `n` bytes of a store; a granule that a port, not a core's own store, brings into a claimed tile is a ring granule. -/
def byteEntry (s : State) (x pri key n v m : Nat) : Option Entry :=
  (storeEntry x key).map fun e =>
    let k : Entry := { kind := e.1, reg := e.2.1, addr := e.2.2, n := n, mask := m % 2 ^ 64, val := v }
    if e.1 = 8 then { k with slice := e.2.1 % 4 * 2 + e.2.2 / 64 }
    else if e.1 = 9 ∧ pri ≠ 0 then (match claimedRing s x key with
      | some r => { k with kind := 12, reg := r }
      | none => k)
    else k

/-- The entries of a pending effect that is due at count `due`, each with the count at which it lands or performs; a quay write stands in
a hold buffer of the quay die and has none. What an atomic or a part of a byte will write is given as it would be now. -/
def effEntries (s : State) (x pri due : Nat) (a : Effect) : List (Nat × Entry) :=
  let now := fun (o : Option Entry) => o.toList.map fun k => (due, k)
  match a with
  | .reg l v m | .regAt _ l v m => now (regEntry l v m)
  | .load l srcs m => now (regEntry l (BitVec.ofNat 512 (gatherNow s.mem srcs)) m)
  | .fetch l srcs m land => (regEntry l (BitVec.ofNat 512 (gatherNow s.mem srcs)) m).toList.map fun k => (land, k)
  | .sld lat key => [(due + 2, { kind := 7, reg := lat, n := 128, mask := 2 ^ 64 - 1, val := s.mem.readN key 128 })]
  | .creg n v => [(due, { kind := 5, reg := n, n := 8, mask := 0xFF, val := v.toNat })]
  | .lpush h n => [(due, { kind := 5, reg := 8 + (s.ctx x).lstk.length, n := 8, mask := 0xFF, val := h % 2048 * 2 ^ 32 + n })]
  | .readFlag p b f n =>
    let v := s.flagVal f n
    (List.range 8).flatMap fun k =>
      [(due + 3 + k, { kind := 2, reg := physP b p, slice := k, n := 2, mask := 3, val := if v then 2 ^ 16 - 1 else 0 }),
       (due + 3 + k, { kind := 2, reg := physP b (p + 1), slice := k, n := 2, mask := 3, val := if v then 0 else 2 ^ 16 - 1 })]
  | .landMem key n v m | .store key n v m => now (byteEntry s x pri key n v m)
  | .bits key off n v =>
    let b := (off + n + 7) / 8
    let old := s.mem.readN key b
    now (byteEntry s x pri key b (old % 2 ^ off + v % 2 ^ n * 2 ^ off + old / 2 ^ (off + n) * 2 ^ (off + n)) (allBytes b))
  | .atom op w key b d dst land =>
    let n := atomBytes w
    let old := s.mem.readN key n
    now (byteEntry s x pri key n (atomNew op w old (b.toNat % 2 ^ (8 * n)) (d.toNat % 2 ^ (8 * n))).1 (allBytes n))
      ++ [(land, { kind := 0, reg := dst, n := 8, mask := 0xFF, val := (atomOld w old).toNat })]
  | .flag f n set _ _ =>
    [(due, { kind := 13, reg := n, addr := (match f with | .core _ => 3 | .clu _ => 4 | .mod => 9) + (if set then 16 else 0) })]
  | _ => []

/-- The bytes of an entry: a 32-byte header and the payload, padded to 64 bytes. -/
def entryBytes (due : Nat) (fr : Frame) (e : Entry) : Nat × Nat :=
  let w2 := e.kind * 2 ^ 60 + fr.slot % 4 * 2 ^ 58 + e.slice % 8 * 2 ^ 55 + e.reg % 512 * 2 ^ 46 + e.n % 8192 * 2 ^ 32 + e.addr % 2 ^ 32
  let n := (32 + e.n + 63) / 64 * 64
  (n, due % 2 ^ 64 + fr.t % 2 ^ 64 * 2 ^ 64 + w2 * 2 ^ 128 + e.mask * 2 ^ 192 + e.val % 2 ^ (8 * e.n) * 2 ^ 256)

/-- The order of snapshot entries: landing count, issue count, slot. -/
def entryBefore (a b : Nat × Frame × Entry) : Bool :=
  decide (a.1 < b.1) || (a.1 == b.1 && decide (a.2.1.ord ≤ b.2.1.ord))

/-- The snapshot of a context: what is pending for it, also from its slots in flight, and the claims it keeps, in order. -/
def snapshot (s : State) (x : Nat) : List (Nat × Nat) :=
  let es := ((s.pend ++ drained s x).filter fun e => landsIn e == x && !e.fr.hnd).flatMap fun e => (effEntries s x e.pri e.due e.act).map fun k => (k.1, e.fr, k.2)
  let ks := (List.range 8).flatMap fun r => ((s.ctx x).ring r).kept.map fun k =>
    (k.land, ({ slot := k.slot % 4, t := k.t } : Frame), ({ kind := 14, reg := r, addr := k.tile } : Entry))
  (sortBy entryBefore (es ++ ks)).map fun e => entryBytes e.1 e.2.1 e.2.2

/-- Items of different lengths placed one after another: the chunks and the offset after them. -/
def placeItems : Nat → List (Nat × Nat) → List Chunk × Nat
  | off, [] => ([], off)
  | off, (n, v) :: r =>
    let p := placeItems (off + n) r
    ((off, v) :: p.1, p.2)

/-! ### Held calls (R402) -/

/-- The 32 words of a held call. -/
def callWords (c : Call) : List Nat :=
  [2 ^ 63 + c.rout * 2 ^ 48 + c.uw % 8 * 2 ^ 45 + Nat.min 4 c.ins.length * 2 ^ 36, c.fr.t, c.start, c.step,
   joinChunks (placeRun 0 2 (c.reps.take 4)) % 2 ^ 64, joinChunks (placeRun 0 2 (c.reps.drop 4)) % 2 ^ 64]
    ++ ((List.range 8).map fun i => (c.m.getD i 0).toNat) ++ ((List.range 8).map fun i => (c.code.getD i 0).toNat)
    ++ [(if c.acc.isEmpty then 0 else 1) + c.flags * 2]

/-- The steps of a call whose sums the array has still to form. -/
def unsummed (s : State) (core : Nat) (c : Call) : Nat :=
  (s.pend.filter fun e => e.act == .mxSum core c.id).length

/-- The sums of each step of a call whose landing is pending, in step order (R402). -/
def stepImages (k : MClass) (c : Call) (formed : Nat) : List (Nat × Nat) → List StepIn → List Nat
  | _, [] => []
  | acc, i :: is =>
    let lat := desc c.m (fld (microword c.code i.uw) 59 57) 2 0
    let old := ((acc.find? fun e => e.1 == lat).map fun e => e.2).getD 0
    let new := if formed = 0 then (stepSums c k i old).1 else old
    new :: stepImages k c (formed - 1) ((lat, new) :: acc) is

/-- The held call state of a context: its running call, its waiting call, and the sums inside the array. -/
def callItems (s : State) (x : Nat) : List (Nat × Nat) :=
  let core := coreOf x
  let cs := (s.core core).calls.filter fun c => c.y == x && !c.fr.hnd
  if cs.isEmpty then []
  else
    let now := s.now x false
    let block := fun (run : Bool) => (256, joinChunks (placeRun 0 8 (((cs.find? fun c => decide (c.start ≤ now) == run).map callWords).getD [])))
    block true :: block false :: cs.flatMap fun c => match headerClass (c.code.getD 0 0).toNat with
      | none => []
      | some k => (stepImages k c (c.ins.length - unsummed s core c) c.acc c.ins).map fun v => (accBytes c, v)

/-! ### The whole image (R227) -/

/-- The items of the image after the snapshot: charts with their reserved bytes zero (06 R122), scale latches, transposer, held calls, berth
allotment. Of the eight copies of a chart slice 0's is saved, which a restore writes to every slice (log 91). -/
def tailItems (s : State) (x : Nat) : List (Nat × Nat) :=
  let c := s.ctx x
  let core := coreOf x
  let lats := (List.range 8).filter c.latchIn
  ((List.range 4).filter c.chartIn).map (fun n => (576, s.mem.readN (chartKey core 0 n) 548))
    ++ lats.map (fun n => (128, s.mem.readN ((Place.scale core).key (128 * n)) 128))
    ++ (if lats.isEmpty then [] else [(4096, s.mem.readN ((Place.trans core).key 0) 4096)])
    ++ callItems s x
    ++ [(c.berthRange.2 - c.berthRange.1, s.mem.readN ((Place.berth core).key c.berthRange.1) (c.berthRange.2 - c.berthRange.1))]

/-- The image of a context's quay part: its bytes and its length. -/
def imageOf (s : State) (x : Nat) : Nat × Nat :=
  let c := s.ctx x
  let r := c.regs
  let sn := placeItems 21568 (snapshot s x)
  let tl := placeItems sn.2 (tailItems s x)
  let img := joinChunks (placeRun 0 8 (controlWords s x (sn.2 - 21568)))
    + joinChunks (placeRun 512 8 ((List.range 32).map fun i => (r.read (.s i)).toNat))
    + joinChunks (placeRun 768 64 ((List.range 256).map fun i => (r.read (.v (i / 8) (i % 8))).toNat))
    + joinChunks (placeRun 17152 2 ((List.range 128).map fun i => (r.read (.p (i / 8) (i % 8))).toNat))
    + joinChunks (placeRun 17408 8 ((List.range 8).map fun k => (r.read (.dsr k)).toNat))
    + joinChunks (placeRun 17472 64 ((List.range 8).map fun k => (r.read (.gen k)).toNat))
    + joinChunks (placeRun 17984 64 ((List.range 56).map fun i => (r.read (.strm i)).toNat))
    + joinChunks sn.1 + joinChunks tl.1
  (img, tl.2)

/-- The register files that an image holds. -/
def imageRegs (img : Nat) : Regs :=
  let put := fun (r : Regs) (l : Loc) (off n : Nat) => r.put l (BitVec.ofNat 512 (imgBytes img off n))
  let r := (List.range 32).foldl (fun r i => put r (.s i) (512 + 8 * i) 8) {}
  let r := (List.range 256).foldl (fun r i => put r (.v (i / 8) (i % 8)) (768 + 64 * i) 64) r
  let r := (List.range 128).foldl (fun r i => put r (.p (i / 8) (i % 8)) (17152 + 2 * i) 2) r
  let r := (List.range 8).foldl (fun r k => put r (.dsr k) (17408 + 8 * k) 8) r
  let r := (List.range 8).foldl (fun r k => put r (.gen k) (17472 + 64 * k) 64) r
  let r := (List.range 56).foldl (fun r i => put r (.strm i) (17984 + 64 * i) 64) r
  (List.range 8).foldl (fun r i => put r (.m i) (8 * (21 + i)) 8) r

/-- The stores that an image holds, by key, offset in the image and bytes: charts in every slice's copy, scale latches, the transposer and
the berth allotment. -/
def tailPlaces (s : State) (x img : Nat) : List (Nat × Nat × Nat) :=
  let c := s.ctx x
  let core := coreOf x
  let off0 := 21568 + imgBytes img (8 * 39) 8
  let charts := (List.range 4).filter c.chartIn
  let lats := (List.range 8).filter c.latchIn
  let off1 := off0 + 576 * charts.length
  let off2 := off1 + 128 * lats.length
  let off3 := (if lats.isEmpty then off2 else off2 + 4096) + ((callItems s x).map fun e => e.1).foldl (· + ·) 0
  (charts.zipIdx.flatMap fun e => (List.range 8).map fun k => (chartKey core k e.1, off0 + 576 * e.2, 576))
    ++ (lats.zipIdx.map fun e => ((Place.scale core).key (128 * e.1), off1 + 128 * e.2, 128))
    ++ (if lats.isEmpty then [] else [((Place.trans core).key 0, off2, 4096)])
    ++ [((Place.berth core).key c.berthRange.1, off3, c.berthRange.2 - c.berthRange.1)]

/-- The bytes from offset `lo` to `hi` of an image written back to the stores. -/
def putTail (s : State) (x img lo hi : Nat) : State :=
  (tailPlaces s x img).foldl (fun s e =>
    let a := Nat.max lo e.2.1
    let b := Nat.min hi (e.2.1 + e.2.2)
    if a < b then s.poke (e.1 + (a - e.2.1)) (b - a) (imgBytes img a (b - a)) else s) s

/-- Where the bytes under a parity bit of a context's registers stand in its image. -/
def imageOffset (x : Nat) : Spot → Option Nat
  | .reg y l b => if y ≠ x then none else match l with
    | .s r => some (512 + 8 * r + b)
    | .v r k => some (768 + 64 * (8 * r + k) + b)
    | .p r k => some (17152 + 2 * (8 * r + k) + b)
    | .dsr k => some (17408 + 8 * k + b)
    | .strm i => some (17984 + 64 * i + b)
    | .m n => some (8 * (21 + n) + b)
    | .gen _ => none
  | .creg y n => if y ≠ x then none
      else ([(0, 3), (17, 4), (16, 5), (28, 6), (4, 7), (5, 8), (8, 10), (9, 11), (10, 12), (11, 13), (12, 14), (13, 15), (24, 16),
        (25, 17)].find? fun e => e.1 == n).map fun e => 8 * e.2
  | _ => none

/-- The control registers of an image that a privileged SET could write, with the registers of its files (R227, 23
R392). Word 0 gives the next PC and SR when it records nothing pending; after a fault the next PC is that of the resume record. -/
def putControl (c : Ctx) (img : Nat) : Ctx :=
  let w := fun (i : Nat) => BitVec.ofNat 64 (imgBytes img (8 * i) 8)
  let plain := fld (w 0).toNat 49 13 = 0
  let c := [(0, 3), (17, 4), (16, 5), (28, 6), (4, 7), (5, 8), (8, 10), (9, 11), (10, 12), (11, 13), (12, 14), (13, 15),
    (24, 16)].foldl (fun c e => cregWrite c e.1 (w e.2)) c
  let c := { c with wdog := w 17 &&& 0xC0000000FFFFFFFF, regs := imageRegs img }
  let pc := (w 0).toNat % 2048
  let c := if plain then { c with
      pc := if c.resume.isSome then c.pc else pc
      resume := c.resume.map fun r => { r with pc := pc }
      psw := (c.psw &&& ~~~3) ||| BitVec.ofNat 64 (fld (w 0).toNat 12 11) } else c
  (List.range 8).foldl (fun c i =>
    let n := Ring.ofWord (w (29 + i))
    if (ownBound c (n.base * 64) ((n.depth + 1) * (n.size + 1) * 64)).isNone then
      c.setRing i { c.ring i with base := n.base, size := n.size, depth := n.depth }
    else c) c

/-- The memory key of byte `off` of the quay part of a context's save area. -/
def saveKey (x off : Nat) : Nat := (Place.quay (coreOf x)).key (512 * (3072 + 256 * (x % 4)) + off)

/-- The key of the tile that latch `n` of a context is saved to. -/
def saveTile (x n : Nat) : Nat := (Place.acc (coreOf x)).key (4096 * (224 + 8 * (x % 4) + n))

/-- The bytes that a save or a restore of a context crosses. -/
def saveBytes (s : State) (x : Nat) : Nat :=
  ((imageOf s x).2 + 63) / 64 * 64 + 4096 * ((List.range 8).filter (s.ctx x).latchIn).length

end Sys2Proof.Machine
end

