-- ==== Sys2Proof/Machine/Control.lean ====
section
/-! DEFINITION. Branches, loops, END, flags, waits and fences, launches, system and debug instructions (08 R158 to
R163, R179 to R187, 10 R226 to R228, 20 R343). -/

namespace Sys2Proof.Machine

/-! ### Control flow (08 R158 to R163) -/

namespace State

/-- A taken transfer: two delay bundles, then the target (R158); a target outside the allotment raises the privilege
fault (R145). -/
def transfer (s : State) (target : Nat) : State :=
  let x := s.fr.x
  if !(s.ctx x).bundleIn target then s.privilege 1
  else
    let e := (s.fr.t + 3, target)
    let s := s.updCtx x fun c => { c with xfers := c.xfers ++ [e] }
    { s with undo := ⟨x, s.fr.hnd, s.fr.ord, .xfer e.1 e.2, 0⟩ :: s.undo }

/-- The loop stack is about to change; what it held is kept (R222). -/
def keepLoop (s : State) : State :=
  { s with undo := ⟨s.fr.x, s.fr.hnd, s.fr.ord, .loop (s.ctx s.fr.x).lstk, s.landMark⟩ :: s.undo }

end State

/-- BR (08 R159). -/
def execBr (g : Guard) (target : Nat) (s : State) : Result := onceSlot g s fun s => s.transfer target

/-- A transfer to the address in a register, whose high bits must be zero (08 R159). -/
def transferReg (s : State) (v : Word) : State :=
  if v.toNat / 2 ^ 11 ≠ 0 then s.privilege 3 else s.transfer v.toNat

/-- BRI (08 R159). -/
def execBri (g : Guard) (a : Nat) (s : State) : Result := onceSlot g s fun s => transferReg s (s.sget a)

/-- CALL (08 R159): s31 receives the address of the CALL + 3 at t + 1. -/
def execCall (g : Guard) (target : Nat) (s : State) : Result :=
  onceSlot g s fun s =>
    if !(s.ctx s.fr.x).bundleIn target then s.privilege 1
    else (s.transfer target).landS 31 (BitVec.ofNat 64 (s.fr.addr + 3)) (s.fr.t + 1)

/-- RET (08 R159): s31 is read at t. -/
def execRet (g : Guard) (s : State) : Result := onceSlot g s fun s => transferReg s (s.sget 31)

/-- The trip count of a LOOP (08 R160). -/
def loopCount (s : State) (a imm : Nat) : Nat :=
  let n := if a = 0 then imm else (s.sget a).toNat % 2 ^ 32
  if n = 0 then 1 else n

/-- LOOP (08 R160): a seventh push raises the loop-stack fault. -/
def execLoop (g : Guard) (a imm : Nat) (s : State) : Result :=
  onceSlot g s fun s =>
    if 6 ≤ (s.ctx s.fr.x).lstk.length then s.raiseIssue 12 0
    else s.push (s.fr.t + 1) (.lpush ((s.fr.addr + 1) % 2048) (loopCount s a imm)) 0

/-- The loop head comes next (08 R158). An ENDL of a re-entry bundle counts from F: the bundle of count F stands already, and the head
follows it, unless a transfer names that fetch (10 R226). -/
def loopBack (s : State) (head : Nat) : State :=
  if s.fr.re then
    let e := (s.fr.t + 1, head)
    { s.updCtx s.fr.x fun c => { c with xfers := e :: c.xfers } with
      undo := ⟨s.fr.x, s.fr.hnd, s.fr.ord, .xfer e.1 e.2, 0⟩ :: s.undo }
  else s.updCtx s.fr.x fun c => { c with pc := head, lb := true }

/-- ENDL (08 R161): every ENDL rotates the bases; the last one pops its entry, any other goes to the head. -/
def execEndl (g : Guard) (s : State) : Result :=
  onceSlot g s fun s =>
    let c := s.ctx s.fr.x
    match c.lstk.getLast? with
    | none => s.raiseIssue 12 1
    | some (head, cnt) =>
      let due := s.fr.t + 1
      let s := s.push due (.creg 4 (BitVec.ofNat 64 ((c.rbv + 15) % 16))) 0
      let s := s.push due (.creg 5 (BitVec.ofNat 64 ((c.rbp + 7) % 8))) 0
      if 1 < cnt then
        let s := s.push due (.creg (7 + c.lstk.length) (BitVec.ofNat 64 (head * 2 ^ 32 + (cnt - 1)))) 0
        loopBack s head
      else s.push due .lpop 0

/-- LEAVE (08 R162). -/
def execLeave (g : Guard) (s : State) : Result :=
  onceSlot g s fun s => if (s.ctx s.fr.x).lstk.isEmpty then s.raiseIssue 12 1 else s.push (s.fr.t + 1) .lpop 0

/-- END (08 R163): no later bundle of the context belongs to the task, which completes no sooner than t + 64. -/
def execEndTask (g : Guard) (s : State) : Result :=
  onceSlot g s fun s =>
    let s' := s.updCtx s.fr.x fun c =>
      { c with ended := some ((if s.fr.hnd then (s.gangOf s.fr.x).F else s.fr.t) + 64)
               handler := c.handler.map fun h => { h with live := false } }
    { s' with undo := ⟨s.fr.x, s.fr.hnd, s.fr.ord, .ended (s.ctx s.fr.x).ended, 0⟩ :: s.undo }

/-! ### Flags, waits and fences (08 R179 to R182, R186) -/

/-- The file that a flag scope names (08 R179). -/
def flagFile (x : Nat) (sc : Scope) : Option FlagFile :=
  match sc with
  | .core => some (.core (coreOf x))
  | .clu => some (.clu (clusterOf (coreOf x)))
  | .mod => some .mod
  | _ => none

/-- The counts of SETF and CLRF, and of TSTF's read, after issue (08 R179). -/
def flagLat (f : FlagFile) : Nat × Nat :=
  match f with
  | .core _ => (2, 0)
  | .clu _ => (8, 8)
  | .mod => (256, 256)

/-- SETF (08 R180): after every static access that the context issued before it, those of its router program among them; commands and
tile words that have not ended are waited for. -/
def execSetf (g : Guard) (sc : Scope) (n : Nat) (s : State) : Result :=
  onceSlot g s fun s =>
    match flagFile s.fr.x sc with
    | none => s
    | some f =>
      let c := s.ctx s.fr.x
      let r := (s.clu (clusterOf (coreOf s.fr.x))).router
      let P := Nat.max (if s.fr.hnd then c.perfH else c.perfP) (if r.x == s.fr.x && r.hnd == s.fr.hnd then r.perfP else 0)
      let due := Nat.max (s.fr.t + (flagLat f).1) (P + 1)
      (s.push due (.flag f n true 0 true) 1).noteEff due

/-- CLRF (08 R180). -/
def execClrf (g : Guard) (sc : Scope) (n : Nat) (s : State) : Result :=
  onceSlot g s fun s =>
    match flagFile s.fr.x sc with
    | none => s
    | some f => (s.push (s.fr.t + (flagLat f).1) (.flag f n false 0 false) 0).noteEff (s.fr.t + (flagLat f).1)

/-- The bit that TSTF read, landing in every lane of pE, and its complement in pE + 1, from count `read` + 3 on. -/
def landFlag (s : State) (pp : Nat) (v : Bool) (read : Nat) : State :=
  (List.range 8).foldl (fun s k =>
    let s := s.landP pp k (if v then 0xFFFF else 0) 0xFFFF (read + 3 + k)
    s.landP (pp + 1) k (if v then 0 else 0xFFFF) 0xFFFF (read + 3 + k)) s

/-- TSTF reads its flag (08 R180); one that no SETF and no router has set last is an input of the run (23 R394, log 63). -/
def readFlag (s : State) (pp : Nat) (f : FlagFile) (n due : Nat) : State :=
  let v := s.flagVal f n
  let k := SMap.get 0 s.mod.setters (flagKey f n)
  let s := if k = 0 ∨ 2 ≤ (k - 1) / 2 ^ 12 % 16 then s.record 4 6 0 s.tide v.toNat else s
  landFlag s pp v due

/-- TSTF (08 R180). -/
def execTstf (g : Guard) (pp : Nat) (sc : Scope) (n : Nat) (s : State) : Result :=
  onceSlot g s fun s =>
    match flagFile s.fr.x sc with
    | none => s
    | some f =>
      let d := (flagLat f).2
      if d = 0 then readFlag s (2 * pp) f n s.fr.t
      else (s.push (s.fr.t + d) (.readFlag (2 * pp) s.fr.rbp f n) 1).noteEff (s.fr.t + d + 10)

namespace State

/-- A freeze request of the context in hand at its point F; a wider gang issues null bundles up to F (R181). A transfer whose delay
bundles they take the place of names the bundle of F (log 87). The bundle of count F of a re-entry bundle still issues (10 R226). -/
def gangStop (s : State) (why : Why) : State :=
  let F := (s.gangOf s.fr.x).reqPoint s.fr.t
  let s := if s.fr.re then s else s.updCtx s.fr.x fun c => { c with nullTo := F }
  s.ask (s.ctx s.fr.x).gang F why

end State

/-- WAIT (08 R181); in handler mode the privilege fault (10 R224). -/
def execWait (g : Guard) (sc : Scope) (n : Nat) (s : State) : Result :=
  onceSlot g s fun s =>
    if s.fr.hnd then s.privilege 8
    else match flagFile s.fr.x sc with
      | none => s
      | some f => s.gangStop (.wait f n s.fr.x s.fr.addr s.fr.t s.issueTide false)

/-- YIELD (20 R343), cooperative at a count up to YDL (10 R230); in handler mode the privilege fault. -/
def execYield (g : Guard) (s : State) : Result :=
  onceSlot g s fun s =>
    if s.fr.hnd then s.privilege 8 else s.ask (s.ctx s.fr.x).gang ((s.gangOf s.fr.x).reqPoint s.fr.t) (.yield (decide (s.fr.t ≤ (s.ctx s.fr.x).ydl.toNat)))

/-- The non-static accesses of the bundle in hand, by their numbers: a FENCE beside them does not order them (08 R182). -/
def State.besides (s : State) : List Nat :=
  let mine := fun (x : Nat) (hnd : Bool) (ord : Nat) => x == s.fr.x && hnd == s.fr.hnd && bundleKey ord == bundleKey s.fr.ord
  ((s.mod.cxl.filter fun r => mine r.x r.hnd r.ord).map fun r => r.cmd)
    ++ ((s.ctx s.fr.x).commands.filter fun k => mine s.fr.x k.hnd k.ord).map (fun k => k.id)
    ++ (s.flight.filter fun e => limited e.act.i && mine e.x e.hnd e.act.fr.ord).map fun e => e.act.fr.id

/-- FENCE (08 R182): the gang freezes at the fence point if a non-static access issued before it has not performed by then; in
handler mode the handler waits. -/
def execFence (g : Guard) (_sc : Scope) (s : State) : Result :=
  onceSlot g s fun s =>
    let ids := (s.ctx s.fr.x).nonstatic.filter fun n => !s.besides.contains n
    if ids.isEmpty then s
    else if s.fr.hnd then s.updCtx s.fr.x fun c => { c with hwait := ids }
    else s.ask (s.ctx s.fr.x).gang ((s.gangOf s.fr.x).reqPoint s.fr.t) (.fence s.fr.x ids)

/-! ### Launch, tile issue, services (08 R183 to R187) -/

/-- The checks of a record in the own berth (08 R184, R185): alignment to `n`, then bounds. -/
def ownRecord (s : State) (a n : Nat) : Option Nat := if a % n ≠ 0 then some 0 else ownOnly (s.ctx s.fr.x) a n

/-- A message for the pilot entered for a crossing of `bytes` bytes. -/
def postMsg (s : State) (kind : CrossKind) (bytes : Nat) (m : Msg) : State :=
  let s := s.cross kind true (s.ctx s.fr.x).lk 0 0 bytes
  s.updMod fun k => { k with msgs := k.msgs ++ [{ m with id := s.fr.id, x := s.fr.x, fr := s.fr }] }

/-- LAUNCH (08 R184). -/
def execLaunch (g : Guard) (a : Nat) (s : State) : Result :=
  onceSlot g s fun s =>
    let ad := (s.sget a).toNat
    match ownRecord s ad 64 with
    | some r => s.berthBound r 0 ad
    | none =>
      if (s.ctx s.fr.x).lk = 0 then s.noLock
      else
        let s := postMsg s .launch 64 { id := 0, kind := .launch }
        s.push (s.fr.t + 2) (.launchRead ((Place.berth (coreOf s.fr.x)).key (ad % 2 ^ 16)))

/-- Whether a dock core lacks a tile word's formats: DX4 operands, and FP64 on the array (21 R351). -/
def dockTile (raw : Nat) : Bool :=
  decide (fld raw 3 0 < 9) && (fld raw 11 7 == 17 || fld raw 16 12 == 17 || fld raw 21 17 == 17 || (decide (fld raw 3 0 < 2) && fld raw 21 17 == 13))

/-- Bytes of a berth as they will stand after the next cycle, as far as the stores and port writes now pending say. -/
def foreseen (s : State) (key n : Nat) : Nat :=
  (s.pend.foldl (fun (m : Memory) e =>
    if decide (e.due ≤ s.now e.fr.x e.fr.hnd + 1) && s.clockRuns e.fr.x e.fr.hnd then
      match e.act with
      | .store k n v w => m.writeN k n v w
      | _ => m
    else m) s.mem).readN key n

/-- TISS (08 R185). A word of level 4 or 5 takes its outbound slot in slot order (R183, R189); what it is when it is read decides at
t + 2. A dock core judges its word as it stands at issue (21 R351, log 25). -/
def execTiss (g : Guard) (a : Nat) (s : State) : Result :=
  onceSlot g s fun s =>
    let ad := (s.sget a).toNat
    match ownRecord s ad 32 with
    | some r => s.berthBound r 0 ad
    | none =>
      let key := (Place.berth (coreOf s.fr.x)).key (ad % 2 ^ 16)
      if (s.gangOf s.fr.x).dock && dockTile (s.mem.readN key 32) then s.raiseIssue 22 (BitVec.ofNat 64 s.fr.bits)
      else
        let raw := foreseen s key 32
        let fr := s.fr
        let s := if decide (4 ≤ fld raw 6 4 ∧ fld raw 6 4 < 6 ∧ fld raw 3 0 < 10) && (s.ctx fr.x).lk != 0 then
            { s.cross (.tiss raw) true (s.ctx fr.x).lk 0 0 32 with fr := fr } else s
        (s.push (fr.t + 2) (.tissRead key)).noteEff (fr.t + 4)

/-- SYS (08 R187). -/
def execSys (g : Guard) (a n f : Nat) (s : State) : Result :=
  onceSlot g s fun s =>
    if (s.ctx s.fr.x).lk = 0 then s.noLock
    else postMsg s (.sys n f (s.sget a)) 16 { id := 0, kind := .sys, a := n, b := f, d := s.schOf, data := (s.sget a).toNat }

/-! ### Traps and debug (08 R186) -/

/-- TRAP (08 R186, 10 R226): a boundary fault with F = t + 1. -/
def execTrap (g : Guard) (code : Nat) (s : State) : Result :=
  onceSlot g s fun s => s.raiseBoundary 15 (BitVec.ofNat 64 code) (s.fr.t + 1)

/-- RTE (10 R226). -/
def execRte (g : Guard) (s : State) : Result :=
  onceSlot g s fun s => if (s.ctx s.fr.x).psw.getLsbD 3 then s.faultReturn s.fr.x else s.privilege 4

/-- The trigger of the slack wave by the slot in hand, whose TIDE is that of its issue: the cause waits in the context for the freeze
(22 R375). -/
def State.triggerSlot (s : State) (cause code tide : Nat) : State :=
  let f : PendFault := ⟨s.fr.x, s.fr.hnd, s.fr.t + 1, s.fr.t, s.fr.re, s.fr.slot, s.fr.addr, cause, BitVec.ofNat 64 code, 0, true,
    s.fr.rbv, s.fr.rbp⟩
  let s := s.updCtx s.fr.x fun c => { c with wave := some f }
  s.triggerCtx s.fr.x s.fr.addr cause code s.schOf tide

/-- A trigger by an instruction: it takes effect at the end of the cycle, or when the slots below it have committed (22 R375). -/
def slackBy (s : State) (cause code : Nat) (own : Bool) : State :=
  { s with pend := s.pend ++ [⟨{ s.fr with cap := 0, capv := 0, gt := 0 }, s.fr.t, 0, 9, .trig cause code s.issueTide own, s.tide + 1⟩] }

/-- SLACK (08 R186, 22 R375). -/
def execSlack (g : Guard) (code : Nat) (s : State) : Result := onceSlot g s fun s => slackBy s 19 code false

/-- BKPT (08 R186, 22 R375): a gang on one core freezes at t + 1. -/
def execBkpt (g : Guard) (code : Nat) (s : State) : Result :=
  onceSlot g s fun s =>
    let own := (s.gangOf s.fr.x).oneCore && !s.fr.hnd
    let s := slackBy s 16 code own
    if own then s.ask (s.ctx s.fr.x).gang (s.fr.t + 1) .slack else s

/-- MARK (23 R387): the record is written once no fault can cancel the slot any more, with the TIDE of its issue. -/
def execMark (g : Guard) (code : Nat) (s : State) : Result :=
  onceSlot g s fun s => s.record 0 1 code s.issueTide 0

/-! ### Context switch (10 R227, R228) -/

/-- The privilege reason that stops CTXS of context `y`, if one does. -/
def saveRefused (s : State) (y : Nat) : Option Nat :=
  let c := s.ctx y
  if !s.priv then some 0
  else if y = s.fr.x || !c.resident || c.handler.isSome || c.saved || c.saving then some 6
  else none

/-- CTXS (10 R228): the target's gang is asked to freeze, or stays frozen, and the issuing gang freezes until the save has ended;
that of a handler is frozen already. -/
def execCtxs (g : Guard) (n : Nat) (s : State) : Result :=
  onceSlot g s fun s =>
    let y := s.fr.x / 4 * 4 + n % 4
    match saveRefused s y with
    | some r => s.privilege r
    | none =>
      let gi := (s.ctx y).gang
      let gy := s.gangOf y
      let s := match gy.run with
        | .running => s.ask gi (gy.reqPoint gy.sch) (.save y)
        | .waiting => s.ask gi 0 (.save y)
        | .frozen => s.join gi (.save y)
        | .ended => s
      let s := s.updCtx y fun c => { c with saving := true, savedFor := some (s.fr.x, s.fr.hnd, s.fr.ord) }
      if s.fr.hnd then s else s.ask (s.ctx s.fr.x).gang ((s.gangOf s.fr.x).reqPoint s.fr.t) (.ctxop y 0)

/-- The privilege reason that stops CTXR of context `y`, if one does. -/
def restoreRefused (s : State) (y : Nat) : Option Nat :=
  let c := s.ctx y
  if !s.priv then some 0
  else if !c.saved then some 6
  else if c.allot.toNat ≠ s.mem.readN (saveKey y (8 * 37)) 8 || c.wdog.getLsbD 63 then some 7
  else none

namespace State

/-- The slots, as TIDEs, of `n` granules that a save or a restore of `y` crosses: its own rotations, and every rotation
that no running context of the core holds (R228). The context that asked for it does not run, be it in a handler. -/
def bulkSlots (s : State) (y : Nat) (out : Bool) (n : Nat) : List Int :=
  let run := (List.range 4).foldl (fun a i =>
    let x := y / 4 * 4 + i
    let own := x == y || (s.ctx y).savedFor.any fun e => e.1 == x
    if (s.ctx x).resident && ((s.gangOf x).run == .running || (s.ctx x).handler.isSome) && !own then Nat.lor a (s.ctx x).lk else a) 0
  let lk := Nat.lor (s.ctx y).lk (15 - run)
  let T : Int := s.tide
  let b := slotBefore (coreOf y) out T
  pickSlots lk out (heldSlots s y false out) (8 * n + 16) n (if T - b < 8 then b else b + (slotPeriod out).1)

/-- Whether the gang of the context that asked for a save or a restore of `y` has still to freeze (R228). -/
def askerRuns (s : State) (y : Nat) : Bool :=
  (s.ctx y).savedFor.any fun e => !e.2.1 && (s.gangOf e.1).run == .running

/-- A bulk crossing of context `y` entered for the slot in hand: each granule's LOCK_SLOT act runs when the granule performs or lands.
It is not entered while slots for it cannot be found. -/
def bulk (s : State) (y : Nat) (out : Bool) (n : Nat) (stage : List Nat) : Option State :=
  let slots := s.bulkSlots y out n
  if slots.length < n then none
  else
    let p := s.fresh
    let s := p.2.updCtx y fun c => { c with crossings := c.crossings ++ [⟨p.1, false, 0, {}, .bulk, out, 0, 0, 64 * n, slots, 0, stage⟩] }
    some (slots.foldl (fun s S => s.timedAt (S + (if out then 160 else 192)).toNat (.lockSlot y p.1) { s.fr with bits := 0, id := p.1 }) s)

end State

/-- The restore of context `y` starts when the gang that asked for it has frozen; until then it is looked at every cycle. -/
def startRestore (g : Guard) (n : Nat) (y : Nat) (s : State) : State :=
  match (if s.askerRuns y then none else s.bulk y false (saveBytes s y / 64) []) with
  | some s => s
  | none => s.timedAt (s.tide + 1) (.ctxr g n) { s.fr with slice := 1 }

/-- CTXR (10 R228): charged at issue, at 8 wb per byte; the issuing gang freezes until the restore has ended. -/
def execCtxr (g : Guard) (n : Nat) (s : State) : Result :=
  let y := s.fr.x / 4 * 4 + n % 4
  if s.fr.slice = 1 then .next (startRestore g n y s)
  else onceSlot g s fun s =>
    match restoreRefused s y with
    | some r => s.privilege r
    | none =>
      let b := saveBytes s y
      let s := s.updGang (s.ctx y).gang fun k => k.debit (8 * b)
      let s := s.updCtx y fun c => { c with saving := true, wcnt := 0, savedFor := some (s.fr.x, s.fr.hnd, s.fr.ord) }
      let s := s.timedAt (s.tide + 1) (.ctxr g n) { s.fr with slice := 1 }
      if s.fr.hnd then s else s.ask (s.ctx s.fr.x).gang ((s.gangOf s.fr.x).reqPoint s.fr.t) (.ctxop y 1)

/-- Whether a save or a restore of a context crosses now. -/
def Ctx.bulkOn (c : Ctx) : Bool := c.crossings.any fun k => k.kind == .bulk

/-- Whether the slots that crossings of a frozen context had started have landed in landing buffers (10 R228): each ends so many
cycles after its start. -/
def crossingsLanded (s : State) (y : Nat) : Bool :=
  let g := s.gangOf y
  (s.ctx y).crossings.all fun k =>
    (k.slots.take k.next).all fun S => decide ((g.TF : Int) + (if g.dock then 2048 else 1) * (S + k.lat - g.cyc) ≤ s.tide)

/-- CONTEXT_SAVE_START (10 R228): the target is frozen, what it had crossing has landed and its charge is admitted; the save
starts. -/
def execContextSaveStart (y : Nat) (s : State) : Result :=
  let c := s.ctx y
  let g := s.gangOf y
  let b := saveBytes s y
  if !c.saving || c.saved || g.run == .running || c.bulkOn || s.askerRuns y || !crossingsLanded s y || !g.admits c.hlmthr.toNat (32 * b) then .next s
  else
    let img := imageOf s y
    let q := (img.2 + 63) / 64
    let stage := (List.range q).map fun j => imgBytes img.1 (64 * j) 64
    let lat := ((List.range 8).filter c.latchIn).flatMap fun n =>
      (List.range 64).map fun j => s.mem.readN ((Place.latch (coreOf y)).key (4096 * n + 64 * j)) 64
    .next (match s.bulk y true (q + lat.length) (stage ++ lat) with
      | some t => t.updGang c.gang fun k => k.debit (32 * b)
      | none => s)

/-- A granule of a bulk crossing of context `y` performs; the last one ends the save or the restore. Poison that a restore reads raises
the poison fault of its CTXR, whose frame the act bears (18 R311). -/
def bulkSlot (s : State) (y : Nat) (k : Crossing) (j : Nat) : State :=
  let c := s.ctx y
  let lats := (List.range 8).filter c.latchIn
  let q := k.slots.length - 64 * lats.length
  let tileOf := fun i => saveTile y (lats.getD ((i - q) / 64) 0) + 64 * ((i - q) % 64)
  let last := j + 1 = k.slots.length
  let s := if last then s.updCtx y fun c => { c with crossings := c.crossings.filter fun e => e.id != k.id } else s
  if k.out then
    let s := s.poke (if j < q then saveKey y (64 * j) else tileOf j) 64 (k.stage.getD j 0)
    if last then s.updCtx y fun c => { c with saved := true, saving := false, savedFor := none } else s
  else
    let src := if j < q then saveKey y (64 * j) else tileOf j
    let bad := s.granuleEcc (src / 64) == 2
    let s := if s.poisoned src || bad then
        let s := s.raiseExec 11 4 (BitVec.ofNat 64 (poisonAddr src)) (s.now s.fr.x s.fr.hnd)
        if bad then s.errorSlot 4 (poisonAddr src) else s
      else s.meetWords (State.wordsOf src 64)
    let s := if j < q || s.poisoned src || bad then s else
      s.poke ((Place.latch (coreOf y)).key (4096 * lats.getD ((j - q) / 64) 0 + 64 * ((j - q) % 64))) 64 (s.mem.readN (tileOf j) 64)
    if last then
      let img := s.mem.readN (saveKey y 0) (64 * q)
      let s := putTail ((s.freshenCtx y).updCtx y fun c => putControl c img) y img 21568 (2 ^ 64)
      s.updCtx y fun c => { c with saved := false, saving := false, savedFor := none }
    else s

/-! ### A slot of the lock (07 R150, 08 R175) -/

/-- The event in which the pilot serves a SYS request (20 R346). -/
def sysEvent (n id : Nat) : Instr :=
  match n with
  | 0 => .sysNop id
  | 1 => .sysClock id
  | 2 => .sysLease id
  | 3 => .sysTokens id
  | 4 => .sysUserRecord id
  | _ => .sysReply id

/-- LOCK_SLOT (07 R150, 08 R175): one slot of a crossing starts, and its bytes are read or sent. -/
def execLockSlot (x id : Nat) (s : State) : Result :=
  match s.crossing x id with
  | none => .next s
  | some k =>
    let j := k.next
    let S := (k.slots.getD j 0)
    let due := fun (d : Nat) => (S + d).toNat
    let pace : Int := if (s.gangOf x).dock then 2048 else 1
    let tideAt := fun (d : Nat) => ((s.tide : Int) + pace * (S - (s.clk x k.hnd : Int) + d)).toNat
    let s := s.updCtx x fun c => { c with
      crossings := c.crossings.map fun e => if e.id == id then { e with next := j + 1 } else e }
    let c := coreOf x
    .next <| match k.kind with
    | .xin v => s.inboundRead k j (due 192) fun n b s =>
        s.pushClk (due 192) (.reg (.v v j) (BitVec.ofNat 512 b) (lowBytes n))
    | .xinm die mask v =>
      let lat := if die then 232 else 200
      s.inboundRead k j (due lat) fun n b s =>
        (xinmTargets x (if die then .die else .clu) mask).foldl (fun s y =>
          s.pushClk (due lat) (.regAt y (.v v j) (BitVec.ofNat 512 b) (lowBytes n))) s
    | .xinr ring _ cid => s.inboundRead k j (due 192) fun n b s =>
        let s := s.pushClk (due 192) (.store (k.dst + 64 * j) n b (allBytes n)) (1 + c)
        if j + 1 = k.slots.length then s.pushClk (due 192) (.publish x ring cid) 3 else s
    | .xina _ => s.inboundRead k j (due 192) fun n b s =>
        s.pushClk (due 192) (.landMem (k.dst + 64 * j) n b (allBytes n))
    | .xout _ | .die _ _ => s
    | .xouta lat =>
      match s.failedByte (k.src + 64 * j) 64 with
      | some b => s.latchFault lat (64 * j + b) (s.toSch (k.slots.getLastD 0 + 160).toNat)
      | none => s.pushClk (due 160) (.store (k.dst + 64 * j) 64 (s.mem.readN (k.src + 64 * j) 64) (allBytes 64)) 0
    | .launch => s.timedAt (tideAt 160) (.deviceLaunch id) k.fr
    | .sys n _ _ => s.timedAt (tideAt 160) (sysEvent n id) k.fr
    | .tiss w => (match decodeTile w with
      | some i => s.timedAt (tideAt 160) i k.fr
      | none => s)
    | .bulk => bulkSlot s x k j

end Sys2Proof.Machine
end

