-- ==== Sys2Proof/Machine/Matrix.lean ====
section
/-! DEFINITION. The matrix class: parameter registers, routines, calls of the array and scale latches (09 R195 to R208). -/

namespace Sys2Proof.Machine

/-- A core changed by a function. -/
def State.updCore (s : State) (c : Nat) (f : Core → Core) : State := s.setCore c (f (s.core c))

/-- MSET (09 R195). -/
def execMset (g : Guard) (m a : Nat) (s : State) : Result :=
  onceSlot g s fun s => s.push (s.fr.t + 1) (.reg (.m m) ((s.sget a).setWidth 512) allBits)

/-- MGET (09 R195): mN as it stands at t. -/
def execMget (g : Guard) (m d : Nat) (s : State) : Result :=
  scalarSlot g d 1 (fun s => (s.reg (.m m)).setWidth 64) s

/-- MLOAD (09 R199): routines 0 to 63 need PRIV; the record is read at t + 2 and written at t + 4. -/
def execMload (g : Guard) (n a : Nat) (s : State) : Result :=
  onceSlot g s fun s =>
    let ad := (s.sget a).toNat
    if decide (n < 64) && !s.priv then s.privilege 0
    else match ownRecord s ad 64 with
      | some r => s.berthBound r 0 ad
      | none => (s.push (s.fr.t + 2) (.mload n ((Place.berth (coreOf s.fr.x)).key (ad % 2 ^ 16)))).noteEff (s.fr.t + 4)

/-- SLD (09 R208). -/
def execSld (g : Guard) (lat a : Nat) (imm : Int) (s : State) : Result :=
  onceSlot g s fun s => latchSlot lat s fun s =>
    let ad := (s.sget a + BitVec.ofInt 64 imm).toNat
    match (if ad % 64 ≠ 0 then some 0 else ownOnly (s.ctx s.fr.x) ad 128) with
    | some r => s.berthBound r 0 ad
    | none => (s.push (s.fr.t + 2) (.sld lat ((Place.berth (coreOf s.fr.x)).key (ad % 2 ^ 16)))).noteEff (s.fr.t + 4)

/-! ### Calls (09 R201 to R206) -/

/-- A call of a core. -/
def State.callOf (s : State) (core id : Nat) : Option Call := (s.core core).calls.find? fun c => c.id == id

/-- A call of a core changed by a function. -/
def State.updCall (s : State) (core id : Nat) (f : Call → Call) : State :=
  s.updCore core fun k => { k with calls := k.calls.map fun c => if c.id == id then f c else c }

/-- The scale latches of a core as 1,024 bytes. -/
def scaleBytes (s : State) (core : Nat) : Nat := s.mem.readN ((Place.scale core).key 0) 1024

/-- The formats FA, FB and kind FC of the boot set's routines 0 to 15 (09 R198). -/
def bootFormats : List (Nat × Nat × Nat) :=
  [(10, 10, 0), (11, 11, 0), (14, 14, 0), (14, 15, 0), (15, 14, 0), (15, 15, 0), (1, 1, 1), (1, 1, 0),
   (16, 16, 0), (17, 17, 0), (0, 0, 1), (14, 18, 0), (12, 12, 0), (13, 13, 2), (19, 10, 0), (0, 0, 0)]

/-- The record of a routine of the boot set: header, STEP, REP, END (09 R198). -/
def bootRecord (n : Nat) : Nat :=
  match bootFormats[n]? with
  | some (a, b, c) => 2 ^ 63 + a * 2 ^ 16 + b * 2 ^ 11 + c * 2 ^ 9 + 0x1180000000000000 * 2 ^ 64 + 0x2000000000000000 * 2 ^ 128
  | none => 0

/-- What the microprogram store of a core keeps for a record: with firmware loaded its difference from the boot set, so that
the boot set stands in every core without being listed (09 R198, 21 R352). -/
def routineForm (s : State) (n v : Nat) : Nat := if s.mod.bank.isSome then Nat.xor v (bootRecord n) else v

/-- The record of routine `n` of a core. -/
def routineOf (s : State) (core n : Nat) : Nat := routineForm s n (s.mem.readN ((Place.routine core).key (64 * n)) 64)

/-- Whether the slot of an MCALL is one that dry dock does not run (21 R351). -/
def dockRefuses (s : State) (n : Nat) : Bool :=
  let h := routineOf s (coreOf s.fr.x) n
  (s.gangOf s.fr.x).dock && (fld h 10 9 == 2 || fld h 20 16 == 17 || fld h 15 11 == 17)

/-- The call issued last on a core that runs on the clock of the acts of context `x` and has not retired: the array serves the calls of
a core in issue order, and a gang's own calls stand still with it (09 R201, R207, log 67). One that a deferred fault has ended or cancelled
holds the array no more (R206, log 77). -/
def prevCall (s : State) (core x : Nat) (hnd : Bool) : Option Call :=
  ((s.core core).calls.filter fun c => !c.dead && c.fr.hnd == hnd && (s.ctx c.fr.x).gang == (s.ctx x).gang).getLast?

/-- The start of a call issued at `t` behind another: t + 1, or the count at which the other's input is free (09 R201). -/
def callStartAt (t : Nat) (prev : Option Call) : Nat := Nat.max (t + 1) ((prev.map fun c => c.free).getD 0)

/-- A call entered at count `t`, with start `S`, for context `y`: it samples at t + 1, and the scale latches for its
first step at S - 1. A tile word's call brings its own descriptor `m`, and the flags of reading its start value. -/
def enterCall (s : State) (core n t S y : Nat) (m : List Word) (tile : Option TileRef) (flags : Nat := 0) : State :=
  let p := s.fresh
  let c : Call := { id := p.1, fr := { s.fr with gt := 0, cap := 0, capv := 0 }, y := y, rout := n, m := m, start := S, free := S,
                    tile := tile, flags := flags, scales := if S ≤ t + 1 then scaleBytes s core else 0 }
  let s := p.2.updCore core fun k => { k with calls := k.calls ++ [c] }
  let s := s.push (t + 1) (.mxSample core p.1) 6
  if S ≤ t + 1 then s else s.push (S - 1) (.scaleCap core p.1) 7

/-- MCALL (09 R201): one running call and one waiting call; it starts at the later of t + 1 and the previous call's
input-free count. -/
def execMcall (g : Guard) (n : Nat) (s : State) : Result :=
  onceSlot g s fun s =>
    let prev := prevCall s (coreOf s.fr.x) s.fr.x s.fr.hnd
    let t := s.fr.t
    match prev.filter fun c => decide (t + 1 < c.start) with
    | some c => s.raiseIssue 7 (BitVec.ofNat 64 (s.fromAnchor c.start + s.fromAnchor t * 2 ^ 32))
    | none =>
      if dockRefuses s n then s.raiseIssue 22 (BitVec.ofNat 64 s.fr.bits)
      else enterCall s (coreOf s.fr.x) n t (callStartAt t prev) s.fr.x [] none

/-- FINFO of a deferred fault of a call (09 R206). -/
def callInfo (s : State) (c : Call) (uw kind : Nat) (can : Bool) : Word :=
  BitVec.ofNat 64 (c.fr.addr * 2 ^ 53 + c.fr.slot % 4 * 2 ^ 51 + uw % 8 * 2 ^ 48 + kind * 2 ^ 44 + (if can then 2 ^ 32 else 0)
    + (((c.fr.t : Int) - (if c.fr.hnd then 0 else (s.gangOf c.fr.x).anchor : Nat)) % 2 ^ 32).toNat)

namespace State

/-- The job of a number. -/
def tileJob (s : State) (id : Nat) : Option TileJob := s.tiles.find? fun j => j.id == id

/-- A job changed by a function. -/
def updTile (s : State) (id : Nat) (f : TileJob → TileJob) : State :=
  { s with tiles := s.tiles.map fun j => if j.id == id then f j else j }

/-- A job and the words above it, innermost first. -/
def tileChain (s : State) : Nat → TileJob → List TileJob
  | 0, j => [j]
  | n + 1, j => j :: (match j.parent.bind s.tileJob with
    | none => []
    | some p => tileChain s n p)

/-- The word that a job belongs to as it was issued. -/
def tileRoot (s : State) (j : TileJob) : TileJob := (s.tileChain 6 j).getLastD j

/-- The frame of a job's effects. -/
def jobFr (s : State) (j : TileJob) : State := { s with fr := { j.fr with id := j.id, gt := 0, cap := 0, capv := 0 } }

/-- A step of a job at count `due`. -/
def tileAt (s : State) (j : TileJob) (due : Nat) (st : TileStep) : State := (s.jobFr j).push due (.tile j.id st) 8

/-- The end of a job or child at count `due`. -/
def tileEndAt (s : State) (j : TileJob) (due : Nat) : State := (s.jobFr j).fly due .tileChildEnd (s.jobFr j).fr

/-- Whether a block of a core array word is on its array, or on its way from it to C. -/
def blockOn (s : State) (j : TileJob) : Bool :=
  ((s.core j.core).calls.any fun c => !c.dead && (c.tile.map fun r => r.job) == some j.id)
    || (s.pend.any fun e => match e.act with
      | .tile id (.out _) => id == j.id
      | _ => false)

/-- What a failed word still crosses of a die word: crossings whose first slot has started complete, others are not made
(17 R295). -/
def dropCrossings (s : State) (ids : List Nat) (all : Bool) : State :=
  { s with ctxs := s.ctxs.map fun e => (e.1, { e.2 with crossings := e.2.crossings.filter fun c => match c.kind with
      | .die id _ => !(ids.contains id && (all || c.next == 0))
      | _ => true }) }

/-- The error record of a child that has met an uncorrectable error or a failed parity (10 R231, 15 R275): the store by the child's
level, the core of its port or of its quay, and in place of an address its first row and column (log 79); of the cluster berth and the drain
buffers the holding gang's member (15 R275). -/
def childRecord (s : State) (j : TileJob) (r : TileRef) (cause : Nat) : State :=
  let clu := r.lvl = 2 || (decide (r.lvl < 2) && j.mesh != 0 && cause == 11)
  let store := if cause = 20 then 5 else if clu then 1 else if r.lvl < 2 then 0 else if r.lvl = 3 then 4 else 1
  let y := if clu then (s.placeCtx ((Place.cluster (j.core / 4)).key 0)).getD j.fr.x else j.fr.x
  s.errorRec (s.gangOf y).part j.fr.addr store (if clu then coreOf y else if r.lvl = 3 then r.cidx * 4 + j.core / 128 * 128 else j.core) (y % 4)
    (r.row * 2 ^ 16 + r.col) (s.now j.fr.x false)

end State

/-- The port of a job: its core's, which takes words of levels 0 and 1 (08 R185), its cluster's, its die's or the module's. -/
def TileJob.port (j : TileJob) : Nat :=
  if j.lvl < 2 then j.core else if j.lvl = 2 then 2048 + j.core / 4 else if j.lvl = 3 then 4096 + j.core / 128 else 8192

/-- The cause of the fault that flags raise which the FMASK of their slot enables (03 R60). -/
def fpCause (flags fmask : Nat) : Option Nat :=
  let en := Nat.land flags fmask
  if en = 0 then none else some (if Nat.land en 0x1F ≠ 0 then 10 else 9)

namespace State

/-- A tile child fails with `cause` (09 R215, 15 R274, 17 R295, 22 R374): the words above it are held, and nothing further of them
starts: of a slice or core word no child that has not started, of a higher one no child that has not been emitted. Later words of the
issuer at that port are discarded, and the issuer takes the tile child fault at the next bundle boundary; `place` is the failing cluster and
layer where the child ran on another module. A word that a TILE packet submitted reports in its record instead (20 R337). -/
def failTile (s : State) (r : TileRef) (cause : Nat) (place : Option Nat := none) : State :=
  match s.tileJob r.job with
  | none => s
  | some j =>
    let s := if cause = 11 ∨ cause = 20 then s.childRecord j r cause else s
    let chain := s.tileChain 6 j
    let root := chain.getLastD j
    let path := chain.map fun k => k.id
    let later := fun (k : TileJob) => root.failed.isNone && k.fr.x == root.fr.x && k.port == root.port && k.parent.isNone
      && decide (root.id < k.id) && k.packet.isNone
    let low := (chain.filter fun k => decide (k.lvl < 2)).map fun k => k.id
    let held := fun (k : TileJob) =>
      if path.contains k.id then
        some { k with failed := some (k.failed.getD cause), bad := if k.id == j.id && decide (r.lvl < j.lvl) then some r.cidx else k.bad
                      stop := if k.id == j.id then some (Nat.min r.pos (k.stop.getD r.pos)) else k.stop }
      else if k.run && k.parent.isSome then some k
      else if (k.parent.map low.contains).getD false || later (s.tileRoot k) then none
      else some k
    let gone := (s.tiles.filter fun k => (held k).isNone).map fun k => k.id
    let t := { s with tiles := s.tiles.filterMap held }
    let t := if root.lvl < 3 then t else (t.dropCrossings path false).dropCrossings gone true
    let t := if r.lvl = 1 && decide (j.lvl < 2) && !t.blockOn j then { t.tileEndAt j (t.now j.fr.x j.fr.hnd) with fr := s.fr } else t
    if root.failed.isSome || root.packet.isSome || root.parent.isSome then t
    else
      let u := s.now root.fr.x root.fr.hnd
      let who := if root.lvl = 5 then (5, (chain.dropLast.getLast?.map fun k => k.cidx).getD r.cidx) else (r.lvl, r.cidx)
      let clu := if r.lvl = 3 then r.cidx else j.core / 4
      let place := if root.lvl < 3 then 0 else place.getD (clu % 32 * 8 + dieOf j.core % 8)
      let row := chain.foldl (fun n k => n + k.row0) r.row
      let col := chain.foldl (fun n k => n + k.col0) r.col
      let info := who.1 * 2 ^ 61 + who.2 % 2 ^ 13 * 2 ^ 48 + row % 2 ^ 16 * 2 ^ 32 + col % 2 ^ 16 * 2 ^ 16 + cause % 256 * 2 ^ 8 + place
      { { t with fr := root.fr }.raiseBoundary 21 (BitVec.ofNat 64 info) (u + 1) with fr := s.fr }

/-- A deferred fault of a call, taken at count `F` (09 R206): the call does nothing more, and a call waiting behind it
that the same context issued is cancelled. -/
def deferFault (s : State) (core : Nat) (c : Call) (code kind uw F : Nat) : State :=
  let waiting := (s.core core).calls.filter fun e => e.fr.x == c.fr.x && decide (c.id < e.id) && e.step == 0 && !e.dead && e.tile.isNone
  let can := !waiting.isEmpty
  let s := s.updCore core fun k => { k with calls := k.calls.map fun e =>
    if e.id == c.id || (can && waiting.any fun w => w.id == e.id) then { e with dead := true } else e }
  match c.tile with
  | some j => s.failTile j code
  | none =>
    let s := { s with fr := c.fr }
    let s := if code = 11 then s.errorSlot 0 uw else if code = 20 then s.errorSlot 5 uw else s
    s.raiseBoundary code (callInfo s c uw kind can) F

end State

/-- Whether a parameter register stands as the snapshot buffer left it with an uncorrectable error (10 R231). -/
def softM (s : State) (x : Nat) : Bool :=
  !s.soft.isEmpty && (List.range 64).any fun i => (s.failed (.reg x (.m (i / 8)) (i % 8))).isSome

/-- The checks of a call at t + 1 (09 R206): code and KIND of the first that fails. -/
def callCheck (s : State) (c : Call) : Option (Nat × Nat) :=
  let ctx := s.ctxFor c.y c.fr
  let steps := usedDescs c.code 1
  let d := fun i hi lo => desc c.m i hi lo
  let lats := steps.flatMap fun i => [d i 2 0]
  let scales := steps.flatMap fun i => (if d i 19 19 = 1 then [d i 18 16] else []) ++ (if d i 23 23 = 1 then [d i 22 20] else [])
  match headerClass (c.code.getD 0 0).toNat with
  | none => some (9, 0)
  | some k =>
    let pair := if k.fc = 2 then (lats.filter fun l => l % 2 == 0).map fun l => l + 1 else []
    if !((lats ++ scales ++ pair).all ctx.latchIn) then some (3, 8)
    else if !((usedWords c.code).all fun e => microOk e.1 e.2) then some (9, 0)
    else if !((steps ++ usedDescs c.code 2).all fun i => d i 63 48 == 0 && d i 31 24 == 0 && d i 15 14 == 0 && d i 7 4 == 0) then some (9, 1)
    else if !scales.isEmpty && !(k.order == .exact && k.fc == 0) then some (9, 1)
    else if k.fc = 2 && lats.any fun l => l % 2 == 1 then some (9, 1)
    else if !(steps.all fun i => decide (k.ab ≤ 64 * ((ctx.ring (d i 10 8)).size + 1) ∧ k.bb ≤ 64 * ((ctx.ring (d i 13 11)).size + 1))) then some (9, 2)
    else none

/-- Parameter register `i` as a call samples it at t + 1 (09 R195): what stood there before the landings of this cycle of an MSET in the
call's own bundle or a later one. `s.fr` is the call's. -/
def sampledM (s : State) (i : Nat) : Word :=
  let x := s.fr.x
  let after := s.undo.filterMap fun u => match u.old with
    | .reg y (.m n) o _ =>
      if u.land = s.landMark ∧ u.x = x ∧ y = x ∧ n = i ∧ u.hnd = s.fr.hnd ∧ bundleKey s.fr.ord ≤ bundleKey u.ord then some o else none
    | _ => none
  ((after.getLast?).getD (s.reg (.m i))).setWidth 64

/-- A call samples its routine and its descriptors, is checked, and its start is planned (09 R201, R206). `s.fr` is the
call's. -/
def callSample (s : State) (core id : Nat) : State :=
  match s.callOf core id with
  | none => s
  | some c =>
    let code := (List.range 8).map fun i => BitVec.ofNat 64 (routineOf s core c.rout / 2 ^ (64 * i))
    let m := if c.tile.isSome then c.m else (List.range 8).map (sampledM s)
    let c := { c with code := code, m := m }
    let s := s.updCall core id fun _ => c
    let drop := fun (s : State) => s.updCore core fun k => { k with calls := k.calls.filter fun e => e.id != id }
    if c.dead then drop s
    else match (if c.tile.isNone && softM s c.fr.x then some (20, 5) else callCheck s c) with
      | some (code, kind) => drop (s.deferFault core c code kind 0 (c.fr.t + 2))
      | none =>
        match headerClass (code.getD 0 0).toNat with
        | none => s
        | some k =>
          let n := stepsTo code m (endIndex code) 0
          let first := (nextStep code m 64 0 c.reps).getD (0, c.reps)
          -- a call of the same count before it has sampled by now, and has said when its input is free
          let before := ((s.core core).calls.filter fun e => !e.dead && decide (e.id < id) && e.fr.hnd == c.fr.hnd && (s.ctx e.fr.x).gang == (s.ctx c.fr.x).gang).getLast?
          let start := Nat.max c.start (callStartAt c.fr.t before)
          let free := start + k.P * n
          let s := s.updCall core id fun c => { c with
            n := n, uw := first.1, reps := first.2, start := start, free := free
            scales := if start = c.start then c.scales else scaleBytes s core }
          let s := if start = c.start ∨ start ≤ c.fr.t + 2 then s else { s with fr := c.fr }.push (start - 1) (.scaleCap core id) 7
          let W := if n = 0 then start else free + 32
          let fr := { c.fr with id := id }
          let s := if n = 0 then s else s.fly start (.matrixCallStart core) fr
          let s := match c.tile.bind fun r => r.out.map fun o => (r.job, o) with
            | some (job, d, st) => s.push (W + d) (.tile job st) 8
            | none => s
          (s.fly W (.matrixCallRetire core) fr).noteEff W

/-- The count at which a call's result last lands, as planned. -/
def callEnd (c : Call) : Nat :=
  match headerClass (c.code.getD 0 0).toNat with
  | some k => if c.n = 0 then c.start else c.start + k.P * c.n + 32
  | none => c.start

/-- A start value that cannot be read: the first step that names its latch, and every later one, do nothing (09 R206). -/
def dropSteps (c : Call) (lat : Nat) : Call :=
  { c with ins := c.ins.takeWhile fun i => desc c.m (fld (microword c.code i.uw) 59 57) 2 0 != lat }

/-- A start value read from its latch, both latches of an FP64 pair; one with a failed parity ends the call and leaves an error record
(09 R192, R206, 10 R231). -/
def readAcc (s : State) (core id lat : Nat) : State :=
  match s.callOf core id with
  | none => s
  | some c =>
    let key := (Place.latch core).key (4096 * lat)
    match s.failedByte key (accBytes c) with
    | some _ => (s.deferFault core c 20 5 c.uw (s.now c.fr.x c.fr.hnd + 1)).updCall core id fun c => dropSteps c lat
    | none => s.updCall core id fun c => { c with acc := (lat, s.mem.readN key (accBytes c)) :: c.acc.filter fun e => e.1 != lat }

/-- MATRIX_CALL_START (09 R202, R203): the call's start values are read, now or when earlier calls on the latch have
retired, and its first step reads at the end of this cycle. -/
def execMatrixCallStart (core : Nat) (s : State) : Result :=
  let id := s.fr.id
  match s.callOf core id with
  | none => .next s
  | some c =>
    if c.dead then .next s
    else
      let before := (s.core core).calls.filter fun e => !(e.dead && e.step == 0) && decide (e.id < id) && e.fr.hnd == c.fr.hnd && (s.ctx e.fr.x).gang == (s.ctx c.fr.x).gang
      let s := (callLats c).foldl (fun s lat =>
        let first := ((usedDescs c.code 1).find? fun i => desc c.m i 2 0 == lat).getD 0
        if desc c.m first 3 3 = 0 then
          s.updCall core id fun c => { c with acc := (lat, 0) :: c.acc }
        else
          let w := ((before.filter fun e => (callLats e).contains lat).map callEnd).foldl Nat.max c.start
          if w ≤ c.start then readAcc s core id lat else s.push w (.mxAcc core id lat) 7) s
      .next (s.push c.start (.mxStep core id) 99)

/-- Where the tile at the head of a ring stands. -/
def tileKey (s : State) (x ring : Nat) : Nat :=
  let r := (s.ctx x).ring ring
  (Place.berth (coreOf x)).key (r.tileByte r.head)

/-- The bytes of the tile at the head of a ring. -/
def headTile (s : State) (x ring n : Nat) : Nat := s.mem.readN (tileKey s x ring) n

/-- The deferred fault of reading `n` bytes of tiles or scale latches: what the snapshot buffer left with an uncorrectable error (10
R231), or an uncorrectable word (09 R206). -/
def markFault (s : State) (key n : Nat) : Option (Nat × Nat) :=
  if (s.failedByte key n).isSome then some (20, 5) else if (s.badWord (State.wordsOf key n)).isSome then some (11, 4) else none

/-- The fault of the scale latches that the next step of a call uses (09 R206). -/
def scaleBad (s : State) (core : Nat) (c : Call) : Option (Nat × Nat) :=
  if s.noMarks then none
  else
    let d := fld (microword c.code c.uw) 59 57
    let bad := fun (on lat : Nat) => if on = 1 then markFault s ((Place.scale core).key (128 * lat)) 128 else none
    (bad (desc c.m d 19 19) (desc c.m d 18 16)).or (bad (desc c.m d 23 23) (desc c.m d 22 20))

/-- The scale latches captured for a call's next step (09 R202); an uncorrectable error there ends the call (R206). -/
def captureScales (s : State) (core id : Nat) : State :=
  match s.callOf core id with
  | none => s
  | some c =>
    match (if c.dead then none else scaleBad s core c) with
    | some e => s.deferFault core c e.1 e.2 c.uw (s.now c.fr.x c.fr.hnd + 1)
    | none => s.updCall core id fun k => { k with scales := scaleBytes s core }

/-- A step reads its tiles (09 R202), after every write of the cycle. `s.fr` is the call's. -/
def callStep (s : State) (core id : Nat) : State :=
  match s.callOf core id with
  | none => s
  | some c =>
    match headerClass (c.code.getD 0 0).toNat with
    | none => s
    | some k =>
      if c.dead then s
      else
        let w := microword c.code c.uw
        let d := fld w 59 57
        let ra := desc c.m d 10 8
        let rb := desc c.m d 13 11
        let ctx := s.ctx c.y
        let S := c.start + k.P * c.step
        if (ctx.ring ra).count = 0 || (ctx.ring rb).count = 0 then s.deferFault core c 13 3 c.uw (S + 1)
        else match (if s.noMarks then none else ((markFault s (tileKey s c.y ra) k.ab).or (markFault s (tileKey s c.y rb) k.bb)).or
            (if c.step == 0 && decide (c.start ≤ c.fr.t + 1) then scaleBad s core c else none)) with
        | some e => s.deferFault core c e.1 e.2 c.uw (S + 1)
        | none =>
          let inp : StepIn := ⟨c.step, c.uw, headTile s c.y ra k.ab, headTile s c.y rb k.bb, c.scales⟩
          let pa := bit w 56
          let pb := bit w 55
          let s := if pa || (pb && ra == rb) then s.push (S + k.P) (.pop c.y ra) 4 else s
          let s := if pb && ra != rb then s.push (S + k.P) (.pop c.y rb) 4 else s
          let s := s.push (S + k.P + 31) (.mxSum core id) 98
          let s := s.push (S + k.P + 32) (.mxLand core id)
          let nx := nextStep c.code c.m 64 (c.uw + 1) c.reps
          let s := s.updCall core id fun c => { c with
            ins := c.ins ++ [inp], step := c.step + 1, uw := (nx.map fun e => e.1).getD 7, reps := (nx.map fun e => e.2).getD c.reps }
          match nx with
          | none => s
          | some _ => (s.push (S + k.P - 1) (.scaleCap core id) 7).push (S + k.P) (.mxStep core id) 99

/-- The oldest step read and not yet added is added to its latch's sums inside the array (09 R203, R204); the last one
raises the call's enabled faults at W, with its flags in PSW by then (R205, 10 R223, log 76). -/
def callSum (s : State) (core id : Nat) : State :=
  match s.callOf core id with
  | none => s
  | some c =>
    match headerClass (c.code.getD 0 0).toNat, c.ins.head? with
    | some k, some i =>
      let lat := desc c.m (fld (microword c.code i.uw) 59 57) 2 0
      match c.acc.find? fun e => e.1 == lat with
      | none => s
      | some (_, acc) =>
        let r := stepSums c k i acc
        let fl := flOr c.flags r.2
        let s := s.updCall core id fun c => { c with acc := (lat, r.1) :: c.acc.filter fun e => e.1 != lat, flags := fl }
        let en := Nat.land fl c.fr.fmask
        if i.idx + 1 < c.n || c.dead || en = 0 then s
        else
          let W := callEnd c
          let code := if Nat.land en 0x1F ≠ 0 then 10 else 9
          match c.tile with
          | some j => s.failTile j code
          | none =>
            let s := (s.mergeFlags c.fr.x fl).updCall core id fun c => { c with flags := 0 }
            { s with fr := c.fr }.raiseBoundary code (callInfo s c i.uw (if code = 10 then 6 else 7) false) W
    | _, _ => s

/-- A step's result lands in its latch, or in the FP64 pair (09 R202). `s.fr` is the call's. -/
def callLand (s : State) (core id : Nat) : State :=
  match s.callOf core id with
  | none => s
  | some c =>
    match headerClass (c.code.getD 0 0).toNat, c.ins.head? with
    | some k, some i =>
      let lat := desc c.m (fld (microword c.code i.uw) 59 57) 2 0
      let n := if k.fc = 2 then 8192 else 4096
      let s := s.updCall core id fun c => { c with ins := c.ins.tail }
      match c.acc.find? fun e => e.1 == lat with
      | some e => s.writeMem c.fr.x c.fr.hnd c.fr.ord ((Place.latch core).key (4096 * lat)) n e.2 (allBytes n)
      | none => s
    | _, _ => s

/-- MATRIX_CALL_RETIRE (09 R205): the call's flags merge into PSW, and the call leaves the array; the flags of a cluster port's calls
merge with its word's. DESIGN CHOICE (log 77): a call that a deferred fault has ended merges none. -/
def execMatrixCallRetire (core : Nat) (s : State) : Result :=
  match s.callOf core s.fr.id with
  | none => .next s
  | some c =>
    let s := s.updCore core fun k => { k with calls := k.calls.filter fun e => e.id != c.id }
    .next (if c.dead then s
      else match c.tile with
        | none => s.mergeFlags c.fr.x c.flags
        | some r =>
          if ((s.tileJob r.job).map fun j => j.lvl) == some 1 then s.mergeFlags c.fr.x c.flags
          else s.updTile r.job fun j => { j with flags := Nat.lor j.flags c.flags })

end Sys2Proof.Machine
end

