-- ==== Sys2Proof/Machine/Engine.lean ====
section
/-! DEFINITION. Engine commands: the start rule, engine slots, the HBM calendar, router commands, sends and posts,
and capacity-tier copies (15 R257 to R263, R267, 18 R301 to R307, R314, 22 R368, R371). -/

namespace Sys2Proof.Machine

/-! ### The start rule and the descriptor (15 R257, R259) -/

/-- The start count S that a 14-bit offset names at issue: the count from the anchor with S mod 16,384 = off that lies
from t - 8,191 to t + 8,192 (15 R257). -/
def startCount (s : State) (off : Nat) : Int :=
  let a : Int := if s.fr.hnd then 0 else (s.gangOf s.fr.x).anchor
  let lo := (s.fr.t : Int) - a - 8191
  a + lo + ((off : Int) - lo) % 16384

/-- The timing fault of an engine command with start count `S` (10 R218 code 7). -/
def State.lateStart (s : State) (S : Int) : State :=
  let a : Int := if s.fr.hnd then 0 else (s.gangOf s.fr.x).anchor
  s.raiseIssue 7 (BitVec.ofNat 64 (((S - a) % 2 ^ 32).toNat + s.fromAnchor s.fr.t * 2 ^ 32))

/-- The illegal-encoding fault of the slot in hand. -/
def State.illegal (s : State) : State := s.raiseIssue 1 (BitVec.ofNat 64 s.fr.bits)

/-- Fields of a transfer descriptor (15 R259). -/
structure Xfer where
  qh   : Nat
  rows : Nat
  rlen : Nat
  str  : Nat
  idx  : Nat
  deriving DecidableEq, Repr

/-- A transfer descriptor as command `op` reads it; none when a reserved bit is not zero. -/
def xferOf (op : Nat) (d : Word) : Option Xfer :=
  let w := d.toNat
  let acc := op == 2 || op == 3
  if fld w 51 48 ≠ 0 || (acc && fld w 63 60 != 0) || (op == 4 && fld w 13 0 != 0) then none
  else some ⟨if acc then fld w 59 52 else fld w 63 52, fld w 47 36 + 1, fld w 35 26 + 1, if op = 4 then 0 else fld w 25 0, fld w 25 14⟩

/-- The granules of a command. -/
def Xfer.n (d : Xfer) : Nat := d.rows * d.rlen

/-- The first register or tile outside the allotment that a command touches: whether it is a tile, and its number. -/
def xferBound (c : Ctx) (op : Nat) (d : Xfer) : Option (Bool × Nat) :=
  let bytes := 64 * d.n
  let acc := op == 2 || op == 3
  let last := if op = 5 then d.qh else d.qh + (bytes - 1) / (if acc then 4096 else 512)
  let ok := if acc then c.tileIn else c.quayIn
  if !ok d.qh then some (acc, d.qh)
  else if !ok last then some (acc, last)
  else if op = 4 then
    let il := d.idx + (d.rows - 1) / 128
    if !c.quayIn d.idx then some (false, d.idx) else if !c.quayIn il then some (false, il) else none
  else none

/-- The quay key of granule `i` of a command. -/
def xferKey (core op : Nat) (d : Xfer) (i : Nat) : Nat :=
  if op = 2 ∨ op = 3 then (Place.acc core).key (4096 * d.qh + 64 * i)
  else if op = 5 then (Place.quay core).key (512 * d.qh)
  else (Place.quay core).key (512 * d.qh + 64 * i)

/-- The warm virtual address of granule `i`; `idx` are the indexes of CE.GTH. -/
def xferVa (op : Nat) (d : Xfer) (warm : Nat) (idx : List Nat) (i : Nat) : Nat :=
  let r := i / d.rlen
  (warm / 64 * 64 + (if op = 4 then 64 * idx.getD r 0 else 64 * d.str * r) + 64 * (i % d.rlen)) % 2 ^ 64

/-- Whether a command writes warm memory. -/
def opWrites (op : Nat) : Bool := op == 1 || op == 3 || op == 5

/-! ### Engine slots (15 R258) -/

/-- The next `n` engine slots of core `c` from TIDE `T` on in rotations that `lk` holds and that are not held. -/
def pickEngine (c lk : Nat) (held : List Int) : Nat → Nat → Int → List Int
  | 0, _, _ => []
  | _, 0, _ => []
  | fuel + 1, n + 1, T =>
    if bit lk (T / 64 % 4).toNat && !held.contains T then T :: pickEngine c lk held fuel n (T + 64)
    else pickEngine c lk held fuel (n + 1) (T + 64)

/-- The slots of a command of `n` granules from clock value `S` on, as values of the clock. -/
def engineSlots (s : State) (S : Int) (n : Nat) : List Int :=
  let x := s.fr.x
  let c := s.ctx x
  let off : Int := (s.cal x s.fr.hnd : Int) - s.clk x s.fr.hnd
  let T := S + off
  let ph : Int := 16 * ((coreOf x % 4 : Nat) : Int)
  let first := T + (ph - T) % 64
  let held := (c.commands.filter fun k => k.hnd == s.fr.hnd).flatMap fun k => k.slots.map fun u => u + off
  (pickEngine (coreOf x) c.lk held (4 * (n + held.length + 2)) n first).map fun u => u - off

/-- The number of a command entered now: that which it has been given where a cluster's limit put it off. -/
def State.commandId (s : State) : Nat × State := if s.fr.slice = 1 then (s.fr.id, s) else s.fresh

/-- A non-static access of the context in hand, by its number. -/
def State.noteNonstatic (s : State) (id : Nat) : State :=
  s.updCtx s.fr.x fun c => if c.nonstatic.contains id then c else { c with nonstatic := c.nonstatic ++ [id] }

/-- An engine command with its checks of R257 to R259 passed is entered: its warm addresses are checked at t + 2, and
its granules take their slots from S on. -/
def enterCommand (s : State) (op : Nat) (d : Xfer) (warm : Nat) (dw : Word) (S : Int) : State :=
  let x := s.fr.x
  let p := s.commandId
  let id := p.1
  let s := p.2
  let lag : Int := (s.clk x s.fr.hnd : Int) - s.now x s.fr.hnd
  let slots := engineSlots s (S + lag) d.n
  let fr := { s.fr with id := id, gt := 0, cap := 0, capv := 0, slice := 0 }
  let s := s.updCtx x fun c => { c with
    commands := c.commands ++ [⟨id, fr.hnd, fr.ord, fr, op, warm, dw, S.toNat, slots, 0, [], 0, 0⟩] }
  let s := { s with fr := fr }
  let s := s.push (s.now x fr.hnd + 2) (.warmCheck id)
  if op = 4 then s.flyClk (S + lag).toNat (.engineSlot x id) { fr with slice := 1 }
  else s.flyClk (slots.headD 0).toNat (.engineSlot x id) fr

/-- Whether a command of a context has a granule that has not performed: slots to come, accesses of the calendar or of a quay to come, or,
of a send, a cell on its way. An access of the calendar comes at its TIDE, so it may be over before the count in hand shows it (15 R263). -/
def commandOpen (s : State) (x : Nat) (k : Command) : Bool :=
  let mine := fun (a : Act) => a.i == .hbmCalendarAccess k.id && a.fr.x == x
  decide (k.next < k.slots.length) || (decide (9 ≤ k.op) && decide (s.clk x k.hnd < k.last))
    || s.agenda.any mine || (s.timed.any fun e => mine e.act) || s.pend.any fun e => e.fr.id == k.id && e.fr.who == x

/-- The commands of a context whose last granule has not performed (R258), with the posts that wait for their acknowledgement. -/
def openCommands (s : State) (x : Nat) : Nat :=
  let cs := (s.ctx x).commands.filter (commandOpen s x)
  cs.length + (s.mod.msgs.filter fun m => m.kind == .posted && m.x == x && !(cs.any fun k => k.id == m.id)).length

/-- The checks that engine commands share, in the order of R221: descriptor, bounds, start count. -/
def engineCheck (s : State) (op : Nat) (S : Int) (dw : Word) (f : Xfer → State → State) : State :=
  let c := s.ctx s.fr.x
  match xferOf op dw with
  | none => s.illegal
  | some d =>
    match xferBound c op d with
    | some (tile, n) => s.quayBound tile n
    | none =>
      if S < s.fr.t + 24 || c.lk == 0 || decide (16 ≤ openCommands s s.fr.x) then s.lateStart S else f d s

/-- A transfer command (15 R260). -/
def transfer (op : Nat) (g : Guard) (a b off : Nat) (s : State) : Result :=
  onceSlot g s fun s =>
    let S := startCount s off
    engineCheck s op S (s.sget b) fun d s => enterCommand s op d (s.sget a).toNat (s.sget b) S

/-- CE.LD (15 R260). -/
def execCeLd (g : Guard) (a b off : Nat) (s : State) : Result := transfer 0 g a b off s
/-- CE.ST (15 R260). -/
def execCeSt (g : Guard) (a b off : Nat) (s : State) : Result := transfer 1 g a b off s
/-- CE.AL (15 R260). -/
def execCeAl (g : Guard) (a b off : Nat) (s : State) : Result := transfer 2 g a b off s
/-- CE.AS (15 R260). -/
def execCeAs (g : Guard) (a b off : Nat) (s : State) : Result := transfer 3 g a b off s
/-- CE.GTH (15 R260). -/
def execCeGth (g : Guard) (a b off : Nat) (s : State) : Result := transfer 4 g a b off s
/-- CE.FIL (15 R260). -/
def execCeFil (g : Guard) (a b off : Nat) (s : State) : Result := transfer 5 g a b off s

/-! ### Sends and posts (22 R368, R371) -/

namespace State

/-- Whether a command or a tile word that a context issued before the slot of a frame has accesses to come: in the engine, at a port, at its
read, or on its way to the pilot (08 R179). -/
def olderOpen (s : State) (fr : Frame) : Bool :=
  let mine := fun (f : Frame) => f.x == fr.x && f.hnd == fr.hnd && !f.rt && decide (f.ord < fr.ord)
  ((s.ctx fr.x).commands.any fun k => mine k.fr) || (s.tiles.any fun j => j.packet.isNone && j.parent.isNone && mine j.fr)
    || (s.pend.any fun e => (match e.act with | .tissRead _ => true | _ => false) && mine e.fr)
    || (s.timed.any fun e => e.act.fr.bits != 0 && tileInstr e.act.i && mine e.act.fr)
    || (s.ctx fr.x).crossings.any fun k => (match k.kind with | .tiss _ => decide (k.next < k.slots.length) | _ => false) && mine k.fr

end State

/-- Whether a context holds a valid cell on a link: its cells' numbers. -/
def cellsOf (s : State) (x link : Nat) : List Nat :=
  let l : Link := SMap.get {} s.mod.links link
  (List.range 96).filter fun e =>
    let w := (SMap.get 0 l.grants e).toNat
    bit w 15 && fld w 14 13 == x % 4 && fld w 12 3 == coreOf x

/-- BX.SEND (22 R368). -/
def execBxSend (g : Guard) (a b off : Nat) (s : State) : Result :=
  onceSlot g s fun s =>
    let S := startCount s off
    let w := (s.sget a).toNat
    if fld w 47 46 ≠ 0 then s.illegal
    else engineCheck s 9 S (s.sget b) fun d s =>
      if (cellsOf s s.fr.x (fld w 51 48)).isEmpty then s.lateStart S
      else enterCommand s 9 d w (s.sget b) S

/-- A command that finds a cluster's limit reached: with the operands that it has read it comes again at the freeze point of its gang,
once one has completed (15 R261, 22 R371). It has been issued, and a FENCE waits for it. A handler's comes again with each of its counts,
its gang being frozen (log 35). -/
def limitStop (s : State) (why : Why) (i : Instr) (a b : Word) : State :=
  let p := s.commandId
  let s := p.2.noteNonstatic p.1
  let fr := { s.fr with slice := 1, id := p.1, cap := a, capv := b.setWidth 4096 }
  let u := s.now s.fr.x s.fr.hnd
  if s.fr.hnd then s.fly (u + 1) i fr
  else
    let F := (s.gangOf s.fr.x).reqPoint u
    (s.ask (s.ctx s.fr.x).gang F why).fly F i fr

/-- A BX.POST accepted, unless 64 are outstanding on its cluster (22 R371): its source is read at the context's engine slots from 24
counts on. -/
def acceptPost (i : Instr) (f : Nat) (a b : Word) (d : Xfer) (s : State) : State :=
  let clu := clusterOf (coreOf s.fr.x)
  if 64 ≤ (s.clu clu).posts then limitStop s (.postFull clu) i a b
  else
    let u := s.now s.fr.x s.fr.hnd
    let r := (s.clu clu).router
    let last := Nat.max (if s.fr.hnd then (s.ctx s.fr.x).perfH else (s.ctx s.fr.x).perfP)
      (if r.x = s.fr.x ∧ r.hnd = s.fr.hnd then r.perfP else 0)
    let s := enterCommand s 10 d a.toNat b (u + 24)
    let s := s.setClu clu { s.clu clu with posts := (s.clu clu).posts + 1 }
    let s := s.updMod fun m => { m with msgs := m.msgs ++
      [{ id := s.fr.id, kind := .posted, a := f, b := clu, c := last, data := a.toNat + d.n * 2 ^ 64, x := s.fr.x, fr := s.fr }] }
    s.noteNonstatic s.fr.id

/-- BX.POST (22 R371). -/
def execBxPost (g : Guard) (a b f : Nat) (s : State) : Result :=
  let i : Instr := .bxPost g a b f
  if s.fr.slice = 1 then
    .next (match xferOf 10 (s.fr.capv.setWidth 64) with
      | some d => acceptPost i f s.fr.cap (s.fr.capv.setWidth 64) d s
      | none => s)
  else onceSlot g s fun s =>
    let w := (s.sget a).toNat
    if fld w 51 48 ≠ 0 || bit w 46 then s.illegal
    else engineCheck s 10 (s.fr.t + 24) (s.sget b) fun d s => acceptPost i f (s.sget a) (s.sget b) d s

/-! ### Capacity-tier copies (15 R261, 18 R314) -/

/-- A CE.CXL accepted: eight requests, sent once the translation check two counts on has passed; a freeze of the gang at that count or
before it does not hold the check (15 R261, R263, 18 R314). -/
def enterCxl (s : State) (dir : Bool) (q : Nat) (va f : Nat) : State :=
  let x := s.fr.x
  let clu := clusterOf (coreOf x)
  let p := s.commandId
  let id := p.1
  let s := p.2.setClu clu { p.2.clu clu with cxl := (p.2.clu clu).cxl + 1 }
  let fr := { s.fr with id := id, gt := 0, cap := 0, capv := 0, slice := 0 }
  let reqs := (List.range 8).map fun i =>
    { id := 8 * id + i, x := x, gid := (s.ctx x).gang, dir := dir, tier := va / 64 * 64 + 64 * i,
      key := (Place.quay (coreOf x)).key (512 * q + 64 * i), cmd := id, hnd := fr.hnd, ord := fr.ord, flag := (clu, f),
      addr := fr.addr : CxlReq }
  let s := s.updMod fun m => { m with cxl := m.cxl ++ reqs }
  { s.noteNonstatic id with fr := fr }.pushWall 2 (.warmCheck id)

/-- The commands to the capacity tier of a gang whose requests have all arrived while it is frozen: they meet its own WAIT,
FENCE and limit, although their bytes and flags perform at G (15 R261, R263, 08 R181, R182). -/
def State.arrived (s : State) (gi : Nat) : List CxlReq :=
  s.mod.cxl.filter fun r => r.gid == gi && r.done && s.mod.cxl.all fun e => e.cmd != r.cmd || e.done

/-- How many commands of a cluster those are. -/
def State.arrivedOn (s : State) (gi clu : Nat) : Nat :=
  (((s.arrived gi).filter fun r => r.flag.1 == clu).map fun r => r.cmd).eraseDups.length

/-- A CE.CXL with its address read: it is accepted unless 256 are outstanding on its cluster. One that comes again as its gang resumes
finds those complete that the freeze has held until then (15 R261, R263). -/
def acceptCxl (i : Instr) (dir : Bool) (q f : Nat) (va : Word) (s : State) : State :=
  let clu := clusterOf (coreOf s.fr.x)
  let back := if s.fr.slice = 1 then s.arrivedOn (s.ctx s.fr.x).gang clu else 0
  if 256 + back ≤ (s.clu clu).cxl then limitStop s (.cxlFull clu) i va 0 else enterCxl s dir q va.toNat f

/-- A CE.CXL at its slot: bounds, then the lock, then the cluster's limit of 256. -/
def cxl (i : Instr) (dir : Bool) (g : Guard) (q a f : Nat) (s : State) : Result :=
  if s.fr.slice = 1 then .next (acceptCxl i dir q f s.fr.cap s)
  else onceSlot g s fun s =>
    let c := s.ctx s.fr.x
    if !c.quayIn q then s.quayBound false q
    else if c.lk = 0 then s.lateStart s.fr.t
    else acceptCxl i dir q f (s.sget a) s

/-- CE.CXL qN, sa, f (15 R261). -/
def execCeCxlToQuay (g : Guard) (q a f : Nat) (s : State) : Result := cxl (.ceCxlToQuay g q a f) false g q a f s
/-- CE.CXL sa, qN, f (15 R261). -/
def execCeCxlToTier (g : Guard) (q a f : Nat) (s : State) : Result := cxl (.ceCxlToTier g q a f) true g q a f s

/-! ### The check at t + 2 (18 R301) -/

/-- The window that a command is checked against: for a send, the one that module MOD sent, if LINK leads there. -/
def commandWindow (s : State) (x op warm : Nat) : List Extent :=
  let g := s.gangOf x
  if op = 9 then
    let md := fld warm 63 52
    let l : Link := SMap.get {} s.mod.links (fld warm 51 48)
    if l.nbr = md then ((g.peers.find? fun e => e.1 == md).map fun e => e.2).getD [] else []
  else g.window

/-- The base address of a command's warm side. -/
def warmBase (op warm : Nat) : Nat := if op = 9 ∨ op = 10 then fld warm 45 6 * 64 else warm

/-- The addresses that are checked at t + 2: every granule; of BX.POST, which the far module translates, none. -/
def checkAddrs (op : Nat) (d : Xfer) (warm : Nat) : List Nat :=
  if op = 10 then [] else (List.range d.n).map (xferVa op d (warmBase op warm) [])

/-- The check at t + 2 of CE.GTH, whose indexes are not known: the whole indexed region of the manifest, which is taken as what is
left of the manifest's extent from the base granule on (18 R301, log 47). Its pages are in the window, so what can fail past the base is
a page of another target. -/
def regionBad (g : Gang) (warm : Nat) : Option (Nat × Nat × Nat) :=
  let base := warm / 64 * 64
  match granuleKind g.window base false false with
  | some k => some (0, base, k)
  | none =>
    let last := ((g.manifest.filter fun e => decide (e.1 ≤ base ∧ base < e.1 + e.2)).map fun e => (e.1 + e.2 - 1) / 2 ^ 16).foldl Nat.max (base / 2 ^ 16)
    let bad := (g.window.filter fun e => e.ns && decide (base / 2 ^ 16 < e.va + e.len ∧ e.va ≤ last)).map fun e => e.va
    match bad with
    | [] => none
    | v :: r =>
      let va := r.foldl Nat.min v * 2 ^ 16
      some ((va - base) / 64, va, 2)

/-- A context's command. -/
def State.command (s : State) (x id : Nat) : Option Command := (s.ctx x).commands.find? fun k => k.id == id

/-- A CE.CXL that fails its check: it is outstanding no more. -/
def dropCxl (s : State) (x id : Nat) : State :=
  let clu := clusterOf (coreOf x)
  let s := s.updMod fun m => { m with cxl := m.cxl.filter fun r => r.cmd != id }
  let s := s.setClu clu { s.clu clu with cxl := (s.clu clu).cxl - 1 }
  s.updCtx x fun c => { c with nonstatic := c.nonstatic.filter fun n => n != id }

/-- The requests of a CE.CXL sent in byte order from this cycle on; the send times are not fixed further by the device (18 R314). -/
def sendCxl (s : State) (rs : List CxlReq) : State :=
  (rs.foldl (fun (a : State × Nat) r =>
    let p := a.1.freeValue 16
    let T := a.2 + p.1.toNat
    (if T ≤ s.tide then { p.2 with agenda := p.2.agenda ++ [⟨.cxlRequestSend r.id, {}⟩] } else p.2.timedAt T (.cxlRequestSend r.id), T))
    (s, s.tide)).1

/-- The check of a command or of a CE.CXL at count `D`, two after its issue: a failure raises the translation fault. `s.fr` is the
slot's. -/
def warmCheck (s : State) (id D : Nat) : State :=
  let x := s.fr.x
  let fault := fun (s : State) (e : Nat × Nat × Nat) => s.raiseExec 6 (transInfo e.1 e.2.2) (BitVec.ofNat 64 e.2.1) D
  match s.command x id with
  | some k =>
    match xferOf k.op k.desc with
    | none => s
    | some d =>
      match (if k.op = 4 then regionBad (s.gangOf x) k.warm
        else firstBad (commandWindow s x k.op k.warm) (opWrites k.op || k.op == 9) false 0 (checkAddrs k.op d k.warm)) with
      | some e => fault s e
      | none => s
  | none =>
    let rs := s.mod.cxl.filter fun r => r.cmd == id
    match firstBad (s.gangOf x).window ((rs.map fun r => r.dir).headD false) true 0 (rs.map fun r => r.tier) with
    | some e => fault (dropCxl s x id) e
    | none => sendCxl s rs

/-! ### A slot (15 R258, 18 R305, R306) -/

/-- The first of the counts a, a + 1,024, ... that is not held. -/
def freeCount (held : List Nat) : Nat → Nat → Nat
  | 0, a => a
  | n + 1, a => if held.contains a then freeCount held n (a + 1024) else a

/-- The access count of a granule whose slot starts at clock value `u` (18 R305); `T` is the slot's TIDE. -/
def accessCount (held : List Nat) (T u off : Nat) : Nat :=
  let kap := hbmBank (off / 64)
  freeCount held (held.length + 1) (u + 64 * ((kap + 16 - T / 64 % 16) % 16))

/-- The warm physical address of a granule by the gang's window. -/
def windowPhys (s : State) (x va : Nat) : Option Nat := (coverOf (s.gangOf x).window va).map fun e => e.phys va

/-- Whether two contexts' acts in a mode count on one clock: the program's of one gang, or the handler's of one context. -/
def sameClock (s : State) (x y : Nat) (hnd : Bool) : Bool := if hnd then x == y else (s.ctx x).gang == (s.ctx y).gang

/-- The accesses that granules of a core presented earlier hold in the calendar, by the calendar of context `x` (18 R305): those that
count on its clock by their counts, which no freeze moves (07 R153), and others by TIDE, in which an access whose slot has started
happens even as its gang freezes (15 R263). -/
def heldAccess (s : State) (x : Nat) (hnd : Bool) : List Nat :=
  let pace := (s.gangOf x).pace
  (s.core (coreOf x)).hbm.filterMap fun e =>
    if e.2.1 == hnd && sameClock s x e.1 hnd then
      if s.clk x hnd ≤ e.2.2.1 then some (s.cal x hnd + (e.2.2.1 - s.clk x hnd)) else none
    else if s.tide ≤ e.2.2.2 then some (s.cal x hnd + (e.2.2.2 - s.tide) / pace)
    else none

/-- The first cell of a context on a link at or after clock value `v` that no granule holds: its TIDE and position. -/
def pickCell (cells : List Nat) (held : List (Nat × Nat)) : Nat → Nat → Option (Nat × Nat)
  | 0, _ => none
  | n + 1, T =>
    match (cells.filter fun e => e / 6 == T / 64 % 16 && !held.contains (T, e % 6)).head? with
    | some e => some (T, e % 6)
    | none => pickCell cells held n (T + 64)

/-- The cells of a link that granules of context `x` hold, by their TIDEs: those that count on its clock at the TIDEs that their counts have
now (22 R368, R370). -/
def heldCells (s : State) (x : Nat) (hnd : Bool) (link : Nat) : List (Nat × Nat) :=
  ((s.ctx x).cells.filter fun e => e.link == link).map fun e => (if e.hnd == hnd then s.tide + e.count - s.clk x hnd else e.tide, e.pos)

/-- The set of a post's module flag goes out behind its granules, with P, once every static access that its context issued before the post
has performed and P is known (22 R371). -/
def sendPosted (s : State) (id : Nat) : State :=
  match s.mod.msgs.find? fun e => e.id == id && e.kind == .posted with
  | none => s
  | some m =>
    let u := s.now m.x m.fr.hnd
    if s.olderOpen m.fr || decide (u < m.c) then s.fly (u + 1) (.engineSlot m.x id) { m.fr with slice := 2 }
    else s.send { id := id, kind := .posted, a := fld m.data 63 52, b := m.data / 2 ^ 47 % 2 * 64 + m.data % 64, c := s.tide + m.c - u
                  d := (s.gangOf m.x).job, data := m.data / 2 ^ 64, x := m.x, fr := m.fr }

/-- The granule of a send or a post that leaves: its cell, and the count at which it performs. -/
def sendGranule (s : State) (k : Command) (d : Xfer) (i u data : Nat) (bad : Bool) : State :=
  let x := s.fr.x
  let va := xferVa k.op d (warmBase k.op k.warm) [] i
  let md := fld k.warm 63 52
  let m : Msg := { id := k.id, kind := .send, a := md, b := va, c := 0, d := (s.gangOf x).job, data := data + (if bad then 2 ^ 512 else 0), x := x, fr := k.fr }
  if k.op = 10 then
    let s := s.send { m with kind := .post, c := i }
    if i + 1 < d.n then s else sendPosted s k.id
  else
    let link := fld k.warm 51 48
    let held := heldCells s x k.hnd link
    match pickCell (cellsOf s x link) held (16 * (held.length + 2)) ((s.tide + 64 + 63) / 64 * 64) with
    | none => s
    | some (T, p) =>
      let l : Link := SMap.get {} s.mod.links link
      let due := u + (T - s.tide) + p + l.lat
      let s := s.updCtx x fun c => { c with
        cells := (c.cells.filter fun e => decide (s.tide ≤ e.tide) || decide (s.clk x e.hnd ≤ e.count)) ++ [⟨link, k.hnd, u + (T - s.tide), T, p⟩]
        commands := c.commands.map fun e => if e.id == k.id then { e with last := Nat.max e.last due } else e }
      (s.send { m with c := due, link := link, slot := T, pos := p + 1 }).notePerf (s.toSch due)

/-- A quay granule as an engine reads it, with its poison: an uncorrectable error counts as poison and has its record, and a correctable
one is counted (18 R309, R311). `s.fr` is the command's. -/
def quayGranule (s : State) (key : Nat) : State × Nat × Bool :=
  let e := s.granuleEcc (key / 64)
  let s' := if e = 2 then s.errorSlot 4 (poisonAddr key) else if e = 1 then s.countError key else s
  (s', s.mem.readN key 64, s.poisoned key || e == 2)

/-- The read of the quay granule of command `k`, and its poison. -/
def quayRead (s : State) (core : Nat) (k : Command) (d : Xfer) (i : Nat) : State × Nat × Bool :=
  if k.op = 5 then (s, (List.range 8).foldl (fun a j => a + k.fill * 2 ^ (64 * j)) 0, false)
  else quayGranule s (xferKey core k.op d i)

/-- An act run at TIDE `T`, or now if that is this cycle. -/
def State.actAt (s : State) (T : Nat) (i : Instr) (fr : Frame) : State :=
  if T ≤ s.tide then { s with agenda := s.agenda ++ [⟨i, fr⟩] } else s.timedAt T i fr

/-- A granule presented to the channel calendar at its slot's start, with the data of a write (18 R305, R306). Its access comes at its
TIDE, whether the gang runs then or not (15 R263). -/
def present (s : State) (x : Nat) (k : Command) (i pa data : Nat) (bad : Bool) : State :=
  let u := s.clk x k.hnd
  let c := s.cal x k.hnd
  let A := accessCount (heldAccess s x k.hnd) c c pa - c
  let T := s.tide + (s.gangOf x).pace * A
  let s := s.updCore (coreOf x) fun c => { c with
    hbm := (c.hbm.filter fun e => decide (s.tide ≤ e.2.2.2) || decide (s.clk e.1 e.2.1 ≤ e.2.2.1)) ++ [(x, k.hnd, u + A, T)] }
  let last := u + A + (if opWrites k.op then 0 else 224)
  let s := s.updCtx x fun c => { c with commands := c.commands.map fun e => if e.id == k.id then { e with last := Nat.max e.last last } else e }
  (s.notePerf (s.toSch last)).actAt T (.hbmCalendarAccess k.id)
    { s.fr with slice := i, cap := BitVec.ofNat 64 (u + A), capv := BitVec.ofNat 4096 data, gt := if bad then 1 else 0 }

/-- The slot of granule `i` of command `k` starts (15 R258). -/
def startSlot (s : State) (x : Nat) (k : Command) (d : Xfer) : State :=
  let core := coreOf x
  let i := k.next
  let u := s.clk x k.hnd
  let k := if k.op = 5 ∧ i = 0 then { k with fill := s.mem.readN (xferKey core 5 d 0) 8 } else k
  let s := s.updCtx x fun c => { c with commands := c.commands.map fun e =>
    if e.id == k.id then { e with next := i + 1, fill := k.fill, last := Nat.max e.last u } else e }
  let s := if i + 1 < k.slots.length then s.flyClk (k.slots.getD (i + 1) 0).toNat (.engineSlot x k.id) s.fr else s
  if k.op = 9 ∨ k.op = 10 then
    let r := quayRead s core k d i
    sendGranule r.1 k d i u r.2.1 r.2.2
  else
    match windowPhys s x (xferVa k.op d k.warm k.idx i) with
    | none => s
    | some pa =>
      if opWrites k.op then
        let r := quayRead s core k d i
        present r.1 x k i pa r.2.1 r.2.2
      else present s x k i pa 0 false

/-- ENGINE_SLOT (15 R258): a granule's slot starts. The act at S of CE.GTH, marked by slice 1, reads the indexes; in slice 2 the flag of a
post goes out. -/
def execEngineSlot (x id : Nat) (s : State) : Result :=
  if s.fr.slice = 2 then .next (sendPosted s id)
  else match s.command x id with
  | none => .next s
  | some k =>
    match xferOf k.op k.desc with
    | none => .next s
    | some d =>
      if s.fr.slice = 1 then
        let idx := (List.range d.rows).map fun r => s.mem.readN ((Place.quay (coreOf x)).key (512 * d.idx + 4 * r)) 4
        let s := s.updCtx x fun c => { c with commands := c.commands.map fun e => if e.id == id then { e with idx := idx } else e }
        match firstBad (s.gangOf x).window false false 0 ((List.range d.n).map (xferVa 4 d k.warm idx)) with
        | some (i, va, kind) => .next (s.raiseExec 6 (transInfo i kind) (BitVec.ofNat 64 va) k.start)
        | none =>
          let fr := { s.fr with slice := 0 }
          let u := (k.slots.headD 0).toNat
          .next (if u ≤ s.clk x k.hnd then startSlot { s with fr := fr } x { k with idx := idx } d else s.flyClk u (.engineSlot x id) fr)
      else .next (startSlot s x k d)

/-- HBM_CALENDAR_ACCESS (18 R305, R306): a granule is read from HBM or performs there; the frame's `cap` is its access count and `slice`
its number. -/
def execHbmCalendarAccess (id : Nat) (s : State) : Result :=
  let x := s.fr.x
  match s.command x id with
  | none => .next s
  | some k =>
    match xferOf k.op k.desc with
    | none => .next s
    | some d =>
      let i := s.fr.slice
      match (windowPhys s x (xferVa k.op d k.warm k.idx i)).bind physKey with
      | none => .next s
      | some key =>
        let s := s.activate key
        let fr := { s.fr with slice := 0, cap := 0, capv := 0, gt := 0 }
        if opWrites k.op then
          let pri := clusterOf (coreOf x)
          let s' := s.later fr pri (.store key 64 (s.fr.capv.toNat % 2 ^ 512) (allBytes 64))
          .next (if s.fr.gt = 0 then s' else s'.later fr pri (.taint key))
        else
          let due := s.fr.cap.toNat + 224
          let q := xferKey (coreOf x) k.op d i
          let e := s.granuleEcc (key / 64)
          let s := { s with fr := fr }
          let s := if e = 2 then s.errorSlot 3 (key % 2 ^ 64) else if e = 1 then s.countError key else s
          let s := s.pushClk due (.store q 64 (s.mem.readN key 64) (allBytes 64)) 1
          .next (if s.poisoned key || e == 2 then s.pushClk due (.taint q) 1 else s)

/-! ### Requests to the capacity tier (18 R314) -/

/-- A request of a command is over; with the last one the command's flag is set, after the clears of the cycle: the row
CE_CXL_FLAG_SET of R261. -/
def finishCxl (s : State) (r : CxlReq) : State :=
  let s := s.updMod fun m => { m with cxl := m.cxl.filter fun e => e.id != r.id }
  if s.mod.cxl.any fun e => e.cmd == r.cmd then s
  else
    let clu := r.flag.1
    let s := s.setClu clu { s.clu clu with cxl := (s.clu clu).cxl - 1 }
    let s := s.setFlag (.clu clu) r.flag.2 true
    let s := s.updMod fun m => { m with setters := SMap.put 0 m.setters (flagKey (.clu clu) r.flag.2) (2 * 2 ^ 12 + r.x + 1) }
    s.updCtx r.x fun c => { c with nonstatic := c.nonstatic.filter fun n => n != r.cmd
                                   hwait := c.hwait.filter fun n => n != r.cmd }

/-- Where the bytes of a completed request perform: in its quay granule, or at its place beyond. -/
def cxlTarget (s : State) (r : CxlReq) : Option Nat :=
  if r.dir then (windowPhys s r.x r.tier).bind physKey else some r.key

/-- The bytes of a request perform, with their poison; what a failed request to the tier leaves there is open: old bytes, new ones or
poison (18 R311, R314). -/
def performCxl (s : State) (r : CxlReq) : State :=
  match cxlTarget s r with
  | none => finishCxl s r
  | some key =>
    let p := if r.dir && r.bad then s.freeValue 2 else (3, s)
    let s := p.2
    let taint := r.poison || (r.bad && (!r.dir || p.1 == 2))
    let s := if p.1 = 0 then s else (s.hostCover key 64).poke key 64 r.data
    finishCxl (if taint then s.poisonGranule (key / 64) else s) r

/-- A request of the list changed. -/
def State.updCxl (s : State) (id : Nat) (f : CxlReq → CxlReq) : State :=
  s.updMod fun m => { m with cxl := m.cxl.map fun r => if r.id == id then f r else r }

/-- A request of the list. -/
def State.cxlReq (s : State) (id : Nat) : Option CxlReq := s.mod.cxl.find? fun r => r.id == id

/-- CXL_REQUEST_SEND (18 R314): for direction 1 the quay bytes are read now; a request in flight is given 1 ms. -/
def execCxlRequestSend (id : Nat) (s : State) : Result :=
  match s.cxlReq id with
  | none => .next s
  | some r =>
    let fr := s.fr
    let q := if r.dir then quayGranule { s with fr := { x := r.x, hnd := r.hnd, addr := r.addr } } r.key else (s, 0, false)
    let s := { q.1 with fr := fr }.updCxl id fun e => { e with sent := some s.tide, data := q.2.1, poison := q.2.2 }
    let s := s.timedAt (s.tide + 32000000) (.cxlRequestTimeout id)
    let p := s.freeValue 26
    .next (p.2.timedAt (s.tide + 1 + p.1.toNat) (.cxlRequestComplete id true))

/-- Whether the quay bytes of a request that ends now are held until G: its gang is frozen and it is the program's (15 R263); a
handler's own requests perform before the program resumes (10 R224). -/
def cxlHeld (s : State) (r : CxlReq) : Bool :=
  !r.dir && (s.gang r.gid).run == .frozen && (match (s.ctx r.x).handler with | some h => decide (r.cmd < h.first) | none => true)

/-- The port of an address beyond: of the capacity tier the CXL port that the interleave selects, one of 2 ^ `ilv` by the 4 KiB block; of
host memory 32 or 33 for its host port (18 R298, R313, log 79). -/
def tierPort (s : State) (pa : Nat) : Nat := if 2 ≤ pa / 2 ^ 48 then 32 + (pa / 2 ^ 48 - 2) % 2 else pa / 4096 % 2 ^ s.mod.ilv

/-- The rank of arrivals from the capacity tier among the writes of a cycle (18 R307). -/
def cxlRank : Nat := 2 ^ 20

/-- What a completed read returns: the bytes beyond as they stand now, with their poison, and those of host memory as they stood when the
tail-pointer write of the task reached the module (19 R321); those of a failed one are open. -/
def cxlReturn (s : State) (r : CxlReq) (ok : Bool) : State × CxlReq :=
  if r.dir then (s, r)
  else if !ok then
    let p := s.freeValue 512
    (p.2, { r with data := p.1.toNat })
  else match (windowPhys s r.x r.tier).bind physKey with
    | none => (s, r)
    | some key =>
      let m := if State.hostKey key then s.hostMem (s.gang r.gid).rel else s.mem
      (s, { r with data := m.readN key 64, poison := s.poisoned key })

/-- A request has ended: it performs at the end of this cycle, or, in the order of arrival, when its gang resumes (15 R263). The record
of one that failed or returned poison names the port, the address and the bundle (18 R311, R314). -/
def endCxl (s : State) (r : CxlReq) (ok : Bool) : State :=
  let p := cxlReturn s r ok
  let s := p.1
  let r := { p.2 with done := true, bad := !ok }
  let part := (s.partOf (coreOf r.x)).getD 0
  let port := ((windowPhys s r.x r.tier).map (tierPort s)).getD 0
  let s := if ok && (r.dir || !r.poison) then s
    else s.errorRec part r.addr 4 (coreOf r.x) (r.x % 4) r.tier (s.gang r.gid).sch port
  let s := s.updMod fun m => { m with cxl := (m.cxl.filter fun e => e.id != r.id) ++ [r] }
  if cxlHeld s r then s else s.later outside cxlRank (.arrive r.id)

/-- A request that has ended performs (18 R307). -/
def arriveCxl (s : State) (id : Nat) : State :=
  match s.cxlReq id with
  | none => s
  | some r => performCxl s r

/-- CXL_REQUEST_COMPLETE (18 R314). -/
def execCxlRequestComplete (id : Nat) (ok : Bool) (s : State) : Result :=
  match s.cxlReq id with
  | none => .next s
  | some r => .next (if r.sent.isNone || r.done then s else endCxl s r ok)

/-- CXL_REQUEST_TIMEOUT (18 R314): a request that has not completed within 1 ms is ended as failed. -/
def execCxlRequestTimeout (id : Nat) (s : State) : Result :=
  match s.cxlReq id with
  | none => .next s
  | some r => .next (if r.sent.isNone || r.done then s else endCxl s r false)

/-! ### Router commands (15 R256, R267) -/

/-- Whether the context may command the router and the cluster tile port (15 R256). -/
def holdsRouter (s : State) : Bool :=
  s.priv || (s.clu (clusterOf (coreOf s.fr.x))).holding == some (s.ctx s.fr.x).gang

/-- A router command with the reserved bits of its operands and its privilege checked, in the order of 10 R221. -/
def routerCommand (g : Guard) (off : Nat) (bad : State → Bool) (s : State) (f : Int → State → State) : Result :=
  onceSlot g s fun s =>
    if bad s then s.illegal else if !holdsRouter s then s.privilege 0 else f (startCount s off) s

/-- RT.LD (15 R267): word j is read at S + j and is in force from S + j + 4. -/
def execRtLd (g : Guard) (a b off : Nat) (s : State) : Result :=
  let count := fun (w : Nat) => fld w 12 6
  let bad := fun (s : State) =>
    let w := (s.sget b).toNat
    fld w 63 13 != 0 || count w == 0 || decide (64 < count w)
  routerCommand g off bad s fun S s =>
    let w := (s.sget b).toNat
    let ad := (s.sget a).toNat % 2 ^ 32
    let n := count w
    if ad % 16 ≠ 0 then s.berthBound 0 0 ad
    else if ad / 2 ^ 30 ≠ 1 then s.berthBound 2 0 ad
    else if ad / 2 ^ 18 % 2 ^ 12 ≠ 0 then s.berthBound 2 0 ad
    else
      let clu := clusterOf (coreOf s.fr.x)
      let off := ad % 2 ^ 18
      let gi := (s.clu clu).holding.getD (s.ctx s.fr.x).gang
      if !((List.range n).all fun j => inUnion s gi clu ((off + 16 * j) / 64)) then s.berthBound 3 0 ad
      else if S < s.fr.t + 4 then s.lateStart S
      else (List.range n).foldl (fun s j =>
        s.push (S.toNat + j) (.rtLoad ((fld w 5 0 + j) % 64) ((Place.cluster clu).key (off + 16 * j))) 1) s

/-- RT.STOP (15 R267). -/
def execRtStop (g : Guard) (off : Nat) (s : State) : Result :=
  routerCommand g off (fun _ => false) s fun S s => if S < s.fr.t + 4 then s.lateStart S else s.push S.toNat .rtStop 0

end Sys2Proof.Machine
end

