-- ==== Sys2Proof/Machine/Router.lean ====
section
/-! DEFINITION. The router stage (15 R264 to R268). In a router operation's frame `x` is the context that issued
RT.GO, `t` the word's issue count, `bits` its entry and `cap` its ITER. -/

namespace Sys2Proof.Machine

namespace State

/-- A cluster changed by a function. -/
def updClu (s : State) (c : Nat) (f : Cluster → Cluster) : State := s.setClu c (f (s.clu c))

/-- A cluster's router changed by a function. -/
def updRouter (s : State) (c : Nat) (f : Router → Router) : State := s.updClu c fun k => { k with router := f k.router }

/-- The cluster of the act in hand. -/
def myClu (s : State) : Nat := clusterOf (coreOf s.fr.x)

/-- A w register at issue. -/
def wget (s : State) (n : Nat) : Gran := SMap.get 0 (s.clu s.myClu).router.w n

/-- A router result landing at u + `lat`. -/
def landW (s : State) (d lat : Nat) (v : Gran) : State :=
  let s := s.push (s.fr.t + lat) (.wreg d v allBits)
  s.updRouter s.myClu fun r => { r with endAt := Nat.max r.endAt (s.fr.t + lat) }

/-- A router load landing at u + `lat`, read in the landing cycle. -/
def loadW (s : State) (d lat key : Nat) : State :=
  let s := s.push (s.fr.t + lat) (.wload d key s.fr.cap.toNat)
  s.updRouter s.myClu fun r => { r with endAt := Nat.max r.endAt (s.fr.t + lat) }

/-- A router store performing at u + `lat`. -/
def storeW (s : State) (lat key pri : Nat) (v : Gran) : State :=
  let due := s.fr.t + lat
  let s := s.push due (.store key 64 v.toNat (allBytes 64)) pri
  s.updRouter s.myClu fun r => { r with endAt := Nat.max r.endAt due, perfP := Nat.max r.perfP due }

end State

/-- The granule that an operation addresses (R264). -/
def opGranule (iter stp gr : Nat) : Nat := (gr + iter * stp) % 4096

/-- The context that an operation targets on core `i` of the cluster (R264). -/
def targetCtx (x i : Nat) : Nat := (coreOf x / 4 * 4 + i) * 4 + x % 4

/-- The key of a cluster-berth granule. -/
def cluKey (x g : Nat) : Nat := (Place.cluster (clusterOf (coreOf x))).key (64 * g)

/-- The key of an own-berth granule of a context. -/
def ownKey (x g : Nat) : Nat := (Place.berth (coreOf x)).key (64 * g)

/-- The cores of a mask. -/
def maskCores (m : Nat) : List Nat := (List.range 4).filter fun i => bit m i

/-- The granule that the operation in hand addresses. -/
def State.granule (s : State) (stp gr : Nat) : Nat := opGranule s.fr.cap.toNat stp gr

/-! ### The operations (R265) -/

/-- RNOP. -/
def execRnop (s : State) : Result := .next s

/-- RLD: lands at u + 4. -/
def execRld (d stp gr : Nat) (s : State) : Result := .next (s.loadW d 4 (cluKey s.fr.x (s.granule stp gr)))

/-- RLDC: lands at u + 6. -/
def execRldc (d x stp gr : Nat) (s : State) : Result :=
  .next (s.loadW d 6 (ownKey (targetCtx s.fr.x x) (s.granule stp gr)))

/-- RLDI: every lane receives the sign-extended immediate at u + 1. -/
def execRldi (d imm : Nat) (s : State) : Result :=
  .next (s.landW d 1 (eGran 32 (List.replicate 16 (ofInt 32 (intVal true 16 imm)))))

/-- A floating-point lane type: its format and width, for TY 2 and 3. -/
def rtyFmt : RTy → Option Fmt
  | .t2 => some .f32
  | .t3 => some .bf16
  | _ => none

/-- RADD: u + 2 for integers, u + 4 for floating point. -/
def execRadd (ty : RTy) (d a b : Nat) (s : State) : Result :=
  match rtyFmt ty with
  | some f => .next (s.landW d 4 (map2 f.width (fun x y => (f.add .rn 0 x y).1) (s.wget a) (s.wget b)))
  | none => .next (s.landW d 2
      (map2 32 (fun x y => fit true (ty == .t1) 32 (intVal true 32 x + intVal true 32 y)) (s.wget a) (s.wget b)))

/-- The maximum or minimum of a lane. -/
def laneMinMax (max : Bool) (ty : RTy) (a b : Gran) : Gran :=
  match rtyFmt ty with
  | some f => map2 f.width (fun x y => (f.minmax max x y).1) a b
  | none =>
    let v := intVal (ty == .t0) 32
    map2 32 (fun x y => if max then (if v x < v y then y else x) else (if v y < v x then y else x)) a b

/-- RMAX. -/
def execRmax (ty : RTy) (d a b : Nat) (s : State) : Result := .next (s.landW d 2 (laneMinMax true ty (s.wget a) (s.wget b)))

/-- RMIN. -/
def execRmin (ty : RTy) (d a b : Nat) (s : State) : Result := .next (s.landW d 2 (laneMinMax false ty (s.wget a) (s.wget b)))

/-- RAND. -/
def execRand (d a b : Nat) (s : State) : Result := .next (s.landW d 2 (s.wget a &&& s.wget b))

/-- RFLT. -/
def execRflt (d a mask : Nat) (s : State) : Result :=
  .next (s.landW d 2 (s.wget a &&& laneBits (BitVec.ofNat 16 mask)))

/-- Whether a lane passes the threshold of RTHR; a NaN fails. -/
def passes (ty : RTy) (x y : Nat) : Bool :=
  match ty with
  | .t0 => decide (intVal true 32 y ≤ intVal true 32 x)
  | .t1 => decide (y ≤ x)
  | _ =>
    let u := Fmt.f32.decode x
    let v := Fmt.f32.decode y
    !u.isNaN && !v.isNaN && u.cmp v != .lt

/-- RTHR. -/
def execRthr (ty : RTy) (d a b : Nat) (s : State) : Result :=
  .next (s.landW d 2 (map2 32 (fun x y => if passes ty x y then x else 0) (s.wget a) (s.wget b)))

/-- RMOV. -/
def execRmov (d a : Nat) (s : State) : Result := .next (s.landW d 1 (s.wget a))

/-- RST: performs at u + 2, after every other write of the cycle (R254). -/
def execRst (a stp gr : Nat) (s : State) : Result := .next (s.storeW 2 (cluKey s.fr.x (s.granule stp gr)) 5 (s.wget a))

/-- RSTC: performs at u + 6 in each target context's berth. -/
def execRstc (x a stp gr : Nat) (s : State) : Result :=
  .next ((maskCores x).foldl (fun s i =>
    s.storeW 6 (ownKey (targetCtx s.fr.x i) (s.granule stp gr)) (1 + coreOf s.fr.x) (s.wget a)) s)

/-- A granule pushed into ring `ring` of context `y` (R265): the granule that opens a tile claims it now; the last
granule publishes the tile as it performs. -/
def pushGranule (s : State) (y ring lat : Nat) (v : Gran) : State :=
  let opened := if ((s.ctx y).ring ring).gran = 0 then (claimTile s y ring).map fun e => e.2.2 else some s
  match opened with
  | none => s
  | some s =>
    let r := (s.ctx y).ring ring
    match r.claims.getLast? with
    | none => s
    | some (tile, id, _) =>
      let due := s.fr.t + lat
      let s := s.push due (.store (ownKey y (r.base + tile * (r.size + 1) + r.gran)) 64 v.toNat (allBytes 64)) (1 + coreOf s.fr.x)
      let last := r.gran = r.size
      let s := s.updCtx y fun c => c.setRing ring { r with gran := if last then 0 else r.gran + 1 }
      if last then s.push due (.publish y ring id) 3 else s

/-- RPSH: performs at u + 6. -/
def execRpsh (x d a : Nat) (s : State) : Result :=
  let s := (maskCores x).foldl (fun s i => pushGranule s (targetCtx s.fr.x i) d 6 (s.wget a)) s
  let due := s.fr.t + 6
  .next (s.updRouter s.myClu fun r => { r with endAt := Nat.max r.endAt due, perfP := Nat.max r.perfP due })

/-- RFLG: the flag is set once the router's earlier stores have performed. -/
def execRflg (n : Nat) (s : State) : Result :=
  let due := Nat.max (s.fr.t + 2) ((s.clu s.myClu).router.perfP + 1)
  let s := s.push due (.flag (.clu s.myClu) n true 1 false) 1
  .next (s.updRouter s.myClu fun r => { r with endAt := Nat.max r.endAt due })

/-- RHALT: no later word issues. -/
def execRhalt (s : State) : Result :=
  .next (s.updRouter s.myClu fun r => { r with active := false, endAt := Nat.max r.endAt s.fr.t })

/-! ### A word (R266, R268) -/

/-- Whether a cluster-berth granule lies in a window of the holding gang's contexts on the cluster (R254). -/
def inWindows (s : State) (clu g : Nat) : Bool :=
  match (s.clu clu).holding with
  | none => false
  | some h => inUnion s h clu g

/-- Whether an own-berth granule lies in the allotment of a target context of the gang. -/
def inBerth (s : State) (x y g : Nat) : Bool := sameGang s x y && (ownOnly (s.ctx y) (64 * g) 64).isNone

/-- The fault code of an operation checked at the word's issue, if it fails, with the cold address at fault (R268, 10 R218). -/
def opFault (s : State) (x iter : Nat) (i : Instr) : Option (Nat × Nat) :=
  let clu := clusterOf (coreOf x)
  match i with
  | .rld _ stp gr | .rst _ stp gr => if inWindows s clu (opGranule iter stp gr) then none else some (4, 2 ^ 30 + 64 * opGranule iter stp gr)
  | .rldc _ c stp gr => if inBerth s x (targetCtx x c) (opGranule iter stp gr) then none else some (4, 64 * opGranule iter stp gr)
  | .rstc m _ stp gr =>
    if (maskCores m).all fun c => inBerth s x (targetCtx x c) (opGranule iter stp gr) then none
    else some (4, 64 * opGranule iter stp gr)
  | .rpsh m d _ =>
    if !((maskCores m).all fun c => sameGang s x (targetCtx x c)) then some (4, 0)
    else if (maskCores m).any fun c =>
      let r := (s.ctx (targetCtx x c)).ring d
      r.gran == 0 && r.count + r.claims.length == r.depth + 1 then some (14, 0)
    else none
  | _ => none

/-- A router failure (R268): the router stops, and the context that issued RT.GO takes a boundary fault after the
detecting count; FBND is the cold address of a bound or poison failure (10 R218). -/
def routerFault (s : State) (clu code fbnd entry slot iter : Nat) : State :=
  let r := (s.clu clu).router
  let u := s.now r.x r.hnd
  let s := s.updRouter clu fun r => { r with active := false, endAt := Nat.max r.endAt u }
  let f : PendFault := ⟨r.x, r.hnd, u + 1, r.goT, false, r.slot, r.addr, code,
    BitVec.ofNat 64 (entry * 2 ^ 58 + slot * 2 ^ 56 + iter % 2 ^ 32), BitVec.ofNat 64 fbnd, true, 0, 0⟩
  { s with faults := s.faults ++ [f] }

/-- A failed parity that the router reads, with its error record (15 R268, R275), which names the holding gang's member on the cluster. -/
def routerSoft (s : State) (clu entry slot iter : Nat) : State :=
  let r := (s.clu clu).router
  let s' := routerFault s clu 20 0 entry slot iter
  let y := (s.placeCtx ((Place.cluster clu).key 0)).getD r.x
  s'.errorRec (s.gangOf y).part r.addr 1 (coreOf y) (y % 4) entry (s.now r.x r.hnd)

/-- The first operation of a word that fails: its slot, code and cold address. -/
def wordFault (s : State) (x iter : Nat) (ops : List Instr) : Option (Nat × Nat × Nat) :=
  (ops.zipIdx.filterMap fun e => (opFault s x iter e.1).map fun c => (e.2, c)).head?

/-- The slot named for a word that does not decode: the first operation that is illegal, or 3 for its own fields. -/
def badSlot (w : Nat) : Nat :=
  if 2 ≤ fld w 121 120 then 3
  else if (decodeRouterOp 0 (fld w 119 80)).isNone then 0
  else if (decodeRouterOp 1 (fld w 79 40)).isNone then 1
  else if (decodeRouterOp 2 (fld w 39 0)).isNone then 2
  else 3

/-- ROUTER_WORD_ISSUE (R266): the word at the entry is checked whole, its operations run, and the loop control
chooses the next entry. -/
def execRouterWordIssue (clu : Nat) (s : State) : Result :=
  let r := (s.clu clu).router
  if !r.active then .next s
  else
    let w := SMap.get 0 r.buf r.entry
    if (s.failed (.word clu r.entry)).isSome then .next (routerSoft s clu r.entry 3 r.iter)
    else match decodeRouterWord w with
    | none => .next (routerFault s clu 1 0 r.entry (badSlot w) r.iter)
    | some (a, b, c, ctl, tgt) =>
      match wordFault s r.x r.iter [a, b, c] with
      | some (slot, code, ad) => .next (routerFault s clu code ad r.entry slot r.iter)
      | none =>
        let u := s.now r.x r.hnd
        let fr : Frame := { x := r.x, hnd := r.hnd, t := u, addr := r.addr, bits := r.entry, cap := BitVec.ofNat 64 r.iter, rt := true }
        let loop := ctl == 1 && r.rcnt != 0
        let s := s.updRouter clu fun r => { r with
          entry := if loop then tgt else (r.entry + 1) % 64
          rcnt := if loop then r.rcnt - 1 else r.rcnt
          iter := if loop then (r.iter + 1) % 2 ^ 32 else r.iter
          next := u + 1
          endAt := Nat.max r.endAt u }
        .next { s with staged := [.run ⟨a, fr⟩, .run ⟨b, { fr with slot := 1 }⟩, .run ⟨c, { fr with slot := 2 }⟩] }

/-! ### How long a program runs (R267) -/

/-- The count by which an operation of a word issued at `u` has landed or performed, and the latest perform of a store so far. -/
def opEnd (u perf : Nat) (i : Instr) : Nat × Nat :=
  match i with
  | .rldi _ _ | .rmov _ _ => (u + 1, perf)
  | .rld _ _ _ => (u + 4, perf)
  | .rldc _ _ _ _ => (u + 6, perf)
  | .radd ty _ _ _ => (if (rtyFmt ty).isSome then u + 4 else u + 2, perf)
  | .rmax _ _ _ _ | .rmin _ _ _ _ | .rand _ _ _ | .rflt _ _ _ | .rthr _ _ _ _ => (u + 2, perf)
  | .rst _ _ _ => (u + 2, Nat.max perf (u + 2))
  | .rstc _ _ _ _ | .rpsh _ _ _ => (u + 6, Nat.max perf (u + 6))
  | .rflg _ => (Nat.max (u + 2) (perf + 1), perf)
  | _ => (u, perf)

/-- The rings that the operations of a word of context `x` push into. -/
def opPushes (x : Nat) (ops : List Instr) : List (Nat × Nat) :=
  ops.flatMap fun i => match i with
    | .rpsh m d _ => (maskCores m).map fun c => (targetCtx x c, d)
    | _ => []

/-- Whether a push may find its ring full, after the pushes `done` of words before it, where nothing pops (08 R172). -/
def mayFill (s : State) (done : List (Nat × Nat)) (p : Nat × Nat) : Bool :=
  let r := (s.ctx p.1).ring p.2
  let n := (done.filter fun e => e == p).length
  let opens := ((List.range n).filter fun i => (r.gran + i) % (r.size + 1) == 0).length
  (r.gran + n) % (r.size + 1) == 0 && decide (r.depth + 1 ≤ r.count + r.claims.length + opens)

/-- What is known now of a word to come of context `x` at `iter`: whether it fails by an address, or none where a ring may be full, a load
may meet an uncorrectable error, or a failed parity may be read (R268). -/
def wordVerdict (s : State) (clu x iter : Nat) (done : List (Nat × Nat)) (ops : List Instr) : Option Bool :=
  let place := ops.any fun i => match i with
    | .rpsh m _ _ => !((maskCores m).all fun c => sameGang s x (targetCtx x c))
    | i => (opFault s x iter i).isSome
  let softly := s.soft.any fun e => match e.spot with
    | .word c _ | .wreg c _ => c == clu
    | _ => false
  let badly := ops.any fun i => match i with
    | .rld _ stp gr => (s.badWord (State.wordsOf (cluKey x (opGranule iter stp gr)) 64)).isSome
    | .rldc _ c stp gr => (s.badWord (State.wordsOf (ownKey (targetCtx x c) (opGranule iter stp gr)) 64)).isSome
    | _ => false
  if place then some true
  else if softly || (!s.ecc.isEmpty && badly) || (opPushes x ops).any (mayFill s done) then none
  else some false

/-- The count at which a program's run ends, as far as count `S` shows: its words from entry `e` at count `u` on, where `word u e` is
what entry `e` holds at count `u`, until one halts or fails or the count `stop` comes. Where it still runs at `S` the answer is S + 1, and
where what is known now does not tell, none. -/
def programEnd (word : Nat → Nat → Option Nat) (verdict : Nat → List (Nat × Nat) → List Instr → Option Bool)
    (push : List Instr → List (Nat × Nat)) (stop S : Nat) :
    Nat → Nat → Nat → Nat → Nat → List (Nat × Nat) → Nat → Nat → Option Nat
  | 0, _, _, _, _, _, _, _ => some (S + 1)
  | n + 1, u, e, rcnt, iter, done, last, perf =>
    if stop ≤ u then some (Nat.max stop last)
    else match word u e with
      | none => none
      | some w => match decodeRouterWord w with
        | none => some (Nat.max u last)
        | some (a, b, c, ctl, tgt) =>
          match verdict iter done [a, b, c] with
          | none => none
          | some true => some (Nat.max u last)
          | some false =>
            let p := [a, b, c].foldl (fun (p : Nat × Nat) i => let q := opEnd u p.2 i; (Nat.max p.1 q.1, q.2)) (last, perf)
            let done := done ++ push [a, b, c]
            if [a, b, c].contains .rhalt then some (Nat.max u p.1)
            else if ctl == 1 && rcnt != 0 then programEnd word verdict push stop S n (u + 1) tgt (rcnt - 1) (iter + 1) done p.1 p.2
            else programEnd word verdict push stop S n (u + 1) ((e + 1) % 64) rcnt iter done p.1 p.2

/-- What entry `e` of a cluster's loop buffer will hold at count `u`: the word of the RT.LD that is in force last by then, or what the
entry holds; none where that RT.LD has still to read it (15 R267). -/
def wordAtCount (s : State) (clu : Nat) (hnd : Bool) (u e : Nat) : Option Nat :=
  let loads := s.pend.filterMap fun k =>
    if clusterOf (coreOf k.fr.x) != clu || k.fr.hnd != hnd then none
    else match k.act with
      | .rtForce n w => if n = e ∧ k.due ≤ u then some (k.due, some w) else none
      | .rtLoad n _ => if n = e ∧ k.due + 4 ≤ u then some (k.due + 4, none) else none
      | _ => none
  (loads.foldl (fun (b : Nat × Option Nat) l => if b.1 ≤ l.1 then l else b) (0, some (SMap.get 0 (s.clu clu).router.buf e))).2

/-- Whether a router program of a cluster is known to run at count `S`: one that runs now, whose next word comes at `next`, or one that
an RT.GO still to come starts (R267, R269, log 22). -/
def programAt (s : State) (clu S next : Nat) (hnd : Bool) : Bool :=
  let r := (s.clu clu).router
  let mine := s.pend.filter fun e => clusterOf (coreOf e.fr.x) == clu && e.fr.hnd == hnd
  let stop := fun (u : Nat) => (mine.filter fun e => e.act == .rtStop && decide (u ≤ e.due)).foldl (fun m e => Nat.min m e.due) (S + 1)
  let end_ := fun (st x u e rcnt iter last perf : Nat) =>
    programEnd (wordAtCount s clu hnd) (wordVerdict s clu x) (opPushes x) st S (S + 1 - u) u e rcnt iter [] last perf
  (if !r.active then decide (r.hnd = hnd ∧ S < r.endAt)
    else r.hnd != hnd || ((end_ (stop next) r.x next r.entry r.rcnt r.iter r.endAt r.perfP).any fun n => decide (S < n)))
  || mine.any fun e =>
    match e.act with
    | .rtGo entry rcnt => decide (e.due ≤ S) && ((end_ (stop (e.due + 1)) e.fr.x e.due entry rcnt 0 e.due 0).any fun n => decide (S < n))
    | _ => false

/-! ### What router commands do at their counts (R267) -/

/-- RT.STOP at S. -/
def routerStop (s : State) : State :=
  let u := s.now s.fr.x s.fr.hnd
  s.updRouter s.myClu fun r => if r.active then { r with active := false, endAt := Nat.max r.endAt u } else r

end Sys2Proof.Machine
end

