-- ==== Sys2Proof/Machine/Tile.lean ====
section
/-! DEFINITION. Tile words: their checks, the tile ports of slice, core, cluster, die and module, and the words of the
fabric (02 R42 to R45, 08 R185, 09 R211 to R215, 15 R269 to R274, 17 R293 to R295, 22 R373, R374). -/

namespace Sys2Proof.Machine

/-! ### Formats and operands (02 R44, 09 R191) -/

/-- Elements and bytes of a unit of a block format; none for an element format (03 R64, R67, R69). -/
def blockUnit (f : Nat) : Option (Nat × Nat) :=
  match f with
  | 16 => some (64, 66)
  | 17 => some (64, 34)
  | 18 => some (64, 36)
  | 19 => some (32, 36)
  | _ => none

/-- The bits of a row of `n` elements. -/
def lineBits (f n : Nat) : Nat :=
  match blockUnit f with
  | some (e, b) => (n + e - 1) / e * b * 8
  | none => n * fmtWidth f

/-- Whether a format holds integers. -/
def intFmt (f : Nat) : Bool := f < 10

/-- An operand's rows as stored: their number, elements and format. -/
structure Lines where
  n   : Nat
  len : Nat
  f   : Nat
  deriving DecidableEq, Repr

/-- The stored rows of A of an operation. -/
def linesA (op : Nat) (w : TileWord) : Lines :=
  let d : Nat × Nat := if op < 2 ∨ (op = 4 ∧ w.aux = 2) then (w.tm, w.tk) else if op = 6 then (w.tn, w.tm) else (w.tm, w.tn)
  if w.ta then ⟨d.2, d.1, w.fa⟩ else ⟨d.1, d.2, w.fa⟩

/-- The stored rows of B: of a product, rows of K when `tb`. -/
def linesB (op : Nat) (w : TileWord) : Lines :=
  if op < 2 then (if w.tb then ⟨w.tn, w.tk, w.fb⟩ else ⟨w.tk, w.tn, w.fb⟩)
  else if w.tb then ⟨w.tn, w.tm, w.fb⟩ else ⟨w.tm, w.tn, w.fb⟩

/-- The stored rows of C. -/
def linesC (op : Nat) (w : TileWord) : Lines :=
  if op = 4 then (if w.aux = 0 then ⟨1, w.tn, w.fc⟩ else ⟨w.tm, 1, w.fc⟩) else ⟨w.tm, w.tn, w.fc⟩

/-- The distance of two rows in bits: packed at their natural length when str is 0. -/
def pitch (d : TileDesc) (l : Lines) : Nat := if d.str = 0 then lineBits l.f l.len else d.str * 512

/-- Whether the rows of an operand leave no byte out between them. -/
def closeRows (d : TileDesc) (l : Lines) : Bool := decide (pitch d l ≤ lineBits l.f l.len)

/-- The bytes that an operand spans. -/
def spanBytes (d : TileDesc) (l : Lines) : Nat :=
  if l.n = 0 ∨ l.len = 0 then 0 else ((l.n - 1) * pitch d l + lineBits l.f l.len + 7) / 8

/-- The warm address of a descriptor with store 7 or 8. -/
def warmAdr (d : TileDesc) : Nat := d.adr * 64

/-- The memory key of 64-byte granule `i` of an operand in a store of bytes, for context `y` of core `core`. -/
def operandKey (s : State) (y core : Nat) (d : TileDesc) (i : Nat) : Option Nat :=
  match d.sto with
  | 2 =>
    let r := (s.ctx y).ring d.adr
    let g := i / (r.size + 1)
    some ((Place.berth core).key (r.tileByte ((r.head + g) % (r.depth + 1)) + 64 * (i % (r.size + 1))))
  | 3 | 4 =>
    let a := d.adr * 64
    if a / 2 ^ 30 = 0 then some ((Place.berth core).key (a % 2 ^ 16 + 64 * i))
    else some ((Place.cluster (clusterOf core)).key (a % 2 ^ 18 + 64 * i))
  | 5 => some ((Place.quay core).key (512 * d.adr + 64 * i))
  | 7 | 8 => (windowPhys s y (warmAdr d + 64 * i)).bind physKey
  | _ => none

/-- The register slice of granule `i` of an operand in vector registers, under the bases of the issuing bundle. -/
def operandReg (rbv : Nat) (d : TileDesc) (i : Nat) : Loc := .v (physV rbv (d.adr + i / 8)) (i % 8)

/-- The operands of a job as it reads them. -/
structure Operand where
  y    : Nat
  core : Nat
  rbv  : Nat
  d    : TileDesc
  l    : Lines
  off  : Nat                                -- bits before the first row, beyond the descriptor's 64-byte unit
  deriving DecidableEq, Repr

/-- A granule of an operand. -/
def Operand.gran (o : Operand) (s : State) (i : Nat) : Nat :=
  if o.d.sto = 1 then ((s.ctx o.y).regs.read (operandReg o.rbv o.d i)).toNat
  else match operandKey s o.y o.core o.d i with
    | some k => s.mem.readN k 64
    | none => 0

/-- `n` bits of an operand from bit `p` on. -/
def Operand.bits (o : Operand) (s : State) (p n : Nat) : Nat :=
  let off := o.off + p
  packE 512 ((List.range ((off % 512 + n + 511) / 512)).map fun i => o.gran s (off / 512 + i)) / 2 ^ (off % 512) % 2 ^ n

/-- Row `i` of an operand as stored. -/
def Operand.line (o : Operand) (s : State) (i : Nat) : Nat := o.bits s (i * pitch o.d o.l) (lineBits o.l.f o.l.len)

/-- The bits of element `e` of stored row `i`. -/
def Operand.elem (o : Operand) (s : State) (i e : Nat) : Nat :=
  o.bits s (i * pitch o.d o.l + e * fmtWidth o.l.f) (fmtWidth o.l.f)

/-- The elements of a stored row of `n` of them. -/
def lineVals (f n img : Nat) : List KElem :=
  let units := fun (e : Nat) => List.range ((n + e - 1) / e)
  (match f with
  | 16 => (units 64).flatMap fun u => plainElems (dxRow false img (66 * u))
  | 17 => (units 64).flatMap fun u => plainElems (dxRow true img (34 * u))
  | 18 => (units 64).flatMap fun u => g4Row img (36 * u)
  | 19 => (units 32).flatMap fun u => s24Row img (36 * u)
  | _ => plainElems ((List.range n).map fun i => fmtVal f (tileBits img (fmtWidth f * i) (fmtWidth f)))).take n

/-- The elements of an operand along line `i` of its plain orientation: a stored row, or a stored column when `tr`. -/
def Operand.vals (o : Operand) (s : State) (tr : Bool) (i n : Nat) : List KElem :=
  if tr then plainElems ((List.range n).map fun e => fmtVal o.l.f (o.elem s e i)) else lineVals o.l.f n (o.line s i)

/-- The value of an element, with its flags; an absent one is zero. -/
def elemVal (l : List KElem) (c : Nat) : FV × Nat :=
  let e := l.getD c (none, 0)
  (e.1.getD (.fin false 0 0), e.2)

/-- Element (i, j) of an operand of an element format, `tr` when it is stored transposed. -/
def Operand.at (o : Operand) (s : State) (tr : Bool) (i j : Nat) : Nat := if tr then o.elem s j i else o.elem s i j

/-- The granules that lines `l0` on of an operand's plain orientation, `nl` of them, hold in `ne` elements from `e0` on; `tr` when it
is stored transposed. -/
def Operand.grans (o : Operand) (tr : Bool) (l0 nl e0 ne : Nat) : List Nat :=
  let a := if tr then e0 else l0
  let na := if tr then ne else nl
  let b := if tr then l0 else e0
  let nb := if tr then nl else ne
  let unit := match blockUnit o.l.f with
    | some (e, _) => e
    | none => 1
  (List.range (Nat.min na (o.l.n - a))).flatMap fun i =>
    let row := o.off + (a + i) * pitch o.d o.l
    let lo := row + lineBits o.l.f (b / unit * unit)
    let hi := row + lineBits o.l.f (Nat.min (b + nb) o.l.len)
    (List.range ((hi + 511) / 512 - lo / 512)).map fun k => lo / 512 + k

/-- The cause of a child that reads granules of an operand with an error: a failed parity, or an uncorrectable or poisoned word
(08 R168, 10 R231, 17 R295). -/
def Operand.err (o : Operand) (s : State) (gs : List Nat) : Option Nat :=
  gs.findSome? fun i =>
    if o.d.sto = 1 then
      if (List.range 64).any fun b => (s.failed (.reg o.y (operandReg o.rbv o.d i) b)).isSome then some 20 else none
    else match operandKey s o.y o.core o.d i with
      | none => none
      | some k => if (s.badWord (State.wordsOf k 64)).isSome || s.poisoned k then some 11 else none

/-! ### The checks of a word (02 R43, R45) -/

/-- Whether an operation reads A and B; TFEN uses none, and the sums and reductions of R213 no B. -/
def readsA (op : Nat) : Bool := op != 8 && op != 9
def readsB (op : Nat) : Bool := op == 0 || op == 1 || op == 7

/-- Whether an operation must leave dsb zero (R43). -/
def zeroB (op : Nat) : Bool := op == 3 || op == 5 || op == 6 || op == 8

/-- The stores that a level stages, as R211, R269, R293 and R373 list them; level 4 stages the warm stores (log 8). -/
def stages (lvl : Nat) (c : Bool) (sto : Nat) : Bool :=
  match lvl with
  | 0 => sto == 1 || sto == 3
  | 1 => sto == 3 || (!c && sto == 2)
  | 2 => sto == 4
  | 3 => sto == 5
  | 4 => sto == 7 || sto == 8
  | _ => sto == 9

/-- Whether an operand lies beyond its store for the acting context (R44); a cluster-berth operand is held to the union of the windows
of the holding gang (15 R254). DESIGN CHOICE (log 75): an operand without elements occupies no granule, and only the form of its
address counts. -/
def beyond (s : State) (y : Nat) (d : TileDesc) (l : Lines) : Bool :=
  let c := s.ctxFor y s.fr
  let n := spanBytes d l
  let a := d.adr * 64
  match d.sto with
  | 1 => decide (32 ≤ d.adr + (n - 1) / 512)
  | 2 => decide (8 ≤ d.adr)
  | 3 => if n = 0 then decide (a / 2 ^ 16 ≠ 0) else (ownOnly c a n).isSome
  | 4 => !(a / 2 ^ 30 == 1 && a / 2 ^ 18 % 2 ^ 12 == 0
      && (List.range ((n + 63) / 64)).all fun i => inWindows s (clusterOf (coreOf y)) (a % 2 ^ 18 / 64 + i))
  | 5 => if n = 0 then decide (4096 ≤ d.adr) else !(c.quayIn d.adr && c.quayIn (d.adr + (n - 1) / 512))
  | 7 | 8 =>
    if n = 0 then false
    else (List.range ((a + n - 1) / 65536 - a / 65536 + 1)).any fun i =>
      (coverOf (s.gangOf y).window (65536 * (a / 65536 + i))).isNone
  | _ => false

/-- Whether an operation uses its dimensions with work to do (R43). -/
def emptyDims (w : TileWord) : Bool := w.tm == 0 || w.tn == 0 || w.tk == 0

/-- The fields that an operation must leave zero, and the formats it takes (R43): case 2 of R45. DEDUCED (log 65): a block format in fc, in fa
or of B that the operation cannot take, and a .s24 that another operation or field carries, count as such a field. -/
def badFields (op : Nat) (w : TileWord) : Bool :=
  let zero : TileDesc := ⟨0, 0, 0⟩
  let blkC := blockUnit w.fc
  if op = 9 then
    w != { w with fa := 0, fb := 0, fc := 0, acc := false, ta := false, tb := false, sat := false, rnd := 0, aux := 0,
                  tm := 0, tn := 0, tk := 0, dsa := zero, dsb := zero, dsc := zero }
  else
    (!readsA op && w.dsa != zero) || (zeroB op && w.dsb != zero)
      || ((op == 1) != (w.fa == 19)) || w.fb == 19 || w.fc == 19
      || ((blockUnit w.fa).isSome && w.ta) || (decide (op < 2) && (blockUnit w.fb).isSome && !w.tb)
      || (blkC.isSome && !((op == 3 && w.fc != 18) || (op == 5 && w.fa == w.fc)))
      || ((blockUnit w.fa).isSome && (op == 6 || op == 7 || (op == 5 && w.fa != w.fc)))

/-! ### The arithmetic of a word without an array (09 R213) -/

/-- A value converted to an element format, with flags. -/
def toFmt (f : Nat) (rnd : Rnd) (u : Nat) (sat : Bool) (v : FV) : Nat × Nat :=
  match ElemTy.ofCode f with
  | none => (0, 0)
  | some t =>
    match elemFmt t with
    | some F => F.ofFV rnd u sat v
    | none =>
      let p := v.toIntR rnd u (intRange t.isSigned t.width)
      (ofInt t.width p.1, p.2)

/-- Whether the elements of a format are signed integers. -/
def signedFmt (f : Nat) : Bool := f < 5

/-- The sum of two elements of a format. -/
def addFmt (f : Nat) (rnd : Rnd) (u : Nat) (sat : Bool) (x y : Nat) : Nat × Nat :=
  if intFmt f then (fit (signedFmt f) sat (fmtWidth f) (intVal (signedFmt f) (fmtWidth f) x + intVal (signedFmt f) (fmtWidth f) y), 0)
  else
    let e := (fmtVal f x).add rnd (fmtVal f y)
    let r := toFmt f rnd u sat e.1
    (r.1, flOr e.2 r.2)

/-- An element of a product: the row of A, the column of B, C's old element (R213). -/
def mulElem (w : TileWord) (rnd : Rnd) (u : Nat) (row col : List KElem) (old : Nat) : Nat × Nat :=
  let ps := products (intFmt w.fa && intFmt w.fb) row col
  if intFmt w.fa && intFmt w.fb && intFmt w.fc then
    let c := if w.acc then intVal (signedFmt w.fc) (fmtWidth w.fc) old else 0
    let v := ofInt 32 (ps.1.foldl (fun a p => a + p.toInt) c)
    (fit (signedFmt w.fc) w.sat (fmtWidth w.fc) (intVal true 32 v), 0)
  else
    let F := if w.fa = 13 ∨ w.fb = 13 ∨ w.fc = 13 then Fmt.f64 else Fmt.f32
    let r := fusedSum F ps.1 (if w.acc then fmtVal w.fc old else .fin false 0 0) ps.2
    let q := toFmt w.fc rnd u w.sat r.1
    (q.1, flOr r.2 q.2)

/-- The identity that an absent element of a reduction counts as. -/
def redIdentity (f : Nat) : Nat := if intFmt f then 0 else 2 ^ (fmtWidth f - 1)

/-- Sixteen elements reduced by the tree of R74. -/
def redTree (w : TileWord) (rnd : Rnd) (u : Nat) (l : List Nat) : Nat × Nat :=
  tree (addFmt w.fc rnd u w.sat) 4 ((List.range 16).map fun i => l.getD i (redIdentity w.fc)) 0

/-- The draws of a tile word: no chapter names a generator for a tile datapath, so each is a free value (log 6). -/
def tileDraw (s : State) (i : Nat) : Nat := (Config.freeValue 32 (s.free + i)).toNat

/-- The cycles of a sub-tile (R213). -/
def subCycles (s : State) (core op : Nat) (w : TileWord) : Nat :=
  match op with
  | 0 | 1 => 16 * w.tk + 16
  | 2 | 3 | 6 => 32
  | 5 | 8 => 24
  | 4 => 48
  | _ => 16 * walkLat (attrW (chartAttr s core 0 w.aux))

/-- What a sub-tile yields: the bits written in C (row, bit offset, bits, value), the partial results of a reduction,
the flags, the draws used, and the cause of a fault. -/
structure SubOut where
  writes : List (Nat × Nat × Nat × Nat) := []
  part   : List Nat := []
  flags  : Nat := 0
  cause  : Option Nat := none
  deriving DecidableEq, Repr

/-- The operands of a job. -/
def TileJob.opA (j : TileJob) : Operand := ⟨j.y, j.core, j.fr.rbv, j.w.dsa, linesA j.op j.w, j.offA⟩
def TileJob.opB (j : TileJob) : Operand := ⟨j.y, j.core, j.fr.rbv, j.w.dsb, linesB j.op j.w, j.offB⟩
def TileJob.opC (j : TileJob) : Operand := ⟨j.y, j.core, j.fr.rbv, j.w.dsc, linesC j.op j.w, j.offC⟩

/-- The element that an operation other than a product or a reduction gives at (r, c), before `acc`; slice `k` walks. -/
def elemOp (s : State) (j : TileJob) (k r c : Nat) (rnd : Rnd) (u : Nat) : (Nat × Nat) ⊕ Nat :=
  let w := j.w
  let a := j.opA
  let old := fun (_ : Unit) => j.opC.elem s r c
  match j.op with
  | 2 =>
    let x := elemVal (a.vals s w.ta r w.tn) c
    if intFmt w.fc && intFmt w.fa then
      .inl (fit (signedFmt w.fc) w.sat (fmtWidth w.fc) (x.1.toInt + intVal (signedFmt w.fc) (fmtWidth w.fc) (old ())), 0)
    else
      let e := x.1.add rnd (fmtVal w.fc (old ()))
      let q := toFmt w.fc rnd u w.sat e.1
      .inl (q.1, flOr x.2 (flOr e.2 q.2))
  | 3 =>
    let x := elemVal (a.vals s w.ta r w.tn) c
    if intFmt w.fc && intFmt w.fa then .inl (fit (signedFmt w.fc) w.sat (fmtWidth w.fc) x.1.toInt, 0)
    else
      let q := toFmt w.fc rnd u w.sat x.1
      .inl (q.1, flOr x.2 q.2)
  | 5 => .inl (a.at s w.ta r c % 2 ^ fmtWidth w.fc, 0)
  | 6 => .inl (a.at s w.ta c r % 2 ^ fmtWidth w.fc, 0)
  | 7 =>
    let attr := chartAttr s j.core k w.aux
    if (chartCheck (s.ctx j.y) attr w.aux none).isSome then .inr 8
    else
      let dw := attrW attr
      let y := if attrAr attr then j.opB.at s w.tb r c else 0
      match walk (chartEntry s j.core k w.aux) (attrAr attr) dw (a.at s w.ta r c) y (walkOrder (attrDir attr) (digits dw))
        (attrStart attr) 0 false with
      | .inl e => .inl (e.2.1, 0)
      | .inr _ => .inr 8
  | _ => .inl (j.fill % 2 ^ fmtWidth w.fc, 0)

/-- An element with `acc`: TADD has added C already. -/
def accElem (s : State) (j : TileJob) (r c : Nat) (rnd : Rnd) (u : Nat) (v : Nat × Nat) : Nat × Nat :=
  if j.w.acc && j.op != 2 then
    let q := addFmt j.w.fc rnd u j.w.sat (j.opC.elem s r c) v.1
    (q.1, flOr v.2 q.2)
  else v

/-- The units of a block format that a sub-tile writes: those that start in its columns, whole. -/
def unitWrites (s : State) (j : TileJob) (rnd : Rnd) (r c : Nat) : SubOut :=
  let w := j.w
  match blockUnit w.fc with
  | none => {}
  | some (e, b) =>
    if c % e ≠ 0 then {}
    else
      let off := c / e * b * 8
      if j.op = 5 then { writes := [(r, off, 8 * b, j.opA.bits s (r * pitch j.opA.d j.opA.l + off) (8 * b))] }
      else
        let xs := (j.opA.vals s w.ta r w.tn).drop c
        let dx4 := w.fc = 17
        let z := dxEncode dx4 rnd ((List.range 64).map fun i => (elemVal xs i).1)
          ((List.range 64).map fun i => tileDraw s (64 * r + c + i))
        let bw := if dx4 then 4 else 8
        { writes := [(r, off, 8 * b, packE bw z.1 + z.2.1 * 2 ^ (64 * bw) + z.2.2.1 * 2 ^ (64 * bw + 8))]
          flags := flOr (elemFlags (xs.take 64)) z.2.2.2 }

/-- The rows and columns of a sub-tile of size `n` at (r0, c0). -/
def subCells (rows cols n r0 c0 : Nat) : List (Nat × Nat) :=
  (List.range n).flatMap fun i => (List.range n).filterMap fun k =>
    if r0 + i < rows ∧ c0 + k < cols then some (r0 + i, c0 + k) else none

/-- Two results put together. -/
def SubOut.join (a b : SubOut) : SubOut :=
  { writes := a.writes ++ b.writes, part := a.part ++ b.part, flags := flOr a.flags b.flags, cause := a.cause.or b.cause }

/-- The partial results of a reduction over the sub-tile of A at (r0, c0): one for each of its columns, or rows. One free draw serves
all roundings of a sub-tile (log 65). -/
def redPart (s : State) (j : TileJob) (rnd : Rnd) (r0 c0 : Nat) : SubOut :=
  let w := j.w
  let a := j.opA
  let cols := if w.aux = 2 then w.tk else w.tn
  let get := fun (r c : Nat) =>
    let x := elemVal (a.vals s w.ta r cols) c
    let q := toFmt w.fc rnd (tileDraw s 0) w.sat x.1
    (q.1, flOr x.2 q.2)
  let along := fun (i : Nat) =>
    let l := (List.range 16).filterMap fun k =>
      let r := if w.aux = 0 then r0 + k else r0 + i
      let c := if w.aux = 0 then c0 + i else c0 + k
      if r < w.tm ∧ c < cols then some (get r c) else none
    let t := redTree w rnd (tileDraw s 0) (l.map fun e => e.1)
    (t.1, flOr t.2 ((l.map fun e => e.2).foldl flOr 0))
  let r := (List.range 16).map along
  { part := r.map fun e => e.1, flags := (r.map fun e => e.2).foldl flOr 0 }

/-- The cause of a sub-tile of size `n` at (r0, c0) whose operands carry an error where it reads them. -/
def subErr (s : State) (j : TileJob) (n r0 c0 : Nat) : Option Nat :=
  if s.noMarks then none
  else
    let w := j.w
    let a := if j.op < 2 then j.opA.grans w.ta r0 n 0 w.tk else if j.op = 6 then j.opA.grans w.ta c0 n r0 n
      else j.opA.grans w.ta r0 n c0 (if (blockUnit w.fc).isSome then n + 64 else n)
    let b := if j.op < 2 then j.opB.grans (!w.tb) c0 n 0 w.tk else j.opB.grans w.tb r0 n c0 n
    ((if readsA j.op then j.opA.err s a else none).or (if readsB j.op then j.opB.err s b else none)).or
      (if w.acc || j.op == 2 then j.opC.err s (j.opC.grans false r0 n c0 n) else none)

/-- A block of C of size `n` at (r0, c0), run by slice `k`. -/
def runSubTile (s : State) (j : TileJob) (n k r0 c0 : Nat) : SubOut :=
  let w := j.w
  let rnd := (Rnd.ofCode w.rnd).getD .rn
  let fw := fmtWidth w.fc
  if j.op = 4 then redPart s j rnd r0 c0
  else if (blockUnit w.fc).isSome then
    (subCells w.tm w.tn n r0 c0).foldl (fun a e => a.join (unitWrites s j rnd e.1 e.2)) {}
  else if j.op < 2 then
    let rows := (List.range n).map fun i => if r0 + i < w.tm then j.opA.vals s w.ta (r0 + i) w.tk else []
    let cols := (List.range n).map fun i => if c0 + i < w.tn then j.opB.vals s (!w.tb) (c0 + i) w.tk else []
    let cells := (subCells w.tm w.tn n r0 c0).map fun e =>
      let v := mulElem w rnd (tileDraw s (n * (e.1 - r0) + (e.2 - c0))) (rows.getD (e.1 - r0) []) (cols.getD (e.2 - c0) [])
        (if w.acc then j.opC.elem s e.1 e.2 else 0)
      ((e.1, e.2 * fw, fw, v.1), v.2)
    { writes := cells.map fun e => e.1
      flags := flOr ((cells.map fun e => e.2).foldl flOr 0) (((rows ++ cols).map elemFlags).foldl flOr 0) }
  else
    (subCells w.tm w.tn n r0 c0).foldl (fun a e =>
      let u := tileDraw s (n * (e.1 - r0) + (e.2 - c0))
      match elemOp s j k e.1 e.2 rnd u with
      | .inr c => a.join { cause := some c }
      | .inl v =>
        let v := accElem s j e.1 e.2 rnd u v
        a.join { writes := [(e.1, e.2 * fw, fw, v.1)], flags := v.2 }) {}

/-- A block of C as its slice runs it; one whose operands carry an error writes nothing. -/
def subTile (s : State) (j : TileJob) (n k r0 c0 : Nat) : SubOut :=
  match subErr s j n r0 c0 with
  | some c => { cause := some c }
  | none => runSubTile s j n k r0 c0

/-! ### Writing C -/

/-- Bits of C that perform, or land in a vector register, at count `due`. -/
def writeC (s : State) (j : TileJob) (due pri : Nat) (r off n v : Nat) : State :=
  let o := j.opC
  let at_ := o.off + r * pitch o.d o.l + off
  if o.d.sto = 1 then
    (List.range ((at_ % 512 + n + 511) / 512)).foldl (fun s i =>
      let g := at_ / 512 + i
      let sh := v * 2 ^ (at_ % 512) / 2 ^ (512 * i)
      let mk := (2 ^ n - 1) * 2 ^ (at_ % 512) / 2 ^ (512 * i)
      s.push due (.reg (operandReg o.rbv o.d g) (BitVec.ofNat 512 sh) (BitVec.ofNat 512 mk))) s
  else
    match operandKey s o.y o.core o.d (at_ / 512) with
    | none => s
    | some key => s.push due (.bits (key + at_ % 512 / 8) (at_ % 8) n v) pri

/-- The write order of a port's performs: those of a core's port stand with its core's, a cluster's after its cores'
(15 R254). -/
def TileJob.pri (j : TileJob) : Nat := if j.lvl < 2 && j.mesh == 0 then 0 else 4

/-! ### Jobs -/

/-- Two jobs at one port. -/
def samePort (a b : TileJob) : Bool :=
  a.port == b.port && !(a.lvl == 0 && a.parent.isSome) && !(b.lvl == 0 && b.parent.isSome)

/-- Sub-tiles of C, or of A for a reduction: rows and columns of them. -/
def subGrid (op : Nat) (w : TileWord) : Nat × Nat :=
  ((w.tm + 15) / 16, ((if op = 4 ∧ w.aux = 2 then w.tk else w.tn) + 15) / 16)

/-- The routine of the boot set for a format pair and an accumulator kind (09 R198). -/
def bootRoutine (fa fb fc : Nat) : Option Nat :=
  match fa, fb, fc with
  | 10, 10, 0 => some 0
  | 11, 11, 0 => some 1
  | 14, 14, 0 => some 2
  | 14, 15, 0 => some 3
  | 15, 14, 0 => some 4
  | 15, 15, 0 => some 5
  | 1, 1, 1 => some 6
  | 1, 1, 0 => some 7
  | 16, 16, 0 => some 8
  | 17, 17, 0 => some 9
  | 0, 0, 1 => some 10
  | 14, 18, 0 => some 11
  | 12, 12, 0 => some 12
  | 19, 10, 0 => some 14
  | 0, 0, 0 => some 15
  | _, _, _ => none

/-- A routine of the boot set for a format pair that accumulates in kind `k`, with its class. -/
def bootRun (fa fb k : Nat) : Option (Nat × MClass) :=
  match bootRoutine fa fb k, mClass fa fb k with
  | some r, some c => some (r, c)
  | _, _ => none

/-- The array run of a core's product: its routine and class, by the kind that fc names (R212). -/
def arrayRun (op : Nat) (w : TileWord) : Option (Nat × MClass) :=
  if 1 < op then none
  else match w.fc with
    | 12 | 10 | 11 => bootRun w.fa w.fb 0
    | 3 => bootRun w.fa w.fb 1
    | _ => none

/-- That of a cluster's: fc .i32 takes an FP32 routine where the format pair has no other, and the port converts its sums (R270, R272). -/
def clusterRun (op : Nat) (w : TileWord) : Option (Nat × MClass) :=
  (arrayRun op w).or (if 1 < op || w.fc != 3 then none else bootRun w.fa w.fb 0)

/-- The lowest two latches of a context's AMASK, block `k` taking one of them. -/
def portLatch (c : Ctx) (k : Nat) : Option Nat := ((List.range 8).filter c.latchIn)[k % 2]?

/-- Whether a word runs on its core's array (R212). -/
def coreArray (j : TileJob) : Bool := (arrayRun j.op j.w).isSome && j.w.dsa.sto == 2 && j.w.dsb.sto == 2

/-- K-steps, blocks of C by rows and columns, and the interval of blocks of a core array word. -/
def coreRun (c : MClass) (w : TileWord) : Nat × Nat × Nat × Nat :=
  let n := (w.tk + c.ks - 1) / c.ks
  (n, (w.tm + 31) / 32, (w.tn + 31) / 32, Nat.max (c.P * n) 64)

/-- The count at which step `st` of block `k` of a core array word starts its block. -/
def coreStart (j : TileJob) (I k : Nat) : Nat := j.start + 8 + k * I

/-! #### The cluster port (15 R270 to R272) -/

/-- Numbers of a cluster array word. -/
structure PortRun where
  cls : MClass
  rout : Nat
  sm : Nat
  sn : Nat
  sk : Nat
  bm : Nat
  bn : Nat
  n  : Nat
  ga : Nat
  gb : Nat
  q  : Nat
  qp : Nat
  D  : Nat
  J  : Nat
  gc : Nat
  deriving DecidableEq, Repr

/-- The split of R270. -/
def splitOf (mb nb : Nat) : Nat × Nat × Nat :=
  if 4 ≤ mb then (4, 1, 1) else if 2 ≤ mb ∧ 2 ≤ nb then (2, 2, 1) else if 4 ≤ nb then (1, 4, 1)
  else if 2 ≤ mb then (2, 1, 2) else if 2 ≤ nb then (1, 2, 2) else (1, 1, 4)

/-- The numbers of R270 to R272 of a word that the cores' arrays run. -/
def portRun (op : Nat) (w : TileWord) : Option PortRun :=
  (clusterRun op w).map fun e =>
    let c := e.2
    let mb := (w.tm + 31) / 32
    let nb := (w.tn + 31) / 32
    let sp := splitOf mb nb
    let sm := sp.1
    let sn := sp.2.1
    let sk := sp.2.2
    let n := ((w.tk + c.ks - 1) / c.ks + sk - 1) / sk
    let ga := (c.ab + 63) / 64
    let gb := (c.bb + 63) / 64
    let q := sm * sk * ga + sn * sk * gb
    let qp := Nat.max c.P q
    let gc := 16 * fmtWidth w.fc / 8
    let D := 264 + (w.acc.toNat + 1) * (sm * sn) * gc
    { cls := c, rout := e.1, sm := sm, sn := sn, sk := sk, bm := (mb + sm - 1) / sm, bn := (nb + sn - 1) / sn, n := n,
      ga := ga, gb := gb, q := q, qp := qp, D := D, J := Nat.max (n * qp) (D + 16), gc := gc }

/-- The last read of position `j` of child `k`. -/
def PortRun.read (p : PortRun) (T k j s : Nat) : Nat := T + 16 + k + p.q + j * p.J + s * p.qp

/-- The start of the reduction of position `j`. -/
def PortRun.red (p : PortRun) (T j : Nat) : Nat := T + 8 + 3 + p.q + 8 + j * p.J + (p.n - 1) * p.qp + p.cls.P + 32 + 8

/-- The first row and column of child (km, kn)'s block `j`. -/
def PortRun.block (p : PortRun) (km kn j : Nat) : Nat × Nat :=
  ((km * p.bm + j / p.bn) * 32, (kn * p.bn + j % p.bn) * 32)

/-! #### The die port (17 R293, R294) -/

/-- The band height of R293. -/
def bandRows (w : TileWord) : Nat := 32 * (((w.tm + 31) / 32 + 31) / 32)

/-- Whether a level-3 or level-2 word goes whole to its first child (R273, R293). -/
def goesWhole (op : Nat) (w : TileWord) : Bool := op == 6 || (op == 4 && w.aux == 0)

/-- The rows that child `k` covers when children cover `h` rows. -/
def childRows (op : Nat) (w : TileWord) (h k : Nat) : Nat :=
  if goesWhole op w then (if k = 0 then w.tm else 0) else Nat.min (w.tm - k * h) h

/-- A word restricted to `rows` rows of M. -/
def withRows (op : Nat) (w : TileWord) (rows : Nat) : TileWord := if goesWhole op w then w else { w with tm := rows }

/-- The staging context of child `k` of a die word of job `j`. -/
def stageCtx (core x k : Nat) : Nat := (core / 128 * 128 + 4 * k) * 4 + x % 4

/-- The granules that an operand spans. -/
def spanGran (d : TileDesc) (l : Lines) : Nat := (spanBytes d l + 63) / 64

/-- The granules in which an operand has bytes: of rows set apart, those of each row. Only they cross (17 R294, log 98). -/
def ownGrans (d : TileDesc) (l : Lines) : Nat :=
  if l.n = 0 ∨ l.len = 0 then 0 else if closeRows d l then spanGran d l else l.n * ((lineBits l.f l.len + 511) / 512)

/-- The `i`-th of them, by its place in the span. -/
def ownGran (d : TileDesc) (l : Lines) (i : Nat) : Nat :=
  let g := (lineBits l.f l.len + 511) / 512
  if closeRows d l then i else i / g * (pitch d l / 512) + i % g

/-- The bytes of an operand. -/
def ownBytes (d : TileDesc) (l : Lines) : Nat :=
  if l.n = 0 ∨ l.len = 0 then 0 else if closeRows d l then spanBytes d l else l.n * ((lineBits l.f l.len + 7) / 8)

/-- Which bytes of granule `g` of its span are an operand's. -/
def ownMask (d : TileDesc) (l : Lines) (g : Nat) : Nat :=
  let p := if closeRows d l then 1 else pitch d l
  let n := if closeRows d l then spanBytes d l else (lineBits l.f l.len + 7) / 8
  packE 1 ((List.range 64).map fun b =>
    let at_ := 64 * g + b
    if (if p = 1 then at_ < n else at_ / (p / 8) < l.n ∧ at_ % (p / 8) < n) then 1 else 0)

/-- A figure of A's band, of B's where it lies by band, and of C's band of a child word. -/
def bands (f : TileDesc → Lines → Nat) (op : Nat) (w : TileWord) : Nat × Nat × Nat :=
  (if readsA op then f w.dsa (linesA op w) else 0, if readsB op then f w.dsb (linesB op w) else 0, f w.dsc (linesC op w))

/-- The granules that cross of them. -/
def bandGrans (op : Nat) (w : TileWord) : Nat × Nat × Nat := bands ownGrans op w

/-- Whether B stands whole in the issuing core's quay (R293). -/
def wholeB (op : Nat) : Bool := op < 2

/-- What child `k`'s own staging core carries inbound: A's band, B's where it lies by band, and C's when acc = 1 (R294). -/
def inbound (f : TileDesc → Lines → Nat) (op : Nat) (w : TileWord) : Nat :=
  let g := bands f op w
  g.1 + (if wholeB op then 0 else g.2.1) + (if w.acc then g.2.2 else 0)

/-- Its granules. -/
def bandIn (op : Nat) (w : TileWord) : Nat := inbound ownGrans op w

/-- Child `k` of a die word in its staging context's window: A, B and C one after another from the window base. -/
def stagedWord (s : State) (op : Nat) (w : TileWord) (y : Nat) : TileWord :=
  let g := bands spanGran op w
  let a := 2 ^ 24 + (s.ctx y).cbBase / 64
  { w with lvl := 2
           dsa := if readsA op then { w.dsa with sto := 4, adr := a } else w.dsa
           dsb := if readsB op then { w.dsb with sto := 4, adr := a + g.1 } else w.dsb
           dsc := { w.dsc with sto := 4, adr := a + g.1 + g.2.1 } }

/-- The children of a die word that have rows. -/
def dieKids (op : Nat) (w : TileWord) : List Nat :=
  (List.range 32).filter fun k => childRows op w (bandRows w) k != 0

/-- The most inbound slots that a staging core of a die word carries: the issuing core counts B too. -/
def dieSlots (op : Nat) (w : TileWord) (core : Nat) : Nat :=
  let kids := dieKids op w
  let own := fun (k : Nat) => bandIn op (withRows op w (childRows op w (bandRows w) k))
  let b := if wholeB op && !kids.isEmpty then (bandGrans op w).2.1 else 0
  let issuing := b + (if core % 4 = 0 && kids.contains (core % 128 / 4) then own (core % 128 / 4) else 0)
  (kids.map own).foldl Nat.max issuing

/-- The charge of a die word in wb, by the bytes that cross (R294). -/
def dieCharge (op : Nat) (w : TileWord) : Nat :=
  let kids := dieKids op w
  let in_ := (kids.map fun k => inbound ownBytes op (withRows op w (childRows op w (bandRows w) k))).foldl (· + ·) 0
  let out := (kids.map fun k => (bands ownBytes op (withRows op w (childRows op w (bandRows w) k))).2.2).foldl (· + ·) 0
  8 * (in_ + (if wholeB op && !kids.isEmpty then (bands ownBytes op w).2.1 else 0)) + 32 * out

/-- The crossing of a die word in a context's list. -/
def dieCrossing (s : State) (y id k : Nat) (out : Bool) : Option Crossing :=
  (s.ctx y).crossings.find? fun c => c.kind == .die id k && c.out == out

/-- The context whose core crosses band `k` of a die word, or B for k = 32. -/
def crossCtx (j : TileJob) (k : Nat) : Nat := if k = 32 then j.fr.x else stageCtx j.core j.fr.x k

/-- `n` granules of a die word enter the crossings of a context: they take its owned slots from count `c` on that no other crossing
holds (07 R150). -/
def dieCross (s : State) (j : TileJob) (k : Nat) (out : Bool) (n c : Nat) : State :=
  if n = 0 then s
  else
    let y := crossCtx j k
    let cal : Int := s.cal j.fr.x j.fr.hnd
    let T : Int := cal + ((c : Int) - s.now j.fr.x j.fr.hnd)
    let b := slotBefore (coreOf y) out T
    let held := heldSlots s y j.fr.hnd out
    let slots := (pickSlots 15 out held (n + held.length) n (if b = T then b else b + (slotPeriod out).1)).map fun S =>
      S - cal + (s.clk j.fr.x j.fr.hnd : Int)
    let p := s.fresh
    let s := p.2.updCtx y fun c => { c with
      crossings := c.crossings ++ [⟨p.1, j.fr.hnd, j.fr.ord, j.fr, .die j.id k, out, 0, 0, 64 * n, slots, 0, []⟩] }
    (s.jobFr j).pushClk (slots.headD 0).toNat (.tile j.id (if out then .outSlot k 0 else .slot k 0)) 8

/-- Whether a crossing of a word that has started has slots to come. -/
def dieBusy (s : State) (id : Nat) : Bool :=
  s.ctxs.any fun e => e.2.crossings.any fun c => match c.kind with
    | .die i _ => i == id && decide (0 < c.next ∧ c.next < c.slots.length)
    | _ => false

/-- A die word that its staging contexts cannot hold (17 R293): a band outside the quays or too large for a window. Contexts outside
the gang are another fault's. -/
def dieBeyond (s : State) (x op : Nat) (w : TileWord) : Bool :=
  ((dieKids op w).any fun k =>
    let y := stageCtx (coreOf x) x k
    let v := withRows op w (childRows op w (bandRows w) k)
    let g := bands spanGran op v
    sameGang s x y && (decide ((s.ctx y).cbLen < 64 * (g.1 + g.2.1 + g.2.2))
      || (readsA op && beyond s y v.dsa (linesA op v)) || (readsB op && !wholeB op && beyond s y v.dsb (linesB op v))
      || beyond s y v.dsc (linesC op v)))
    || (wholeB op && beyond s x w.dsb (linesB op w))

/-- The descriptor of a child of a fabric word: HBM at the address of the parent's, in 64-byte units (22 R373). -/
def fabricDesc (d : TileDesc) : TileDesc := if d.sto = 0 then d else { d with sto := 7, adr := d.adr % 2 ^ 28 * 64 }

/-- Child `k` of a fabric word (22 R373). -/
def fabricChild (w : TileWord) (k : Nat) : TileWord :=
  { w with lvl := 4, tm := Nat.min (w.tm - 4096 * k) 4096, dsa := fabricDesc w.dsa, dsb := fabricDesc w.dsb, dsc := fabricDesc w.dsc }

/-- The modules of a job that this one knows: itself, the root of its entry, and those that its gangs span with it (log 99). -/
def jobModules (s : State) (job : Nat) : List Nat :=
  s.modNum :: match s.fjtOf job with
    | none => []
    | some e => fld e.2.toNat 47 36 :: s.liveGangs.flatMap fun g => if g.2.job = job then g.2.peers.map fun p => p.1 else []

/-- Whether a fabric word is not allowed: a module above 4,095, A not beside C, a module that is none of the issuer's job, or an address
outside the window of the issuing module, which alone is checked (22 R373). -/
def fabricBad (s : State) (x op : Nat) (w : TileWord) : Bool :=
  let mc := fld w.dsc.adr 39 28
  let last := mc + (w.tm - 1) / 4096
  let v := fabricChild w 0
  let mods := jobModules s (s.gangOf x).job
  4095 < last || (readsA op && fld w.dsa.adr 39 28 != mc)
    || !((List.range (last - mc + 1)).all fun k => mods.contains (mc + k))
    || (readsA op && beyond s x v.dsa (linesA op v)) || (readsB op && beyond s x v.dsb (linesB op v)) || beyond s x v.dsc (linesC op v)

/-- The case of R45 under which a word is rejected, in R45's order; none when the port accepts it. `y` is the context
it acts for. What R45 does not name has the case of log 65 (DEDUCED): 0 for an aux value not assigned, 2 for formats. -/
def tileReject (s : State) (y raw : Nat) : Option Nat :=
  let op := fld raw 3 0
  let w := decodeTileFields raw
  let ds := [w.dsa, w.dsb, w.dsc]
  let auxMax := if op = 4 then 2 else if op = 7 then 3 else 0
  if 9 < op || 5 < w.lvl || ds.any (fun d => decide (9 < d.sto)) || 19 < w.fa || 19 < w.fb || 19 < w.fc || 4 < w.rnd
      || auxMax < w.aux then some 0
  else if fld raw 81 80 ≠ 0 then some 1
  else if badFields op w then some 2
  else if op = 9 then none
  else if (readsA op && !stages w.lvl false w.dsa.sto) || (readsB op && !stages w.lvl false w.dsb.sto)
      || !stages w.lvl true w.dsc.sto then some 3
  else if (match w.lvl with
      | 3 => dieBeyond s y op w
      | 5 => fabricBad s y op w
      | _ => (readsA op && beyond s y w.dsa (linesA op w)) || (readsB op && beyond s y w.dsb (linesB op w))
          || beyond s y w.dsc (linesC op w)) then some 4
  else none

/-- Block `k` of C read for its latch: converted exactly to the accumulator kind, zero beyond M and N, and the flags of that (R212, 03
R62). -/
def accBlock (s : State) (j : TileJob) (r0 c0 : Nat) : Nat × Nat :=
  let l := (List.range 1024).map fun i =>
    let r := r0 + i / 32
    let c := c0 + i % 32
    if r < j.w.tm ∧ c < j.w.tn then
      let v := j.opC.elem s r c
      if j.w.fc = 3 then (v, 0) else Fmt.f32.ofFV .rn 0 false (fmtVal j.w.fc v)
    else (0, 0)
  (packE 32 (l.map fun e => e.1), (l.map fun e => e.2).foldl flOr 0)

/-- A word that has failed ends once no child of it runs and no crossing goes on. -/
def stopTile (s : State) (j : TileJob) : State :=
  if (s.tiles.any fun e => e.parent == some j.id && e.done.isNone) || dieBusy s j.id then s
  else s.tileEndAt j (s.now j.fr.x j.fr.hnd)

/-- C's block `k` is read for its latch, where it lands six counts later, and the block's call follows (R212). -/
def accIn (s : State) (j : TileJob) (k : Nat) : State :=
  match arrayRun j.op j.w, portLatch (s.ctxFor j.y j.fr) k with
  | some (_, c), some lat =>
    let t := coreRun c j.w
    let S := coreStart j t.2.2.2 k
    let r0 := 32 * (k / t.2.2.1)
    let c0 := 32 * (k % t.2.2.1)
    match (if s.noMarks then none else j.opC.err s (j.opC.grans false r0 32 c0 32)) with
    | some e => s.failTile { job := j.id, lvl := 1, cidx := k, row := r0, col := c0 } e
    | none =>
    let blk := accBlock s j r0 c0
    let s := (s.jobFr j).push (S - 4) (.landMem ((Place.latch j.core).key (4096 * lat)) 4096 blk.1 (allBytes 4096))
    (s.updTile j.id fun e => { e with accFl := blk.2 }).tileAt j (S - 1) (.call k)
  | _, _ => s.tileAt j (s.now j.fr.x j.fr.hnd + 9) (.call k)

/-! ### Starting a job -/

/-- The fill value of an issued TFIL: the first 64 bits of the word that its dsc names, read as the word starts, in row 0's quay of a die
word; that of another module is not this one's, a free value (02 R43, log 97). Or the cause of the fault that the reading meets. -/
def fillOf (s : State) (j : TileJob) : Nat ⊕ Nat :=
  let here := fld j.w.dsc.adr 39 28 == s.modNum
  let o := if j.lvl = 3 then { j.opC with core := j.core / 128 * 128 } else if j.lvl = 5 then { j.opC with d := fabricDesc j.w.dsc } else j.opC
  if j.lvl = 5 && !here then .inl (Config.freeValue 64 s.free).toNat
  else match (if s.noMarks then none else o.err s [0]) with
    | some e => .inr e
    | none => .inl (o.bits s 0 64)

/-- What a word's level and kind do first, from its parent issue count on. -/
def startTile (s : State) (j : TileJob) : State :=
  let T := j.start
  match j.lvl with
  | 0 | 1 =>
    match (if coreArray j then arrayRun j.op j.w else none) with
    | some (_, c) =>
      let I := (coreRun c j.w).2.2.2
      let S := coreStart j I 0
      if !j.w.acc then s.tileAt j (S - 1) (.call 0)
      else if S - 10 ≤ s.now j.fr.x j.fr.hnd then accIn s j 0
      else s.tileAt j (S - 10) (.accIn 0)
    | none => s.tileAt j (T + 4) (.emit 0)
  | 2 =>
    match portRun j.op j.w with
    | some p =>
      let s := (List.range 4).foldl (fun s k => s.tileAt j (T + 8 + k) (.emit k)) s
      let s := s.tileAt j (T + 8) (.feed 0 0 0)
      s.tileAt j (p.red T 0) (.reduce 0)
    | none => s.tileAt j (T + 4) (.emit 0)
  | 3 =>
    let E := 64 * dieSlots j.op j.w j.core + 232
    let s := if wholeB j.op && !(dieKids j.op j.w).isEmpty then dieCross s j 32 false (bandGrans j.op j.w).2.1 T else s
    let s := (dieKids j.op j.w).foldl (fun s k =>
      dieCross s j k false (bandIn j.op (withRows j.op j.w (childRows j.op j.w (bandRows j.w) k))) T) s
    s.tileAt j (T + E) (.emit 0)
  | 4 =>
    let p := s.freeValue 24
    p.2.tileAt j (T + 1 + p.1.toNat) .whole
  | _ => s.tileAt j (T + 512) (.emit 0)

/-- Job `j` starts at count `start`: what its level and kind do first. -/
def beginTile (s : State) (j : TileJob) : State :=
  let T := Nat.max j.start (s.now j.fr.x j.fr.hnd)
  let j := { j with start := T, run := true }
  let s := s.updTile j.id fun _ => j
  if j.op = 9 || emptyDims j.w then s.tileEndAt j (s.now j.fr.x j.fr.hnd)
  else if j.op = 8 && j.lvl != 4 && j.parent.isNone then
    match fillOf s j with
    | .inr e => (s.failTile { job := j.id, lvl := j.lvl, cidx := 0, row := 0, col := 0 } e).tileEndAt j (s.now j.fr.x j.fr.hnd)
    | .inl v =>
      let s := if j.lvl = 5 then { s with free := s.free + 1 } else s
      startTile (s.updTile j.id fun e => { e with fill := v }) { j with fill := v }
  else startTile s j

/-- Whether a job must wait: a TFEN for every word accepted before it, any other word for a TFEN before it (R214). -/
def tileBlocked (s : State) (j : TileJob) : Bool :=
  s.tiles.any fun e => samePort e j && decide (e.id < j.id) && e.done.isNone && (j.op == 9 || e.op == 9)

/-- A word accepted by a port. -/
def acceptTile (s : State) (j : TileJob) : State :=
  let s := { s with tiles := s.tiles ++ [j] }
  if tileBlocked s j then s else beginTile s j

/-- Waiting jobs of a port that nothing holds any more start. -/
def wakeTiles (s : State) (port : TileJob) : State :=
  (s.tiles.filter fun e => samePort e port && !e.run && e.done.isNone && e.failed.isNone).foldl (fun s e =>
    if tileBlocked s e then s else beginTile s e) s

/-! ### Ends -/

/-- The module's record of a TILE packet's outcome is written by its queue; the outcome waits for it. -/
def tileRecord (s : State) (j : TileJob) (status : Nat) : State :=
  match j.packet with
  | none => s
  | some (q, p) =>
    let place := j.core / 4 % 32 * 8 + dieOf j.core % 8
    { s with agenda := s.agenda ++ [⟨.tilePacket, { j.fr with
        id := q, slot := 1, addr := p, t := status, bits := j.flags % 64 + 64 * place, cap := BitVec.ofNat 64 (j.failed.getD 0) }⟩] }

/-- A word whose children have all ended is complete (R214): its flags merge into PSW, and what waits for it goes on. The children of
a word that has been discarded end without effect. -/
def completeTile (s : State) : Nat → Nat → State
  | 0, _ => s
  | n + 1, id =>
    match s.tileJob id with
    | none => s
    | some j =>
      let now := s.now j.fr.x j.fr.hnd
      let s := s.updTile id fun j => { j with done := some now }
      let s := match j.parent.bind s.tileJob with
        | some p =>
          let s := s.updTile p.id fun p => { p with open_ := p.open_ - 1, flags := Nat.lor p.flags j.flags }
          if p.failed.isSome then
            if (s.tiles.any fun e => e.parent == some p.id && e.done.isNone) || dieBusy s p.id then s else completeTile s n p.id
          else if p.lvl = 3 then
            dieCross s p j.cidx true (bandGrans p.op (withRows p.op p.w (childRows p.op p.w (bandRows p.w) j.cidx))).2.2 (now + 1)
          else if p.open_ ≤ 1 then completeTile s n p.id
          else s
        | none =>
          if j.parent.isSome then s
          else
          let s := if j.failed.isSome then s else s.mergeFlags j.y j.flags
          tileRecord s j (if j.failed.isSome then 2 else 0)
      wakeTiles s j

/-- The children of a port job in its emission order that have not been emitted: how many there are in all. -/
def childCount (j : TileJob) : Nat :=
  match j.lvl with
  | 0 | 1 => (subGrid j.op j.w).1 * (subGrid j.op j.w).2
  | 2 => 4
  | 3 => 32
  | _ => (j.w.tm + 4095) / 4096

/-- The bits of C that the partial results of a reduction give once every child has ended (R213): the partial results
along the reduced dimension chained in ascending child index. -/
def finishReduce (s : State) (j : TileJob) (due : Nat) : State :=
  let w := j.w
  let rnd := (Rnd.ofCode w.rnd).getD .rn
  let g := subGrid j.op w
  let fw := fmtWidth w.fc
  let n := if w.aux = 0 then w.tn else w.tm
  let res := (List.range n).map fun i =>
    let ps := (List.range (if w.aux = 0 then g.1 else g.2)).map fun b =>
      let k := if w.aux = 0 then b * g.2 + i / 16 else i / 16 * g.2 + b
      (((j.parts.find? fun e => e.1 == k).map fun e => e.2).getD []).getD (i % 16) (redIdentity w.fc)
    let c := chain (addFmt w.fc rnd (tileDraw s i) w.sat) ps
    if w.acc then
      let q := addFmt w.fc rnd (tileDraw s i) w.sat (j.opC.elem s (if w.aux = 0 then 0 else i) (if w.aux = 0 then i else 0)) c.1
      (q.1, flOr c.2 q.2)
    else c
  let fl := (res.map fun e => e.2).foldl flOr 0
  let s := s.updTile j.id fun e => { e with flags := Nat.lor e.flags fl }
  let s := (res.zipIdx).foldl (fun s e =>
    if w.aux = 0 then writeC s j due j.pri 0 (e.2 * fw) fw e.1.1 else writeC s j due j.pri e.2 0 fw e.1.1) s
  match fpCause fl j.fr.fmask with
  | some e => s.failTile { job := j.id, lvl := j.lvl, cidx := 0, row := 0, col := 0 } e
  | none => s

/-- A sub-tile starts on its slice: it reads its operands now and writes C at its end (R213). -/
def startSub (s : State) (c : TileJob) : State :=
  match c.parent.bind s.tileJob with
  | none => s
  | some p =>
    let now := s.now c.fr.x c.fr.hnd
    let s := s.updTile c.id fun e => { e with run := true, start := now }
    let o := subTile s p 16 (c.cidx % 8) c.row0 c.col0
    let s := { s with free := s.free + 256 }
    let e := now + subCycles s c.core p.op p.w + c.mesh
    let s := s.jobFr c
    let s := o.writes.foldl (fun s x => writeC s p e p.pri x.1 x.2.1 x.2.2.1 x.2.2.2) s
    let s := s.updTile c.id fun k => { k with flags := o.flags, parts := [(c.cidx, o.part)] }
    let s := match o.cause.or (fpCause o.flags c.fr.fmask) with
      | none => s
      | some code => s.updTile c.id fun k => { k with bad := some code }
    s.tileEndAt c e

/-- Whether a slice of a core runs a sub-tile. -/
def sliceBusy (s : State) (core k : Nat) : Bool :=
  s.tiles.any fun e => e.lvl == 0 && e.parent.isSome && e.core == core && e.cidx % 8 == k && e.run && e.done.isNone

/-- TILE_CHILD_END (R214, R215): a child or a word ends. In slot 3 the completion of a child on another module has come back, with its
flags in the frame's `t`, and in slot 2 its fault, with the cause there and 256 times the place that failed (22 R373, R374). -/
def execTileChildEnd (s : State) : Result :=
  let id := s.fr.id
  match s.tileJob id with
  | none => .next s
  | some c =>
    if c.done.isSome then .next s
    else if s.fr.slot = 3 then .next (completeTile (s.updTile id fun e => { e with flags := s.fr.t % 64 }) 6 id)
    else if s.fr.slot = 2 then
      let s := match c.parent with
        | some p => s.failTile { job := p, lvl := 5, cidx := c.cidx, row := c.row0, col := c.col0 } (s.fr.t % 256) (some (s.fr.t / 256 % 256))
        | none => s
      .next (completeTile s 6 id)
    else if c.lvl = 0 && c.parent.isSome then
      let now := s.now c.fr.x c.fr.hnd
      let s := match c.parent.bind s.tileJob with
        | none => s
        | some p =>
          let s := s.updTile p.id fun p => { p with parts := if p.op = 4 then p.parts ++ c.parts else [] }
          let s := match c.bad with
            | some code => s.failTile { job := p.id, lvl := 0, cidx := c.cidx, row := c.row0, col := c.col0 } code
            | none => s
          match s.tileJob p.id with
          | some p => if p.op = 4 && p.open_ == 1 && p.failed.isNone then finishReduce (s.jobFr p) p now else s
          | none => s
      let s := completeTile s 6 id
      let next := s.tiles.find? fun e => e.lvl == 0 && e.parent.isSome && e.core == c.core && e.cidx % 8 == c.cidx % 8 && !e.run
      .next (match next with
        | some n => startSub s n
        | none => s)
    else .next (completeTile s 6 id)

/-! ### Steps of the ports -/

/-- Child `k` of a word of slice or core level is emitted (R213). -/
def emitSub (s : State) (j : TileJob) (k : Nat) : State :=
  let g := subGrid j.op j.w
  let p := s.fresh
  let c : TileJob := { id := p.1, op := j.op, w := j.w, lvl := 0, core := j.core, y := j.y, fr := j.fr, parent := some j.id,
                       cidx := k, row0 := 16 * (k / g.2), col0 := 16 * (k % g.2), mesh := j.mesh }
  let s := { p.2 with tiles := p.2.tiles ++ [c] }
  if sliceBusy s j.core (k % 8) then s else startSub s c

/-- A descriptor moved on by `r` rows of its stride, to the 64-byte unit that holds the row. -/
def rowOn (d : TileDesc) (l : Lines) (r : Nat) : TileDesc :=
  { d with adr := d.adr + r * pitch d l / 512 }

/-- The bits before the row in that unit: packed rows need not start on one. -/
def rowOff (d : TileDesc) (l : Lines) (r : Nat) : Nat := r * pitch d l % 512

/-- A child of level `lvl` of job `j`, acting for context `y` on `core`. -/
def childJob (id : Nat) (j : TileJob) (w : TileWord) (lvl core y k row mesh start : Nat) : TileJob :=
  { id := id, op := j.op, w := { w with lvl := lvl }, lvl := lvl, core := core, y := y, fr := j.fr, parent := some j.id, cidx := k,
    start := start, row0 := row, mesh := mesh, fill := j.fill }

/-- Child `k` of a cluster word goes to the tile port of core k as a level-1 word (R273). -/
def emitCore (s : State) (j : TileJob) (k : Nat) : State :=
  let w := j.w
  let h := 16 * (((w.tm + 15) / 16 + 3) / 4)
  let rows := childRows j.op w h k
  if rows = 0 then s.updTile j.id fun e => { e with open_ := e.open_ - 1 }
  else
    let r := if goesWhole j.op w then 0 else k * h
    let w' := { withRows j.op w rows with
      dsa := if readsA j.op then { rowOn w.dsa (linesA j.op w) r with sto := 3 } else w.dsa
      dsb := if readsB j.op then { (if wholeB j.op then w.dsb else rowOn w.dsb (linesB j.op w) r) with sto := 3 } else w.dsb
      dsc := { rowOn w.dsc (linesC j.op w) r with sto := 3 } }
    let core := j.core / 4 * 4 + k
    let p := s.fresh
    acceptTile p.2 { childJob p.1 j w' 1 core (core * 4 + j.y % 4) k r 16 (s.now j.fr.x j.fr.hnd) with
      offA := rowOff w.dsa (linesA j.op w) r
      offB := if wholeB j.op then 0 else rowOff w.dsb (linesB j.op w) r
      offC := rowOff w.dsc (linesC j.op w) r }

/-- Child `k` of a die word goes to the tile port of its cluster (R294). -/
def emitCluster (s : State) (j : TileJob) (k : Nat) : State :=
  let rows := childRows j.op j.w (bandRows j.w) k
  if rows = 0 then s.updTile j.id fun e => { e with open_ := e.open_ - 1 }
  else
    let y := stageCtx j.core j.fr.x k
    let w := stagedWord s j.op (withRows j.op j.w rows) y
    let p := s.fresh
    acceptTile p.2 (childJob p.1 j w 2 (y / 4) y k (if goesWhole j.op j.w then 0 else k * bandRows j.w) 0 (s.now j.fr.x j.fr.hnd))

/-- Child `k` of a fabric word (22 R373): on this module a level-4 word, which its port checks as any other (02 R45), else a message to
its module, whose completion or fault is an input (TILE_CHILD_END in slot 3 or 2); a TFIL's message brings the fill value. -/
def emitModule (s : State) (j : TileJob) (k : Nat) : State :=
  let w := fabricChild j.w k
  let m := fld j.w.dsc.adr 39 28 + k
  let p := s.fresh
  let c := childJob p.1 j w 4 j.core j.y k (4096 * k) 0 (s.now j.fr.x j.fr.hnd)
  if m = s.modNum then
    if (tileReject s j.y (w.bits j.op)).isSome then s.failTile { job := j.id, lvl := 5, cidx := k, row := 4096 * k, col := 0 } 1
    else acceptTile p.2 c
  else
    { p.2 with tiles := p.2.tiles ++ [{ c with run := true }] }.send
      { id := p.1, kind := .tile, a := m, b := k, c := j.fill, d := (s.gangOf j.y).job, data := w.bits j.op, x := j.y, fr := j.fr }

/-- Emission of child `k`, and of the next one after it. -/
def emitChild (s : State) (j : TileJob) (k : Nat) : State :=
  if j.failed.isSome then stopTile s j
  else
    let n := childCount j
    let now := s.now j.fr.x j.fr.hnd
    let s := if k = 0 then s.updTile j.id fun e => { e with open_ := n } else s
    let s := match j.lvl with
      | 0 | 1 => emitSub s j k
      | 2 => emitCore s j k
      | 3 => emitCluster s j k
      | _ => emitModule s j k
    if k + 1 < n then s.tileAt j (now + (match j.lvl with | 3 => 4 | 5 => 64 | _ => 1)) (.emit (k + 1)) else s

/-- The descriptor of a port's call. -/
def portDesc (ra rb lat : Nat) (acc : Bool) (n : Nat) : List Word :=
  BitVec.ofNat 64 (lat + (if acc then 8 else 0) + ra * 2 ^ 8 + rb * 2 ^ 11 + (n - 1) * 2 ^ 32) :: List.replicate 7 0

/-- The call issued behind what the array holds, as an MCALL of count `S` - 1 is (09 R201): none when the array has a call that starts
later still. -/
def portCall (s : State) (core rout S x y : Nat) (hnd : Bool) (m : List Word) (r : TileRef) (flags : Nat := 0) : Option State :=
  let prev := prevCall s core x hnd
  if (prev.filter fun c => decide (S < c.start)).isSome then none
  else some (enterCall s core rout (S - 1) (callStartAt (S - 1) prev) y m (some r) flags)

/-- The port's call of block `k`, or a fault when the context has no latch for it or the array no room (R212). -/
def coreCall (s : State) (j : TileJob) (k : Nat) : State :=
  match arrayRun j.op j.w with
  | none => s
  | some (rout, c) =>
    let t := coreRun c j.w
    let ref : TileRef := ⟨j.id, 1, k, 32 * (k / t.2.2.1), 32 * (k % t.2.2.1), j.w.tk, 0, some (0, .out k)⟩
    let S := coreStart j t.2.2.2 k
    match portLatch (s.ctxFor j.y j.fr) k with
    | none => s.failTile ref 3
    | some lat =>
      match portCall (s.jobFr j) j.core rout S j.fr.x j.y j.fr.hnd (portDesc j.w.dsa.adr j.w.dsb.adr lat j.w.acc t.1) ref j.accFl with
      | none => s.failTile ref 7
      | some s =>
        if k + 1 < t.2.1 * t.2.2.1 then
          let S' := coreStart j t.2.2.2 (k + 1)
          if j.w.acc then s.tileAt j (S' - 10) (.accIn (k + 1)) else s.tileAt j (S' - 1) (.call (k + 1))
        else s

/-- An accumulator converted to fc (R62). -/
def outElem (w : TileWord) (rnd : Rnd) (u v : Nat) : Nat × Nat :=
  if w.fc = 3 then (v, 0) else toFmt w.fc rnd u w.sat (Fmt.f32.decode v)

/-- Block `k` of a core array word is converted and performs at W + 4; the last one completes the word (R212), or the last one under way
of a word that has failed (R215). Enabled flags of the conversion fail the word, with the block written (03 R60, log 66). -/
def coreOut (s : State) (j : TileJob) (k : Nat) : State :=
  match arrayRun j.op j.w, portLatch (s.ctxFor j.y j.fr) k with
  | some (_, c), some lat =>
    let t := coreRun c j.w
    let now := s.now j.fr.x j.fr.hnd
    let r0 := 32 * (k / t.2.2.1)
    let c0 := 32 * (k % t.2.2.1)
    let key := (Place.latch j.core).key (4096 * lat)
    let img := s.mem.readN key 4096
    let rnd := (Rnd.ofCode j.w.rnd).getD .rn
    let fw := fmtWidth j.w.fc
    let s := s.jobFr j
    if (s.failedByte key 4096).isSome then s.failTile { job := j.id, lvl := 1, cidx := k, row := r0, col := c0 } 20
    else
    let r := (subCells j.w.tm j.w.tn 32 r0 c0).foldl (fun (a : State × Nat) e =>
      let i := 32 * (e.1 - r0) + (e.2 - c0)
      let v := outElem j.w rnd (tileDraw s i) (tileBits img (32 * i) 32)
      (writeC a.1 j (now + 4) 0 e.1 (e.2 * fw) fw v.1, flOr a.2 v.2)) (s, 0)
    let s := { r.1 with free := r.1.free + 1024 }
    let s := s.updTile j.id fun e => { e with flags := Nat.lor e.flags r.2 }
    let s := match fpCause r.2 j.fr.fmask with
      | some e => s.failTile { job := j.id, lvl := 1, cidx := k, row := r0, col := c0 } e
      | none => s
    if k + 1 = t.2.1 * t.2.2.1 || (((s.tileJob j.id).bind fun e => e.failed).isSome && !s.blockOn j) then s.tileEndAt j (now + 4) else s
  | _, _ => s

/-- The tile at K-step `ks` of lines `l0` to `l0 + 31` of an operand, as a ring tile (R191, R270): zero beyond the
operand. -/
def feedTile (s : State) (o : Operand) (tr : Bool) (lim K c_ks kstep l0 : Nat) : Nat :=
  match blockUnit o.l.f with
  | some (e, b) =>
    let u := c_ks / e
    packE (8 * b * u) ((List.range 32).map fun i =>
      if l0 + i < lim then o.bits s ((l0 + i) * pitch o.d o.l + kstep * u * b * 8)
        (8 * b * Nat.min u (((K - kstep * c_ks) + e - 1) / e)) else 0)
  | none =>
    packE (fmtWidth o.l.f) ((List.range 32).flatMap fun i => (List.range c_ks).map fun k =>
      if l0 + i < lim ∧ kstep * c_ks + k < K then o.at s tr (l0 + i) (kstep * c_ks + k) else 0)

/-- One tile pushed into a ring of a child's context from count u on, a granule a cycle (R265, R271): a ring that is
full, or a context that is no member of the gang, fails the port. -/
def pushTile (s : State) (j : TileJob) (y ring g img : Nat) (ref : TileRef) : State :=
  let u := s.now j.fr.x j.fr.hnd
  if !sameGang s j.fr.x y then s.failTile ref 4
  else match claimTile s y ring with
    | none => s.failTile ref 14
    | some (tile, id, s) =>
      let r := (s.ctx y).ring ring
      let s := (s.jobFr j)
      let s := (List.range g).foldl (fun s i =>
        s.push (u + i + 6) (.store ((Place.berth (y / 4)).key (r.tileByte tile + 64 * i)) 64 (img / 2 ^ (512 * i) % 2 ^ 512) (allBytes 64))
          (1 + j.core)) s
      s.push (u + g - 1 + 6) (.publish y ring id) 3

/-- The contexts of the cluster that run the children. -/
def portCtx (j : TileJob) (k : Nat) : Nat := (j.core / 4 * 4 + k) * 4 + j.y % 4

/-- The `i`-th tile of position (pos, st) is pushed (R271): A's tiles by (km, kk), then B's by (kn, kk). -/
def portFeed (s : State) (j : TileJob) (pos st i : Nat) : State :=
  match portRun j.op j.w with
  | none => s
  | some p =>
    let u := s.now j.fr.x j.fr.hnd
    let na := p.sm * p.sk
    let isA := i < na
    let a := if isA then i else i - na
    let side := a / p.sk
    let kk := a % p.sk
    let o := if isA then j.opA else j.opB
    let l0 := if isA then (side * p.bm + pos / p.bn) * 32 else (side * p.bn + pos % p.bn) * 32
    let tr := if isA then j.w.ta else !j.w.tb
    let img := feedTile s o tr (if isA then j.w.tm else j.w.tn) j.w.tk p.cls.ks (kk * p.n + st) l0
    let kids := (List.range 4).filter fun k =>
      k % p.sk == kk && (if isA then k / (p.sn * p.sk) == side else k / p.sk % p.sn == side)
    let g := if isA then p.ga else p.gb
    let ref : TileRef := { job := j.id, lvl := 2, cidx := 0, row := if isA then l0 else 32 * (pos / p.bn),
                           col := if isA then 32 * (pos % p.bn) else l0, pos := pos }
    let s := match (if s.noMarks then none else o.err s (o.grans tr l0 32 ((kk * p.n + st) * p.cls.ks) p.cls.ks)) with
      | some e => s.failTile ref e
      | none => kids.foldl (fun s k => pushTile s j (portCtx j k) (if isA then 6 else 7) g img ref) s
    if i + 1 < na + p.sn * p.sk then s.tileAt j (u + g) (.feed pos st (i + 1))
    else if st + 1 < p.n then s.tileAt j (j.start + 8 + pos * p.J + (st + 1) * p.qp) (.feed pos (st + 1) 0)
    else if pos + 1 < p.bm * p.bn then s.tileAt j (j.start + 8 + (pos + 1) * p.J) (.feed (pos + 1) 0 0)
    else s

/-- Child `k` of a cluster array word is emitted at T + 8 + k, unless the word has failed by then: its first call follows (R271, R274). -/
def portEmit (s : State) (j : TileJob) (k : Nat) : State :=
  match portRun j.op j.w with
  | none => s
  | some p => if j.failed.isSome then s else s.tileAt j (p.read j.start k 0 0 - 1) (.child k 0 0)

/-- The single-step call of child `k` for position (pos, st), issued the cycle before its step reads (R271). -/
def portChild (s : State) (j : TileJob) (k pos st : Nat) : State :=
  match portRun j.op j.w with
  | none => s
  | some p =>
    if j.bad == some k then s
    else
      let y := portCtx j k
      let rc := p.block (k / (p.sn * p.sk)) (k / p.sk % p.sn) pos
      let kstep := k % p.sk * p.n + st
      let ref : TileRef := ⟨j.id, 1, k, rc.1, rc.2, j.w.tk - p.cls.ks * kstep, pos, if st + 1 = p.n then some (1, .drain k pos) else none⟩
      match portLatch (s.ctxFor y j.fr) pos with
      | none => s.failTile ref 3
      | some lat =>
        let X := p.read j.start k pos st
        match portCall (s.jobFr j) (y / 4) p.rout X j.fr.x y j.fr.hnd (portDesc 6 7 lat (decide (0 < st)) 1) ref with
        | none => s.failTile ref 7
        | some s =>
          if st + 1 < p.n then s.tileAt j (p.read j.start k pos (st + 1) - 1) (.child k pos (st + 1))
          else if pos + 1 < p.bm * p.bn then s.tileAt j (p.read j.start k (pos + 1) 0 - 1) (.child k (pos + 1) 0)
          else s

/-- Block `pos` of child `k` is copied whole into its core's drain buffer (R271). -/
def portDrain (s : State) (j : TileJob) (k pos : Nat) : State :=
  let y := portCtx j k
  match portRun j.op j.w, portLatch (s.ctxFor y j.fr) pos with
  | some p, some lat =>
    let key := (Place.latch (y / 4)).key (4096 * lat)
    let rc := p.block (k / (p.sn * p.sk)) (k / p.sk % p.sn) pos
    if (s.failedByte key 4096).isSome then s.failTile { job := j.id, lvl := 1, cidx := k, row := rc.1, col := rc.2, pos := pos } 20
    else s.poke ((Place.drain (y / 4)).key 0) 4096 (s.mem.readN key 4096)
  | _, _ => s

/-- One element of a reduction of the drain buffers, whose parts are INT32 or FP32: the parts in ascending kk, C's old element, the conversion (R272). -/
def portElem (ints : Bool) (w : TileWord) (rnd : Rnd) (u : Nat) (parts : List Nat) (old : Nat) : Nat × Nat :=
  if ints then (ofInt 32 (((if w.acc then old else 0) : Nat) + (parts.foldl (· + ·) 0 : Nat)), 0)
  else
    let add := fun (a : FV × Nat) (b : FV) => let r := roundAdd .f32 a.1 b; (r.1, flOr a.2 r.2)
    let ps := parts.map Fmt.f32.decode
    let q := ps.tail.foldl add (ps.headD (.fin false 0 0), 0)
    let q := if w.acc then (let r := roundAdd .f32 (fmtVal w.fc old) q.1; (r.1, flOr q.2 r.2)) else q
    let r := toFmt w.fc rnd u w.sat q.1
    (r.1, flOr q.2 r.2)

/-- The error that a reduction meets (15 R275): a failed parity in a drain buffer, or an error where it reads C, with the block. -/
def portErr (s : State) (j : TileJob) (p : PortRun) (pos : Nat) : Option (Nat × Nat × Nat) :=
  if s.noMarks then none
  else
    match (List.range (p.sm * p.sn * p.sk)).find? fun k => (s.failedByte ((Place.drain (j.core / 4 * 4 + k)).key 0) 4096).isSome with
    | some k => some (20, p.block (k / (p.sn * p.sk)) (k / p.sk % p.sn) pos)
    | none =>
      if !j.w.acc then none
      else (List.range (p.sm * p.sn)).findSome? fun ob =>
        let rc := p.block (ob / p.sn) (ob % p.sn) pos
        (j.opC.err s (j.opC.grans false rc.1 32 rc.2 32)).map fun e => (e, rc)

/-- The reduction of position `pos` (R272): output granule x performs at R + 256 + a O G_C + 8 + x. A word that has failed writes no
position from the failure's on, and ends with its last one (R274). -/
def portReduce (s : State) (j : TileJob) (pos : Nat) : State :=
  match portRun j.op j.w with
  | none => s
  | some p =>
    let R := s.now j.fr.x j.fr.hnd
    let w := j.w
    let rnd := (Rnd.ofCode w.rnd).getD .rn
    let fw := fmtWidth w.fc
    let at0 := R + 256 + w.acc.toNat * (p.sm * p.sn) * p.gc + 8
    let per := 512 / fw
    let gpr := 32 / per
    let next := fun (s : State) =>
      if pos + 1 < p.bm * p.bn then s.tileAt j (p.red j.start (pos + 1)) (.reduce (pos + 1)) else s.tileEndAt j (R + p.D)
    if (j.stop.map fun n => decide (n ≤ pos)).getD false then next s
    else
      let drain := fun (k : Nat) => s.mem.readN ((Place.drain (j.core / 4 * 4 + k)).key 0) 4096
      let imgs := (List.range 4).map drain
      let s0 := s.jobFr j
      match portErr s j p pos with
      | some (e, rc) => next (s.failTile { job := j.id, lvl := 2, cidx := 0, row := rc.1, col := rc.2, pos := pos } e)
      | none =>
      let out := (List.range (p.sm * p.sn)).foldl (fun (a : State × Nat) ob =>
        let km := ob / p.sn
        let kn := ob % p.sn
        let rc := p.block km kn pos
        (subCells w.tm w.tn 32 rc.1 rc.2).foldl (fun (a : State × Nat) e =>
          let r := e.1 - rc.1
          let c := e.2 - rc.2
          let i := 32 * r + c
          let parts := (List.range p.sk).map fun kk => tileBits (imgs.getD (km * p.sn * p.sk + kn * p.sk + kk) 0) (32 * i) 32
          let v := portElem (p.cls.fc == 1) w rnd (tileDraw s (1024 * ob + i)) parts (if w.acc then j.opC.elem s e.1 e.2 else 0)
          (writeC a.1 j (at0 + ob * 32 * gpr + r * gpr + c / per) 4 e.1 (e.2 * fw) fw v.1, flOr a.2 v.2)) a) (s0, 0)
      let s := { out.1 with free := out.1.free + 4096 }
      let s := s.updTile j.id fun e => { e with flags := Nat.lor e.flags out.2 }
      next (match fpCause out.2 j.fr.fmask with
        | some e =>
          let rc := p.block 0 0 pos
          s.failTile { job := j.id, lvl := 2, cidx := 0, row := rc.1, col := rc.2, pos := pos + 1 } e
        | none => s)

/-- The `i`-th granule that child `k`'s band brings in: its source register key, its place in the window, and the bytes of it that
cross. -/
def bandGran (s : State) (j : TileJob) (k i : Nat) : Option (Nat × Nat × Nat) :=
  let w := withRows j.op j.w (childRows j.op j.w (bandRows j.w) k)
  let y := stageCtx j.core j.fr.x k
  let st := stagedWord s j.op w y
  let g := bandGrans j.op w
  let gb := if wholeB j.op then 0 else g.2.1
  let go := fun (d e : TileDesc) (l : Lines) (i : Nat) =>
    let n := ownGran d l i
    some ((Place.quay (y / 4)).key (512 * d.adr + 64 * n), (Place.cluster (y / 16)).key ((e.adr * 64) % 2 ^ 18 + 64 * n), ownMask d l n)
  if i < g.1 then go w.dsa st.dsa (linesA j.op w) i
  else if i < g.1 + gb then go w.dsb st.dsb (linesB j.op w) (i - g.1)
  else if i < bandIn j.op w then go w.dsc st.dsc (linesC j.op w) (i - g.1 - gb)
  else none

/-- A slot of a crossing of a die word has started, and the next one follows; after the last one a word that has failed may end. -/
def dieNext (s : State) (j : TileJob) (c : Crossing) (k i : Nat) : State :=
  match c.slots[i + 1]? with
  | some S => (s.jobFr j).pushClk S.toNat (.tile j.id (if c.out then .outSlot k (i + 1) else .slot k (i + 1))) 8
  | none => if ((s.tileJob j.id).bind fun e => e.failed).isSome then stopTile s j else s

/-- Whether a granule's quay read meets poison or an uncorrectable error (18 R309, R311). -/
def badQuay (s : State) (key : Nat) : Bool := s.poisoned key || (s.badWord (State.wordsOf key 64)).isSome

/-- An inbound slot of a die word (R294): 64 bytes of a band, or of B for every child, perform 232 counts after its start; a bad
granule fails the word, in the cluster of its quay's core (R295, log 78). -/
def dieSlot (s : State) (j : TileJob) (k i : Nat) : State :=
  let y := crossCtx j k
  match dieCrossing s y j.id k false with
  | none => s
  | some c =>
    let s := s.jobFr j
    let s := s.updCtx y fun e => { e with crossings := e.crossings.map fun x => if x.id == c.id then { x with next := i + 1 } else x }
    let at_ := (c.slots.getD i 0 + 232).toNat
    let put := fun (s : State) (src mask : Nat) (dsts : List Nat) =>
      if badQuay s src then s.failTile { job := j.id, lvl := 3, cidx := coreOf y / 4 % 32, row := if k = 32 then 0 else k * bandRows j.w, col := 0 } 11
      else dsts.foldl (fun s d => s.pushClk at_ (.store d 64 (s.mem.readN src 64) mask) 4) s
    let s := if k = 32 then
        let l := linesB j.op j.w
        let n := ownGran j.w.dsb l i
        let dsts := (dieKids j.op j.w).map fun c =>
          let y := stageCtx j.core j.fr.x c
          let st := stagedWord s j.op (withRows j.op j.w (childRows j.op j.w (bandRows j.w) c)) y
          (Place.cluster (y / 16)).key ((st.dsb.adr * 64) % 2 ^ 18 + 64 * n)
        put s ((Place.quay (coreOf y)).key (512 * j.w.dsb.adr + 64 * n)) (ownMask j.w.dsb l n) dsts
      else match bandGran s j k i with
        | none => s
        | some (src, dst, mask) => put s src mask [dst]
    dieNext s j c k i

/-- An outbound slot of a die word (R294): a granule of child `k`'s C performs in its quay 160 counts later; the last of
the last child completes the word. -/
def dieOut (s : State) (j : TileJob) (k i : Nat) : State :=
  let y := crossCtx j k
  match dieCrossing s y j.id k true with
  | none => s
  | some c =>
    let w := withRows j.op j.w (childRows j.op j.w (bandRows j.w) k)
    let st := stagedWord s j.op w y
    let n := ownGran w.dsc (linesC j.op w) i
    let src := (Place.cluster (y / 16)).key ((st.dsc.adr * 64) % 2 ^ 18 + 64 * n)
    let s := (s.jobFr j).updCtx y fun e => { e with crossings := e.crossings.map fun x => if x.id == c.id then { x with next := i + 1 } else x }
    let s := if (s.badWord (State.wordsOf src 64)).isSome then s.failTile { job := j.id, lvl := 3, cidx := k, row := k * bandRows j.w, col := 0 } 11
      else s.pushClk (c.slots.getD i 0 + 160).toNat
        (.store ((Place.quay (y / 4)).key (512 * w.dsc.adr + 64 * n)) 64 (s.mem.readN src 64) (ownMask w.dsc (linesC j.op w) n)) 0
    let s := dieNext s j c k i
    if i + 1 < c.slots.length || j.failed.isSome then s
    else
      let s := s.updTile j.id fun e => { e with cidx := e.cidx + 1 }
      match s.tileJob j.id with
      | some e => if e.failed.isNone && e.cidx == (dieKids j.op j.w).length then s.tileEndAt j (s.now j.fr.x j.fr.hnd + 160) else s
      | none => s

/-- A word of the module port performs (log 8): every element of C by the rules of R213, except that no chapter gives
the order of a floating-point sum there, so such an element is a free value. -/
def moduleWord (s : State) (j : TileJob) : State :=
  let now := s.now j.fr.x j.fr.hnd
  let w := j.w
  let s := s.jobFr j
  let fw := fmtWidth w.fc
  let own := j.op == 8 && j.parent.isNone && !(j.packet.any fun p => decide (256 ≤ p.1))
  let fill := if own then fillOf s j else .inl j.fill
  let j := { j with fill := match fill with
    | .inl v => v
    | .inr _ => 0 }
  let intSum := intFmt w.fa && intFmt w.fc && (decide (1 < j.op) || intFmt w.fb)
  let s :=
    if (j.op < 2 || j.op == 4) && !intSum then
      let l := linesC j.op w
      (List.range (l.n * l.len)).foldl (fun s i =>
        let p := s.freeValue 64
        writeC p.2 j now 4 (i / l.len) (i % l.len * fw) fw (p.1.toNat % 2 ^ fw)) s
    else
      let n := Nat.max w.tm (Nat.max w.tn w.tk)
      let g := subGrid j.op w
      if j.op = 4 then
        let parts := (List.range (g.1 * g.2)).map fun k => (k, (subTile s j 16 0 (16 * (k / g.2)) (16 * (k % g.2))).part)
        finishReduce s { j with parts := parts } now
      else
        let o := match fill with
          | .inl _ => subTile s j n 0 0 0
          | .inr e => { cause := some e }
        let s := o.writes.foldl (fun s x => writeC s j now 4 x.1 x.2.1 x.2.2.1 x.2.2.2) s
        let s := s.updTile j.id fun e => { e with flags := o.flags }
        match o.cause.or (fpCause o.flags j.fr.fmask) with
        | some c => s.failTile { job := j.id, lvl := 4, cidx := 0, row := 0, col := 0 } c
        | none => s
  (s.tileEndAt j now)

/-- A cluster word that a TISS brought and that a router program, whose end was not known at the TISS, still runs beside: the timing fault
(15 R269, log 22). -/
def besideProgram (s : State) (j : TileJob) : Option State :=
  let r := (s.clu (j.core / 4)).router
  let now := s.now j.fr.x j.fr.hnd
  if j.lvl = 2 && j.parent.isNone && j.packet.isNone && (r.active || (r.hnd == j.fr.hnd && decide (j.start < r.endAt))) then
    let s := { wakeTiles { s with tiles := s.tiles.filter fun e => e.id != j.id } j with fr := j.fr }
    some (s.raiseExec 7 (BitVec.ofNat 64 (s.fromAnchor (j.fr.t + 4) + s.fromAnchor j.fr.t * 2 ^ 32)) 0 now)
  else none

/-- A step of a job that is due. -/
def tileStep (s : State) (id : Nat) (st : TileStep) : State :=
  match s.tileJob id with
  | none => s
  | some j =>
    if j.done.isSome then s
    else match st with
      | .emit 0 => match besideProgram s j with
        | some s => s
        | none => if j.lvl = 2 && (portRun j.op j.w).isSome then portEmit s j 0 else emitChild s j 0
      | .emit k => if j.lvl = 2 && (portRun j.op j.w).isSome then portEmit s j k else emitChild s j k
      | .accIn k => if j.failed.isSome then s else accIn s j k
      | .call k => if j.failed.isSome then s else coreCall s j k
      | .out k => coreOut s j k
      | .feed p c i => portFeed s j p c i
      | .child k p c => portChild s j k p c
      | .drain k p => portDrain s j k p
      | .reduce p => portReduce s j p
      | .slot k i => dieSlot s j k i
      | .outSlot k i => dieOut s j k i
      | .whole => moduleWord s j

/-! ### Acceptance (08 R185) -/

/-- A tile word accepted at its port. Its parent issue count is t + 4 for a word of level 0 to 3 that a TISS slot read
(R185), else the count in hand; a TILE packet's frame names the queue by `id` and the packet by `addr`, with slice 1. -/
def acceptWord (op : Nat) (w : TileWord) (s : State) : State :=
  let p := s.fresh
  let x := s.fr.x
  let j : TileJob := { id := p.1, op := op, w := w, lvl := w.lvl, core := coreOf x, y := x,
                       fr := { s.fr with gt := 0, cap := 0, capv := 0 }, start := if w.lvl < 4 && s.fr.slice == 0 then s.fr.t + 4 else s.now x s.fr.hnd,
                       packet := if s.fr.slice = 1 then some (s.fr.id, s.fr.addr) else none, fill := if s.fr.slice = 1 then s.fr.cap.toNat else 0 }
  acceptTile p.2 j

/-- TMUL (R212, R213, R270). -/
def execTmul (w : TileWord) (s : State) : Result := .next (acceptWord 0 w s)
/-- TMULS (R212, R213, R270). -/
def execTmuls (w : TileWord) (s : State) : Result := .next (acceptWord 1 w s)
/-- TADD (R213). -/
def execTadd (w : TileWord) (s : State) : Result := .next (acceptWord 2 w s)
/-- TSCL (R213). -/
def execTscl (w : TileWord) (s : State) : Result := .next (acceptWord 3 w s)
/-- TRED (R213). -/
def execTred (w : TileWord) (s : State) : Result := .next (acceptWord 4 w s)
/-- TCPY (R213). -/
def execTcpy (w : TileWord) (s : State) : Result := .next (acceptWord 5 w s)
/-- TXPS (R213). -/
def execTxps (w : TileWord) (s : State) : Result := .next (acceptWord 6 w s)
/-- TDIG (R213). -/
def execTdig (w : TileWord) (s : State) : Result := .next (acceptWord 7 w s)
/-- TFIL (R213). -/
def execTfil (w : TileWord) (s : State) : Result := .next (acceptWord 8 w s)
/-- TFEN (R214). -/
def execTfen (w : TileWord) (s : State) : Result := .next (acceptWord 9 w s)

/-- What keeps a die word from its staging contexts beside R45 (17 R293, R294): one outside the gang, or one without every slot. -/
def dieRefused (s : State) (x op : Nat) (w : TileWord) : Option Nat :=
  let ys := (dieKids op w).map fun k => stageCtx (coreOf x) x k
  if !(ys.all fun y => sameGang s x y) then some 3
  else if (s.ctxFor x s.fr).lk ≠ 15 || ys.any fun y => (s.ctxFor y s.fr).lk != 15 then some 7
  else none

/-- A charge debited at t + 2 without an admission test, which a fault of the slot credits back (07 R152). -/
def lateCharge (s : State) (wb : Nat) : State :=
  let s := s.updGang (s.ctx s.fr.x).gang fun g => g.debit wb
  s.updCtx s.fr.x fun c => { c with charges := c.charges ++ [(s.fr.hnd, s.fr.ord, wb)] }

/-- The crossing that a TISS took at issue for a word of level 4 or 5 (R185, R189). -/
def tissCrossing (s : State) : Option Crossing :=
  (s.ctx s.fr.x).crossings.find? fun c => (match c.kind with | .tiss _ => true | _ => false) && c.hnd == s.fr.hnd && c.ord == s.fr.ord

/-- TISS reads its word at t + 2 (R185): checks, then the port's act, or the crossing to the pilot. `s.fr` is
the slot's. Where its issue foresaw another word, the crossing for that is given back, and the crossings issued after it take their slots
as they stand now. -/
def tissRead (s : State) (key : Nat) : State :=
  let t := s.fr.t
  let D := t + 2
  let x := s.fr.x
  let raw := s.mem.readN key 32
  let late := fun (s : State) (S : Nat) => s.raiseExec 7 (BitVec.ofNat 64 (s.fromAnchor S + s.fromAnchor t * 2 ^ 32)) 0 D
  let illegal := fun (s : State) (c : Nat) => s.raiseExec 1 (BitVec.ofNat 64 (s.fr.bits + c * 2 ^ 32)) 0 D
  let taken := (tissCrossing s).map fun c => (c.id, c.kind == .tiss raw)
  let s := match taken with
    | some (id, false) => s.reslot fun s => { s.updCtx x (fun c => { c with crossings := c.crossings.filter fun e => e.id != id }) with
        timed := s.timed.filter fun e => e.act.fr.id != id || e.act.fr.x != x }
    | _ => s
  match tileReject s x raw, decodeTile raw with
  | some c, _ => illegal s c
  | none, none => illegal s 0
  | none, some i =>
    let op := fld raw 3 0
    let w := decodeTileFields raw
    let go := fun (s : State) => { s with agenda := s.agenda ++ [⟨i, s.fr⟩] }
    match w.lvl with
    | 0 | 1 => go s
    | 2 =>
      let clu := clusterOf (coreOf x)
      if !holdsRouter s then s.raiseExec 3 0 0 D
      else if programAt s clu (t + 4) (s.now x s.fr.hnd) s.fr.hnd then late s (t + 4)
      else go s
    | 3 =>
      if op = 9 || emptyDims w then go s
      else match dieRefused s x op w with
        | some 3 => s.raiseExec 3 5 0 D
        | some _ => late s (t + 4 + 64 * dieSlots op w (coreOf x) + 232)
        | none => go (lateCharge s (dieCharge op w))
    | _ =>
      let lk := (s.ctxFor x s.fr).lk
      if lk = 0 then late s t
      else
        let s := lateCharge s 1024
        if taken == some ((taken.map fun e => e.1).getD 0, true) then s
        else { s.reslot fun s => s.cross (.tiss raw) true lk 0 0 32 with fr := s.fr }

end Sys2Proof.Machine
end

