-- ==== Sys2Proof/Machine/RouterRun.lean ====
section
/-! DEFINITION. The start of a router program: RT.GO (15 R267, R269). -/

namespace Sys2Proof.Machine

/-- Whether a level-2 tile word of a cluster that has been accepted is not complete at count `S` (15 R269). -/
def wordAt (s : State) (clu S : Nat) : Bool :=
  s.tiles.any fun j => j.lvl == 2 && j.core / 4 == clu && j.done.isNone && (match portRun j.op j.w with
    | some p => !j.run || decide (S < p.red j.start (p.bm * p.bn - 1) + p.D)
    | none => !(s.flight.any fun f => f.act.i == .tileChildEnd && f.act.fr.id == j.id && decide (f.due ≤ S)))

/-- RT.GO (15 R267): its S must not fall in the run of a program, nor before the completion of a tile word; what is known of both is
decided at issue (10 R218 code 7), the rest at S (log 22). -/
def execRtGo (g : Guard) (a b off : Nat) (s : State) : Result :=
  routerCommand g off (fun s => fld (s.sget a).toNat 63 6 != 0) s fun S s =>
    let w := (s.sget a).toNat
    let array := { s with tiles := s.tiles.filter fun j => (portRun j.op j.w).isSome }
    if S < s.fr.t + 4 then s.lateStart S
    else if programAt s s.myClu S.toNat (s.fr.t + 1) s.fr.hnd || wordAt array s.myClu S.toNat then s.lateStart S
    else (s.push S.toNat (.rtGo (fld w 5 0) ((s.sget b).toNat % 2 ^ 32)) 2).noteEff S.toNat

/-- RT.GO at S: the program starts, unless what was not known at issue still holds the router. `s.fr` is the command's. -/
def routerGo (s : State) (entry rcnt : Nat) : State :=
  let clu := s.myClu
  let r := (s.clu clu).router
  let S := s.now s.fr.x s.fr.hnd
  if r.active || decide (S < r.endAt) || wordAt s clu S then
    s.raiseExec 7 (BitVec.ofNat 64 (s.fromAnchor S + s.fromAnchor s.fr.t * 2 ^ 32)) 0 S
  else
    s.updRouter clu fun r => { r with entry := entry, rcnt := rcnt, iter := 0, active := true, x := s.fr.x,
                                      hnd := s.fr.hnd, addr := s.fr.addr, slot := s.fr.slot, goT := s.fr.t, next := S, perfP := 0, endAt := S }

end Sys2Proof.Machine
end

