-- ==== Sys2Proof/Machine/Land.lean ====
section
/-! DEFINITION. Pending effects: what a landing and a perform do, and in which order those of one cycle come (04 R80,
07 R147, R155, 08 R172, R179, 15 R254). -/

namespace Sys2Proof.Machine

/-- Whether an effect performs at the end of its cycle; the others land at its start. -/
def Effect.performs : Effect → Bool
  | .store _ _ _ _ | .atom _ _ _ _ _ _ _ | .bits _ _ _ _ | .flag _ _ _ _ _ | .taint _ | .record _ _ _ _ _ | .amax _ _
  | .seedGen _ _ _ | .trig _ _ _ _ | .mxSum _ _ | .mxStep _ _ | .arrive _ | .flagIn _ _ _ | .poke _ _ _ _ | .trace _ _ | .writeBack _ _ => true
  | _ => false

/-- Whether a landing writes what a program can read, so that a freeze at its count takes it back; the others read what they
need, and go on. -/
def Effect.takenBack : Effect → Bool
  | .reg _ _ _ | .regAt _ _ _ _ | .load _ _ _ | .creg _ _ | .landMem _ _ _ _ | .flagsOr _ | .lpush _ _ | .lpop | .rset _ _
  | .publish _ _ _ | .pop _ _ => true
  | _ => false

/-- The order of the effects of one cycle. -/
def Eff.before (a b : Eff) : Bool := decide (a.pri < b.pri) || (a.pri == b.pri && decide (a.fr.ord ≤ b.fr.ord))

namespace State

/-- Whether an effect is due in the cycle in progress. -/
def due (s : State) (e : Eff) : Bool :=
  if e.wall ≠ 0 then decide (e.wall ≤ s.tide + 1)
  else s.clockRuns e.fr.x e.fr.hnd && decide (e.due ≤ s.now e.fr.x e.fr.hnd) && (e.run == 0 || decide (e.run ≤ s.clk e.fr.x e.fr.hnd))

/-- A register of the act in hand written. -/
def landReg (s : State) (l : Loc) (val mask : Gran) : State := s.writeReg s.fr.x s.fr.hnd s.fr.ord l val mask

/-- Bytes of the act in hand written; what the snapshot buffer held of them with an uncorrectable error stands with its parity failed (10
R231). -/
def landBytes (s : State) (key n val mask : Nat) : State :=
  let t := s.writeMem s.fr.who s.fr.hnd s.fr.ord key n val mask
  if s.soft.isEmpty then t
  else { t with soft := softHeld s.tide s.fr.who s.fr.hnd s.fr.ord (Spot.landsMem key n mask) t.soft }

/-- An entry of the undo log for the act in hand. -/
def keep (s : State) (old : Saved) : State := { s with undo := ⟨s.fr.x, s.fr.hnd, s.fr.ord, old, s.landMark⟩ :: s.undo }

/-- A SET takes effect (07 R143); one of SEED loads the generators (03 R58), and one of HLMTHR changes the depth of the meter at the next
multiple of 16,384 (21 R354). -/
def landCreg (s : State) (n : Nat) (v : Word) : State :=
  let x := s.fr.x
  let s := ((s.keep (.creg n (cregRead s x false n))).freshen fun p => p == .creg x n).updCtx x fun c => cregWrite c n v
  let s := { s with soft := softHeld s.tide x s.fr.hnd s.fr.ord (Spot.landsCreg x n) s.soft }
  let s := if n = 23 then s.timedAt ((s.tide / 16384 + 1) * 16384) (.allotmentUpdate (s.gangOf x).part) else s
  if n = 28 then (List.range 8).foldl (fun s k => s.landReg (.gen k) (seedSlice v k) allBits) s else s

/-- RSET takes effect (08 R173): claims pending at it lose their publication. -/
def landRset (s : State) (ring : Nat) (v : Word) : State :=
  let old := (s.ctx s.fr.x).ring ring
  (s.keep (.ring ring old false)).updCtx s.fr.x fun c => c.setRing ring (Ring.ofWord v)

/-- RPUSH claims and publishes a tile (08 R173). -/
def landPush (s : State) (ring : Nat) : State :=
  let x := s.fr.x
  match claimTile s x ring with
  | none => s.raiseExec 14 (BitVec.ofNat 64 ring) 0 (s.fr.t + 2)
  | some (_, id, s') =>
    (s'.keep (.ring ring ((s.ctx x).ring ring) true)).updCtx x fun c => c.setRing ring ((c.ring ring).publish id)

/-- DTLD reads its image (06 R126). -/
def landImage (s : State) (n key due : Nat) : State :=
  let img := s.mem.readN key 576
  if attrBad (imgBytes img 512 4) then s.chartFault 3 n 0 due
  else (List.range 8).foldl (fun s k =>
    s.push (due + 10 + k) (.landMem (chartKey (coreOf s.fr.x) k n) 576 img (allBytes 576))) s

/-- The record that LAUNCH reads (08 R184). -/
def readLaunch (s : State) (key : Nat) : State :=
  s.updMod fun m => { m with msgs := m.msgs.map fun e =>
    if e.kind = .launch ∧ e.x = s.fr.x ∧ e.fr.ord = s.fr.ord ∧ e.fr.hnd = s.fr.hnd then { e with data := s.mem.readN key 64 } else e }

/-- A loop level is pushed (08 R160). -/
def landPushLoop (s : State) (head n : Nat) : State :=
  let l := (s.ctx s.fr.x).lstk.length
  (s.keepLoop.freshen fun p => p == .creg s.fr.x (8 + l)).updCtx s.fr.x fun c => { c with lstk := c.lstk ++ [(head, n)] }

/-- Bytes of a latch, a chart, an image or another store of a core land. -/
def landStore (s : State) (key n val mask : Nat) : State :=
  ((s.keepBefore s.fr.x s.fr.hnd key n mask).landBytes key n val mask).clearMarks key n mask

end State

/-- Whether what an effect lands or performs holds a byte of the snapshot buffer. -/
def Effect.holds (a : Effect) (x : Nat) (hnd : Bool) (ord : Nat) (p : Spot) : Bool :=
  match p with
  | .held y h o l' b => y == x && h == hnd && o == ord && (match a with
    | .reg l _ m | .regAt _ l _ m => l' == l && m.toNat / 256 ^ b % 256 != 0
    | _ => false)
  | .heldMem y h o k => y == x && h == hnd && o == ord && (match a with
    | .landMem key n _ m | .store key n _ m => decide (key ≤ k ∧ k < key + n) && bit m (k - key)
    | _ => false)
  | .heldCreg y h o n' => y == x && h == hnd && o == ord && (match a with
    | .creg n _ => n' == n
    | _ => false)
  | _ => false

namespace State

/-- The correctable errors of the snapshot buffer that an effect meets as it lands are counted (10 R231). -/
def meetHeld (s : State) (e : Eff) : State :=
  if s.soft.isEmpty then s
  else
    let mine := fun (f : Soft) => f.corr && decide (f.at_ ≤ s.tide) && e.act.holds e.fr.x e.fr.hnd e.fr.ord f.spot
    (s.soft.filter mine).foldl (fun s _ => s.countSnap e.fr.x) { s with soft := s.soft.filter fun f => !mine f }

/-- The store of a berth word as FINFO of the poison-consumed fault names it (10 R218). -/
def wordStore (s : State) (key : Nat) : Nat :=
  if key / 2 ^ 64 % 16 = 1 then 1 else if key / 2 ^ 64 / 16 = coreOf s.fr.x then 0 else 2

/-- The cold address of a berth word as context `x` names it. -/
def coldAddr (x key : Nat) : Nat := ((storeEntry x key).map fun e => e.2.2).getD 0

/-- The poison-consumed fault of a berth word (08 R168, 10 R218), with its error record (10 R231): its store and cold address. -/
def poisonFault (s : State) (st key D : Nat) : State :=
  let a := coldAddr s.fr.x key
  (s.raiseExec 11 (BitVec.ofNat 64 st) (BitVec.ofNat 64 a) D).errorWord key st a

/-- The same with the store that the word lies in. -/
def wordFault (s : State) (key D : Nat) : State := s.poisonFault (wordStore s key) key D

/-- Whether an error has been found in an earlier slice of the slot in hand: none of its later ones lands (08 R168). -/
def slotBad (s : State) : Bool :=
  s.faults.any fun f => (f.code == 11 || f.code == 20) && f.x == s.fr.x && f.hnd == s.fr.hnd && f.t == s.fr.t && f.re == s.fr.re && f.slot == s.fr.slot

/-- A read of a slot's slice from memory, with `D` as the slot's last landing: `f` gets the state when no word is bad, and none stands
as the snapshot buffer left it with an uncorrectable error (10 R231). -/
def readChecked (s : State) (srcs : List (Nat × Nat × Nat)) (D : Nat) (f : State → State) : State :=
  if s.noMarks then f s
  else if srcs.any fun e => (s.failedByte e.1 e.2.1).isSome then s.softFault 7 0 0 0 true D
  else
    let ks := (srcs.flatMap fun e => wordsOf e.1 e.2.1).eraseDups
    match s.badWord ks with
    | some k => s.wordFault k D
    | none => if s.slotBad then s else f (s.meetWords ks)

/-- A read of `n` bytes that a slot makes as a whole, with `D` as its last count; a chart or routine image has store 5 (06
R126, 09 R199, 10 R218). -/
def readWhole (s : State) (image : Bool) (key n D : Nat) (f : State → State) : State :=
  if s.noMarks then f s
  else if (s.failedByte key n).isSome then s.softFault 7 0 0 0 true D
  else match s.badWord (wordsOf key n) with
    | some k => if image then s.poisonFault 5 k D else s.wordFault k D
    | none => f (s.meetWords (wordsOf key n))

/-- DTLD reads its image; one with an uncorrectable error leaves the chart (06 R126). -/
def landDtld (s : State) (n key due : Nat) : State := s.readWhole true key 576 due fun s => s.landImage n key due

/-- The count at which the last word of an RT.LD in hand, which reads one now at `due`, is in force (15 R267). -/
def rtEnd (s : State) (due : Nat) : Nat :=
  (s.pend.filter fun e => e.fr.x == s.fr.x && e.fr.hnd == s.fr.hnd && e.fr.ord == s.fr.ord).foldl (fun m e =>
    match e.act with
    | .rtLoad _ _ => Nat.max m (e.due + 4)
    | _ => Nat.max m e.due) (due + 4)

/-- A router load of a word at ITER lands; one that meets an uncorrectable error does not, and the router fails (15 R265, R268,
R275). -/
def landWload (s : State) (n key iter : Nat) : State :=
  let ks := if s.ecc.isEmpty then [] else wordsOf key 64
  match s.badWord ks with
  | some k => (routerFault s s.myClu 11 (coldAddr s.fr.x k) s.fr.bits s.fr.slot iter).errorPlace k (coldAddr s.fr.x k)
  | none => ((s.meetWords ks).freshen fun p => p == .wreg s.myClu n).updRouter s.myClu fun r =>
      { r with w := SMap.put 0 r.w n (BitVec.ofNat 512 (s.mem.readN key 64)) }

/-- The last landing count of a slot whose slice lands at `n`. -/
def lastLand (l : Loc) (n : Nat) : Nat :=
  match l with
  | .v _ k => n + (7 - k)
  | _ => n

/-- One effect lands. -/
def land (s : State) (e : Eff) : State :=
  let s := { s.meetHeld e with fr := e.fr }
  let x := e.fr.x
  match e.act with
  | .reg l v m => s.landReg l v m
  | .regAt y l v m => s.writeRegAt x e.fr.hnd e.fr.ord y l v m
  | .load l srcs m => s.readChecked srcs (lastLand l e.due) fun s => s.landReg l (BitVec.ofNat 512 (gatherNow s.mem srcs)) m
  | .fetch l srcs m at_ => s.readChecked srcs (lastLand l at_) fun s =>
      s.push at_ (.reg l (BitVec.ofNat 512 (gatherNow s.mem srcs)) m)
  | .creg n v => s.landCreg n v
  | .landMem key n v m => s.landStore key n v m
  | .flagsOr b => s.mergeFlags x b
  | .readFlag pp _ f n => Machine.readFlag s pp f n e.due
  | .lpush h n => s.landPushLoop h n
  | .lpop => s.keepLoop.updCtx x fun c => { c with lstk := c.lstk.dropLast }
  | .rset r v => s.landRset r v
  | .publish y r id => s.updCtx y fun c => c.setRing r ((c.ring r).publish id)
  | .pop y r => s.updCtx y fun c => c.setRing r (c.ring r).pop
  | .claimPush r => s.landPush r
  | .dtld n key => s.landDtld n key e.due
  | .mload n key => s.readWhole true key 64 e.due fun s => s.push (e.due + 2) (.landMem ((Place.routine (coreOf x)).key (64 * n)) 64 (routineForm s n (s.mem.readN key 64)) (allBytes 64))
  | .sld a key => s.readWhole false key 128 (e.due + 2) fun s => s.push (e.due + 2) (.landMem ((Place.scale (coreOf x)).key (128 * a)) 128 (s.mem.readN key 128) (allBytes 128))
  | .mxSample c id => callSample s c id
  | .scaleCap c id => captureScales s c id
  | .mxAcc c id lat => readAcc s c id lat
  | .mxLand c id => callLand s c id
  | .tissRead key => s.readWhole false key 32 e.due fun s => tissRead s key
  | .launchRead key => s.readWhole false key 64 e.due fun s => s.readLaunch key
  | .warmCheck id => warmCheck s id e.due
  | .tile id st => tileStep s id st
  | .rtLoad n key => s.readWhole false key 16 (s.rtEnd e.due) fun s => s.push (e.due + 4) (.rtForce n (s.mem.readN key 16))
  | .rtForce n w => (s.freshen fun p => p == .word s.myClu n).updRouter s.myClu fun r => { r with buf := SMap.put 0 r.buf n w }
  | .rtGo n c => routerGo s n c
  | .rtStop => routerStop s
  | .wreg n v m => (s.freshen fun p => p == .wreg s.myClu n).updRouter s.myClu fun r => { r with w := SMap.put 0 r.w n (mergeBits (SMap.get 0 r.w n) v m) }
  | .wload n key iter => s.landWload n key iter
  | _ => s

/-- The HBM granules with an uncorrectable error that a merge of `n` bytes at a key loses its data to are poisoned (18 R310). -/
def poisonLost (s : State) (key n : Nat) : State :=
  (((wordsOf key n).map fun k => k / 64).eraseDups.filter fun g => g * 64 / 2 ^ 64 == Place.hbm.code && s.granuleEcc g == 2).foldl poisonGranule s

/-- A store performs: a part of a berth word with an uncorrectable error is discarded, and its slot faults (08 R168); what is
written whole loses its poison (18 R310). A merge that another module's link brings and an HBM granule discards has the record of its bundle
and count, which its frame bears. -/
def performStore (s : State) (key n v m : Nat) : State :=
  let o := s.openBytes key n m
  let s' := ((s.countPart key n m).landBytes key n v o).clearMarks key n m
  if o = m then s'
  else if key / 2 ^ 64 = Place.hbm.code then
    (s'.poisonLost key n).errorRec (s.gangOf s.fr.x).part s.fr.addr 3 (coreOf s.fr.x) (s.fr.x % 4) (key % 2 ^ 64) s.fr.bits
  else match s.badWord (wordsOf key n) with
    | some k => s'.wordFault k (s.now s.fr.x s.fr.hnd)
    | none => s'

/-- An atomic performs: its old value lands later, with its flags, which never raise a fault (08 R174). -/
def performAtom (s : State) (op : AtomOp) (w : AtomW) (key : Nat) (b d : Word) (dst at_ : Nat) : State :=
  let n := atomBytes w
  let old := s.mem.readN key n
  s.readChecked [(key, n, 0)] at_ fun s =>
  let r := atomNew op w old (b.toNat % 2 ^ (8 * n)) (d.toNat % 2 ^ (8 * n))
  let s := (s.landBytes key n r.1 (allBytes n)).landS dst (atomOld w old) at_
  if r.2 = 0 then s else s.push at_ (.flagsOr r.2) 2

/-- `n` bits from bit `off` of a byte on written. -/
def performBits (s : State) (key off n v : Nat) : State :=
  let b := (off + n + 7) / 8
  let old := s.mem.readN key b
  let x := old % 2 ^ off + v % 2 ^ n * 2 ^ off + old / 2 ^ (off + n) * 2 ^ (off + n)
  s.landBytes key b x (allBytes b)

/-- A flag changes; a set names its setter (23 R389). -/
def performFlag (s : State) (f : FlagFile) (n : Nat) (set : Bool) (kind : Nat) : State :=
  let s := s.writeFlag s.fr.who s.fr.hnd s.fr.ord f n set
  if set then s.updMod fun m => { m with setters := SMap.put 0 m.setters (flagKey f n) (kind * 2 ^ 12 + s.fr.x % 4096 + 1) } else s

/-- Whether a slot of the bundle below the one in hand has not committed yet. -/
def lowerOpen (s : State) : Bool :=
  let o := s.fr.ord
  let low := fun (x : Nat) (hnd : Bool) (k : Nat) => x == s.fr.x && hnd == s.fr.hnd && bundleKey k == bundleKey o && decide (k < o)
  (s.pend.any fun e => low e.fr.who e.fr.hnd e.fr.ord) || (s.flight.any fun e => low e.x e.hnd e.act.fr.ord)
    || (s.faults.any fun f => low f.x f.hnd (f.t * 8 + (if f.re then 0 else 4) + f.slot))
    || (s.ctx s.fr.x).crossings.any fun k => low k.fr.x k.hnd k.ord

/-- A trigger of the slack wave takes effect once its slot has committed, at the latest where its wave is to freeze the job; that of a
BKPT which freezes its gang at the next count waits only for a fault that is taken there (22 R375, R376, log 61). -/
def performTrigger (s : State) (e : Eff) (cause code tide : Nat) (own : Bool) : State :=
  let x := e.fr.x
  let lower := fun (f : PendFault) => f.x == x && f.hnd == e.fr.hnd && f.t == e.fr.t && f.re == e.fr.re && decide (f.slot < e.fr.slot)
    && !f.bnd && decide (f.F ≤ s.now x e.fr.hnd + 1)
  let waits := if own then s.faults.any lower
    else s.lowerOpen && s.clockRuns x e.fr.hnd && decide (s.tide < tide + s.waveSkb (s.gangOf x).job)
  if waits then { s with pend := s.pend ++ [{ e with wall := s.tide + 2 }] } else s.triggerSlot cause code tide

/-- A write of the host or a pilot performs; what it loses to a granule with an uncorrectable error leaves that poisoned, and is recorded
(18 R310). -/
def performPoke (s : State) (key n val : Nat) (rep : Option (Nat × Nat)) : State :=
  let lost := s.openBytes key n (allBytes n) != allBytes n
  let s := if hostWrites (.poke key n val rep) then
      s.updMod fun m => { m with hostLog := ⟨key, n, s.mem.readN key n, allBytes n⟩ :: m.hostLog }
    else s.hostCover key n
  let s := ((s.countPart key n (allBytes n)).poke key n val).touch key n false
  if !lost then s
  else
    let s := s.poisonLost key n
    match rep with
    | some (p, who) => s.errorRec p 0 (storeCode key) 0 0 (key % 2 ^ 64) who
    | none => s

/-- A set from outside every program (08 R179): it comes after the clears of its cycle. -/
def performFlagIn (s : State) (f : FlagFile) (n setter : Nat) : State :=
  (s.setFlag f n true).updMod fun m => { m with setters := SMap.put 0 m.setters (flagKey f n) setter }

/-- A correctable error of a word or granule is gone, unless a write has taken it away before (08 R168, 17 R292, 18 R312). -/
def performWriteBack (s : State) (key n : Nat) : State :=
  { s with ecc := s.ecc.filter fun e => !(e.2 == 1 && decide (key ≤ 8 * e.1 ∧ 8 * e.1 < key + n)) }

/-- One effect performs; a flag set that waits, and what slots below may still take back, stay pending. -/
def perform (s : State) (e : Eff) : State :=
  let s := { s.meetHeld e with fr := e.fr }
  match e.act with
  | .store key n v m => (s.performStore key n v m).activate key
  | .atom op w key b d dst at_ => s.performAtom op w key b d dst at_
  | .bits key off n v => s.performBits key off n v
  | .flag f n set kind waits =>
    if waits && s.olderOpen e.fr then { s with pend := s.pend ++ [e] } else s.performFlag f n set kind
  | .taint key => s.poisonGranule (key / 64)
  | .trig cause code tide own => s.performTrigger e cause code tide own
  | .record en type ts0 tide ts3 =>
    if s.lowerOpen then { s with pend := s.pend ++ [e] } else s.traceAct en type ts0 tide ts3
  | .amax v ns => s.mergeAmax e.fr.x v ns
  | .seedGen k v m => s.landReg (.gen k) v m
  | .mxSum c id => callSum s c id
  | .mxStep c id => callStep s c id
  | .arrive id => arriveCxl s id
  | .flagIn f n k => s.performFlagIn f n k
  | .poke key n v rep => s.performPoke key n v rep
  | .trace job r => s.traceWrite job r
  | .writeBack key n => s.performWriteBack key n
  | _ => s

/-- One effect lands, and what a freeze at its count would take back is noted. -/
def landNoted (s : State) (e : Eff) : State :=
  let y := landsIn e
  let c := s.ctx y
  let r : Ring := match e.act with
    | .publish _ r _ | .pop _ r => c.ring r
    | _ => {}
  let t := s.land e
  if e.act.takenBack && !e.fr.hnd then { t with landed := ⟨e, y, c.psw, r⟩ :: t.landed } else t

/-- The landings of a cycle. -/
def landings (s : State) : State :=
  let p := s.pend.partition fun e => !e.act.performs && s.due e
  (sortBy Eff.before p.1).foldl landNoted { s with pend := p.2, landed := [] }

/-- A flag merge, a publication or a pop taken back; other landings come back from the undo log. Of the flags merged, those go that
PSW did not hold before the cycle's first landing in its context, which is the last of `l`. -/
def unlandOne (l : List Landed) (s : State) (n : Landed) : State :=
  match n.eff.act with
  | .flagsOr b =>
    let psw := (((l.filter fun e => e.y == n.y).getLast?).map fun e => e.psw).getD n.psw
    s.updCtx n.y fun c => { c with psw := c.psw &&& ~~~(BitVec.ofNat 64 (b * 16) &&& ~~~psw) }
  | .publish y r id => s.updCtx y fun c =>
      let k := c.ring r
      let gone := n.ring.claims.length - (n.ring.publish id).claims.length
      c.setRing r { k with
        claims := n.ring.claims.take gone ++ k.claims.map (fun e => if e.2.1 = id then (e.1, id, false) else e)
        count := k.count - gone }
  | .pop y r => s.updCtx y fun c => c.setRing r { c.ring r with head := n.ring.head, count := (c.ring r).count + (if n.ring.count = 0 then 0 else 1) }
  | _ => s

/-- A freeze at the count in progress: the members' landings of that count are held until the gang resumes (07 R153, 10 R224,
log 18). -/
def unland (s : State) (members : List Nat) : State :=
  let mine := s.landed.filter fun n => members.contains n.eff.fr.x
  if mine.isEmpty then s
  else
    let r := revert (fun u => u.land == s.tide + 1 && !u.hnd && members.contains u.x) s.undo [] s
    let t := mine.foldl (unlandOne mine) { r.1 with undo := r.2 }
    { t with landed := t.landed.filter fun n => !members.contains n.eff.fr.x
             pend := mine.reverse.map (fun n => n.eff) ++ t.pend }

/-- Whether anything of a bundle is still to come, so that a fault could take back what it did. -/
def bundleOpen (s : State) (x : Nat) (hnd : Bool) (b : Nat) : Bool :=
  let is := fun (y : Nat) (h : Bool) (k : Nat) => y == x && h == hnd && bundleKey k == b
  (s.pend.any fun e => is e.fr.who e.fr.hnd e.fr.ord) || (s.flight.any fun e => is e.x e.hnd e.act.fr.ord)
    || (s.timed.any fun e => e.act.fr.bits != 0 && is e.act.fr.x e.act.fr.hnd e.act.fr.ord)
    || (s.faults.any fun f => is f.x f.hnd (f.t * 8 + (if f.re then 0 else 4) + f.slot))

/-- What a context keeps past its use at the end of a cycle: commands whose last access is past, charges of what is over, and what its
slots in flight at a handled fault read. -/
def tidyCtx (s : State) (x : Nat) (c : Ctx) : Ctx :=
  let done := c.handler.isNone && !(s.flight.any fun e => e.x == x && e.act.fr.old != 0) && !(s.pend.any fun e => e.fr.x == x && e.fr.old != 0)
  { c with
    commands := c.commands.filter fun k =>
      !(decide (k.slots.length ≤ k.next) && decide (k.last ≤ s.clk x k.hnd) && s.clockRuns x k.hnd)
    charges := c.charges.filter fun h => s.bundleOpen x h.1 (bundleKey h.2.1)
      || (c.crossings.any fun k => k.fr.x == x && k.hnd == h.1 && bundleKey k.ord == bundleKey h.2.1)
      || c.commands.any fun k => k.hnd == h.1 && bundleKey k.ord == bundleKey h.2.1
    past := if done then [] else c.past }

/-- Records that have served, at the end of a cycle: undo entries older than every bundle with something to come, tile words that have
ended, and what contexts keep. -/
def tidy (s : State) : State :=
  let s := { s with undo :=
    (s.undo.reverse.dropWhile fun (u : Undo) => !(s.bundleOpen u.x u.hnd (bundleKey u.ord))).reverse }
  let s := { s with tiles := s.tiles.filter fun j => match j.done with
    | some d => decide (s.now j.fr.x j.fr.hnd < d) && s.clockRuns j.fr.x j.fr.hnd
    | none => true }
  let cs : SMap Ctx := s.ctxs.map fun e => (e.1, s.tidyCtx e.1 e.2)
  { s with ctxs := cs }

/-- Whether an effect is a trace record, which waits for the end of its cycle. -/
def isTrace (e : Eff) : Bool := match e.act with | .trace _ _ => true | _ => false

/-- The performs of a cycle, at its end: those of programs, engines, the capacity tier, the host and the pilots, and then what these
have given rise to. -/
def performs (s : State) : State :=
  let p := s.pend.partition fun e => e.act.performs && !isTrace e && s.due e
  let s := (sortBy Eff.before p.1).foldl perform { s with pend := p.2 }
  let q := s.pend.partition fun e => e.wall != 0 && !isTrace e && decide (e.wall ≤ s.tide + 1)
  ((sortBy Eff.before q.1).foldl perform { s with pend := q.2 }).tidy

/-- The trace records of a cycle that is over (23 R384). -/
def flushTrace (s : State) : State :=
  let p := s.pend.partition isTrace
  (sortBy Eff.before p.1).foldl perform { s with pend := p.2 }

end State

end Sys2Proof.Machine
end

