-- ==== Sys2Proof/Machine/Issue.lean ====
section
/-! DEFINITION. The issue of a bundle: the fetch, the resource check, the interlock, breakpoints, the meter and the
watchdog (02 R38 to R40, 07 R152, 08 R158, 10 R226, R229, R232, 23 R392). -/

namespace Sys2Proof.Machine

/-! ### What a bundle crosses (07 R152, 08 R183) -/

/-- The guard and the charge of a slot that crosses or commands an engine. -/
def crossCharge : Instr → Option (Guard × Nat)
  | .xin g _ _ z => some (g, 8 * crossBytes z)
  | .xout g _ _ z => some (g, 32 * crossBytes z)
  | .xinm g _ _ _ _ => some (g, 4096)
  | .xinr g _ _ z => some (g, 8 * crossBytes z)
  | .xina g _ _ => some (g, 32768)
  | .xouta g _ _ => some (g, 131072)
  | .launch g _ => some (g, 2048)
  | .sys g _ _ _ => some (g, 576)
  | .ceLd g _ _ _ | .ceSt g _ _ _ | .ceAl g _ _ _ | .ceAs g _ _ _ | .ceGth g _ _ _ | .ceFil g _ _ _ | .bxSend g _ _ _
  | .bxPost g _ _ _ | .ceCxlToQuay g _ _ _ | .ceCxlToTier g _ _ _ => some (g, 256)
  | _ => none

/-- The charge of a staged slot: nothing when its guard is false, and nothing where the context holds no slot (15 R258). -/
def slotCharge (s : State) : Staged → Nat
  | .bad _ => 0
  | .run a =>
    match crossCharge a.i with
    | none => 0
    | some (g, wb) =>
      if { s with fr := a.fr }.onceGuard g && (s.ctx a.fr.x).lk != 0 then wb else 0

/-- The order key of a staged slot. -/
def Staged.ord : Staged → Nat
  | .run a => a.fr.ord
  | .bad f => f.ord

/-! ### The interlock (10 R232) -/

/-- The registers that an instruction reads: n for scalar n, 32 + n for physical vector register n. -/
def usesOf (rbv : Nat) (i : Instr) : List Nat :=
  let v := fun (r : Nat) => 32 + physV rbv r
  match i with
  | .bri _ a | .loop _ a _ | .set _ a _ | .launch _ a | .tiss _ a | .sys _ a _ _ | .clz _ _ a | .popc _ _ a | .mov _ _ a
  | .addi _ _ a _ | .vld _ _ a _ | .lds _ _ a _ | .rset _ _ a | .dtld _ _ a _ | .mset _ _ a | .mload _ _ a | .sld _ _ a _
  | .vbc _ _ _ a | .ceCxlToQuay _ _ a _ | .ceCxlToTier _ _ a _ => [a]
  | .ret _ => [31]
  | .lih _ d _ => [d]
  | .add _ _ a b | .sub _ _ a b | .mul _ _ a b | .mulh _ _ _ a b | .and _ _ a b | .or _ _ a b | .xor _ _ a b | .andn _ _ a b
  | .shl _ _ a b | .shr _ _ a b | .sra _ _ a b | .min _ _ _ a b | .max _ _ _ a b | .cmp _ _ _ a b | .vlds _ _ a b
  | .ceLd _ a b _ | .ceSt _ a b _ | .ceAl _ a b _ | .ceAs _ a b _ | .ceGth _ a b _ | .ceFil _ a b _ | .rtLd _ a b _
  | .rtGo _ a b _ | .bxSend _ a b _ | .bxPost _ a b _ => [a, b]
  | .sel _ _ a b c => [a, b, c]
  | .sts _ d a _ => [d, a]
  | .atom _ _ _ d a b => [d, a, b]
  | .vst _ d a _ => [v d, a]
  | .vldx _ _ a b => [a, v b]
  | .vstx _ d a b => [v d, a, v b]
  | .vmad _ _ _ d a b | .vdot4 _ _ _ d a b => [v d, v a, v b]
  | .pack _ _ _ d a => [v d, v a]
  | .vadd _ _ _ _ a b | .vsub _ _ _ _ a b | .vmul _ _ _ _ a b | .vmulh _ _ _ a b | .vmin _ _ _ a b | .vmax _ _ _ a b
  | .vand _ _ a b | .vor _ _ a b | .vxor _ _ a b | .vandn _ _ a b | .vshl _ _ _ _ a b | .vshr _ _ _ a b | .vsra _ _ _ a b
  | .fadd _ _ _ _ a b | .fsub _ _ _ _ a b | .fmul _ _ _ _ a b | .fmin _ _ _ a b | .fmax _ _ _ a b | .fcps _ _ _ a b
  | .vcmp _ _ _ _ a b | .fcmp _ _ _ _ a b | .vsel _ _ a b _ | .zip2 _ _ _ a b | .uzp2 _ _ _ a b | .perm _ _ _ a b
  | .dtx _ _ _ a b | .dtc _ _ _ a b => [v a, v b]
  | .fma _ _ _ _ a b c | .fms _ _ _ _ a b c | .fnma _ _ _ _ a b c => [v a, v b, v c]
  | .vabs _ _ _ _ a | .vneg _ _ _ _ a | .vclz _ _ _ a | .vpopc _ _ _ a | .vmov _ _ a | .vred _ _ _ _ _ a | .fabs _ _ _ a
  | .fneg _ _ _ a | .frcp _ _ _ _ a | .frsq _ _ _ _ a | .fsqrt _ _ _ _ a | .fexp2 _ _ _ _ a | .flog2 _ _ _ _ a
  | .ftanh _ _ _ _ a | .fcls _ _ _ a | .fred _ _ _ _ _ a | .cvt _ _ _ _ _ a | .cvtSat _ _ _ _ _ a | .cvtb _ _ _ _ _ _ a
  | .cvtg _ _ a | .seedFromVector _ a | .unpk _ _ _ _ a | .slide _ _ a _ | .drv _ _ a | .xcp _ _ _ a | .dtu _ _ _ a
  | .dts _ _ a | .xout _ a _ _ | .mpsh _ a _ _ | .trn _ a _ => [v a]
  | .zip3 _ _ _ a | .uzp3 _ _ _ a => [v a, v (a + 1), v (a + 2)]
  | .zip4 _ _ _ a | .uzp4 _ _ _ a => [v a, v (a + 1), v (a + 2), v (a + 3)]
  | _ => []

/-- A slot as its reads see it: a DTC on a one-input chart reads one register (06 R129). `k` is the slice whose chart copy says so. -/
def oneInput (s : State) (k : Nat) : Instr → Instr
  | .dtc g n pp a b => if attrAr (chartAttr s (coreOf s.fr.x) k n) then .dtc g n pp a b else .dtu g n a a
  | i => i

/-- The same of a staged slot. -/
def Staged.oneInput (s : State) : Staged → Staged
  | .run a => .run { a with i := Machine.oneInput { s with fr := a.fr } 0 a.i }
  | t => t

/-- Whether the interlock holds a bundle due at count `u`: it reads a register of an own-berth load issued four counts
or more ago that has not landed. Handler and program each meet their own loads, in their own counts. -/
def ciHolds (c : Ctx) (hnd : Bool) (u : Nat) (k : Nat) (slots : List Staged) : Bool :=
  c.psw.getLsbD 10 && slots.any fun t =>
    match t with
    | .bad _ => false
    | .run a => (usesOf a.fr.rbv a.i).any fun r => (if hnd then c.ciLoadsH else c.ciLoads).any fun l => l.1 == r && decide (l.2.1 + 4 ≤ u ∧ k < l.2.2)


/-! ### Slots of a bundle (02 R21 to R27, R40) -/

/-- Slot `n` of a bundle staged with the frame `base`; none for a null slot and for a header in slot 0, whose guard field must
be 0 (02 R26). -/
def stageSlot (base : Frame) (b n : Nat) : Option Staged :=
  let w := bundleSlot b n
  if nullSlot w || (n == 0 && isHeader w && fld w 31 27 == 0) then none
  else
    let fr := { base with slot := n, bits := w }
    match decodeSlot w (slotExt b n) (slotLent b n) with
    | some i => some (if i.legal then .run ⟨i, fr⟩ else .bad fr)
    | none => some (.bad fr)

/-- The slots of a bundle from slot `from_` on. -/
def stageSlots (base : Frame) (b from_ : Nat) : List Staged :=
  ([0, 1, 2, 3].filter fun n => decide (from_ ≤ n)).filterMap (stageSlot base b)

namespace State

/-- The bundle at address `pc` of a core's store. -/
def bundleAt (s : State) (core pc : Nat) : Nat := s.mem.readN ((Place.bundles core).key (16 * pc)) 16

/-- Charges of the slots of a bundle debited and noted, so that a cancelled slot is credited (07 R152). `look` is the state in
which the guards are read. -/
def chargeSlots (s : State) (x : Nat) (hnd : Bool) (look : State) (slots : List Staged) : State :=
  slots.foldl (fun s t =>
    let wb := slotCharge look t
    if wb = 0 then s
    else (s.updGang (s.ctx x).gang fun g => g.debit wb).updCtx x fun c => { c with charges := c.charges ++ [(hnd, t.ord, wb)] }) s

/-- An owned issue cycle in which a context retires no bundle with a slot (10 R229). -/
def watchdogTick (s : State) (x : Nat) : State :=
  let c := s.ctx x
  let lim := c.wdog.toNat % 2 ^ 32 * 1024
  let s := s.setCtx x { c with wcnt := c.wcnt + 1 }
  if lim ≠ 0 ∧ c.wcnt + 1 = lim then { s with agenda := s.agenda ++ [⟨.watchdogExpiry x, { x := x }⟩] } else s

/-- A cycle in which the handler of a context is held: its count does not advance (10 R224). -/
def holdHandler (s : State) (x : Nat) : State :=
  s.updCtx x fun c => { c with handler := c.handler.map fun h =>
    let h := { h with held := some (h.held.getD s.tide) }
    if h.cnt = 0 then { h with start := s.tide + 1 } else { h with cnt := h.cnt - 1 } }

/-- Whether a held handler stays held: it goes on, as a gang does, a multiple of 4,096 counts after it stopped, so that its crossings
keep their slots (07 R149, R153, log 88). -/
def handlerHeld (s : State) (x : Nat) : Bool :=
  ((s.ctx x).handler.bind fun h => h.held).any fun T => (s.tide - T) % (4096 * (s.gangOf x).pace) != 0

/-- A bundle of a handler that the interlock holds: a null bundle takes its count, and it comes one count later, with the transfers
whose delay bundles are still to issue (08 R158, 10 R232). -/
def delayHandler (s : State) (x : Nat) : State := s.updCtx x fun c => { c with xfers := c.xfers.map fun e => (e.1 + 1, e.2) }

/-- What the issue of a bundle costs: its charges, an owned issue cycle of its gang, and the watchdog (07 R152, 20 R342, 10
R229). -/
def payIssue (s : State) (x : Nat) (hnd : Bool) (look : State) (slots : List Staged) : State :=
  let s := s.chargeSlots x hnd look slots
  let s := s.updGang (s.ctx x).gang fun g => { g with deficit := if g.dock then g.deficit else g.deficit - 1 }
  if slots.isEmpty then s.watchdogTick x else s.updCtx x fun c => { c with wcnt := 0 }

/-- Whether a context can use the issue slot of its core: its gang runs and its task has more bundles, or its handler issues (07
R154). -/
def ready (s : State) (x : Nat) : Bool :=
  let c := s.ctx x
  c.resident && (match c.handler with
    | some h => h.live
    | none => c.ended.isNone && !c.noIssue && (s.gang c.gang).run == .running)

/-- Whether a context issues in this cycle: it holds the slot of its core and can use it, and the clock of its core runs. -/
def issues (s : State) (x : Nat) : Bool :=
  let c := s.ctx x
  s.ready x && (s.core (s.slotKey x)).holder == some (x % 4) && (match c.handler with
    | some h => decide (h.start ≤ s.tide) && s.clockRuns x true
    | none => true) && (!(s.gang c.gang).dock || s.tide % 2048 == 0)

/-- Whether a re-entry bundle of a context has still to issue (10 R226); one of a fault that no handler took comes with the
resume of the slack wave (10 R225). -/
def reentWaits (s : State) (x : Nat) : Bool :=
  let c := s.ctx x
  match c.reent with
  | some r => r.out.isEmpty
  | none => c.faulted && (s.gang c.gang).served.contains .slack && (match c.resume with | some r => r.re | none => false)

end State

/-- The slots of a re-entry bundle: slots SR to 3 of the faulting bundle with its captured bases, timed from F (10 R226). -/
def reentrySlots (s : State) (x : Nat) (r : Resume) : List Staged :=
  let c := s.ctx x
  let fr : Frame := { x := x, t := s.now x false, re := true, addr := r.reAddr, rbv := r.rbv, rbp := r.rbp, fmask := c.fmask.toNat,
                       allot := some c.allot, pre := !r.out.isEmpty }
  stageSlots fr (s.bundleAt (coreOf x) r.reAddr) (c.psw.toNat % 4)

/-- A GET of a re-entry bundle returns what its register held in cycle G - 1. -/
def readAhead (out : List Word) : Staged → Staged
  | .run ⟨.get g d n, fr⟩ =>
    match (runRegs.zip out).find? fun e => e.1 == n with
    | some e => .run ⟨.get g d n, { fr with cap := e.2 }⟩
    | none => .run ⟨.get g d n, fr⟩
  | t => t

/-- The issue of a re-entry bundle in cycle G - 1 (10 R226, 14 R249): it is admitted, charged and counted there; its slots, timed
from F, run before the bundle of count F. One that the meter does not admit makes the gang wait further (07 R152). -/
def reentryIssue (s : State) (x : Nat) : State :=
  let s := if (s.ctx x).faulted then (s.faultReturn x).updCtx x fun c => { c with faulted := false } else s
  match (s.ctx x).reent with
  | none => s
  | some r =>
    let gi := (s.ctx x).gang
    let g := s.gang gi
    -- the guards as the landings of count F will leave them
    let look := (s.setGang gi { g with run := .running }).landings
    let slots := reentrySlots s x r
    let C := if g.dock then 0 else (slots.map (slotCharge look)).foldl (· + ·) 0
    if !g.admits (s.ctx x).hlmthr.toNat C then s.join gi (.meter x C)
    else
      let s := s.payIssue x false look slots
      s.updCtx x fun c => { c with reent := some { r with out := runRegs.map fun n => cregRead s x false n } }

/-- The slots of the re-entry bundle run at count F, before the bundle of that count. -/
def reentry (s : State) (x : Nat) (r : Resume) : State :=
  let slots := reentrySlots s x r
  let s := s.updCtx x fun c => { c with reent := none }
  let s := if r.out.isEmpty then s.payIssue x false s slots else s
  { s with staged := slots.map (readAhead r.out), agenda := ⟨.bundleIssue x, { x := x }⟩ :: s.agenda }

/-- The address of the next fetch (08 R158): the target of a transfer that falls due, else the sequencer's. -/
def fetchPc (c : Ctx) (u : Nat) : Nat :=
  ((c.xfers.filter fun e => decide (e.1 ≤ u)).getLast?.map fun e => e.2).getD c.pc

/-- The breakpoint that a bundle address meets (23 R392). -/
def hitBreak (c : Ctx) (pc : Nat) : Option Nat :=
  if c.bpPass then none else (List.range 4).find? fun i => SMap.get none c.bps i == some pc

/-- A breakpoint is a trigger of the slack wave with cause 16 (23 R392). -/
def breakTrigger (s : State) (idx : Nat) : State :=
  let x := s.fr.x
  let f : PendFault := ⟨x, false, s.fr.t, s.fr.t, false, 0, s.fr.addr, 16, BitVec.ofNat 64 (2 ^ 11 + idx * 2 ^ 12), 0, true,
    s.fr.rbv, s.fr.rbp⟩
  let s := s.updCtx x fun c => { c with wave := some f, bpPass := true }
  s.triggerCtx x s.fr.addr 16 0 s.fr.t s.tide

/-- A bundle issues: its charges are debited, the sequencer moves on, and its slots are staged. -/
def issueSlots (s : State) (slots : List Staged) : State :=
  let x := s.fr.x
  let hnd := s.fr.hnd
  let s := s.payIssue x hnd s slots
  let c := s.ctx x
  let open_ := fun (l : List (Nat × Nat × Nat)) => l.filter fun e => decide (s.clk x hnd < e.2.2)
  let s := s.setCtx x { c with
    lastT := s.tide + 1
    lastA := s.fr.addr
    pc := if c.lb && c.skip != 0 then (c.lstk.getLast?.map fun e => e.1).getD (s.fr.addr + 1) else s.fr.addr + 1
    xfers := c.xfers.filter fun e => !decide (e.1 ≤ s.fr.t)
    lb := false
    skip := 0
    bpPass := false
    handler := c.handler.map (fun h : Handler => { h with held := none })
    ciLoads := if hnd then c.ciLoads else open_ c.ciLoads
    ciLoadsH := if hnd then open_ c.ciLoadsH else c.ciLoadsH }
  { s with staged := slots }

/-- The meter's part of an issue (07 R152): a bundle that is not admitted pauses a gang on one core at its own count,
holds a handler, and asks a wider gang to pause. -/
def meterIssue (s : State) (slots : List Staged) : State :=
  let x := s.fr.x
  let g := s.gangOf x
  let C := if g.dock then 0 else (slots.map (slotCharge s)).foldl (· + ·) 0
  if g.admits (s.ctx x).hlmthr.toNat C then issueSlots s slots
  else if s.fr.hnd then s.holdHandler x
  else if g.oneCore then s.request (s.ctx x).gang s.fr.t (.meter x C)
  else issueSlots (s.request (s.ctx x).gang (s.fr.t + g.skb) (.meter x C)) slots

/-- A fetched bundle: the checks in order, then its issue. Slots that a resume leaves out count as null slots (10 R226). -/
def issueBundle (s : State) (b : Nat) : State :=
  let x := s.fr.x
  let c := s.ctx x
  let slots := stageSlots s.fr b c.skip
  let ovr := resourceOver (b / 2 ^ (32 * c.skip) * 2 ^ (32 * c.skip))
  if ovr ≠ 0 then s.raiseIssue 2 (BitVec.ofNat 64 ovr)
  else if ciHolds c s.fr.hnd s.fr.t (s.clk x s.fr.hnd) (slots.map (Staged.oneInput s)) then
    if s.fr.hnd then s.delayHandler x
    else (s.updGang c.gang fun g => { g with sch := g.sch - 1 }).updCtx x fun c => { c with ciHold := c.ciHold + 1 }
  else meterIssue s slots

/-- Whether a context's bundle of count F issued before its gang froze there, for a fault or a pause of another context that
issues in the same cycle (07 R153, log 13). -/
def issuedAtF (s : State) (x : Nat) : Bool :=
  let g := s.gangOf x
  decide (g.sch = g.F ∧ g.TF < s.tide ∧ (s.ctx x).lastT = g.TF + 1)

/-- BUNDLE_ISSUE (08 R158, 02 R38 to R40): the context's next bundle is fetched and issues, unless something holds it. A re-entry
bundle that waits comes first (10 R226). -/
def execBundleIssue (x : Nat) (s : State) : Result :=
  let c := s.ctx x
  let g := s.gangOf x
  if g.run == .frozen && g.G == some (s.tide + 1) && s.reentWaits x then .next (reentryIssue s x)
  else match (if c.handler.isNone && g.run == .running then c.reent else none) with
  | some r => .next (reentry { s with fr := { x := x, t := s.now x false } } x r)
  | none =>
    if !s.issues x then .next s
    else
      let hnd := c.handler.isSome
      let u := s.now x hnd
      let s := { s with fr := { x := x, hnd := hnd, t := u } }
      if !hnd && issuedAtF s x then .next s
      else if !hnd && decide (u < c.nullTo) then .next (s.watchdogTick x)
      else if hnd && (s.handlerHeld x || c.hwait.any c.nonstatic.contains) then .next (s.holdHandler x)
      else
        let pc := fetchPc c u
        let s := { s with fr := { s.fr with addr := pc, rbv := c.rbv, rbp := c.rbp, fmask := c.fmask.toNat, allot := some c.allot } }
        if !c.bundleIn pc then .next (s.privilege 1)
        else match (if hnd then none else hitBreak c pc) with
          | some i =>
            let s := breakTrigger s i
            .next (if (s.gangOf x).oneCore then s.request c.gang u .slack else issueBundle s (s.bundleAt (coreOf x) pc))
          | none => .next (issueBundle s (s.bundleAt (coreOf x) pc))

end Sys2Proof.Machine
end

