-- ==== Sys2Proof/Machine/Soft.lean ====
section
/-! DEFINITION. Failed parity met by slots and router operations: what each reads, and the cold-soft-error fault (02 R24, 04 R85, 05
R91, 06 R137, 09 R192, 10 R231, 15 R268, log 9). -/

namespace Sys2Proof.Machine

/-- A byte that a slot reads, and what FINFO says of it when its parity has failed (10 R231). -/
structure Rd where
  spot  : Spot
  file  : Nat
  num   : Nat
  lane  : Nat
  slice : Nat
  deriving DecidableEq, Repr

/-- Bytes `bs` of a register of context `x`. -/
def regReads (x file num slice : Nat) (l : Loc) (lane : Nat → Nat) (bs : List Nat) : List Rd :=
  bs.map fun b => ⟨.reg x l b, file, num, lane b, slice⟩

/-- A whole scalar register, read once. -/
def scalarReads (x r : Nat) : List Rd := if r = 0 then [] else regReads x 4 r 0 (.s r) (fun _ => 0) (List.range 8)

/-- The lanes of `on` in slice `k` of physical vector register `r`. -/
def vecReads (x r k : Nat) (on : Nat → Bool) : List Rd :=
  regReads x 0 r k (.v r k) (fun b => b / 4) ((List.range 64).filter fun b => on (b / 4))

/-- The bytes `bs` of slice `k` of physical predicate `p`; p0 and p1 are no storage. FINFO names the first lane of a failed byte (log 9). -/
def predReads (x p k : Nat) (bs : List Nat) : List Rd := if p < 2 then [] else regReads x 1 p k (.p p k) (fun b => 8 * b) bs

/-- The lowest lane from `l` on, of `n`, that is on; `l` where none is. -/
def lowOn (on : Nat → Bool) (l n : Nat) : Nat := (((List.range n).map fun i => l + i).find? on).getD l

/-- Whether the elements of a slot are 64 bits wide, so that lane pairs follow the even lane's guard (05 R90). -/
def wideElems : Instr → Bool
  | .vadd _ t _ _ _ _ | .vsub _ t _ _ _ _ | .vmul _ t _ _ _ _ | .vmad _ t _ _ _ _ | .vshl _ t _ _ _ _ | .vred _ t _ _ _ _ => t.width == 64
  | .vmulh _ t _ _ _ | .vmin _ t _ _ _ | .vmax _ t _ _ _ | .vshr _ t _ _ _ | .vsra _ t _ _ _ | .vabs _ t _ _ _ | .vneg _ t _ _ _ => t.width == 64
  | .vclz _ t _ _ | .vpopc _ t _ _ | .vcmp _ t _ _ _ _ | .fcmp _ t _ _ _ _ => t.width == 64
  | .fadd _ f _ _ _ _ | .fsub _ f _ _ _ _ | .fmul _ f _ _ _ _ | .fma _ f _ _ _ _ _ | .fms _ f _ _ _ _ _ | .fnma _ f _ _ _ _ _ => f == .f64
  | .fmin _ f _ _ _ | .fmax _ f _ _ _ | .fcps _ f _ _ _ | .fred _ f _ _ _ _ => f == .f64
  | .fabs _ f _ _ | .fneg _ f _ _ | .fcls _ f _ _ => f == .f64
  | .frcp _ f _ _ _ | .frsq _ f _ _ _ | .fsqrt _ f _ _ _ | .fexp2 _ f _ _ _ | .flog2 _ f _ _ _ | .ftanh _ f _ _ _ => f == .f64
  | .cvt _ a b _ _ _ | .cvtSat _ a b _ _ _ => a.width == 64 || b.width == 64
  | _ => false

/-- Whether a slot reads its guard in every lane of every slice (02 R24). -/
def perLane (i : Instr) (bits : Nat) : Bool :=
  let m := fld bits 26 21
  majorClass m == some .v || m == 0x28 || m == 0x29 || m == 0x2A || m == 0x3B || (match i with
    | .dtx _ _ _ _ _ | .dtu _ _ _ _ | .dtc _ _ _ _ _ | .dts _ _ _ | .dtz _ _ | .dtq _ _ _ => true
    | .vld _ _ _ _ | .vst _ _ _ _ | .vlds _ _ _ _ | .vldx _ _ _ _ | .vstx _ _ _ _ => true
    | _ => false)

/-- Whether a per-lane slot reads the guards of all slices at issue (02 R24). -/
def guardsAtIssue : Instr → Bool
  | .vld _ _ _ _ | .vst _ _ _ _ | .vlds _ _ _ _ | .vldx _ _ _ _ | .vstx _ _ _ _ | .cvtb _ _ _ _ _ _ _ | .cvtg _ _ _ => true
  | _ => false

/-- The vector register that a slot reads whole at issue, in the guarded lanes of every slice. -/
def wholeUse : Instr → Option Nat
  | .vldx _ _ _ b | .vstx _ _ _ b => some b
  | .cvtb _ _ _ _ _ _ a | .cvtg _ _ a => some a
  | _ => none

/-- The predicates that a slot reads as operands. -/
def predUses : Instr → List Nat
  | .pand _ _ a b | .por _ _ a b | .pxor _ _ a b => [a, b]
  | .pnot _ _ a | .pmov _ _ a | .pcnt _ _ a => [a]
  | .vsel _ _ _ _ p => [p]
  | _ => []

/-- The entries of a chart that a walk meets, by their indexes, up to an invalid one (06 R129). -/
def walkEntries (entry : Nat → Nat) (ar : Bool) (w x y : Nat) : List Nat → Nat → List Nat
  | [], _ => []
  | j :: js, st =>
    let a := x / 2 ^ (w * j) % 2 ^ w
    let b := if ar then y / 2 ^ (w * j) % 2 ^ w else 0
    let i := if ar then st * 16 + a * 4 + b else st * 8 + a
    i :: (if bit (entry i) 15 then walkEntries entry ar w x y js (fld (entry i) 14 11) else [])

/-- Bytes `off` to `off + n - 1` of chart slot `c` in slice `k`, read by a lane. -/
def chartBytes (core k c lane off n : Nat) : List Rd :=
  (List.range n).map fun i => ⟨.mem (chartKey core k c + off + i), 6, c, lane, k⟩

namespace State

/-- The attribute bytes of a chart that a slot reads in slice `k` where a lane is on: none of a chart outside its allotment (06 R129,
R132, R133). -/
def attrReads (s : State) (k c : Nat) (on : Nat → Bool) : List Rd :=
  if (List.range 16).any on && ((s.ctx s.fr.x).asIssued s.fr).chartIn c then chartBytes (coreOf s.fr.x) k c (lowOn on 0 16) 512 4 else []

/-- The chart bytes that the walks of slice `k` read, where a lane is on: a chart fault of KIND 2, 3 or 4 comes before the entries (06
R129, R137). -/
def walkReads (s : State) (k c a b : Nat) (arity : Option Bool) (on : Nat → Bool) : List Rd :=
  let core := coreOf s.fr.x
  let attr := chartAttr s core k c
  let va := granE 32 (s.vget a k)
  let vb := granE 32 (s.vget b k)
  let st := dsrStates s k
  let w := attrW attr
  let lanes := (List.range 16).filter on
  if lanes.isEmpty then []
  else
    s.attrReads k c on ++ (if (chartCheck ((s.ctx s.fr.x).asIssued s.fr) attr c arity).isSome then [] else lanes.flatMap fun l =>
      (walkEntries (chartEntry s core k c) (attrAr attr) w (va.getD l 0) (vb.getD l 0) (walkOrder (attrDir attr) (digits w)) (st.getD l 0)).flatMap
        fun i => chartBytes core k c l (2 * i) 2)

/-- The DSR states of slice `k` whose lanes are on: two lanes share a byte. -/
def dsrReads (s : State) (k : Nat) (on : Nat → Bool) : List Rd :=
  regReads s.fr.x 2 0 k (.dsr k) (fun b => lowOn on (2 * b) 2) ((List.range 8).filter fun b => on (2 * b) || on (2 * b + 1))

/-- What else a slot reads in slice `k` in the lanes of `on`: DSR, charts, streams, latches. -/
def otherReads (s : State) (i : Instr) (k : Nat) (on : Nat → Bool) : List Rd :=
  let core := coreOf s.fr.x
  let stream := fun (st : Nat) => match inBoundary st k with
    | some j => regReads s.fr.x 3 st k (.strm j) (fun b => b / 4) ((List.range 64).filter fun b => on (b / 4))
    | none => []
  match i with
  | .dtx _ c _ a b => s.walkReads k c a b (some true) on ++ s.dsrReads k on
  | .dtc _ c _ a b => s.walkReads k c a b none on ++ s.dsrReads k on
  | .dtu _ c _ a => s.walkReads k c a a (some false) on ++ s.dsrReads k on
  | .dts _ _ _ => s.dsrReads k on
  | .dtz _ c => s.attrReads k c on
  | .dtq _ c _ =>
    let st := dsrStates s k
    let ok := (chartCheck ((s.ctx s.fr.x).asIssued s.fr) (chartAttr s core k c) c none).isNone
    s.attrReads k c on ++
      (if ok then ((List.range 16).filter on).flatMap fun l => chartBytes core k c l (516 + 2 * st.getD l 0) 2 else []) ++ s.dsrReads k on
  | .tap _ _ st | .xcp _ _ st _ => stream st
  | .trno _ _ grp => (List.range 64).filterMap fun b =>
      if on (b / 4) then
        some ⟨.mem ((Place.trans core).key (128 * (16 * (k % 2) + b / 4) + 4 * (4 * grp + k / 2) + b % 4)), 5, 0, b / 4, k⟩
      else none
  | .mpop _ _ lat grp => (List.range 64).map fun b => ⟨.mem (latchRowKey core lat grp k + b), 5, lat, b / 4, k⟩
  | _ => []

/-- The registers that a slot reads in slice `k` in the lanes of `on`, beside those that it reads whole at issue. Of a slot that moves bytes
across lanes they are the bytes of the lanes that are on (DEDUCED, log 9). -/
def sliceReads (s : State) (i : Instr) (k : Nat) (on : Nat → Bool) : List Rd :=
  let x := s.fr.x
  let uses := usesOf s.fr.rbv (oneInput s k i)
  -- one read of the register that is read whole at issue is not of the slice
  let uses := match wholeUse i with
    | some r => (uses.reverse.erase (32 + physV s.fr.rbv r)).reverse
    | none => uses
  let bytes := match i with
    | .xout _ _ _ z => crossBytes z - 64 * k
    | _ => 64
  (uses.filter fun r => decide (32 ≤ r)).flatMap (fun r =>
      vecReads x (r - 32) k fun l => on l && decide (4 * l < bytes))
    ++ (predUses i).flatMap (fun p => (predReads x (physP s.fr.rbp p) k ([0, 1].filter fun b =>
        (List.range 8).any fun l => on (8 * b + l))).map fun r => { r with lane := lowOn on r.lane 8 })
    ++ s.otherReads i k on

/-- The control registers, the loop-stack levels and the scalars that a slot reads at issue. -/
def issueReads (s : State) (i : Instr) : List Rd :=
  let x := s.fr.x
  let creg := fun (n : Nat) => (⟨.creg x n, 4, n, 0, 0⟩ : Rd)
  ((usesOf s.fr.rbv i).filter fun r => decide (r < 32)).flatMap (scalarReads x) ++ (match i with
    | .get _ _ n => [creg n]
    | .endl _ => [creg (7 + (s.ctx x).lstk.length)]
    | .amaxr _ _ => [creg 16]
    | .seed _ => [creg 28]
    | .mget _ m _ => regReads x 4 m 0 (.m m) (fun _ => 0) (List.range 8)
    | _ => [])

/-- What the slot in hand reads in its slice, in the order in which a failure is looked for: the guard first, whatever its
value, and the rest in the lanes whose guard is true (04 R85). -/
def slotReads (s : State) (i : Instr) : List Rd :=
  let x := s.fr.x
  let k := s.fr.slice
  let g := decodeGuard s.fr.bits
  let gp := physP s.fr.rbp g.p
  let lanes := fun (m : LaneMask) (l : Nat) => m.getLsbD (if wideElems i then l / 2 * 2 else l)
  if !perLane i s.fr.bits then
    if k ≠ 0 then s.sliceReads i k fun _ => true
    else predReads x gp 0 [0] ++ (if s.onceGuard g then s.issueReads i ++ s.sliceReads i 0 fun _ => true else [])
  else if guardsAtIssue i then
    if k ≠ 0 then s.sliceReads i k (lanes (sliceOf s.fr.gt k))
    else
      let gt := s.allGuards g
      (List.range 8).flatMap (fun j => predReads x gp j [0, 1]) ++ (if gt = 0 then [] else
        s.issueReads i ++ (match wholeUse i with
          | some r => (List.range 8).flatMap fun j => vecReads x (physV s.fr.rbv r) j (lanes (sliceOf gt j))
          | none => []) ++ s.sliceReads i 0 (lanes (sliceOf gt 0)))
  else
    let gm := s.laneGuard g k
    predReads x gp k [0, 1] ++ (if gm = 0 then [] else (if k = 0 then s.issueReads i else []) ++ s.sliceReads i k (lanes gm))

/-- The first read of the slot in hand that meets a failed parity, and whether the snapshot buffer left it there. -/
def softRead (s : State) (i : Instr) : Option (Rd × Bool) :=
  (s.slotReads i).findSome? fun r => (s.failed r.spot).map fun e => (r, e.snap)

/-- Whether the slot in hand has met a failed parity in an earlier slice. -/
def softSlot (s : State) : Bool :=
  s.faults.any fun f => f.code == 20 && f.x == s.fr.x && f.hnd == s.fr.hnd && f.t == s.fr.t && f.re == s.fr.re && f.slot == s.fr.slot && !f.bnd

/-- The count after issue by which a slot has landed at the latest, for slots whose slices land later than the next two counts. -/
def lateLat (s : State) (i : Instr) : Nat :=
  match i with
  | .vred _ _ _ _ _ _ => 40
  | .fred _ f _ _ _ _ => if f = .f64 then 128 else 64
  | .slide _ _ _ n => 10 + (n.natAbs + 15) / 16
  | .dtx _ c _ _ _ | .dtu _ c _ _ | .dtc _ c _ _ _ =>
    let w := attrW (chartAttr s (coreOf s.fr.x) s.fr.slice c)
    7 + walkLat (if w = 0 then 1 else w)
  | _ => if perLane i s.fr.bits then 9 else 0

/-- D of the slot in hand, run from `s` to `t`: the last count at which it lands or performs anything (10 R218). What it has pushed
in its slice comes in slice 7 as many cycles later; a crossing ends with its last slot. -/
def softD (s t : State) (i : Instr) : Nat :=
  let fr := s.fr
  let rest := if (perLane i fr.bits && (!guardsAtIssue i || fr.slice != 0)) then 7 - fr.slice else 0
  let ends := ((t.pend.drop s.pend.length).map fun e => match e.act with
    | .fetch _ _ _ land => land
    | _ => e.due + rest)
  let cross := ((t.ctx fr.x).crossings.filter fun c => c.hnd == fr.hnd && c.ord == fr.ord).map fun c =>
    t.toSch (c.slots.getLastD 0 + c.lat).toNat
  let cmd := if (t.ctx fr.x).commands.any fun c => c.hnd == fr.hnd && c.ord == fr.ord then [fr.t + 2] else []
  (ends ++ cross ++ cmd).foldl Nat.max (fr.t + s.lateLat i)

/-- What a slot with a failed parity has pushed taken off: no lane of it lands, but its sticky flags and its AMAX merge stay (05 R91). -/
def noLanding (n : Nat) (t : State) : State :=
  { t with pend := t.pend.take n ++ (t.pend.drop n).filter fun e => match e.act with
    | .flagsOr _ | .amax _ _ => true
    | _ => false }

/-- The router registers that an operation reads (15 R265). -/
def routerUses : Instr → List Nat
  | .radd _ _ a b | .rmax _ _ a b | .rmin _ _ a b | .rand _ a b | .rthr _ _ a b => [a, b]
  | .rflt _ a _ | .rmov _ a | .rst a _ _ | .rstc _ a _ _ | .rpsh _ _ a => [a]
  | _ => []

end State

/-- An act run with the parity of what it reads checked: a slot that meets a failed one raises the cold-soft-error fault and
lands nothing (04 R85), and a router operation that does so is not run and stops its router (15 R268). Where nothing has failed
it is the act's meaning alone. -/
def runChecked (run : Instr → State → Result) (i : Instr) (s : State) : Result :=
  if s.soft.isEmpty then run i s
  else if (State.routerUses i).any fun n => (s.failed (.wreg s.myClu n)).isSome then
    .next (routerSoft s s.myClu s.fr.bits s.fr.slot s.fr.cap.toNat)
  else if i.slotWord.isNone then run i s
  else
    match run i s with
    | .next t =>
      match s.softRead i with
      | some (r, snap) =>
        let u := { t.noLanding s.pend.length with fr := s.fr }
        .next { u.softFault r.file r.num r.lane r.slice snap (s.softD t i) with fr := t.fr }
      | none => .next (if s.softSlot then t.noLanding s.pend.length else t)
    | o => o

end Sys2Proof.Machine
end

