-- ==== Sys2Proof/Machine/Gang.lean ====
section
/-! DEFINITION. Freezes and resumes of a gang, the taking of a fault, and the end of a task (07 R153, R154, 08 R163, 10
R221 to R229, 20 R339, R341, R342, 22 R375 to R377). -/

namespace Sys2Proof.Machine

namespace State

/-- Whether a count of the gang begins in this cycle. -/
def beat (s : State) (g : Gang) : Bool := s.tide % g.pace == 0

/-- The count that a gang has reached and not yet issued at this TIDE. -/
def reach (s : State) (g : Gang) : Nat := if s.beat g then g.sch else g.sch + 1

/-! ### Slack cause records (22 R377, R380) -/

/-- The entry of a job's cause record: its FJT entry, or its queue. -/
def slackEntry (s : State) (job : Nat) : Nat :=
  match (List.range 16).find? fun n =>
    (SMap.get 0 s.mod.fjt (2 * n + 1)).getLsbD 0 && (SMap.get 0 s.mod.fjt (2 * n)).toNat / 2 ^ 32 == job with
  | some n => n
  | none => 16 + ((s.slackOf job).queue - 1)

/-- The cause record of a job written from its slack state. -/
def noteSlack (s : State) (job : Nat) : State :=
  let k := s.slackOf job
  let e := 4 * s.slackEntry job
  s.updMod fun m => { m with slkcr :=
    [(0, k.word0), (1, k.sch), (2, k.Ts), (3, k.word3 job)].foldl (fun r w => SMap.put 0 r (e + w.1) (BitVec.ofNat 64 w.2)) m.slkcr }

/-! ### Freezing (07 R153) -/

/-- What a freeze remembers of a wait: whether its flag is 1 at T_F. -/
def seenAt (s : State) : Why → Why
  | .wait f n x a t T _ => .wait f n x a t T (s.flagVal f n)
  | w => w

/-- Other gangs that wait for a slot on a core of the gang (20 R342). -/
def waitersFor (s : State) (gi : Nat) : List (Nat × Gang) :=
  let g := s.gang gi
  s.liveGangs.filter fun e =>
    e.1 != gi && e.2.run == .frozen && e.2.dock == g.dock && e.2.left.contains .slot && e.2.cores.any g.cores.contains

/-- A gang that waits for its slots from now on (20 R342). -/
def toWaiter (s : State) (gi : Nat) : State :=
  s.updGang gi fun g => if g.left.contains .slot then g else { g with served := g.served ++ [.slot], left := g.left ++ [.slot], G := none }

/-- Whether every cluster of a gang runs in the period of TIDE `T`, on every module of it (21 R359). -/
def runsAt (s : State) (g : Gang) (T : Nat) : Bool :=
  g.dock || ((g.clusters.all fun c => T / 4096 % 2 ^ (s.clu c).ratio == 0) && g.far.all fun e => T / 4096 % 2 ^ e.2 == 0)

/-- The first G from `G` on, in steps of 4,096 counts, at which the gang's clusters run. -/
def runPeriod (s : State) (g : Gang) : Nat → Nat → Nat
  | 0, G => G
  | n + 1, G => if s.runsAt g G then G else runPeriod s g n (G + 4096)

/-- A cooperative yield with a switch decided gives the slots up at the waiter's first G, with the pre-emption of the other holders moved to
it, unless one of them still has a grace of its own; a later yield waits for the switch, and any other waits its turn (20 R343). -/
def yielded (s : State) (gi : Nat) (coop : Bool) : State :=
  let g := s.gang gi
  match g.heir with
  | some w =>
    if !coop then s.toWaiter gi
    else
      let k := s.gang w
      let s := (s.toWaiter gi).updGang gi fun g => { g with heir := none }
      let rest := s.liveGangs.filter fun e => e.2.heir == some w
      if k.run ≠ .frozen || rest.any fun e => e.2.grace != 0 then s
      else
        let G := s.runPeriod k 4 (leastG k.pace k.TF (g.TF + k.skb + 511))
        let G := match k.G with | some G' => Nat.min G G' | none => G
        rest.foldl (fun s e => s.timedAt (G - 1) .gangFreeze { id := e.1, slot := 1, addr := w }) (s.setGang w { k with G := some G })
  | none => if (s.waitersFor gi).isEmpty then s else s.toWaiter gi

/-- A fence whose accesses have all performed by its freeze point costs nothing: its request goes (08 R182). -/
def dropFences (s : State) (gi : Nat) : State :=
  let open_ := fun (r : FreezeReq) => match r.why with
    | .fence x ids => decide ((s.gang gi).sch < r.F) || ids.any fun n => (s.ctx x).nonstatic.contains n
    | _ => true
  if (s.gang gi).reqs.all open_ then s else s.updGang gi fun g => { g with reqs := g.reqs.filter open_ }

/-- A gang frozen now, at the count in hand, for the reasons given and for every request of that point; WAIT moves the
anchor (08 R181). What has landed at that count is held; a core whose bundle of that count was due issues a null bundle instead (07
R154). -/
def freezeNow (s : State) (gi : Nat) (whys : List Why) : State :=
  let late := s.phase = .perform
  let s := if late then s.unland (s.gang gi).members else s
  let g := s.gang gi
  let whys := (whys ++ (g.reqs.filter fun r => decide (r.F ≤ g.sch)).map fun r => r.why).map s.seenAt
  let waits := whys.any fun w => match w with | .wait .. => true | _ => false
  let s := s.setGang gi { g with
    run := .frozen
    F := g.sch
    TF := s.tide - s.tide % g.pace
    reqs := g.reqs.filter fun r => !decide (r.F ≤ g.sch)
    served := whys
    left := whys
    G := none
    anchor := if waits then g.sch else g.anchor }
  let s := g.members.foldl (fun s x => s.holdMember g.sch (whys.contains .slack) x) s
  let s := if late then g.members.foldl (fun s x =>
      let key := s.slotKey x
      if (s.core key).holder = some (x % 4) then s.setCore key { s.core key with gap := s.tide + 1 } else s) s
    else s
  if whys.contains (.yield true) then s.yielded gi true else if whys.contains (.yield false) then s.yielded gi false else s

/-- A gang stopped at the count it reaches now: by a freeze, or by a further condition of the freeze in force. -/
def stopAt (s : State) (gi : Nat) (w : Why) : State :=
  let g := s.gang gi
  match g.run with
  | .running => s.request gi (s.reach g) w
  | .frozen => s.join gi w
  | _ => s

/-- The freeze at the least pending freeze point. -/
def freezeDue (s : State) (gi : Nat) : State :=
  let s := s.dropFences gi
  let g := s.gang gi
  if g.run = .running ∧ g.reqs.any (fun r => decide (r.F ≤ g.sch)) then s.freezeNow gi [] else s

/-- A pre-emption that falls due at the TIDE before the waiter's G (20 R342, R343): a running gang freezes; one that has frozen by
itself, or by a late yield, is a waiter from now on. -/
def preempt (s : State) (gi w : Nat) : State :=
  let g := s.gang gi
  if g.heir = some w ∧ (s.gang w).G = some (s.tide + 1) ∧ (g.run = .running ∨ g.run = .frozen) then
    let s := s.setGang gi { g with
      heir := none
      deficit := if g.grace = 0 then g.deficit else g.deficit - 4096 * g.members.length
      reqs := if g.run = .running then g.reqs ++ [⟨s.reach g, .slot⟩] else g.reqs }
    if g.run = .running then s.freezeNow gi [] else s.toWaiter gi
  else s

end State

/-- GANG_FREEZE (07 R153): the gang of the frame freezes; in slot 1, by a pre-emption for the gang that `addr` names. -/
def execGangFreeze (s : State) : Result :=
  .next (if s.fr.slot = 1 then s.preempt s.fr.id s.fr.addr else s.freezeDue s.fr.id)

/-! ### Conditions of a resume (07 R153, 20 R341) -/

namespace State

/-- Whether an effect of a handler is over by the end of the cycle in progress: in the perform phase its last performs are still to
come, and do nothing further. -/
def effOver (s : State) (e : Eff) : Bool :=
  s.phase == .perform && s.due e && (match e.act with
    | .store _ _ _ _ | .bits _ _ _ _ | .flag _ _ _ _ false | .taint _ | .amax _ _ | .seedGen _ _ _ => true
    | _ => false)

/-- Whether everything that a handler started has landed or performed (10 R226): its slots, commands, tile words and routers, the
replies to its services, and the saves and restores it has asked for (10 R228). -/
def handlerDone (s : State) (x : Nat) : Bool :=
  let c := s.ctx x
  match c.handler with
  | none => true
  | some h => !h.live && !(s.pend.any fun e => e.fr.x == x && e.fr.hnd && !s.effOver e) && !(s.flight.any fun e => e.x == x && e.hnd)
      && !(c.crossings.any fun k => k.hnd && k.fr.x == x && decide (k.next < k.slots.length)) && !(c.commands.any fun k => k.hnd && decide (k.next < k.slots.length))
      && (decide (c.perfH < h.cnt) || (s.phase == .perform && c.perfH == h.cnt)) && !(c.nonstatic.any fun n => decide (h.first ≤ n))
      && !(s.tiles.any fun j => j.fr.x == x && j.fr.hnd && j.done.isNone) && !((s.clu (clusterOf (coreOf x))).router.runsFor x true)
      && !((List.range 4).any fun i => (s.ctx (x / 4 * 4 + i)).savedFor.any fun e => e.1 == x && e.2.1)
      && !(s.mod.msgs.any fun m => m.kind == .sys && m.x == x && m.fr.hnd)

/-- Whether a condition of a freeze holds now. -/
def holds (s : State) (gi : Nat) (w : Why) : Bool :=
  let g := s.gang gi
  match w with
  | .wait f n _ _ _ _ _ => s.flagVal f n || (s.arrived gi).any fun r => f == .clu r.flag.1 && n == r.flag.2
  | .yield _ | .clock => true
  | .fence x ids => !(ids.any fun n => (s.ctx x).nonstatic.contains n && !(s.arrived gi).any fun r => r.cmd == n)
  | .meter x c => g.admits (s.ctx x).hlmthr.toNat c
  | .slot | .slack => false
  | .staging => g.staged
  | .ctxop c _ | .save c => !(s.ctx c).saving && !((s.ctx c).saved && w == .save c)
  | .cxlFull c => decide ((s.clu c).cxl < 256 + s.arrivedOn gi c)
  | .postFull c => decide ((s.clu c).posts < 64)
  | .ratio => g.clusters.all fun c => match s.partOf (4 * c) with
      | some p => (s.part p).shake.isNone
      | none => true
  | .fault x => s.handlerDone x

/-- The cycles that the pilot needs between a condition and G: none after a handler's RTE (10 R226) and at a run
period's start (21 R359). -/
def lead (g : Gang) : Nat :=
  if g.served.all fun w => match w with | .fault _ | .clock => true | _ => false then 0 else g.skb + 512

/-- Conditions that have held leave the list; when none is left, G is chosen. It follows the cycle in which an RTE issues
(10 R226). -/
def settle (s : State) (gi : Nat) : State :=
  let g := s.gang gi
  if g.run ≠ .frozen ∨ g.G.isSome ∨ g.ending.isSome then s
  else
    let left := g.left.filter fun w => !s.holds gi w
    let now := if s.phase = .perform ∧ lead g = 0 then s.tide + 1 else s.tide + lead g
    let G := if left.isEmpty then some (s.runPeriod g 4 (leastG g.pace g.TF (Nat.max now g.floor - 1))) else none
    s.setGang gi { g with left := left, G := G }

/-! ### Resuming (07 R153, R154) -/

/-- The setter that ends a wait of a gang: the flag's last, or the gang's own capacity-tier command whose set is held until G (15 R263,
23 R389). -/
def setterOf (s : State) (gi : Nat) (f : FlagFile) (n : Nat) : Nat :=
  match (if s.flagVal f n then none else (s.arrived gi).find? fun r => f == .clu r.flag.1 && n == r.flag.2) with
  | some r => 2 * 2 ^ 12 + r.x % 4096 + 1
  | none => SMap.get 0 s.mod.setters (flagKey f n)

/-- The record of a wait that has ended, and its edge (23 R389, R390). -/
def waitRecord (s : State) (gi G : Nat) : Why → State
  | .wait f n x addr t T pre =>
    let g := s.gang gi
    let k := s.setterOf gi f n
    let sc := match f with | .core _ => 3 | .clu _ => 4 | .mod => 9
    let ts0 := n + sc * 2 ^ 6 + (k - 1) / 2 ^ 12 % 16 * 2 ^ 10 + (k - 1) % 2 ^ 12 * 2 ^ 14 + (if pre then 2 ^ 26 else 0)
    let smod := if k / 2 ^ 16 = 0 then s.modNum else k / 2 ^ 16 - 1
    let ts3 := (g.F - t) % 2 ^ 20 + smod % 2 ^ 12 * 2 ^ 20 + Nat.min (G - T) (2 ^ 32 - 1) * 2 ^ 32
    let s := if k = 0 then s else s.traceRec g.job 1 3 addr x ts0 t T ts3
    s.updMod fun m =>
      let w := g.job * 4096 + x
      let same := fun (e : Nat × Nat × Nat × Nat) => e.1 == w && e.2.1 == flagKey f n && e.2.2.1 == k
      if m.edges.any same then
        { m with edges := m.edges.map fun e => if same e then (e.1, e.2.1, e.2.2.1, e.2.2.2 + 1) else e }
      else { m with edges := m.edges ++ [(w, flagKey f n, k, 1)] }
  | _ => s

/-- The member of a gang that takes the issue slot of a core when the gang resumes: the one that held it, else the next that is
ready (07 R154, log 13). -/
def slotTaker (s : State) (gi key core : Nat) : Option Nat :=
  let h := ((s.core key).holder).getD 3
  let order := ((s.core key).holder.toList ++ [1, 2, 3, 4].map fun i => (h + i) % 4)
  order.find? fun i =>
    let c := s.ctx (4 * core + i)
    c.resident && c.gang == gi && c.ended.isNone && !c.noIssue

/-- Whether a slot of the program that was in flight at a handled fault has slices to run. -/
def oldSlots (s : State) (x : Nat) : Bool := s.flight.any fun e => e.x == x && e.act.fr.old != 0

/-- A member resumes: its handler has ended; a fault that no handler took is taken up again as RTE would (10 R225,
R226); YDL returns to all ones (20 R343). -/
def resumeMember (s : State) (gi : Nat) (slack : Bool) (x : Nat) : State :=
  let s := if slack && (s.ctx x).faulted then (s.faultReturn x).updCtx x fun c => { c with faulted := false } else s
  let done := match (s.ctx x).handler with | some h => !h.live | none => false
  let s := s.updCtx x fun c => { c with
    ydl := BitVec.allOnes 64
    handler := if done then none else c.handler
    past := if done && !s.oldSlots x then [] else c.past }
  let c := coreOf x
  let key := s.slotKey x
  let k := s.core key
  let s := s.setCore key { k with holder := some ((s.slotTaker gi key c).getD (x % 4)), gap := 0 }
  -- the gang that held the slot waits from now on
  match k.holder with
  | none => s
  | some h =>
    let hi := (s.ctx (4 * c + h)).gang
    if hi = gi || !(s.ctx (4 * c + h)).resident || (s.gang hi).run ≠ .frozen then s
    else (s.toWaiter hi).updGang hi fun g => { g with heir := none }

/-- Requests of the capacity tier that ended while their gang was frozen perform at G, in the order of their arrival
(15 R263). Those that a WAIT or a FENCE of the freeze has waited for bear the gang's number, as the bundles of that cycle come after them
(08 R181, R182, log 86). -/
def releaseCxl (s : State) (gi : Nat) : State :=
  let waited := fun (r : CxlReq) => !r.dir && (s.gang gi).served.any fun w => match w with
    | .wait f n _ _ _ _ _ => f == .clu r.flag.1 && n == r.flag.2
    | .fence _ ids => ids.contains r.cmd
    | _ => false
  (s.mod.cxl.filter fun r => r.gid == gi && r.done).foldl (fun s r =>
    s.later { outside with id := if waited r then gi + 1 else 0 } cxlRank (.arrive r.id)) s

/-- The gang resumes at its G. -/
def resumeNow (s : State) (gi : Nat) : State :=
  let g := s.gang gi
  match g.G with
  | none => s
  | some G =>
    if g.run ≠ .frozen || decide (s.tide < G) then s
    else
      let s := g.served.foldl (fun s w => s.waitRecord gi G w) s
      let s := g.members.foldl (fun s x => s.resumeMember gi (g.served.contains .slack) x) s
      let s := s.releaseCxl gi
      s.setGang gi { s.gang gi with run := .running, served := [], left := [], G := none, floor := 0 }

end State

/-- GANG_RESUME (07 R153): the gang of the frame resumes at its G. -/
def execGangResume (s : State) : Result := .next (s.resumeNow s.fr.id)

/-! ### Taking a fault (10 R221 to R225) -/

namespace State

/-- The TIDE of a count of a gang that has run without a freeze since. -/
def tideBack (s : State) (x : Nat) (hnd : Bool) (t : Nat) : Nat := s.tide - (s.now x hnd - t) * (s.gangOf x).pace

/-- The trigger of a fault that no handler takes (22 R375). -/
def faultTrigger (s : State) (f : PendFault) : State :=
  let g := s.gangOf f.x
  s.trigger g.job { omod := s.modNum, ocore := coreOf f.x, octx := f.x % 4, addr := f.addr, code := f.code,
                    arg := 0, sch := if f.hnd then g.F else f.t, Ts := s.tideBack f.x f.hnd f.t, wide := !g.oneCore }

/-- A fault that no handler takes (10 R225): the context is marked, the gang freezes, and the slack wave starts. -/
def unhandled (s : State) (f : PendFault) : State :=
  let s := s.faultRecords f f.hnd (s.gangOf f.x).anchor
  let gi := (s.ctx f.x).gang
  let g := s.gang gi
  let s := s.updCtx f.x fun c => { c with faulted := true }
  let s := if f.hnd then
      (s.updCtx f.x fun c => { c with handler := c.handler.map fun h => { h with live := false } }).join gi .slack
    else if g.oneCore then
      let c := s.ctx f.x
      let same := f.F == f.t && !f.bnd && !f.re
      let s := s.setCtx f.x { c with
        reent := none
        resume := some (match (if f.bnd then c.reent else none) with
          | some r => { r with pc := c.pc, xfers := c.xfers, lb := c.lb }
          | none => { pc := if same then f.addr else c.pc, xfers := c.xfers, lb := same && c.lb, re := !f.bnd && !same,
                      reAddr := f.addr, rbv := f.rbv, rbp := f.rbp, F := f.F }) }
      if g.run = .running then
        -- a SET of PSW that lands at the count of the freeze is held, and so takes SR no more with it
        let t := s.freezeNow gi [.slack]
        if c.wave.isSome then t else t.updCtx f.x fun c => { c with psw := pswFault c.psw (if f.bnd then 0 else f.slot) }
      else s.join gi .slack
    else (s.updCtx f.x fun c => { c with noIssue := true }).request gi (f.F + g.skb) .slack
  s.faultTrigger f

/-- A fault taken: what it cancels goes, and a handler takes it or none does (10 R222, R223). -/
def takeFault (s : State) (f : PendFault) : State :=
  let s := { s with faults := s.faults.filter fun e => e != f }
  let s := s.cancel f
  let s := s.faultTrace f f.hnd
  let s := if f.F = f.t ∧ !f.hnd then s.updCtx f.x fun c => { c with lastT := 0 } else s
  if handlerTakes s f then
    let gi := (s.ctx f.x).gang
    let anchor := (s.gang gi).anchor
    let s := if (s.gang gi).run = .running then s.freezeNow gi [.fault f.x] else s.join gi (.fault f.x)
    s.faultEntry f anchor
  else s.unhandled f

/-- The fault that falls due in a context: of its handler, or, while its gang runs, of its program. -/
def dueFault (s : State) (x : Nat) : Option PendFault :=
  let c := s.ctx x
  let ready := fun (hnd : Bool) => (firstFault x hnd s.faults).filter fun f => decide (f.F ≤ s.now x hnd)
  if !c.resident then none
  else if c.handler.isSome then ready true
  else if (s.gang c.gang).run = .running ∧ !c.noIssue then ready false
  else none

end State

/-- FAULT_TAKEN (10 R221, R222): the context's first fault that is due is taken. -/
def execFaultTaken (x : Nat) (s : State) : Result :=
  .next (match s.dueFault x with
    | some f => s.takeFault f
    | none => s)

/-- WATCHDOG_EXPIRY (10 R229): HUNG is set, and the fault is never handled; during a save INSAVE is set too, and the save runs to its
end. -/
def execWatchdogExpiry (x : Nat) (s : State) : Result :=
  let c := s.ctx x
  let hung : Word := BitVec.ofNat 64 (2 ^ 63)
  if c.saving then
    let s := s.setCtx x { c with wdog := c.wdog ||| hung ||| BitVec.ofNat 64 (2 ^ 62) }
    let F := (s.gangOf x).F
    let f : PendFault := ⟨x, false, F, F, false, 0, c.lastA, 18, 1, 0, true, c.rbv, c.rbp⟩
    .next ((s.faultTrace f false).unhandled f)
  else
    let s := s.setCtx x { c with wdog := c.wdog ||| hung }
    let u := s.now x c.handler.isSome
    .next { s with faults := s.faults ++ [⟨x, c.handler.isSome, u + 1, u, false, 0, c.lastA, 18, 0, 0, true, c.rbv, c.rbp⟩] }

/-! ### The end of a task (08 R163, 20 R332, R339, 19 R322) -/

/-- The oldest ring index of a queue that has not completed. -/
def Queue.oldest (q : Queue) : Nat :=
  ((q.tasks.filterMap fun t => t.idx) ++ (q.items.filterMap fun i => i.idx)).headD q.qtail

namespace State

/-- Queue `q`. -/
def queue (s : State) (q : Nat) : Queue := SMap.get {} s.mod.queues q

/-- Queue `q` replaced. -/
def setQueue (s : State) (q : Nat) (k : Queue) : State := s.updMod fun m => { m with queues := SMap.put {} m.queues q k }

/-- The process that owns a queue (20 R327). -/
def owner (s : State) (q : Nat) : Nat := (s.queue q).qcfg.toNat / 2 ^ 32

/-- A completion record at a warm address of a process; address 0 asks for none (20 R329, R332). -/
def completion (s : State) (proc va job tag status cause sch : Nat) : State :=
  if va = 0 then s
  else s.pokeVirt proc va 32 (status + cause % 256 * 2 ^ 8 + tag % 2 ^ 16 * 2 ^ 16 + job % 2 ^ 32 * 2 ^ 32 + s.tide % 2 ^ 64 * 2 ^ 64
    + s.clock % 2 ^ 64 * 2 ^ 128 + sch % 2 ^ 64 * 2 ^ 192) (some (s.procPart proc, 2 ^ 16 + 2 ^ 9))

/-- A packet of a queue completes: its record is written, and HEAD moves on (20 R328, R339). -/
def finishPacket (s : State) (q seq status cause sch : Nat) : State :=
  let k := s.queue q
  match k.tasks.find? fun t => t.seq == seq with
  | none => s
  | some t =>
    let s := s.completion (s.owner q) t.record t.job t.tag status cause sch
    let k := s.queue q
    let k := { k with tasks := k.tasks.filter fun e => e.seq != seq }
    s.setQueue q { k with qhead := k.oldest }

/-- Staged pages with W = 1 copied back to the capacity tier (18 R303). -/
def copyBack (s : State) (g : Gang) : State :=
  (g.pages.filter fun e => g.staged && e.2.2).foldl (fun s e =>
    match physKey (e.1 * 2 ^ 16), physKey (e.2.1 * 2 ^ 16) with
    | some src, some dst => s.copyPage src dst
    | _, _ => s) s

/-- A TABLE's record follows the last of its entries' (20 R335). -/
def tableDone (s : State) (q seq : Nat) : State :=
  if ((s.queue q).items.any fun e => e.tbl == some seq) || s.liveGangs.any fun e => e.2.queue == q && e.2.packet == seq && e.2.kind == 2 then s
  else s.finishPacket q seq 0 0 0

/-- A member context gives up everything it holds. -/
def releaseCtx (s : State) (x : Nat) : State :=
  let c := coreOf x
  let key := s.slotKey x
  let s := if (s.core key).holder = some (x % 4) then s.setCore key { s.core key with holder := none } else s
  let s := s.setCtx x {}
  let k := s.core c
  let clu := clusterOf c
  let open_ := ((s.mod.cxl.filter fun r => r.x == x).map fun r => r.cmd).eraseDups.length
  let s := if open_ = 0 then s else s.setClu clu { s.clu clu with cxl := (s.clu clu).cxl - open_ }
  let s := s.setCore c { k with
    calls := k.calls.filter fun e => e.y != x
    hbm := k.hbm.filter fun e => e.1 != x }
  { s with
    pend := s.pend.filter fun e => e.fr.x != x
    flight := s.flight.filter fun e => e.x != x
    faults := s.faults.filter fun e => e.x != x
    undo := s.undo.filter fun e => e.x != x
    tiles := s.tiles.filter fun j => j.fr.x != x
    mod := { s.mod with cxl := s.mod.cxl.filter fun r => r.x != x } }

/-- What a gang held is released (20 R339): contexts, slots, the router of its clusters, window pins. The refills of those that stay change
(21 R354). -/
def releaseGang (s : State) (gi : Nat) : State :=
  let g := s.gang gi
  let s := g.members.foldl releaseCtx s
  let s := g.clusters.foldl (fun s c =>
    let k := s.clu c
    if k.holding = some gi then
      s.setClu c { k with holding := none, router := { k.router with active := false, endAt := 0 } }
    else s) s
  (s.setGang gi {}).timedAt ((s.tide / 16384 + 1) * 16384) (.allotmentUpdate g.part)

/-- The outcome of a tile word that a TILE packet brought, or, from 256 on, the pilot of module `q` - 256: it has its record, or goes back
there with its flags and, above them, the place that failed (20 R337, 02 R45, 22 R373, R374). -/
def wordDone (s : State) (q p status cause sch : Nat) (more : Nat := 0) : State :=
  if q < 256 then s.finishPacket q p status cause sch
  else s.send { id := p, kind := .tile, a := q - 256, b := 2 ^ 16 + status, c := cause, d := more }

/-- A gang's task ends with a status: pages are copied back, everything is released, and its record and that of its packet are written.
A TILE packet whose word ends with it has the same outcome (20 R337). -/
def endGang (s : State) (gi status cause sch : Nat) : State :=
  let g := s.gang gi
  let words := (s.tiles.filter fun j => g.members.contains j.fr.x && j.done.isNone).filterMap fun j => j.packet
  let s := (s.copyBack g).releaseGang gi
  let s := words.foldl (fun s w => s.wordDone w.1 w.2 status cause sch) s
  match g.kind with
  | 2 => (s.completion g.process g.record g.job g.tag status cause sch).tableDone g.queue g.packet
  | 3 => s.completion g.process g.record g.job g.tag status cause sch
  | _ => s.finishPacket g.queue g.packet status cause sch

/-- Whether a member's part of its task is complete at this count (08 R163). -/
def memberDone (s : State) (x : Nat) : Bool :=
  let c := s.ctx x
  let n := (s.gang c.gang).sch
  (match c.ended with | some e => decide (e ≤ n) | none => false) && decide (c.effP ≤ n)
    && c.crossings.all (fun k => decide (k.slots.length ≤ k.next)) && c.commands.all (fun k => decide (k.slots.length ≤ k.next ∧ k.last ≤ s.clk x false))
    && c.nonstatic.isEmpty && !((s.clu (clusterOf (coreOf x))).router.runsFor x false) && !(s.pend.any fun e => e.fr.x == x) && !(s.flight.any fun e => e.x == x)
    && !(s.tiles.any fun j => j.fr.x == x && j.done.isNone) && !(s.faults.any fun f => f.x == x) && !(s.mod.msgs.any fun m => m.kind == .sys && m.x == x)

/-- Whether accesses of a gang that has stopped are on their way whatever its clock does: copies to and from the capacity tier, HBM accesses
whose slots have started, posts that have left, and what performs at a TIDE (15 R263, 19 R322, 22 R371). -/
def accessesOpen (s : State) (gi : Nat) : Bool :=
  let mine := fun (x : Nat) => (s.gang gi).members.contains x
  let hbm := fun (a : Act) => (match a.i with | .hbmCalendarAccess _ => true | _ => false) && mine a.fr.x
  (s.mod.cxl.any fun r => r.gid == gi && !r.done) || s.agenda.any hbm || (s.timed.any fun e => hbm e.act)
    || (s.pend.any fun e => e.wall != 0 && mine e.fr.x)
    || s.mod.msgs.any fun m => m.kind == .posted && mine m.x
      && !((s.ctx m.x).commands.any fun k => k.id == m.id && decide (k.next < k.slots.length))

/-- What the freeze of a gang holds performs, in the order of its counts and then that of a cycle, as the gang ends: accesses that have begun,
and the arrivals from the capacity tier after them (15 R263, 19 R322, log 100). -/
def performHeld (s : State) (gi : Nat) : State :=
  let mine := fun (e : Eff) => (s.gang gi).members.contains e.fr.x && (match e.act with
    | .store _ _ _ _ | .atom _ _ _ _ _ _ _ | .bits _ _ _ _ | .flag _ _ _ _ _ | .taint _ => true
    | _ => false)
  let p := s.pend.partition mine
  let s := (sortBy (fun a b => decide (a.due < b.due) || (a.due == b.due && Eff.before a b)) p.1).foldl perform { s with pend := p.2 }
  (s.mod.cxl.filter fun r => r.gid == gi && r.done).foldl performCxl s

/-- A gang is to end with STATUS 2 to 4: it and its handlers issue no more, and it ends once what it has begun is over (19 R322, 20
R332). -/
def endLater (s : State) (gi status cause : Nat) : State :=
  let g := s.gang gi
  let F := if g.run = .running then s.reach g else g.F
  let s := g.members.foldl (fun s x => s.updCtx x fun c => { c with handler := c.handler.map (fun h : Handler => { h with live := false }) }) s
  (s.stopAt gi .slack).updGang gi fun g => { g with ending := some (status, cause, F), G := none }

/-- Whether a gang that is to end has stopped and nothing of it is on its way. -/
def endReady (s : State) (gi : Nat) : Bool :=
  (s.gang gi).ending.isSome && (s.gang gi).run != .running && !s.accessesOpen gi

/-- Whether a gang's task completes at this count. -/
def taskDone (s : State) (gi : Nat) : Bool :=
  let g := s.gang gi
  g.live && g.run == .running && g.members.all s.memberDone

/-- STATUS and CAUSE of a gang that cannot go on: hung, or a fault that no handler took (20 R332). -/
def endCause (s : State) (g : Gang) : Option (Nat × Nat) :=
  if g.members.any fun x => (s.ctx x).wdog.getLsbD 63 then some (3, 18)
  else (g.members.find? fun x => (s.ctx x).faulted).map fun x => (2, (s.ctx x).fcause.toNat / 2 ^ 32 % 256)

end State

/-- TASK_COMPLETE (08 R163): the task of the gang in the frame completes; SCH is the count of the last END. In slot 1 the pilot, or the
host, ends a gang that has frozen and cannot go on (20 R332, log 83); in slot 2 what such a gang had begun is over, and its record is
written (19 R322). -/
def execTaskComplete (s : State) : Result :=
  let gi := s.fr.id
  let g := s.gang gi
  .next (if s.fr.slot = 1 then
      match g.live, g.run, s.endCause g with
      | true, .running, _ => s.timedAt (s.tide + 1) .taskComplete s.fr
      | true, _, some (status, cause) => if g.ending.isSome then s else s.endLater gi status cause
      | _, _, _ => s
    else if s.fr.slot = 2 then
      match g.ending with
      | some (status, cause, F) => if s.endReady gi then (s.performHeld gi).endGang gi status cause F else s
      | none => s
    else if s.taskDone gi then
      s.endGang gi 0 0 (((s.gang gi).members.map fun x => ((s.ctx x).ended.getD 64) - 64).foldl Nat.max 0)
    else s)

end Sys2Proof.Machine
end

