-- ==== Sys2Proof/Machine/Launch.lean ====
section
/-! DEFINITION. Launches: kernel images, their checks, allotment and preloads, windows and staging, and the start of a
gang (18 R300, R303, 20 R330 to R334, 21 R351, R353, R354, 22 R366). -/

namespace Sys2Proof.Machine

/-- A word of a packet or a directory. -/
def word (p i : Nat) : Nat := p / 2 ^ (64 * i) % 2 ^ 64

namespace State

/-- Whether a byte of a process translates. -/
def mapped (s : State) (proc va : Nat) : Bool := (s.virtKey proc va).isSome

/-- Bytes of a process, each by its own translation. -/
def readVirt (s : State) (proc va n : Nat) : Nat :=
  (List.range n).foldl (fun a i => a + s.peekVirt proc (va + i) 1 * 256 ^ i) 0

/-- An event record whose type-specific fields the spec does not lay out: they are free values (21 R358). -/
def eventOpen (s : State) (p type : Nat) : State :=
  let a := s.freeValue 32
  let b := a.2.freeValue 64
  let c := b.2.freeValue 64
  c.2.eventRec p type a.1.toNat b.1.toNat c.1.toNat

end State

/-! ### A kernel image (20 R331) -/

/-- The directory of an image. -/
structure Directory where
  bundles : Nat
  compat  : Bool
  offs    : List Nat         -- of the bundles, the manifest, the preload list, the allotment blocks
  extents : Nat
  preloads : Nat
  deriving DecidableEq, Repr

/-- An allotment block. -/
structure Block where
  mb : Nat
  ml : Nat
  qb : Nat
  ql : Nat
  hb : Nat
  hl : Nat
  bb : Nat
  bl : Nat
  am : Nat
  km : Nat
  lk : Nat
  cbk : Nat
  deriving DecidableEq, Repr

/-- The directory at an image address; none if it is malformed or outside the process's page tables. Its count of extents has 12 bits: a
manifest of 4,096 extents (01 R18) has no number there, and 0 says that there is none (log 51). -/
def directoryOf (s : State) (proc img : Nat) : Option Directory :=
  if !s.mapped proc img || !s.mapped proc (img + 64) then none
  else
    let d := s.readVirt proc (img + 64) 64
    let offs := [word d 2, word d 3, word d 4, word d 5]
    if fld (word d 0) 63 34 ≠ 0 || word d 7 ≠ 0 || !(offs.all fun o => s.mapped proc (img + o)) then none
    else some ⟨fld (word d 0) 10 0, bit (word d 0) 32, offs, fld (word d 6) 11 0, fld (word d 6) 31 16⟩

/-- Allotment block `c` of an image. -/
def blockOf (s : State) (proc img : Nat) (d : Directory) (c : Nat) : Block :=
  let b := s.readVirt proc (img + d.offs.getD 3 0 + 16 * c) 16
  let at_ := fun (i : Nat) => b / 256 ^ i % 256
  ⟨at_ 0, at_ 1, at_ 2, at_ 3, at_ 4, at_ 5, at_ 6, at_ 7, at_ 8, at_ 9 / 16, at_ 9 % 16, at_ 10 + 256 * at_ 11⟩

/-- The manifest: address and length of each extent. -/
def manifestOf (s : State) (proc img : Nat) (d : Directory) : List (Nat × Nat) :=
  (List.range d.extents).map fun i =>
    let e := s.readVirt proc (img + d.offs.getD 1 0 + 16 * i) 16
    (word e 0, word e 1)

/-- The preload list: kind, target, image offset and length of each entry. -/
def preloadsOf (s : State) (proc img : Nat) (d : Directory) : List (Nat × Nat × Nat × Nat) :=
  (List.range d.preloads).map fun i =>
    let e := s.readVirt proc (img + d.offs.getD 2 0 + 16 * i) 16
    (fld e 31 0, fld e 63 32, fld e 95 64, fld e 127 96)

/-- ALLOT as a block gives it (07 R145); an empty quay or tile range is marked in `bare`. -/
def Block.allot (b : Block) : Word :=
  BitVec.ofNat 64 (b.km % 16 * 2 ^ 60 + b.am * 2 ^ 52 + b.lk * 2 ^ 48 + b.bb % 32 * 2 ^ 43 + (b.bl - 1) % 32 * 2 ^ 38
    + b.mb % 16 * 2 ^ 34 + (b.ml - 1) % 16 * 2 ^ 30 + b.qb % 128 * 2 ^ 23 + (b.ql - 1) % 128 * 2 ^ 16 + b.hb % 32 * 2 ^ 11
    + (b.hl - 1) % 32 * 2 ^ 6)

/-- The stores that a block leaves out. -/
def Block.bare (b : Block) : Nat := (if b.ql = 0 then 1 else 0) + if b.hl = 0 then 2 else 0

/-- A context with the allotment of a block. -/
def Block.ctx (b : Block) : Ctx := { allot := b.allot, bare := b.bare }

/-- A block inside the limits of its stores (01 R20, 07 R145). -/
def Block.inside (b : Block) (bundles : Nat) : Bool :=
  decide (1 ≤ b.bl ∧ b.bb + b.bl ≤ 32 ∧ bundles ≤ 64 * b.bl ∧ 1 ≤ b.ml ∧ b.mb + b.ml ≤ 16 ∧ b.cbk ≤ 256)
    && (b.ql == 0 || decide (b.qb + b.ql ≤ 96)) && (b.hl == 0 || decide (b.hb + b.hl ≤ 28))

/-- `n` ones from bit `b` on. -/
def ones (b n : Nat) : Nat := (2 ^ n - 1) * 2 ^ b

/-- The units that a context's allotment holds, as masks: berth, quay, tiles, bundles, latches, charts, lock rotations (07 R145, R150). -/
def unitsOf (c : Ctx) : List Nat :=
  [ones (c.allotF 37 34) (c.allotF 33 30 + 1), if bit c.bare 0 then 0 else ones (c.allotF 29 23) (c.allotF 22 16 + 1),
   if bit c.bare 1 then 0 else ones (c.allotF 15 11) (c.allotF 10 6 + 1), ones (c.allotF 47 43) (c.allotF 42 38 + 1),
   c.allotF 59 52, c.allotF 63 60, c.lk]

/-- Whether two contexts hold a unit in common. -/
def unitsMeet (a b : Ctx) : Bool := ((unitsOf a).zip (unitsOf b)).any fun e => Nat.land e.1 e.2 != 0

/-! ### Windows (18 R300, R303) -/

/-- The first page of the pilot's pool, at the end of HBM (log 20). -/
def poolBase : Nat := 2 ^ 24 - 2 ^ 20

/-- The pages of the pool that live gangs hold. -/
def poolUsed (s : State) : List Nat := s.liveGangs.flatMap fun e => e.2.pages.map fun p => p.1

/-- The first page from `i` on that is not among `n` used ones. -/
def freePage (used : List Nat) : Nat → Nat → Nat
  | 0, i => i
  | n + 1, i => if used.contains i then freePage used n (i + 1) else i

/-- The pool page of a page `t` of the capacity tier: the one it has among `pages`, or a further one; none when the pool is empty. -/
def stagePage (s : State) (t : Nat) (w : Bool) (pages : List (Nat × Nat × Bool)) : Option (Nat × List (Nat × Nat × Bool)) :=
  match pages.find? fun p => p.2.1 == t with
  | some g => some (g.1, pages.map fun p => if p.2.1 == t then (p.1, t, p.2.2 || w) else p)
  | none =>
    let used := poolUsed s ++ pages.map fun p => p.1
    let g := freePage used used.length poolBase
    if g < 2 ^ 24 then some (g, pages ++ [(g, t, w)]) else none

/-- The window extent of one 64 KiB unit of a process, with the pages staged: none when its walk fails or its target is reserved. A page
of the capacity tier with STG = 1 maps a page of the pilot's pool. -/
def unitExtent (s : State) (proc va : Nat) (pages : List (Nat × Nat × Bool)) : Option (Extent × List (Nat × Nat × Bool)) :=
  match s.walk proc va with
  | none => none
  | some l =>
    let pa := l.pa + va % l.size / 2 ^ 16 * 2 ^ 16
    let tgt := pa / 2 ^ 48
    if (physKey pa).isNone then none
    else if tgt = 1 ∧ l.stg then
      (stagePage s (pa / 2 ^ 16) l.w pages).map fun g => ({ va := va / 2 ^ 16, len := 1, pa := g.1, w := l.w }, g.2)
    else some ({ va := va / 2 ^ 16, len := 1, pa := pa / 2 ^ 16, ns := tgt != 0, w := l.w }, pages)

/-- Whether the second extent goes on where the first ends: virtually and physically contiguous on one target, with one
W. -/
def Extent.meets (a b : Extent) : Bool :=
  a.va + a.len == b.va && a.pa + a.len == b.pa && a.w == b.w && a.ns == b.ns && a.pa / 2 ^ 32 == b.pa / 2 ^ 32

/-- An extent put at the end of a window, most recent first. -/
def growWindow (w : List Extent) (e : Extent) : List Extent :=
  match w with
  | [] => [e]
  | a :: r => if a.meets e then { a with len := a.len + e.len } :: r else e :: w

/-- The pages of a manifest, each once, in ascending order. -/
def manifestPages (m : List (Nat × Nat)) : List Nat :=
  sortBy (fun a b => decide (a ≤ b)) (m.flatMap fun e =>
    if e.2 = 0 then [] else (List.range ((e.1 + e.2 - 1) / 2 ^ 16 - e.1 / 2 ^ 16 + 1)).map fun i => e.1 / 2 ^ 16 + i).eraseDups

/-- The window of a manifest and the pages it stages; none when the launch is rejected. -/
def buildWindow (s : State) (proc : Nat) (m : List (Nat × Nat)) : Option (List Extent × List (Nat × Nat × Bool)) :=
  let r := (manifestPages m).foldl (fun (a : Option (List Extent × List (Nat × Nat × Bool))) u =>
    a.bind fun p => (unitExtent s proc (u * 2 ^ 16) p.2).map fun e => (growWindow p.1 e.1, e.2)) (some ([], []))
  r.bind fun p => if p.1.length ≤ 4096 then some (p.1.reverse, p.2) else none

/-- What the pilot reads of an image for its checks: the directory, and when those before the manifest's have passed the blocks, the manifest,
the preload list and the page tables (18 R308, 20 R332). -/
def State.readImage (s : State) (proc img : Nat) (all : Bool) : State :=
  match directoryOf s proc img with
  | none => s.touchVirt proc (img + 64) 64
  | some d =>
    let s := s.touchVirt proc (img + 64) 64
    if !all then s
    else
      let at_ := fun (i : Nat) => img + d.offs.getD i 0
      let s := ((s.touchVirt proc (at_ 3) 64).touchVirt proc (at_ 1) (16 * d.extents)).touchVirt proc (at_ 2) (16 * d.preloads)
      (manifestPages (manifestOf s proc img d)).foldl (fun s u => s.touchWalk proc (u * 2 ^ 16)) s

/-! ### The fields of a LAUNCH packet (20 R330) -/

/-- The fields of a packet. -/
structure Launch where
  job : Nat
  tag : Nat
  img : Nat
  core0 : Nat
  ncore : Nat
  ctx0 : Nat
  nctx : Nat
  share : Nat
  gidx : Nat
  nmod : Nat
  hthr : Nat
  wlim : Nat
  hent : Option Nat
  grace : Nat
  hold : Bool
  shrw : Bool
  tick : Nat
  record : Nat
  seed : Nat
  deriving DecidableEq, Repr

/-- A packet's fields. -/
def launchOf (p : Nat) : Launch :=
  let w := word p
  { job := fld (w 0) 63 32, tag := fld (w 0) 31 16, img := w 1, core0 := fld (w 2) 9 0, ncore := fld (w 2) 19 10
    ctx0 := fld (w 2) 21 20, nctx := fld (w 2) 23 22, share := fld (w 2) 35 24, gidx := fld (w 2) 43 36
    nmod := fld (w 2) 55 44, hthr := fld (w 3) 31 0, wlim := fld (w 3) 63 32
    hent := if bit (w 4) 11 then some (fld (w 4) 10 0) else none, grace := fld (w 4) 31 16, hold := bit (w 4) 32
    shrw := bit (w 4) 33, tick := w 5, record := w 6, seed := w 7 }

/-- TYPE and the reserved fields as R329 and R330 require. -/
def packetWell (p : Nat) : Bool :=
  let w := word p
  fld (w 0) 7 0 == 1 && fld (w 0) 15 9 == 0 && fld (w 1) 5 0 == 0 && fld (w 2) 63 56 == 0 && fld (w 2) 35 24 != 0
    && decide (fld (w 2) 21 20 + fld (w 2) 23 22 ≤ 3) && fld (w 4) 15 12 == 0 && fld (w 4) 63 34 == 0 && w 6 % 32 == 0

/-- A packet with another TICK. -/
def withTick (p t : Nat) : Nat := p - word p 5 * 2 ^ 320 + t % 2 ^ 64 * 2 ^ 320

/-- The cores of a launch. -/
def Launch.cores (l : Launch) : List Nat := (List.range (l.ncore + 1)).map fun i => l.core0 + i

/-- The member contexts of a launch. -/
def Launch.members (l : Launch) : List Nat :=
  l.cores.flatMap fun c => (List.range (l.nctx + 1)).map fun k => 4 * c + l.ctx0 + k

/-! ### Cluster-berth windows (15 R254) -/

/-- The windows that resident contexts hold on a cluster, in KiB, with the job of those that share one. -/
def windowsOn (s : State) (clu : Nat) : List (Nat × Nat × Option Nat) :=
  (List.range 16).filterMap fun i =>
    let x := 16 * clu + i
    let c := s.ctx x
    if c.resident && (c.cbLen != 0 || (s.gangOf x).shrw) then
      some (c.cbBase / 1024, c.cbLen / 1024, if (s.gangOf x).shrw then some (s.gangOf x).job else none)
    else none

/-- Whether KiB `b` to `b + n - 1` are free of the windows in `ws`. -/
def kibFree (ws : List (Nat × Nat × Option Nat)) (b n : Nat) : Bool :=
  decide (b + n ≤ 256) && ws.all fun w => w.2.1 == 0 || decide (b + n ≤ w.1 ∨ w.1 + w.2.1 ≤ b)

/-- The base of a window of `n` KiB: the job's shared base, or where it is new the lowest free KiB; or the lowest base at
which a window of its own fits. -/
def windowBase (ws : List (Nat × Nat × Option Nat)) (job : Nat) (shrw : Bool) (n : Nat) : Option Nat :=
  if shrw then
    let others := ws.filter fun w => w.2.2 != some job
    let base := match ws.find? fun w => w.2.2 == some job with
      | some w => some w.1
      | none => (List.range 256).find? fun b => kibFree others b 1
    if n = 0 then some (base.getD 0) else base.bind fun b => if kibFree others b n then some b else none
  else if n = 0 then some 0
  else (List.range 256).find? fun b => kibFree ws b n

/-! ### The checks (20 R332) -/

/-- A member context to be: its number, block and cluster-berth base in KiB. -/
abbrev Place1 := Nat × Block × Nat

/-- The block of a member context: that of its context number, with the window length that the pilot has been told for it (16 R277, log
82). -/
def memberBlock (s : State) (blocks : List Block) (x : Nat) : Block :=
  let b := blocks.getD (x % 4) ⟨0, 0, 0, 0, 0, 0, 0, 0, 0, 0, 0, 0⟩
  match SMap.get 0 s.mod.cbk x with
  | 0 => b
  | n + 1 => { b with cbk := n }

/-- The allotments placed exactly where the blocks say, one member after another; none when a unit is not free. -/
def placeAll (s : State) (l : Launch) (d : Directory) (blocks : List Block) (routines : List Nat) : List Nat → List Place1 → Option (List Place1)
  | [], done => some done
  | x :: xs, done =>
    let b := memberBlock s blocks x
    let core := coreOf x
    let here := ((List.range 4).map fun i => 4 * core + i).filter fun y => (s.ctx y).resident && !(s.ctx y).saved
    let mine := (done.filter fun p => coreOf p.1 == core).map fun p => p.2.1.ctx
    let clu := clusterOf core
    let ws := windowsOn s clu ++ (done.filter fun p => clusterOf (coreOf p.1) == clu && (p.2.1.cbk != 0 || l.shrw)).map fun p =>
      (p.2.2, p.2.1.cbk, if l.shrw then some l.job else none)
    if !b.inside d.bundles || (s.ctx x).resident || here.any (fun y => unitsMeet (s.ctx y) b.ctx) || mine.any (unitsMeet · b.ctx)
        || (b.am != 0 && here.any fun y => (s.ctx y).allotF 59 52 != 0)
        || here.any (fun y => (s.gangOf y).routines.any routines.contains) then none
    else (windowBase ws l.job l.shrw b.cbk).bind fun base => placeAll s l d blocks routines xs (done ++ [(x, b, base)])

/-- A preload inside its store and clear of the save areas, and of an own berth inside the allotment of a member's block. The kinds have
the numbers 0 to 3 in the order in which R331 names them, and `.berth` (01 R18) has 4 (log 51). -/
def preloadFits (blocks : List Block) (e : Nat × Nat × Nat × Nat) : Bool :=
  match e.1 with
  | 0 => decide (512 * e.2.1 + e.2.2.2 ≤ 512 * 3072)
  | 1 => decide (4096 * e.2.1 + e.2.2.2 ≤ 4096 * 224)
  | 2 => decide (e.2.1 < 4)
  | 3 => decide (64 ≤ e.2.1 ∧ e.2.1 < 256)
  | 4 => blocks.any fun b => decide (4096 * b.mb ≤ e.2.1 ∧ e.2.1 + e.2.2.2 ≤ 4096 * (b.mb + b.ml))
  | _ => false

/-- What a launch needs that its checks have found. -/
structure Plan where
  l      : Launch
  d      : Directory
  window : List Extent
  pages  : List (Nat × Nat × Bool)
  manifest : List (Nat × Nat)
  places : List Place1
  pre    : List (Nat × Nat × Nat × Nat)
  part   : Nat
  deriving DecidableEq, Repr

/-- The dock accepts launches (21 R348). -/
def State.docked (s : State) : Bool := s.mod.mstat.getLsbD 8

/-- Cores that gangs hold on the dock. -/
def dockBusy (s : State) : Nat := ((s.liveGangs.filter fun e => e.2.dock).map fun e => e.2.cores.length).foldl (· + ·) 0

/-- The gang that a fabric launch names by job and gang index. -/
def fabricGang (s : State) (gid : Nat) : Option (Nat × Gang) :=
  s.liveGangs.find? fun e => e.2.nmod != 0 && e.2.job * 256 + e.2.gidx == gid

/-- The checks of a LAUNCH of queue `q` in their order (20 R332): the cause of the first that fails, or the plan. `owner`
is the process of the launching context of a device launch. -/
def checkLaunch (s : State) (q : Nat) (owner : Option Nat) (p : Nat) : Nat ⊕ Plan :=
  let l := launchOf p
  let proc := s.owner q
  if !packetWell p then .inl 1
  else match directoryOf s proc l.img with
  | none => .inl 2
  | some d =>
    if decide (1023 < l.core0 + l.ncore) || l.cores.any (fun c => !(s.core c).avail) then .inl 3
    else if !s.docked && l.cores.any (fun c => (SMap.get {} s.mod.domains (domainOf c)).st != 3) then .inl 4
    else match buildWindow s proc (manifestOf s proc l.img d) with
    | none => .inl 5
    | some (window, pages) =>
      let pre := preloadsOf s proc l.img d
      let blocks := (List.range 4).map fun c => blockOf s proc l.img d c
      let routines := (pre.filter fun e => e.1 == 3).map fun e => e.2.1
      let parts := l.cores.map s.partOf
      match placeAll s l d blocks routines l.members [], parts.headD none with
      | some places, some part =>
        if parts.any (fun e => e != some part) || !(pre.all (preloadFits (places.map fun p => p.2.1)))
            || (l.hold && l.members.any fun x => (s.clu (clusterOf (coreOf x))).holding.isSome)
            || (l.nmod != 0 && (s.fjtOf l.job).isNone)
            || (s.docked && decide (32 < dockBusy s + l.ncore + 1)) then .inl 6
        else if d.compat && (l.ncore != 0 || l.nctx != 0) then .inl 7
        else if (match owner with | some o => o != proc | none => false) || fld (s.queue q).qcfg.toNat 7 4 != part then .inl 8
        else .inr ⟨l, d, window, pages, manifestOf s proc l.img d, places, pre, part⟩
      | _, _ => .inl 6

/-! ### Refill and depth (21 R354) -/

/-- wb per microsecond of a power in mW, at the module's energy per wb. -/
def State.wbPerUs (s : State) (mW : Nat) : Nat := mW * 256 * 10 ^ 6 / Nat.max 1 (s.mod.hlmcal.toNat % 2 ^ 16)

/-- The sum of SHARE over the resident gangs of a partition. -/
def shareSum (s : State) (p : Nat) : Nat := ((s.liveGangs.filter fun e => e.2.part == p).map fun e => e.2.share).foldl (· + ·) 0

/-- The greatest HLMTHR of a gang's members: the one of the depth (log 21). -/
def State.mostThr (s : State) (g : Gang) : Nat := (g.members.map fun x => (s.ctx x).hlmthr.toNat).foldl Nat.max 0

/-- Refill and depth of a gang from its partition's allotment in force; a balance above the depth is cut to it. -/
def State.setRefill (s : State) (gi : Nat) : State :=
  let g := s.gang gi
  let r := s.wbPerUs (s.part g.part).allot * g.share / Nat.max 1 (shareSum s g.part)
  let K := Nat.max (r * 1000) (2 * g.threshold (s.mostThr g) + 262144)
  s.setGang gi { g with refill := r, depth := K, bal := Nat.min g.bal K }

/-- ALLOTMENT_UPDATE (21 R354): every resident gang of the partition takes its refill and depth. -/
def execAllotmentUpdate (p : Nat) (s : State) : Result :=
  .next ((s.liveGangs.filter fun e => e.2.part == p).foldl (fun s e => s.setRefill e.1) s)

namespace State

/-- The least multiple of `n` at or above `T`. -/
def ceilTo (n T : Nat) : Nat := (T + n - 1) / n * n

/-- An update of a partition's gangs at the next TIDE that is a multiple of 16,384. -/
def allotSoon (s : State) (p : Nat) : State := s.timedAt (ceilTo 16384 (s.tide + 1)) (.allotmentUpdate p)

/-! ### Starting the launch (20 R333) -/

/-- The skew bound of a gang: the job's for every gang of a fabric job (17 R288, 22 R365). -/
def skbOf (s : State) (l : Launch) : Nat :=
  let one := fun (f : Nat → Nat) => (l.cores.map f).eraseDups.length == 1
  match s.fjtOf l.job with
  | some e => e.1.toNat % 2 ^ 32
  | none => if one clusterOf then 16 else if one dieOf then 64 else 512

/-- The launch values of a member context (04 R76, 07 R140, 20 R333); PRIV is the pilot's (log 12). -/
def launchCtx (s : State) (gi member owner : Nat) (l : Launch) (d : Directory) (p : Place1) : State :=
  let v := s.freeValue 1
  let b := p.2.1
  let c : Ctx := { resident := true, gang := gi, member := member, pc := 64 * b.bb, allot := b.allot, bare := b.bare
                   psw := BitVec.ofNat 64 (v.1.toNat * 2 ^ 11 + (if d.compat then 2 ^ 10 else 0))
                   hlmthr := BitVec.ofNat 64 l.hthr, wdog := BitVec.ofNat 64 l.wlim, owner := owner
                   seed := BitVec.ofNat 64 l.seed, hent := l.hent, cbBase := 1024 * p.2.2, cbLen := 1024 * b.cbk }
  (v.2.freshenCtx p.1).setCtx p.1 { c with regs := c.regs.seed c.seed }

/-- The bundles of an image written into a member's bundle store. -/
def loadBundles (s : State) (proc img : Nat) (d : Directory) (p : Place1) : State :=
  let key := (Place.bundles (coreOf p.1)).key (16 * (64 * p.2.1.bb))
  let base := img + d.offs.getD 0 0
  (List.range d.bundles).foldl (fun s i => s.poke (key + 16 * i) 16 (s.readVirt proc (base + 16 * i) 16)) (s.touchVirt proc base (16 * d.bundles))

/-- One preload written into the stores of a core (06 R127, 09 R200). -/
def preload (s : State) (proc img core : Nat) (e : Nat × Nat × Nat × Nat) : State :=
  let v := s.readVirt proc (img + e.2.2.1) e.2.2.2
  let s := s.touchVirt proc (img + e.2.2.1) e.2.2.2
  match e.1 with
  | 0 => s.poke ((Place.quay core).key (512 * e.2.1)) e.2.2.2 v
  | 1 => s.poke ((Place.acc core).key (4096 * e.2.1)) e.2.2.2 v
  | 2 => (List.range 8).foldl (fun s k => s.poke (chartKey core k e.2.1) 576 v) s
  | 4 => s.poke ((Place.berth core).key e.2.1) e.2.2.2 v
  | _ => s.poke ((Place.routine core).key (64 * e.2.1)) 64 (routineForm s e.2.1 v)

/-- The charge of the chart and routine preloads of one core, in wb. -/
def preloadWb (pre : List (Nat × Nat × Nat × Nat)) : Nat :=
  (pre.map fun e => if e.1 = 2 then 4608 else if e.1 = 3 then 512 else 0).foldl (· + ·) 0

/-- What the pilot account is charged for one member's bundles and one core's berth data, in wb (R333, log 82). -/
def bundleWb (d : Directory) : Nat := 128 * d.bundles
def berthWb (pre : List (Nat × Nat × Nat × Nat)) : Nat := (pre.map fun e => if e.1 = 4 then 8 * e.2.2.2 else 0).foldl (· + ·) 0

/-- CAPCAUSE of the members of a gang: the causes and changes of its partition, and a revocation that is pending (21
R357). -/
def showCauses (s : State) (gi : Nat) : State :=
  let g := s.gang gi
  let p := s.part g.part
  let rev := g.leases.any fun l => l.2.2
  g.members.foldl (fun s x => s.updCtx x fun c =>
    { c with capcause := BitVec.ofNat 64 (p.cause % 64 + (if rev then 2 ^ 6 else 0) + p.chg % 2 ^ 16 * 2 ^ 48) }) s

/-- `hostSeen` at the tail-pointer write that released a task: that of its packet or table, or of its stream's last; none of a device
launch (19 R321, log 80). -/
def releasedAt (s : State) (q seq kind : Nat) : Nat :=
  if kind = 3 then (s.queue q).rel
  else (((s.queue q).tasks.find? fun t => t.seq == seq).map fun t => t.rel).getD 0

/-- A gang made from a plan, with its members, stores and meter; its number and the state after it. The balance that a
meter starts with is a free value (log 21). -/
def makeGang (s : State) (q seq kind : Nat) (pl : Plan) : Nat × State :=
  let f := s.fresh
  let gi := f.1 + 1
  let l := pl.l
  let proc := s.owner q
  let b := f.2.freeValue 64
  let s := b.2.setGang gi {
    live := true, job := l.job, gidx := l.gidx, tag := l.tag, queue := q, packet := seq, kind := kind, record := l.record
    process := proc, part := pl.part, members := l.members, share := l.share, skb := s.skbOf l, hold := l.hold
    shrw := l.shrw, grace := l.grace, nmod := l.nmod, tick := l.tick, deficit := l.share * 4096 * l.members.length
    window := pl.window, manifest := pl.manifest, pages := pl.pages, staged := pl.pages.isEmpty, dock := s.docked
    routines := (pl.pre.filter fun e => e.1 == 3).map fun e => e.2.1, bal := b.1.toNat, rel := s.releasedAt q seq kind }
  let s := pl.places.zipIdx.foldl (fun s e => launchCtx s gi e.2 proc l pl.d e.1) s
  let s := pl.places.foldl (fun s p => s.loadBundles proc l.img pl.d p) s
  let s := l.cores.foldl (fun s c => pl.pre.foldl (fun s e => s.preload proc l.img c e) s) s
  let s := (s.setRefill gi).updGang gi fun g => g.debit (l.cores.length * preloadWb pl.pre)
  let s := if l.hold then (s.gang gi).clusters.foldl (fun s c => s.setClu c { s.clu c with holding := some gi }) s else s
  let s := if s.docked then s else s.chargePilot pl.part (l.members.length * bundleWb pl.d + l.cores.length * berthWb pl.pre)
  let s := if (s.slackOf l.job).queue = 0 then s.setSlack l.job { s.slackOf l.job with queue := q + 1 } else s
  (gi, (s.allotSoon pl.part).showCauses gi)

/-- Whether an earlier task of a gang's queue has no start TIDE yet (20 R336). -/
def ahead (s : State) (gi : Nat) : Bool :=
  s.liveGangs.any fun e => decide (e.1 < gi) && e.2.queue == (s.gang gi).queue && e.2.start.isNone

/-- The start TIDE of a gang of this module that is ready at TIDE `R` and has its pages at `Q`: chosen once every earlier task of its
queue has one, and never below theirs (20 R334, R336). -/
def pickStart (s : State) (gi R Q : Nat) : State :=
  let g := s.gang gi
  if !g.live ∨ g.start.isSome then s
  else if s.ahead gi then s.timedAt (s.tide + 1) .gangStart { id := gi, slot := 1, t := R, cap := BitVec.ofNat 64 Q }
  else
    let R := Nat.max R (s.tide + 1)
    let tick := ceilTo 4096 (s.tideOf g.tick)
    let S := if g.tick ≠ 0 ∧ R ≤ tick then tick else ceilTo 4096 (if g.staged then R else Nat.max R Q)
    let S := Nat.max S (s.queue g.queue).lastS
    let s := s.setQueue g.queue { s.queue g.queue with lastS := S }
    let s := s.updGang gi fun g => { g with start := some S }
    s.timedAt S .gangStart { id := gi }

/-- The clock ratio that a module's members of a fabric gang run at goes to the other modules of its job (21 R359). -/
def tellRatio (s : State) (gid md r : Nat) (via : Option Nat) : State :=
  s.sendJob (gid / 256) via { id := 0, kind := .ratio, b := r, c := gid, data := md }

/-- The launch of a gang: steps 1 to 5 and the staging end at free times (log 19), and its start is chosen. A gang of several modules
reports its readiness instead (22 R366). -/
def schedule (s : State) (gi : Nat) : State :=
  let g := s.gang gi
  let a := s.freeValue 16
  let b := a.2.freeValue 24
  let R := s.tide + 1 + a.1.toNat
  let Q := s.tide + 1 + b.1.toNat
  let s := if g.staged then b.2 else b.2.timedAt Q .stagingComplete { id := gi }
  if g.nmod ≠ 0 then
    let r := (s.part g.part).ratio
    let s := if r = 0 then s else s.tellRatio (g.job * 256 + g.gidx) s.modNum r none
    (s.updGang gi fun g => { g with ready := true }).timedAt R (.gangReadyReport (g.job * 256 + g.gidx) s.modNum [])
  else s.pickStart gi R Q

/-- A launch of queue `q` checked and started; one that is rejected leaves its record. `seq` is the number of its packet, of its TABLE,
or of its stream. -/
def launch (s : State) (q seq kind : Nat) (owner : Option Nat) (p : Nat) : State :=
  let l := launchOf p
  match checkLaunch s q owner p with
  | .inl cause =>
    let s := if cause = 1 then s else s.readImage (s.owner q) l.img (decide (4 < cause))
    let gid := l.job * 256 + l.gidx
    let s := if l.nmod = 0 then s
      else (s.updMod fun m => { m with reports := m.reports.filter fun r => r.1 != gid, firsts := m.firsts.filter fun r => r.1 != gid }).sendJob l.job none { id := 0, kind := .report, b := gid }
    if kind = 0 ∨ kind = 1 then s.finishPacket q seq 1 cause 0
    else s.completion (s.owner q) l.record l.job l.tag 1 cause 0
  | .inr pl =>
    let r := (s.readImage (s.owner q) l.img true).makeGang q seq kind pl
    r.2.schedule r.1

end State

/-! ### The start of a gang (20 R334, 18 R303) -/

namespace State

/-- Whether the slots of all of a gang's cores are free for it. -/
def slotsFree (s : State) (gi : Nat) : Bool :=
  (s.gang gi).cores.all fun c => match (s.core c).holder with
    | none => true
    | some h => (s.ctx (4 * c + h)).gang == gi || !(s.ctx (4 * c + h)).resident

/-- A gang at its start TIDE: count 0 issues, or it starts frozen at count 0 for want of staged pages or of the slot. -/
def startGang (s : State) (gi : Nat) : State :=
  let g := s.gang gi
  if !g.live ∨ g.run ≠ .waiting then s
  else
    let free := g.dock || s.slotsFree gi
    let late := (g.tick ≠ 0 ∧ ceilTo 4096 (s.tideOf g.tick) < s.tide) ∨ !g.staged
    let s := if late then s.eventOpen g.part 6 else s
    let s := if free then g.members.foldl (fun s x =>
        let k := s.core (s.slotKey x)
        s.setCore (s.slotKey x) { k with holder := match k.holder with | some h => some h | none => some (x % 4) }) s
      else s
    let s := s.setGang gi { s.gang gi with run := .running, sch := 0, cyc := 0, anchor := 0, start := some s.tide }
    let k := s.slackOf g.job
    let whys := (if g.staged then [] else [Why.staging]) ++ (if free then [] else [Why.slot])
      ++ (if k.st = 1 ∨ k.st = 2 then [Why.slack] else [])
      ++ (if s.holds gi .ratio then [] else [Why.ratio]) ++ (if s.runsAt g s.tide then [] else [Why.clock])
    if whys.isEmpty then s else s.freezeNow gi whys

end State

/-- GANG_START (20 R334): count 0 of the frame's gang; in slot 1 its start is still to be chosen. -/
def execGangStart (s : State) : Result :=
  .next (if s.fr.slot = 1 then s.pickStart s.fr.id s.fr.t s.fr.cap.toNat else s.startGang s.fr.id)

/-- STAGING_COMPLETE (18 R303): every staged page has been copied into its pool page. -/
def execStagingComplete (s : State) : Result :=
  let gi := s.fr.id
  let g := s.gang gi
  let s := g.pages.foldl (fun s e =>
    match physKey (e.2.1 * 2 ^ 16), physKey (e.1 * 2 ^ 16) with
    | some src, some dst => s.copyPage src dst
    | _, _ => s) s
  .next (if g.live then s.updGang gi fun g => { g with staged := true } else s)

end Sys2Proof.Machine
end

