-- ==== Sys2Proof/Machine/Queues.lean ====
section
/-! DEFINITION. Queues, packets, device launches, command streams and the services of SYS (08 R184, R187, 20 R326 to R340,
R345, R346). -/

namespace Sys2Proof.Machine

namespace State

/-! ### The ring (20 R327, R328) -/

/-- The key of entry `i` of a queue's ring. -/
def ringKey (s : State) (q i : Nat) : Option Nat :=
  let k := s.queue q
  (physKey (fld k.qbase.toNat 51 6 * 64)).map fun b => b + 64 * (i % 2 ^ fld k.qcfg.toNat 3 0)

/-- The packet at entry `i`. -/
def packetAt (s : State) (q i : Nat) : Nat :=
  match s.ringKey q i with
  | some k => s.mem.readN k 64
  | none => 0

/-- The bytes of an item. -/
def itemPacket (s : State) (q : Nat) (e : QItem) : Nat :=
  match e.idx with
  | some i => s.packetAt q i
  | none => e.data

/-- Whether the pilots read a queue: firmware is loaded (21 R350), and the queue is enabled. -/
def reads (s : State) (q : Nat) : Bool := s.mod.bank.isSome && (s.queue q).qcfg.getLsbD 8

/-- Whether a queue holds a command stream. -/
def streams (s : State) (q : Nat) : Bool := (s.queue q).qcfg.getLsbD 9

end State

/-- QTAIL_WRITE (20 R328): the packets up to the new tail are released, or the write is refused and recorded. -/
def execQtailWrite (q v : Nat) (s : State) : Result :=
  let k := s.queue q
  let v := v % 2 ^ 32
  let ahead := (v + 2 ^ 32 - k.qhead) % 2 ^ 32
  let n := (v + 2 ^ 32 - k.qtail) % 2 ^ 32
  let used := (k.qtail + 2 ^ 32 - k.qhead) % 2 ^ 32
  if !k.qcfg.getLsbD 8 || decide (2 ^ fld k.qcfg.toNat 3 0 < ahead) || decide (ahead < used) then
    .next (s.eventOpen (fld k.qcfg.toNat 7 4) 11)
  else
    .next (s.setQueue q { k with
      qtail := v
      items := k.items ++ (List.range n).map fun i => { seq := k.nextSeq + i, idx := some ((k.qtail + i) % 2 ^ 32), rel := s.hostSeen }
      rel := s.hostSeen
      nextSeq := k.nextSeq + n })

/-! ### The head of a queue (20 R336) -/

/-- Whether a task with a tag in a queue has not completed: one that has started, a table's or a stream's among them, or a packet
released and not taken up; of the FENCE's own queue, the packets before the FENCE. The entries of a command stream are no packets. -/
def tagOpen (s : State) (own q tag : Nat) : Bool :=
  let k := s.queue q
  (k.tasks.any fun t => t.tag == tag) || (s.liveGangs.any fun e => e.2.queue == q && e.2.tag == tag && (e.2.kind == 2 || e.2.kind == 3))
    || (q != own && ((if s.streams q then [] else k.items) ++ k.dev).any fun e => fld (word (s.itemPacket q e) 0) 31 16 == tag)

/-- The event of a packet, by its TYPE and a DEBUG packet's OP; a packet of another type goes to the LAUNCH checks,
which reject it. -/
def packetEvent (p : Nat) : Instr :=
  match fld (word p 0) 7 0 with
  | 2 => .table
  | 3 => .tilePacket
  | 4 =>
    (match fld (word p 1) 3 0 with
    | 0 => .debugStop
    | 1 => .debugResume
    | 2 => .debugStep
    | 3 => .debugRead
    | 4 => .debugWrite
    | 5 => .debugBreak
    | 6 => .debugTrace
    | 7 => .debugGraph
    | 8 => .debugEnd
    | _ => .launchPacket)
  | 5 => .lease
  | 6 => .fencePacket
  | 7 => .eventPacket
  | _ => .launchPacket

/-- What the pilot takes up next of a queue: of one that holds a command stream, its device launches (log 84). -/
def waiting (s : State) (q : Nat) : List QItem := if s.streams q then (s.queue q).dev else (s.queue q).items

/-- Whether the queue has a task that started before an item and has not completed: one of a packet, of a table's earlier entry, or of
a stream. -/
def earlierOpen (s : State) (q : Nat) (e : QItem) : Bool :=
  ((s.queue q).tasks.any fun t => e.tbl != some t.seq)
    || s.liveGangs.any fun g => g.2.queue == q && (g.2.kind == 3 || (g.2.kind == 2 && e.tbl == some g.2.packet))

/-- The event of the packet at the head of a queue, when nothing holds it. A device launch and a table's entry are LAUNCH packets. -/
def headEvent (s : State) (q : Nat) : Option Instr :=
  if !s.reads q then none
  else match waiting s q with
    | [] => none
    | e :: _ =>
      let p := s.itemPacket q e
      let held := (bit (word p 0) 8 && earlierOpen s q e)
        || (e.idx.isSome && fld (word p 0) 7 0 == 6 && tagOpen s q (fld (word p 1) 7 0) (fld (word p 1) 31 16))
      if held then none else some (if e.idx.isSome then packetEvent p else .launchPacket)

/-- The packet at the head of the queue taken up, with its bytes. A table's entry is no packet of the queue. -/
def takeUp (s : State) (q : Nat) : Option (QItem × Nat × State) :=
  match waiting s q with
  | [] => none
  | e :: r =>
    let p := s.itemPacket q e
    let s := match e.idx.bind (s.ringKey q) with
      | some key => s.touch key 64
      | none => s
    let k := if s.streams q then { s.queue q with dev := r } else { s.queue q with items := r }
    some (e, p, s.setQueue q (if e.tbl.isSome then k
      else { k with tasks := k.tasks ++ [⟨e.seq, fld (word p 0) 31 16, fld (word p 0) 63 32, e.idx, word p 6, e.rel⟩] }))

/-- A packet's meaning over the packet at the head of the frame's queue: `f` gets its number and its bytes. -/
def onPacket (s : State) (f : Nat → Nat → State → State) : Result :=
  .next (match takeUp s s.fr.id with
    | some (e, p, s) => f e.seq p s
    | none => s)

/-- LAUNCH_PACKET (20 R333): the checks, and the launch. -/
def execLaunchPacket (s : State) : Result :=
  let q := s.fr.id
  .next (match takeUp s q with
    | none => s
    | some (e, p, s) =>
      match e.tbl with
      | some seq => (s.launch q seq 2 none p).tableDone q seq
      | none => if e.idx.isSome then s.launch q e.seq 0 none p else s.launch q e.seq 1 (some e.owner) p)

/-- DEVICE_LAUNCH (08 R184, 20 R338): the pilot receives a launch record, which enters the queue of the launching task. -/
def execDeviceLaunch (id : Nat) (s : State) : Result :=
  match s.mod.msgs.find? fun m => m.id == id && m.kind == .launch with
  | none => .next s
  | some m =>
    let q := (s.gangOf m.x).queue
    let s := s.updMod fun k => { k with msgs := k.msgs.filter fun e => e.id != id }
    let k := s.queue q
    let e : QItem := { seq := k.nextSeq, data := m.data, owner := (s.ctx m.x).owner }
    .next (s.setQueue q (if s.streams q then { k with dev := k.dev ++ [e], nextSeq := k.nextSeq + 1 }
      else { k with items := k.items ++ [e], nextSeq := k.nextSeq + 1 }))

/-- TABLE (20 R335): the entries come next in the queue, in table order, each with BASE plus its offset for its TICK. -/
def execTable (s : State) : Result :=
  let q := s.fr.id
  onPacket s fun seq p s =>
    let proc := s.owner q
    let tbl := word p 1
    if fld (word p 0) 15 9 ≠ 0 || tbl % 16 ≠ 0 || !s.mapped proc tbl then s.finishPacket q seq 1 1 0
    else
      let n := fld (word p 2) 11 0 + 1
      let es := (List.range n).map fun e =>
        let w := s.readVirt proc (tbl + 16 * e) 16
        ({ seq := seq, data := withTick (s.readVirt proc (word w 0) 64) (word p 3 + word w 1), tbl := some seq } : QItem)
      let s := (List.range n).foldl (fun s e => s.touchVirt proc (word (s.readVirt proc (tbl + 16 * e) 16) 0) 64) (s.touchVirt proc tbl (16 * n))
      s.setQueue q { s.queue q with items := es ++ (s.queue q).items }

/-- Whether a packet of a queue may act on a gang: the queue's process and partition are the gang's (20 R326). -/
def ownsGang (s : State) (q : Nat) (g : Gang) : Bool := g.process == s.owner q && g.part == fld (s.queue q).qcfg.toNat 7 4

/-- Whether a port takes the word of a TILE packet, as it would that of a TISS (02 R45, 15 R269, 17 R293; log 85). -/
def packetWord (s : State) (x raw : Nat) : Bool :=
  let w := decodeTileFields raw
  let op := fld raw 3 0
  (tileReject s x raw).isNone && (match w.lvl with
    | 2 => (s.clu (clusterOf (coreOf x))).holding == some (s.ctx x).gang
    | 3 => op == 9 || emptyDims w || (dieRefused s x op w).isNone
    | _ => true)

/-- A level-4 word of a fabric word that another module has issued (22 R373): it acts for a member here of the issuer's job, and one that
R45 rejects leaves a fault record with its issuer. The issuer's pilot has checked the addresses. The frame's `t` is that module, `addr` the
word's number there, `id` the job, `capv` holds the word and `cap` the fill value of a TFIL. -/
def farWord (s : State) : State :=
  let raw := s.fr.capv.toNat % 2 ^ 256
  let q := 256 + s.fr.t
  let a := s.fr.addr
  match ((s.liveGangs.find? fun e => e.2.job == s.fr.id).bind fun e => e.2.members.head?), decodeTile raw with
  | some x, some i =>
    (match tileReject s x raw with
    | none | some 4 => if fld raw 6 4 = 4 then { s with agenda := s.agenda ++ [⟨i, { x := x, t := (s.gangOf x).sch, slice := 1, id := q, addr := a, cap := s.fr.cap, rt := true }⟩] }
      else s.wordDone q a 1 1 0
    | some c => s.wordDone q a 1 (c + 2 ^ 8) 0)
  | _, _ => s.wordDone q a 1 1 0

/-- TILE_PACKET (20 R337): a tile word of level 2 to 5 acts for a context of a gang of the packet's job. In slot 1 the
act is the word's end, whose status `t` gives; in slot 2 it is the arrival of a word from another module. -/
def execTilePacket (s : State) : Result :=
  let q := s.fr.id
  if s.fr.slot = 1 then
    .next (s.wordDone q s.fr.addr s.fr.t (if s.fr.t ≠ 2 then 0 else if q < 256 then 21 else s.fr.cap.toNat) (s.now s.fr.x false) s.fr.bits)
  else if s.fr.slot = 2 then .next (farWord s)
  else onPacket s fun seq p s =>
    let raw := p / 2 ^ 64 % 2 ^ 256
    let x := fld (word p 5) 15 0
    let g := s.gangOf x
    let lvl := fld raw 6 4
    if fld (word p 0) 15 9 ≠ 0 || !(s.ctx x).resident || g.job != fld (word p 0) 63 32 then s.finishPacket q seq 1 1 0
    else if !ownsGang s q g then s.finishPacket q seq 1 8 0
    else if decide (lvl < 2) || !packetWord s x raw then s.finishPacket q seq 1 1 0
    else match decodeTile raw with
      | none => s.finishPacket q seq 1 1 0
      | some i =>
        let w := decodeTileFields raw
        let op := fld raw 3 0
        let s := if lvl = 3 ∧ op ≠ 9 ∧ !emptyDims w then s.updGang (s.ctx x).gang fun g => g.debit (dieCharge op w) else s
        { s with agenda := s.agenda ++ [⟨i, { x := x, t := g.sch, slice := 1, id := q, addr := seq, rt := true }⟩] }

/-- EVENT_PACKET (20 R337): a module flag is set. -/
def execEventPacket (s : State) : Result :=
  let q := s.fr.id
  onPacket s fun seq p s =>
    if fld (word p 0) 15 9 ≠ 0 then s.finishPacket q seq 1 1 0
    else (s.setLate .mod (fld (word p 1) 5 0) (3 * 2 ^ 12 + q + 1)).finishPacket q seq 0 0 0

/-- FENCE_PACKET (20 R336): the task that its queue waited for has completed. -/
def execFencePacket (s : State) : Result :=
  let q := s.fr.id
  onPacket s fun seq p s => if fld (word p 0) 15 9 ≠ 0 then s.finishPacket q seq 1 1 0 else s.finishPacket q seq 0 0 0

/-! ### Leases (20 R345) -/

/-- The live gang of a job with a gang index. -/
def gangOfJob (s : State) (job gidx : Nat) : Option Nat :=
  ((s.liveGangs.find? fun e => e.2.job == job && e.2.gidx == gidx).map fun e => e.1)

/-- Whether the bath reserve covers a further rate: the power of all leases in force and of this one, against BATH. -/
def bathCovers (s : State) (rate : Nat) : Bool :=
  let sum := (s.liveGangs.flatMap fun e => e.2.leases.map fun l => l.1).foldl (· + ·) rate
  decide (sum * (s.mod.hlmcal.toNat % 2 ^ 16) ≤ s.mod.mboost.toNat / 2 ^ 32 * 256 * 10 ^ 6)

/-- A lease asked for by a gang: whether it is granted, and the state after it. -/
def grantLease (s : State) (gi rate dur : Nat) : Bool × State :=
  if dur = 0 || decide (100000 < dur) || !bathCovers s rate then (false, s)
  else
    let end_ := s.tide + 32000 * dur
    (true, (s.updGang gi fun g => { g with leases := g.leases ++ [(rate, end_, false)] }).timedAt end_ .leaseExpiry { id := gi })

/-- LEASE (20 R345). -/
def execLease (s : State) : Result :=
  let q := s.fr.id
  onPacket s fun seq p s =>
    if fld (word p 0) 15 9 ≠ 0 then s.finishPacket q seq 1 1 0
    else match gangOfJob s (fld (word p 0) 63 32) (fld (word p 1) 7 0) with
    | none => s.finishPacket q seq 5 0 0
    | some gi =>
      if !ownsGang s q (s.gang gi) then s.finishPacket q seq 1 8 0
      else
      let r := grantLease s gi (fld (word p 2) 31 0) (fld (word p 3) 31 0)
      r.2.finishPacket q seq (if r.1 then 0 else 5) 0 0

/-- The leases of a gang whose time is over end, and its members show whether a revocation is still pending (21 R357). -/
def endLeases (s : State) (gi : Nat) : State :=
  (s.updGang gi fun g => { g with leases := g.leases.filter fun l => decide (s.tide < l.2.1) }).showCauses gi

/-- LEASE_EXPIRY (20 R345): the leases of the frame's gang whose DUR is over end. -/
def execLeaseExpiry (s : State) : Result := .next (endLeases s s.fr.id)

/-- LEASE_REVOCATION (20 R345): the arbiter revokes the leases of the frame's gang: a record, and each raise that it revokes ends 100
microseconds later, or with its DUR. -/
def execLeaseRevocation (s : State) : Result :=
  let gi := s.fr.id
  if (s.gang gi).leases.isEmpty then .next s
  else
    let s := s.updGang gi fun g => { g with leases := g.leases.map fun l => if l.2.2 then l else (l.1, Nat.min l.2.1 (s.tide + 3200000), true) }
    let s := (s.eventOpen (s.gang gi).part 7).showCauses gi
    .next (s.timedAt (s.tide + 3200000) .leaseRevocationEnd { id := gi })

/-- LEASE_REVOCATION_END (20 R345). -/
def execLeaseRevocationEnd (s : State) : Result := .next (endLeases s s.fr.id)

/-! ### Services (08 R187, 20 R346) -/

/-- A SYS request that has not been answered. -/
def sysMsg (s : State) (id : Nat) : Option Msg := s.mod.msgs.find? fun m => m.id == id && m.kind == .sys

/-- A service's reply, which performs at a free time (log 11). -/
def sysAnswer (s : State) (id : Nat) (reply : Word) : State :=
  let t := s.freeValue 16
  let s := t.2.updMod fun m => { m with msgs := m.msgs.map fun e => if e.id == id then { e with data := reply.toNat, c := 1 } else e }
  s.timedAt (s.tide + 1 + t.1.toNat) (.sysReply id)

/-- A service over the request of its number: the reply and the state after it. -/
def service (s : State) (id : Nat) (f : Msg → State → Word × State) : Result :=
  .next (match sysMsg s id with
    | none => s
    | some m =>
      let r := f m s
      sysAnswer r.2 id r.1)

/-- A reply that differs from run to run is an input of the run (23 R394). -/
def sysInput (s : State) (m : Msg) (v : Nat) : State :=
  s.traceRec (s.gangOf m.x).job 4 6 m.fr.addr m.x 2 m.d s.tide v

/-- SYS_NOP (20 R346). -/
def execSysNop (id : Nat) (s : State) : Result := service s id fun _ s => (0, s)

/-- SYS_CLOCK (20 R346): launch-clock time at the receipt. -/
def execSysClock (id : Nat) (s : State) : Result :=
  service s id fun m s => (BitVec.ofNat 64 s.clock, sysInput s m s.clock)

/-- SYS_LEASE (20 R346). -/
def execSysLease (id : Nat) (s : State) : Result :=
  service s id fun m s =>
    let r := grantLease s (s.ctx m.x).gang (m.data % 2 ^ 32) (m.data / 2 ^ 32 % 2 ^ 32)
    (if r.1 then 1 else 0, r.2)

/-- SYS_TOKENS (20 R346). -/
def execSysTokens (id : Nat) (s : State) : Result :=
  service s id fun m s => (BitVec.ofNat 64 (s.ctx m.x).tokens, sysInput s m (s.ctx m.x).tokens)

/-- SYS_USER_RECORD (20 R346): a user record with the argument in D1. -/
def execSysUserRecord (id : Nat) (s : State) : Result :=
  service s id fun m s =>
    let a := s.freeValue 32
    let b := a.2.freeValue 64
    (0, b.2.eventRec (s.gangOf m.x).part 8 a.1.toNat m.data b.1.toNat)

/-- SYS_REPLY (08 R187): the reply performs in the own-berth word of the request, and then its core flag is set. A number
that the pilot does not serve is answered with all ones. DESIGN CHOICE (log 95): a reply waits while its context is saved. -/
def execSysReply (id : Nat) (s : State) : Result :=
  match sysMsg s id with
  | none => .next s
  | some m =>
    if m.c = 0 then .next (sysAnswer s id (BitVec.allOnes 64))
    else
      let c := s.ctx m.x
      let core := coreOf m.x
      let gone := s.updMod fun k => { k with msgs := k.msgs.filter fun e => e.id != id }
      if !c.resident then .next gone
      else if c.saved || c.saving then .next (s.timedAt (s.tide + 1) (.sysReply id))
      else
        let s := gone
        let s := s.pilotWrite ((Place.berth core).key (c.berthRange.1 + 8 * m.b)) 8 m.data none
        .next (s.setLate (.core core) (m.b % 16) (3 * 2 ^ 12 + (s.gangOf m.x).queue + 1))

/-! ### Command streams (20 R340) -/

/-- Where a stream stands: where it was, or at the ring entry of the oldest packet. A virtual address, or a number of
commands of the ring. -/
def streamPos (s : State) (q : Nat) : Option (Bool × Nat) :=
  match (s.queue q).cspos with
  | some p => some p
  | none => ((s.queue q).items.head?.bind fun e => e.idx).map fun i => (false, 4 * i)

/-- The command at a position, if it has been released. -/
def streamCommand (s : State) (q : Nat) : Bool × Nat → Option Nat
  | (true, va) => some (s.readVirt (s.owner q) va 16)
  | (false, n) =>
    if (s.queue q).items.any fun e => e.idx == some (n / 4) then
      (s.ringKey q (n / 4)).map fun k => s.mem.readN (k + 16 * (n % 4)) 16
    else none

/-- Whether a task that a queue's stream in hand launched has not completed. -/
def streamBusy (s : State) (q : Nat) : Bool :=
  s.liveGangs.any fun e => e.2.queue == q && e.2.kind == 3 && e.2.packet == (s.queue q).strm

/-- The event of a command, by its OP; an illegal one ends the stream with CSEND. -/
def commandEvent (w : Nat) : Instr :=
  match fld w 7 0 with
  | 1 => .csln
  | 2 => .csin
  | 3 => .csjm
  | 4 => .csbr
  | 5 => .cslp
  | 6 => .csel
  | 7 => .cswf
  | _ => .csend

/-- The event of a queue's stream, when nothing holds it. -/
def streamEvent (s : State) (q : Nat) : Option Instr :=
  if !s.reads q || !s.streams q then none
  else match (s.queue q).cswait with
    | some f => if s.flagVal .mod f then some .commandStreamWaitEnd else none
    | none =>
      (streamPos s q).bind fun p => (streamCommand s q p).bind fun w =>
        if bit w 8 && streamBusy s q then none else some (commandEvent w)

/-- A stream's next position. -/
def moveStream (s : State) (q : Nat) (p : Bool × Nat) : State := s.setQueue q { s.queue q with cspos := some p }

/-- The position after a command. -/
def nextCommand : Bool × Nat → Bool × Nat
  | (true, va) => (true, va + 16)
  | (false, n) => (false, (n + 1) % 2 ^ 34)

/-- The ring entry of a command in hand is kept: the entries of a stream up to its last are done with when its record is written (R328). -/
def noteEntry (s : State) (q : Nat) (p : Bool × Nat) : State := if p.1 then s else s.setQueue q { s.queue q with csring := p.2 / 4 }

/-- A stream ends: its record is written at `va`, with JOB and TAG free, and the ring moves past its last entry. -/
def endStream (s : State) (q va status cause : Nat) : State :=
  let a := s.freeValue 32
  let b := a.2.freeValue 16
  let s := b.2.completion (s.owner q) va a.1.toNat b.1.toNat status cause 0
  let k := s.queue q
  let k := { k with items := (k.items.dropWhile fun (e : QItem) => e.idx != some k.csring).drop 1, cspos := none, csloop := [], cswait := none, strm := k.strm + 1 }
  s.setQueue q { k with qhead := k.oldest }

/-- The command at a position is read (18 R308). -/
def touchCommand (s : State) (q : Nat) : Bool × Nat → State
  | (true, va) => s.touchVirt (s.owner q) va 16
  | (false, n) => match s.ringKey q (n / 4) with
    | some k => s.touch (k + 16 * (n % 4)) 16
    | none => s

/-- A command's meaning over its words: `f` gets its position, A and B. One with a reserved bit set is illegal. -/
def onCommand (s : State) (f : Bool × Nat → Nat → Nat → State → State) : Result :=
  let q := s.fr.id
  .next (match (streamPos s q).bind fun p => (streamCommand s q p).map fun w => (p, w) with
    | none => s
    | some (p, w) =>
      let s := touchCommand (noteEntry s q p) q p
      if fld w 15 9 ≠ 0 then endStream s q (word w 1) 1 1 else f p (fld w 63 16) (word w 1) s)

/-- The 32-bit word at A, an input of the run: it is recorded for the jobs of the stream's tasks, and that of a packet which it changes (23
R394). -/
def streamRead (s : State) (q a : Nat) (more : List Nat := []) : Nat × State :=
  let v := s.readVirt (s.owner q) a 4
  let s := s.touchVirt (s.owner q) a 4
  let jobs := (((s.liveGangs.filter fun e => e.2.queue == q && e.2.kind == 3).map fun e => e.2.job) ++ more).eraseDups
  (v, jobs.foldl (fun s j => s.traceRec j 4 6 0 0 3 0 s.tide v) s)

/-- CSEND (20 R340); an OP above 7 ends the stream with STATUS 1 and CAUSE 1. -/
def execCsend (s : State) : Result :=
  let q := s.fr.id
  let op := ((streamPos s q).bind fun p => (streamCommand s q p).map fun w => fld w 7 0).getD 0
  onCommand s fun _ _ b s => if op = 0 then endStream s q b 0 0 else endStream s q b 1 1

/-- A launch by the stream in hand: it starts as soon as it is ready. -/
def streamLaunch (s : State) (q p : Nat) : State := s.launch q (s.queue q).strm 3 none (withTick p 0)

/-- CSLN (20 R340). -/
def execCsln (s : State) : Result :=
  let q := s.fr.id
  onCommand s fun p _ b s => moveStream (streamLaunch (s.touchVirt (s.owner q) b 64) q (s.readVirt (s.owner q) b 64)) q (nextCommand p)

/-- CSIN (20 R340): NCORE comes from the word at A; 0 skips the launch, and a word above 1,024 is rejected with CAUSE 3. -/
def execCsin (s : State) : Result :=
  let q := s.fr.id
  onCommand s fun p a b s =>
    let pk := s.readVirt (s.owner q) b 64
    let l := launchOf pk
    let r := streamRead (s.touchVirt (s.owner q) b 64) q a [l.job]
    let s := r.2
    let s := if r.1 = 0 then s
      else if 1024 < r.1 then s.completion (s.owner q) l.record l.job l.tag 1 3 0
      else streamLaunch s q (pk - l.ncore * 2 ^ 138 + (r.1 - 1) * 2 ^ 138)
    moveStream s q (nextCommand p)

/-- CSJM (20 R340). -/
def execCsjm (s : State) : Result :=
  let q := s.fr.id
  onCommand s fun _ _ b s => moveStream s q (true, b)

/-- CSBR (20 R340). -/
def execCsbr (s : State) : Result :=
  let q := s.fr.id
  onCommand s fun p a b s =>
    let r := streamRead s q a
    moveStream r.2 q (if r.1 = 0 then nextCommand p else (true, b))

/-- CSLP (20 R340): a fifth loop ends the stream. A loop's head is a position: even for the ring, odd for an address. -/
def execCslp (s : State) : Result :=
  let q := s.fr.id
  onCommand s fun p a b s =>
    if 4 ≤ (s.queue q).csloop.length then endStream s q b 1 1
    else
      let r := streamRead s q a
      let n := nextCommand p
      let s := r.2
      let k := s.queue q
      moveStream (s.setQueue q { k with csloop := k.csloop ++ [(2 * n.2 + n.1.toNat, r.1)] }) q n

/-- CSEL (20 R340). -/
def execCsel (s : State) : Result :=
  let q := s.fr.id
  onCommand s fun p _ b s =>
    let k := s.queue q
    match k.csloop.getLast? with
    | none => endStream s q b 1 1
    | some (head, n) =>
      if n - 1 = 0 then moveStream (s.setQueue q { k with csloop := k.csloop.dropLast }) q (nextCommand p)
      else moveStream (s.setQueue q { k with csloop := k.csloop.dropLast ++ [(head, n - 1)] }) q (head % 2 == 1, head / 2)

/-- CSWF (20 R340): the stream waits for a module flag. -/
def execCswf (s : State) : Result :=
  let q := s.fr.id
  onCommand s fun p _ b s =>
    let s := moveStream s q (nextCommand p)
    if s.flagVal .mod (b % 64) then s else s.setQueue q { s.queue q with cswait := some (b % 64) }

/-- COMMAND_STREAM_WAIT_END (20 R340): the flag is 1, and the stream goes on. -/
def execCommandStreamWaitEnd (s : State) : Result :=
  let q := s.fr.id
  .next (match (s.queue q).cswait with
    | some f => if s.flagVal .mod f then s.setQueue q { s.queue q with cswait := none } else s
    | none => s)

end Sys2Proof.Machine
end

