-- ==== Sys2Proof/Machine/Share.lean ====
section
/-! DEFINITION. Fair shares, the meter's refill and boost (07 R152, 20 R342 to R344). -/

namespace Sys2Proof.Machine

/-! ### Credit (20 R342, R344) -/

/-- A gang takes part in credits and decisions after its start TIDE. -/
def State.shares (s : State) (g : Gang) : Bool :=
  !g.dock && (g.run == .running || g.run == .frozen) && (match g.start with | some S => decide (S < s.tide) | none => false)

/-- What a credit adds to a gang's deficit. -/
def Gang.credit4 (g : Gang) : Nat := g.share * 4096 * g.members.length

/-- The boost quantum of a partition in wb (21 R353). -/
def boostQuantum (s : State) (p : Nat) : Nat := fld (s.part p).pcfg.toNat 15 8 * 2 ^ 20

/-- SHARE_CREDIT (20 R342, R344): deficits gain, up to twice the gain; every resident context gains boost tokens. -/
def execShareCredit (s : State) : Result :=
  .next ((s.liveGangs.filter fun e => s.shares e.2).foldl (fun s e =>
    let g := e.2
    let q := g.share * boostQuantum s g.part
    let s := s.updGang e.1 fun g => { g with deficit := min (g.deficit + g.credit4) (2 * g.credit4 : Nat) }
    g.members.foldl (fun s x => s.updCtx x fun c => if c.saved then c else { c with tokens := Nat.min (c.tokens + q) (16 * q) }) s) s)

/-! ### Decision (20 R342, R343) -/

/-- The gang that holds the slot of a core. -/
def holderGang (s : State) (core : Nat) : Option Nat :=
  (s.core core).holder.bind fun h => if (s.ctx (4 * core + h)).resident then some (s.ctx (4 * core + h)).gang else none

/-- A waiter: ready but frozen for want of the slot, its G not chosen. -/
def isWaiter (s : State) (g : Gang) : Bool :=
  s.shares g && g.run == .frozen && g.G.isNone && g.left.contains .slot && g.left.all fun w => match w with | .slot | .yield _ => true | _ => false

/-- Whether a condition leaves the slot free: a wait, a meter pause, a fence, staging, and what makes its gang a waiter or takes a member
off the core. -/
def ownWhy : Why → Bool
  | .wait .. | .meter .. | .fence .. | .staging | .slot | .yield _ | .save _ => true
  | _ => false

/-- Whether a gang leaves its slots free: it is frozen for a condition of its own that has not held yet, and for none of another kind, and
no handler of it issues. -/
def slotFree (s : State) (g : Gang) : Bool :=
  g.run != .running && g.G.isNone && g.left.all ownWhy && g.members.all fun x => match (s.ctx x).handler with | some h => !h.live | none => true

/-- The running gangs that hold slots which gang `w` needs. -/
def rivals (s : State) (w : Nat) : List Nat :=
  (((s.gang w).cores.filterMap (holderGang s)).eraseDups).filter fun h => h != w && !slotFree s (s.gang h)

/-- Whether a frozen gang whose G is chosen takes a slot that gang `w` needs. -/
def slotTaken (s : State) (w : Nat) : Bool :=
  s.liveGangs.any fun e => e.1 != w && !e.2.dock && e.2.run == .frozen && e.2.G.isSome && e.2.cores.any (s.gang w).cores.contains

/-- Whether a switch to gang `w` can be decided now: each slot it needs is free, or its holder has run out and the waiter
has not; and no slot of it is promised to another gang. -/
def canSwitch (s : State) (w : Nat) : Bool :=
  let g := s.gang w
  !slotTaken s w && (rivals s w).all fun h =>
    let k := s.gang h
    s.shares k && k.run == .running && k.heir.isNone && decide (k.deficit ≤ 4096) && decide (4096 ≤ g.deficit)

/-- The lowest context number of a gang's members. -/
def Gang.lowCtx (g : Gang) : Nat := (g.members.map fun x => x % 4).foldl Nat.min 3

/-- Of two waiters the one with the larger deficit, and of equal ones that with the lower context number. -/
def bestWaiter (s : State) : List Nat → Option Nat
  | [] => none
  | w :: ws =>
    match bestWaiter s ws with
    | none => some w
    | some v =>
      let a := s.gang w
      let b := s.gang v
      if a.deficit > b.deficit ∨ (a.deficit = b.deficit ∧ a.lowCtx ≤ b.lowCtx) then some w else some v

/-- The counts that a running gang makes in the next `n` cycles from a multiple of 4,096 on: those in its run periods (21 R359). -/
def State.countsIn (s : State) (g : Gang) (n : Nat) : Nat :=
  ((List.range (n / 4096 + 1)).map fun i => if s.runsAt g (s.tide + 4096 * i) then Nat.min 4096 (n - 4096 * i) else 0).foldl (· + ·) 0

/-- A switch to gang `w`: its G, and the pre-emption of the running holders one cycle before it. A holder with a grace
gets its deadline in YDL, and the G comes no earlier than it allows. A holder that is frozen for a condition of its own is a waiter
from now on. -/
def decideSwitch (s : State) (w : Nat) : State :=
  let g := s.gang w
  let rs := rivals s w
  let grace := 1024 * (rs.map fun h => (s.gang h).grace).foldl Nat.max 0
  let G := s.runPeriod g 4 (State.leastG g.pace g.TF (s.tide + grace + g.skb + 511))
  let selfFrozen := ((g.cores.filterMap (holderGang s)).eraseDups).filter fun h => h != w && (s.gang h).live && slotFree s (s.gang h)
  let s := s.setGang w { g with G := some G, left := [] }
  let s := selfFrozen.foldl (fun s h => (s.toWaiter h).updGang h fun k => { k with heir := none }) s
  rs.foldl (fun s h =>
    let k := s.gang h
    let s := s.setGang h { k with heir := some w }
    let s := if k.grace = 0 then s
      else k.members.foldl (fun s x => s.updCtx x fun c => { c with ydl := BitVec.ofNat 64 (s.reach k + s.countsIn k (1024 * k.grace)) }) s
    s.timedAt (G - 1) .gangFreeze { id := h, slot := 1, addr := w }) s

/-- The decision for one core. -/
def decideCore (s : State) (core : Nat) : State :=
  let here := (List.range 4).map fun i => 4 * core + i
  let gangs := ((here.filter fun x => (s.ctx x).resident).map fun x => (s.ctx x).gang).eraseDups
  match bestWaiter s (gangs.filter fun w => isWaiter s (s.gang w) && canSwitch s w) with
  | none => s
  | some w => decideSwitch s w

/-- SHARE_DECISION (20 R342): every core with resident contexts is considered in turn. -/
def execShareDecision (s : State) : Result :=
  let cores := sortBy (fun a b => decide (a ≤ b)) ((s.liveGangs.flatMap fun e => e.2.cores).eraseDups)
  .next (cores.foldl decideCore s)

/-! ### Refill and boost (07 R152, 20 R344, 21 R354) -/

/-- wb of a rate per microsecond that fall into the cycle at TIDE `T`: 32,000 cycles are one microsecond. -/
def perCycle (rate T : Nat) : Nat := rate * (T % 32000 + 1) / 32000 - rate * (T % 32000) / 32000

/-- Tokens taken from members in their order: what is left to take, and the state after it. -/
def spend (s : State) (n : Nat) : List Nat → State
  | [] => s
  | x :: xs =>
    let t := Nat.min n (s.ctx x).tokens
    spend (s.updCtx x fun c => { c with tokens := c.tokens - t }) (n - t) xs

/-- HLM_REFILL (07 R152): every meter refills for one cycle, leases included; a pause by the meter is helped by boost tokens until it ends
(20 R344). In slot 1 the
pilot gives the meter of the frame's gang the `t` wb of one refill (13 R243). -/
def execHlmRefill (s : State) : Result :=
  if s.fr.slot = 1 then .next (s.updGang s.fr.id fun g => g.credit s.fr.t)
  else .next ((s.liveGangs.filter fun e => !e.2.dock).foldl (fun s e =>
    let g := e.2
    let paused := g.run == .frozen && g.served.any fun w => match w with | .meter _ _ => true | _ => false
    let have_ := (g.members.map fun x => (s.ctx x).tokens).foldl (· + ·) 0
    let boost := if paused then Nat.min have_ (perCycle (s.wbPerUs (s.mod.mboost.toNat % 2 ^ 32)) s.tide) else 0
    let s := if boost = 0 then s else spend s boost g.members
    let rate := (g.leases.map fun l => l.1).foldl (· + ·) g.refill
    let sum := g.frac + rate
    (s.updGang e.1 fun g => { g with frac := sum % 32000 }).updGang e.1 fun g => g.credit (sum / 32000 + boost)) s)

end Sys2Proof.Machine
end

