-- ==== Sys2Proof/Machine/Fabric.lean ====
section
/-! DEFINITION. The fabric: links, arrivals from other modules, fabric launches, slack and resume waves, and the writes of
their registers (22 R361 to R380, 20 R327). -/

namespace Sys2Proof.Machine

namespace State

/-- Link `l`. -/
def link (s : State) (l : Nat) : Link := SMap.get {} s.mod.links l

/-- Link `l` replaced. -/
def setLink (s : State) (l : Nat) (k : Link) : State := s.updMod fun m => { m with links := SMap.put {} m.links l k }

/-- An error record that names no partition: it is posted to every enabled one. -/
def errorAll (s : State) : State := s.partsOn.foldl (fun s p => s.eventOpen p 5) s

end State

/-- The link that a frame names as the one a message came on: `addr` is its number plus one, or 0. -/
def Frame.via (f : Frame) : Option Nat := if f.addr = 0 then none else some (f.addr - 1)

/-! ### Arrivals (22 R368 to R371) -/

/-- The bytes of an arriving granule that its byte enables cover, which the frame bears in `cap`; 0 stands for all. -/
def Frame.bytes (f : Frame) : Nat := if f.cap = 0 then allBytes 64 else f.cap.toNat

/-- The rank of a granule that arrives on a link among the writes of its cycle: a whole one after the copy engines' writes in ascending link
number, one with partial byte enables with the merges (22 R369, 18 R307). -/
def linkRank (link bytes : Nat) : Nat := if bytes = allBytes 64 then 512 + link % 16 else State.pilotWrite.pilotRank

/-- A granule of a post of this job put into HBM after the accesses of its cycle, with its poison; the frame names the poster's bundle and
count for the record of a merge that is lost (18 R307, R310). -/
def putGranule (s : State) (job key data : Nat) (bad : Bool) : State :=
  let m := s.fr.bytes
  let pri := linkRank (s.fr.via.getD 0) m
  let x := ((s.liveGangs.find? fun e => e.2.job == job).bind fun e => e.2.members.head?).getD 0
  let s := if m = allBytes 64 then s.later outside pri (.poke key 64 (data % 2 ^ 512) none)
    else s.later { outside with x := x, bits := s.fr.t, rt := true } pri (.store key 64 (data % 2 ^ 512) m)
  if bad then s.later outside pri (.taint key) else s

/-- BX_SEND_ARRIVAL (22 R368 to R370): the granule performs at count `due` of its gang, after the copy engines' writes,
in ascending link number; until then it is in the hold buffer. In the frame `id` is the link, `cap` its byte enables, and `addr` and `t` the
bundle and the count of its BX.SEND. -/
def execBxSendArrival (gid due va data : Nat) (bad : Bool) (s : State) : Result :=
  let g := s.gang gid
  .next (match g.members.head?, ((coverOf g.window va).map fun e => e.phys va).bind physKey with
    | some x, some key =>
      let m := s.fr.bytes
      let pri := linkRank s.fr.id m
      let s := { s with fr := { x := x, t := 2 ^ 62 + due, addr := s.fr.addr, bits := s.fr.t, rt := true } }
      let s := s.push due (.store key 64 (data % 2 ^ 512) m) pri
      if bad then s.push due (.taint key) pri else s
    | _, _ => s)

/-- The windows of the job's gangs that are resident here, joined (22 R371). -/
def jobWindow (s : State) (job : Nat) : List Extent := (s.liveGangs.filter fun e => e.2.job == job).flatMap fun e => e.2.window

/-- Whether the wave holds a job's gangs now, so that posts to them wait for G (22 R376). -/
def jobHeld (s : State) (job : Nat) : Bool :=
  let k := s.slackOf job
  (k.st == 1 || k.st == 2) && !(k.G.any fun G => decide (G ≤ s.tide))

/-- What the destination answers a post's module: KIND 0 that every granule has performed, else why one was rejected, with this module as
the one that detected it and LINK 0 (22 R371, R372). -/
def answerPost (s : State) (job kind : Nat) : State :=
  s.send { id := 0, kind := .posted, a := s.fr.id, b := kind, c := s.modNum * 2 ^ 8 + kind, d := job, x := s.fr.x, fr := s.fr }

/-- BX_POST_ARRIVAL (22 R371, R372): a granule performs through the job's windows, or is rejected. `rf` says whether the post sets a module
flag: after the last granule the flag is set, once TIDE has passed `after` + 1, and then the acknowledgement goes back; neither where one
granule was rejected. The frame names the poster: `x`, in `id` its module, in `t` its issue count; `re` marks the post's last granule, `addr`
its link plus 1, `cap` its byte enables, and slot 1 what is left when the granules are over. -/
def execBxPostArrival (job va data : Nat) (rf : Bool) (rfn after : Nat) (s : State) : Result :=
  let fr := s.fr
  let me := (fr.id, fr.x, fr.t)
  let again := fun (T : Nat) (s : State) => s.timedAt T (.bxPostArrival job va data rf rfn after) s.fr
  let close := fun (s : State) =>
    if !fr.re && fr.slot != 1 then s
    else if s.mod.rejected.contains me then s.updMod fun m => { m with rejected := m.rejected.filter fun e => e != me }
    else if !rf then answerPost s job 0
    else if after + 1 < s.tide then
      answerPost (s.setLate .mod (rfn % 64) ((fr.id + 1) * 2 ^ 16 + 4 * 2 ^ 12 + fr.x % 4096 + 1)) job 0
    else again (after + 2) { s with fr := { fr with slot := 1 } }
  if fr.slot = 1 then .next (close s)
  else if jobHeld s job then .next (again (s.tide + 1) s)
  else
    let reject := fun (kind : Nat) (s : State) =>
      let s := if s.mod.rejected.contains me then s
        else answerPost (s.updMod fun m => { m with rejected := m.rejected ++ [me] }) job kind
      close s
    match coverOf (jobWindow s job) va with
    | none => .next (reject 1 s)
    | some e =>
      if !e.w then .next (reject 2 s)
      else match physKey (e.phys va) with
        | none => .next (reject 1 s)
        | some key => .next (close (putGranule s job key data (bit data 512)))

/-- FINFO of the link fault of a post (22 R372): MOD, LINK and KIND as `info` brings them, with LINK 0 for a rejection, and its issue count,
which is 0 for a link that has failed. -/
def linkInfo (s : State) (info : Nat) (fr : Frame) : Word :=
  let kind := fld info 47 44
  let link := if kind = 1 ∨ kind = 2 then 0 else fld info 51 48
  BitVec.ofNat 64 (fld info 63 52 * 2 ^ 52 + link * 2 ^ 48 + kind * 2 ^ 44 + if kind = 0 then 0 else { s with fr := fr }.fromAnchor fr.t)

/-- A post ends: every granule of it has performed, and its cluster flag is set; or it was rejected or lost, and its context takes the link
fault at the next bundle boundary (22 R371). -/
def postEnds (s : State) (id info : Nat) (ok : Bool) : State :=
  match s.mod.msgs.find? fun m => m.id == id && m.kind == .posted with
  | none => s
  | some m =>
    let clu := m.b
    let s := s.updMod fun k => { k with msgs := k.msgs.filter fun e => !(e.id == id && e.kind == .posted) }
    let s := s.setClu clu { s.clu clu with posts := (s.clu clu).posts - 1 }
    if !(s.ctx m.x).nonstatic.contains id then s
    else
      let s := s.updCtx m.x fun c => { c with nonstatic := c.nonstatic.filter fun n => n != id
                                              hwait := c.hwait.filter fun n => n != id }
      if ok then s.setLate (.clu clu) (m.a % 16) (4 * 2 ^ 12 + m.x % 4096 + 1)
      else
        let hnd := (s.ctx m.x).handler.isSome
        let F := s.now m.x hnd
        let s := s.traceRec (s.gangOf m.x).job 4 6 (s.ctx m.x).pc m.x 4 (if hnd then (s.gangOf m.x).F else F) s.tide F
        { s with fr := { m.fr with hnd := hnd } }.raiseBoundary 23 (linkInfo s info m.fr) F

/-- BX_POST_ACK (22 R371): what has become of a post. -/
def execBxPostAck (id info : Nat) (ok : Bool) (s : State) : Result := .next (postEnds s id info ok)

/-! ### Links (22 R362 to R364) -/

/-- A link fails (22 R363, R371, R375): the posts that are on their way to the module at its far end are lost with it, each with a link fault
of KIND 0 (log 101), and every fabric job over it is triggered by a pilot. -/
def failLink (s : State) (l : Nat) : State :=
  let k := s.link l
  let s := (s.setLink l { k with st := 3 }).updMod fun m => { m with root := m.num }
  let lost := (s.mod.msgs.filter fun m => m.kind == .posted && fld m.data 63 52 == k.nbr).map fun m => m.id
  let s := { lost.foldl (fun s id => postEnds s id (s.modNum % 4096 * 2 ^ 52 + l % 16 * 2 ^ 48) false) s with fr := s.fr }
  (List.range 16).foldl (fun s n =>
    let w := SMap.get 0 s.mod.fjt (2 * n + 1)
    if w.getLsbD 0 && w.getLsbD (48 + l % 16) then
      let job := (SMap.get 0 s.mod.fjt (2 * n)).toNat / 2 ^ 32
      let sch := ((s.liveGangs.find? fun e => e.2.job == job).map fun e => e.2.sch).getD 0
      s.trigger job { omod := s.modNum, ocore := 0x3FF, code := 23, sch := sch, Ts := s.tide }
    else s) s

/-- FLIT_RECEIVE (22 R363): a flit slot of link `l` ends. A flit that fails its CRC is replayed once; a second failure, or
4,096 slots without a valid header, fails the link. In the frame, slot 1 marks a corrected flit and slot 2 a slot without
one. -/
def execFlitReceive (l : Nat) (ok : Bool) (s : State) : Result :=
  let k := s.link l
  if k.st ≠ 2 then .next s
  else if s.fr.slot = 2 then
    .next (if 4096 ≤ k.silent + 1 then failLink s l else s.setLink l { k with silent := k.silent + 1 })
  else if ok then
    .next (s.setLink l { k with silent := 0, replay := 0, fecc := if s.fr.slot = 1 then Nat.min (k.fecc + 1) 0xFFFF else k.fecc })
  else .next (if k.replay = 0 then s.setLink l { k with replay := 1 } else failLink s l)

/-- LINK_TRAINING_START (22 R362, R363): the module's number takes effect. -/
def execLinkTrainingStart (l : Nat) (s : State) : Result :=
  let s := s.updMod fun m => { m with num := m.modid.toNat % 4096 }
  .next (s.setLink l { s.link l with st := 1, silent := 0, replay := 0 })

/-- LINK_TRAINED (22 R363): LAT is the measured delay and 256 cycles, up to a multiple of 64. The frame holds what training
found: in `t` the delay, in `id` and `slot` the far module and link. The module looks for its TIDE root anew (R364, log 102). -/
def execLinkTrained (l : Nat) (s : State) : Result :=
  let s := s.updMod fun m => { m with root := m.num }
  .next (s.setLink l { s.link l with
    st := 2, lat := (s.fr.t + 256 + 63) / 64 * 64 % 2 ^ 16, delay := s.fr.t, nbr := s.fr.id % 4096, nlnk := s.fr.slot % 16, silent := 0, replay := 0 })

/-- LINK_FAILED (22 R363). -/
def execLinkFailed (l : Nat) (s : State) : Result := .next (failLink s l)

/-- The trim of the clock period toward a neighbour, in parts in 2^20: its TIDE `T` is known with the link's delay (22 R364). -/
def trimFor (s : State) (l T : Nat) : Int :=
  let far := T + (s.link l).delay
  if far < s.tide then 1 else if s.tide < far then -1 else 0

/-- TIDE_EXCHANGE (22 R364, 20 R334): TIDE skips and repeats nothing; each trained link takes this module's TIDE and the root it knows, and
the launch-clock map takes a new reference pair and a new rate, within 1 part in 2^20 of 32 cycles per ns. In slot 1 a neighbour's TIDE, in
`t`, has come with its root, in `addr`, on the link `id`: the lowest number known is the root, and a module that is not the root trims its
period toward the neighbour that it has the root from (log 102). -/
def execTideExchange (s : State) : Result :=
  let up := (List.range 16).filter fun l => (s.link l).st == 2
  if s.fr.slot = 1 then
    if !up.contains s.fr.id then .next s
    else
      let trim := trimFor s s.fr.id s.fr.t
      .next (s.updMod fun m =>
        let root := Nat.min m.num (Nat.min m.root s.fr.addr)
        { m with root := root, trim := if root = m.num then 0 else if s.fr.addr = root then trim else m.trim })
  else if up.isEmpty then .next (s.updMod fun m => { m with root := 4096, trim := 0 })
  else
    let s := s.updMod fun m => { m with root := Nat.min m.num m.root }
    let s := up.foldl (fun s l => s.send { id := 0, kind := .tide, a := l, link := l, b := s.mod.root, data := s.tide }) s
    let v := s.freeValue 1
    let r := v.2.freeValue 6
    .next (r.2.updMod fun m => { m with tau0 := s.clock + v.1.toNat, T0 := s.tide, rate := 2 ^ 25 - 32 + r.1.toNat })

/-! ### Fabric launches (22 R366) -/

/-- An extent as a report carries it. -/
def Extent.word (e : Extent) : Nat :=
  e.va + e.len * 2 ^ 64 + e.pa * 2 ^ 128 + (if e.ns then 2 ^ 192 else 0) + (if e.w then 2 ^ 193 else 0)

/-- The extent of a report. -/
def extentOf (w : Nat) : Extent :=
  { va := w % 2 ^ 64, len := w / 2 ^ 64 % 2 ^ 64, pa := w / 2 ^ 128 % 2 ^ 64, ns := bit w 192, w := bit w 193 }

/-- Whether this module's pilot is the ROOT of a job. -/
def isRoot (s : State) (job : Nat) : Bool :=
  match s.fjtOf job with
  | some e => fld e.2.toNat 47 36 == s.modNum
  | none => true

/-- The skew bound, links and modules of a launch decide its start: a multiple of 4,096 at or above the tick, far enough
from the decision. -/
def fabricStart (s : State) (g : Gang) : Nat :=
  let tick := if g.tick = 0 then 0 else s.tideOf g.tick
  Nat.max (State.ceilTo 4096 (Nat.max tick (s.tide + s.waveSkb g.job + 512))) (s.queue g.queue).lastS

/-- GANG_READY_REPORT (22 R366): module `md` reports the gang `gid`, a job and a gang index, ready with its window; a report goes on
over the job's other links the first time it comes. This module's own report waits until every earlier task of its queue has a start (20
R336). The windows that have come are kept for its sends; and the ROOT pilot, once it holds all reports, chooses the start. -/
def execGangReadyReport (gid md : Nat) (win : List Nat) (s : State) : Result :=
  let job := gid / 256
  let own := md == s.modNum
  let via := s.fr.via
  let win := if own then ((fabricGang s gid).map fun e => e.2.window.map Extent.word).getD [] else win
  let first := !(s.mod.reports.any fun r => r.1 == gid)
  if own && (fabricGang s gid).any fun e => s.ahead e.1 then .next (s.timedAt (s.tide + 1) (.gangReadyReport gid md []))
  else
    let known := s.mod.reports.any fun r => r.1 == gid && r.2.1 == md
    let s := if known then s
      else (s.updMod fun m => { m with reports := m.reports ++ [(gid, md, win)] }).sendJob job via
        { id := 0, kind := .report, b := gid, c := md + 1, data := win.foldl (fun a w => a * 2 ^ 256 + w) 1 }
    let s := if first && isRoot s job then
        (s.updMod fun m => { m with firsts := (m.firsts.filter fun r => r.1 != gid) ++ [(gid, s.tide + 1)] }).timedAt (s.tide + 32000000000)
          .fabricLaunchTimeout { id := gid, t := s.tide + 1 }
      else s
    let rs := s.mod.reports.filter fun r => r.1 == gid
    match fabricGang s gid with
    | none => .next s
    | some (gi, g) =>
      let s := s.setGang gi { g with peers := (rs.filter fun r => r.2.1 != s.modNum).map fun r => (r.2.1, r.2.2.map extentOf) }
      if isRoot s job && g.start.isNone && rs.length == g.nmod + 1 then
        .next (s.timedAt s.tide .startWave { id := gid, t := fabricStart s g })
      else .next s

/-- What is known of a fabric launch is dropped, and the message that ends or starts it goes on: once, while reports of it are kept. -/
def closeReports (s : State) (gid : Nat) (via : Option Nat) (m : Msg) : State :=
  let s := s.updMod fun k => { k with firsts := k.firsts.filter fun r => r.1 != gid }
  if s.mod.reports.any fun r => r.1 == gid then
    (s.updMod fun k => { k with reports := k.reports.filter fun r => r.1 != gid }).sendJob (gid / 256) via m
  else s

/-- FABRIC_LAUNCH_TIMEOUT (22 R366): a gang whose reports have not all come in 1 s after the first, or of which a module rejected its packet,
ends with no member started. The frame's `id` is its job and gang index; of the ROOT pilot's own time-out `t` is the TIDE of the first report
plus 1, and it is void when that launch is over. -/
def execFabricLaunchTimeout (s : State) : Result :=
  let gid := s.fr.id
  let via := s.fr.via
  let m : Msg := { id := 0, kind := .report, b := gid }
  if s.fr.t ≠ 0 ∧ !s.mod.firsts.contains (gid, s.fr.t) then .next s
  else match fabricGang s gid with
  | none => .next (closeReports s gid via m)
  | some (gi, g) =>
    if g.start.isSome then .next s
    else
      let s := if s.mod.reports.any fun r => r.1 == gid then closeReports s gid via m else s.sendJob g.job via m
      .next (s.endGang gi 1 6 0)

/-- START_WAVE (22 R366): the start TIDE of the gang `id`, in `t`, reaches the module and goes on. -/
def execStartWave (s : State) : Result :=
  let gid := s.fr.id
  let S := s.fr.t
  let s := closeReports s gid s.fr.via { id := 0, kind := .start, b := gid, data := S }
  match fabricGang s gid with
  | none => .next s
  | some (gi, g) =>
    if g.start.isSome then .next s
    else
      let s := s.setQueue g.queue { s.queue g.queue with lastS := Nat.max S (s.queue g.queue).lastS }
      .next ((s.setGang gi { g with start := some S }).timedAt S .gangStart { id := gi })

/-! ### Slack waves (22 R375 to R378) -/

/-- A trigger as words 0 to 2 of its record. -/
def triggerOf (w0 w1 w2 : Nat) : Slack :=
  { omod := fld w0 63 52, ocore := fld w0 51 42, octx := fld w0 41 40, addr := fld w0 39 29, code := fld w0 28 21
    arg := fld w0 10 0, sch := w1, Ts := w2 }

/-- SLACK_WAVE_ARRIVAL (22 R375, R378, 23 R386): a wave reaches the module on a link; `hnd` in the frame marks the fault of
a gang wider than one core. In slot 1 the wave is in force here, and its record and trace are written; in slot 2 its record alone, for a
trigger that has merged into it since the freeze. -/
def execSlackWaveArrival (job w0 w1 w2 : Nat) (s : State) : Result :=
  if s.fr.slot = 2 then .next (s.noteSlack job)
  else if s.fr.slot = 1 then
    let k := s.slackOf job
    let s := s.noteSlack job
    .next (s.traceRec job 2 5 k.addr (4 * k.ocore + k.octx) (k.seq % 2 ^ 32) k.sch s.fr.t k.word0)
  else .next (s.waveIn job { triggerOf w0 w1 w2 with wide := s.fr.hnd } s.fr.via)

/-- Whether a frozen job can be resumed (22 R379). -/
def Slack.resumable (k : Slack) : Bool := !(k.wide || (k.code == 23 && k.ocore == 0x3FF))

/-- The live gangs of a job. -/
def jobGangs (s : State) (job : Nat) : List (Nat × Gang) := s.liveGangs.filter fun e => e.2.job == job

/-- Every gang of a job freezes at the count it reaches now; a freeze of its own that the wave had asked of it for later, by a fault or
for a step's end, is not to come (22 R376, R379). -/
def freezeJob (s : State) (job : Nat) : State :=
  let s := (jobGangs s job).foldl (fun s e =>
    (s.updGang e.1 fun g => { g with reqs := g.reqs.filter fun r => r.why != .slack }).stopAt e.1 .slack) s
  let k := s.slackOf job
  (s.setSlack job { k with wave := false, G := none, st := if k.resumable then 1 else 2 }).noteSlack job

/-- SLACK_FREEZE (22 R376): the job of the frame freezes at T_s + SKB. -/
def execSlackFreeze (s : State) : Result :=
  let job := s.fr.id
  let k := s.slackOf job
  .next (if k.wave ∧ k.Ts + s.waveSkb job ≤ s.tide then freezeJob s job else s)

/-! ### Resume and step (22 R379) -/

/-- Cycles of a count of a job's gangs. -/
def jobPace (s : State) (job : Nat) : Nat := if (jobGangs s job).any fun e => e.2.dock then 2048 else 1

/-- The module whose pilot resumes a job. -/
def rootOf (s : State) (job : Nat) : Nat :=
  match s.fjtOf job with
  | some e => fld e.2.toNat 47 36
  | none => s.modNum

/-- The T_F that the gangs of a job share: T_s + SKB; of a module job whose gangs all froze earlier by triggers of their own,
on one core, the T_F of the first (22 R376). -/
def jobTF (s : State) (job : Nat) : Nat :=
  let k := s.slackOf job
  let T := k.Ts + s.waveSkb job
  let gs := jobGangs s job
  match gs.find? fun e => e.2.run == .frozen && e.2.left == [.slack] with
  | some e => if (s.fjtOf job).isSome || gs.any (fun e => e.2.TF == T) then T else e.2.TF
  | none => T

/-- The request of a resume reaches the ROOT pilot: G is chosen, and the wave goes out. `n` counts are run, or, with 0, no
end is set. -/
def resumeJob (s : State) (job n : Nat) : State :=
  let SKB := s.waveSkb job
  let G := State.leastG (jobPace s job) (jobTF s job) (s.tide + SKB + 511)
  s.timedAt s.tide .resumeWave { id := job, t := G, cap := BitVec.ofNat 64 n }

/-- The gangs that the wave froze get their G; one frozen for a condition of its own resumes at or after it. -/
def resumeGang (G n : Nat) (s : State) (e : Nat × Gang) : State :=
  let g := e.2
  if g.run ≠ .frozen ∨ !g.left.contains .slack ∨ g.ending.isSome then s
  else
    let left := g.left.filter fun w => w != .slack
    let own := s.runPeriod g 4 (State.leastG g.pace g.TF (G - 1))
    s.setGang e.1 { g with
      left := left
      floor := G
      G := if left.isEmpty then some own else none
      reqs := if left.isEmpty && n != 0 then g.reqs ++ [⟨g.F + n, .slack⟩] else g.reqs }

/-- The record of a step's end (22 R379): the trigger that it stands for. -/
def stepRecord (s : State) (job G n : Nat) : Slack :=
  let F := ((jobGangs s job).map fun e => e.2.F).headD 0
  { omod := rootOf s job, ocore := 0x3FF, code := 17, sch := F + n, Ts := G + n * jobPace s job - s.waveSkb job }

/-- RESUME_WAVE (22 R379): the wave with G in `t` and n in `cap` reaches the module and goes on. In slot 1 it is G: the job
runs, or steps, and a step's end counts as a wave in flight with its own T_s. -/
def execResumeWave (s : State) : Result :=
  let job := s.fr.id
  let G := s.fr.t
  let n := s.fr.cap.toNat
  let k := s.slackOf job
  let e3 := 4 * s.slackEntry job + 3
  let note := fun (st : Nat) (s : State) =>
    s.updMod fun m => { m with slkcr := SMap.put 0 m.slkcr e3 (BitVec.ofNat 64 ((SMap.get 0 m.slkcr e3).toNat / 4 * 4 + st)) }
  if s.fr.slot = 1 then
    if k.st ≠ 1 then .next s
    else if n = 0 then .next (note 0 (s.setSlack job { k with st := 0, G := none, seen := [] }))
    else
      let r := stepRecord s job G n
      let s := s.setSlack job { k.cause r with st := 3, G := none, ntrig := 0, seq := k.seq + 1, wave := true, seen := [], n := n }
      .next ((note 3 s).timedAt (G + n * jobPace s job) .stepEnd { id := job })
  else if k.st ≠ 1 ∨ k.G.isSome then .next s
  else
    let s := s.sendJob job s.fr.via { id := 0, kind := .resume, c := G, data := n }
    let s := (jobGangs s job).foldl (resumeGang G n) s
    .next ((s.setSlack job { k with G := some G, from_ := (jobGangs s job).map fun e => (e.1, e.2.F) }).timedAt G .resumeWave { id := job, t := G, slot := 1, cap := BitVec.ofNat 64 n })

/-- The step fault of the members of a gang that has stepped: FINFO holds n and the count F from which it ran (23 R392). A trigger of a
member's own that waits there comes before it (22 R378). -/
def stepFault (k : Slack) (s : State) (e : Nat × Gang) : State :=
  match k.from_.find? fun f => f.1 == e.1 with
  | none => s
  | some f => e.2.members.foldl (fun s x => s.updCtx x fun c => if c.wave.isSome then c else { c with
      wave := some ⟨x, false, e.2.sch, e.2.sch, false, 0, c.pc, 17, BitVec.ofNat 64 (k.n % 2 ^ 32 + f.2 % 2 ^ 32 * 2 ^ 32), 0, true, c.rbv, c.rbp⟩ }) s

/-- STEP_END (22 R379): the step of the frame's job ends, unless a trigger has taken its place. -/
def execStepEnd (s : State) : Result :=
  let job := s.fr.id
  let k := s.slackOf job
  if k.wave ∧ k.st = 3 ∧ k.code = 17 ∧ k.Ts + s.waveSkb job ≤ s.tide then
    let s := s.traceRec job 2 5 0 (4 * k.ocore) (k.seq % 2 ^ 32) k.sch s.tide k.word0
    .next (freezeJob ((jobGangs s job).foldl (stepFault k) s) job)
  else .next s

/-! ### Registers (20 R327, 22 R362, R365, R367) -/

/-- FJT_WRITE (22 R365): entry `n` gets word 0 and, above it, word 1; an SKB that is too small is refused. -/
def execFjtWrite (n v : Nat) (s : State) : Result :=
  let w0 := v % 2 ^ 64
  let w1 := v / 2 ^ 64 % 2 ^ 64
  let lmax := (((List.range 16).filter fun l => bit w1 (48 + l)).map fun l => (s.link l).lat).foldl Nat.max 0
  if w0 % 2 ^ 32 < 512 + fld w1 8 4 * (lmax + 64) then .next s.errorAll
  else if 16 ≤ n then .next s
  else
    .next (s.updMod fun m => { m with
      fjt := SMap.put 0 (SMap.put 0 m.fjt (2 * n) (BitVec.ofNat 64 w0)) (2 * n + 1) (BitVec.ofNat 64 w1 &&& 0xFFFFFFF0000001F1) })

/-- LGRT_WRITE (22 R367): a cell of a link's grant table; more than 80 valid cells are refused. -/
def execLgrtWrite (link cell v : Nat) (s : State) : Result :=
  let k := s.link link
  let g := SMap.put 0 k.grants cell (BitVec.ofNat 64 v &&& 0xFFF8)
  if 16 ≤ link ∨ 96 ≤ cell ∨ 80 < (g.filter fun e => e.2.getLsbD 15).length then .next s
  else .next (s.setLink link { k with grants := g })

/-- REGISTER_WRITE (20 R327): a host write of a register. QBASE and QCFG of queue q stand at 0x0010_0000 + 32 q; the numbers
below that are the model's: 0 MODID, 1 HLMCAL, 2 MBOOST, 3 the tier's interleave, from 0x0030_0000 on the window length of a context
that the pilot is told, plus 1, and from 2^32 on the level-1 page table of a process, bit 0 valid (log 24, log 82). The counters QTAIL and QHEAD and the cause records are not written this way. -/
def execRegisterWrite (r v : Nat) (s : State) : Result :=
  let w := BitVec.ofNat 64 v
  let q := (r - 0x100000) / 32
  if r = 0 then .next (s.updMod fun m => { m with modid := w &&& 0xFFF })
  else if r = 1 then
    let s := s.updMod fun m => { m with hlmcal := w &&& 0xFFFF }
    .next ((List.range 16).foldl (fun s p => if s.partOn p then s.allotSoon p else s) s)
  else if r = 2 then .next (s.updMod fun m => { m with mboost := w })
  else if r = 3 then .next (s.updMod fun m => { m with ilv := Nat.min v 5 })
  else if 2 ^ 32 ≤ r then
    .next (s.updMod fun m => { m with procs := SMap.put 0 m.procs (r - 2 ^ 32) (if bit v 0 then fld v 51 12 * 4096 + 1 else 0) })
  else if 0x100000 ≤ r ∧ q < 256 then
    if r % 32 = 0 then .next (s.setQueue q { s.queue q with qbase := w &&& 0x000FFFFFFFFFFFC0 })
    else if r % 32 = 8 then .next (s.setQueue q { s.queue q with qcfg := w &&& 0xFFFFFFFF000003FF })
    else .next s
  else if 0x200000 ≤ r ∧ r < 0x202000 then .next s
  else if 0x300000 ≤ r ∧ r < 0x301000 then .next (s.updMod fun m => { m with cbk := SMap.put 0 m.cbk (r - 0x300000) (Nat.min v 257) })
  else .next (s.updMod fun m => { m with regs := SMap.put 0 m.regs r w })

end Sys2Proof.Machine
end

