-- ==== Sys2Proof/Machine/Debug.lean ====
section
/-! DEFINITION. DEBUG packets, the wait-for graph and samples (23 R384 to R393). -/

namespace Sys2Proof.Machine

/-! ### A packet and its checks (23 R391) -/

/-- The fields of a DEBUG packet. -/
structure DebugOp where
  job : Nat
  x   : Nat
  sel : Nat
  idx : Nat
  buf : Nat
  off : Nat
  len : Nat
  arg : Nat
  deriving DecidableEq, Repr

/-- The fields of a packet. -/
def debugOf (p : Nat) : DebugOp :=
  let w := word p
  { job := fld (w 0) 63 32, x := 4 * fld (w 1) 13 4 + fld (w 1) 15 14, sel := fld (w 1) 23 16, idx := fld (w 1) 25 24
    buf := w 2, off := fld (w 3) 31 0, len := fld (w 3) 63 32, arg := w 4 }

/-- The fields that must be zero, and the alignments. -/
def debugWell (p : Nat) : Bool :=
  let w := word p
  fld (w 0) 15 9 == 0 && fld (w 1) 63 26 == 0 && w 5 == 0 && w 7 == 0 && w 2 % 64 == 0

/-- The member contexts of a job on this module. -/
def jobMembers (s : State) (job : Nat) : List Nat := (jobGangs s job).flatMap fun e => e.2.members

/-- A DEBUG packet's meaning: its form, then its owner against the contexts that it names, then the op, which answers with a
CAUSE, or 0. -/
def debugOp (s : State) (one : Bool) (f : DebugOp → Nat → State → Nat × State) : Result :=
  let q := s.fr.id
  onPacket s fun seq p s =>
    let d := debugOf p
    let named := if one then [d.x] else jobMembers s d.job
    if !debugWell p then s.finishPacket q seq 1 1 0
    else if named.any fun x => (s.ctx x).owner != s.owner q || ((s.ctx x).resident && !ownsGang s q (s.gangOf x)) then s.finishPacket q seq 1 8 0
    else
      let r := f d q s
      r.2.finishPacket q seq (if r.1 = 0 then 0 else 1) r.1 0

/-! ### STOP, RESUME, STEP, END (23 R392) -/

/-- DEBUG_STOP (23 R392, 22 R375): a trigger of CODE 16 by a pilot. -/
def execDebugStop (s : State) : Result :=
  debugOp s false fun d _ s =>
    let gs := jobGangs s d.job
    if gs.isEmpty && (s.fjtOf d.job).isNone then (9, s)
    else (0, s.trigger d.job { omod := s.modNum, ocore := 0x3FF, code := 16, sch := (gs.map fun e => e.2.sch).headD 0, Ts := s.tide })

/-- A resume or a step asked for: with ST other than 1 it is rejected; else it goes to the ROOT pilot. -/
def askResume (s : State) (job n : Nat) : Nat × State :=
  let k := s.slackOf job
  if k.st ≠ 1 ∨ k.G.isSome then (9, s)
  else if isRoot s job then (0, resumeJob s job n)
  else (0, s.sendJob job none { id := 0, kind := .resume, a := 1, b := rootOf s job, data := n })

/-- DEBUG_RESUME (23 R392). In slot 1 the act is a request that has come from another module's pilot: of the job `id`, for
`cap` counts. -/
def execDebugResume (s : State) : Result :=
  if s.fr.slot = 1 then .next (askResume s s.fr.id s.fr.cap.toNat).2
  else debugOp s false fun d _ s => askResume s d.job 0

/-- DEBUG_STEP (23 R392). -/
def execDebugStep (s : State) : Result :=
  debugOp s false fun d _ s =>
    if d.arg = 0 ∨ 2 ^ 32 ≤ d.arg then (1, s) else askResume s d.job d.arg

/-- DEBUG_END (23 R392): the job's gangs end with STATUS 4, one that runs at the count it reaches now. -/
def execDebugEnd (s : State) : Result :=
  debugOp s false fun d _ s =>
    let s := (jobGangs s d.job).foldl (fun s e => s.endLater e.1 4 0) s
    let s := s.updMod fun m => { m with edges := m.edges.filter fun e => e.1 / 4096 != d.job }
    (0, s.setSlack d.job { s.slackOf d.job with st := 0, wave := false, G := none })

/-! ### READ and WRITE (23 R392) -/

/-- Whether a context stands still for a READ or a WRITE: saved, or frozen in the slack wave. -/
def debugStill (s : State) (d : DebugOp) : Bool :=
  let c := s.ctx d.x
  c.resident && (s.gang c.gang).job == d.job && (c.saved || (jobHeld s d.job && (s.gang c.gang).run == .frozen))

/-- The image of a context and its length: as it stands, or of a saved context as its save area holds it. -/
def debugImage (s : State) (x : Nat) : Nat × Nat :=
  let r := imageOf s x
  if (s.ctx x).saved then
    let n := s.mem.readN (saveKey x (8 * 39)) 8 + r.2 - imgBytes r.1 (8 * 39) 8
    (s.mem.readN (saveKey x 0) n, n)
  else r

/-- The bits of control word `i` that a WRITE changes, its new value being `v`. -/
def controlMask (c : Ctx) (i : Nat) (old v : Nat) : Nat :=
  if i = 0 then (if fld old 49 13 = 0 then 0x1FFF else 0)
  else if i = 3 then pswRW.toNat
  else if i = 4 then 0x3F
  else if i = 5 then 0x1FFFFFFFF
  else if i = 6 ∨ i = 16 then 2 ^ 64 - 1
  else if i = 7 then 0xF
  else if i = 8 then 7
  else if 10 ≤ i ∧ i ≤ 15 then (if i - 10 < c.lstk.length then 0x7FFFFFFFFFF else 0)
  else if i = 17 then 0xC0000000FFFFFFFF
  else if 21 ≤ i ∧ i ≤ 28 then 2 ^ 64 - 1
  else if 29 ≤ i ∧ i ≤ 36 then
    let n := Ring.ofWord (BitVec.ofNat 64 v)
    if (ownBound c (n.base * 64) ((n.depth + 1) * (n.size + 1) * 64)).isNone then 0x3F3F03FF else 0
  else 0

/-- `n` bytes of `v` at offset `off` of an image. -/
def overlay (img off n v : Nat) : Nat :=
  img % 2 ^ (8 * off) + v % 2 ^ (8 * n) * 2 ^ (8 * off) + img / 2 ^ (8 * (off + n)) * 2 ^ (8 * (off + n))

/-- An image after a WRITE: the written bytes, but for control bits that keep their values and the held call state. -/
def maskedWrite (s : State) (x img off n v : Nat) : Nat :=
  let c := s.ctx x
  let new := overlay img off n v
  let ctl := (List.range 64).foldl (fun a i =>
    let o := imgBytes img (8 * i) 8
    let w := imgBytes new (8 * i) 8
    let m := controlMask c i o w
    a + (Nat.land w m + (o - Nat.land o m)) * 2 ^ (64 * i)) 0
  let lats := ((List.range 8).filter c.latchIn).length
  let held := 21568 + imgBytes img (8 * 39) 8 + 576 * ((List.range 4).filter c.chartIn).length + 128 * lats
    + (if lats = 0 then 0 else 4096)
  let len := ((callItems s x).map fun e => e.1).foldl (· + ·) 0
  overlay (overlay new 0 512 ctl) held len (imgBytes img held len)

/-- A range of an image or of the quay allotment that a packet names lies outside it, or may not be written. -/
def debugOut (s : State) (d : DebugOp) (write : Bool) : Bool :=
  let c := s.ctx d.x
  if d.sel = 1 then
    let lo := 512 * (c.allotF 29 23 * 32)
    let hi := 512 * rangeEnd (c.allotF 29 23) (c.allotF 22 16) 128 * 32
    bit c.bare 0 || decide (d.off < lo ∨ hi < d.off + d.len)
  else
    let r := debugImage s d.x
    let snap := imgBytes r.1 (8 * 39) 8
    let meets := fun (lo hi : Nat) => decide (d.off < hi ∧ lo < d.off + d.len)
    decide (r.2 < d.off + d.len) || (write && (meets 296 320 || meets 21568 (21568 + snap)))

/-- Bytes put into a process's memory granule by granule. -/
def pokeBuffer (s : State) (proc va n v : Nat) : State :=
  (List.range (n / 64)).foldl (fun s i => s.pokeVirt proc (va + 64 * i) 64 (imgBytes v (64 * i) 64)) s

/-- READ and WRITE up to their effect: the checks of SEL, LEN, state and range. -/
def debugAccess (s : State) (write : Bool) (f : DebugOp → Nat → State → State) : Result :=
  debugOp s true fun d q s =>
    if d.len % 64 ≠ 0 then (1, s)
    else if 1 < d.sel then (10, s)
    else if !debugStill s d then (9, s)
    else if debugOut s d write then (10, s)
    else (0, f d (s.owner q) s)

/-- What a READ or WRITE of cold state is charged to the partition's pilot account, at `wb` a byte: a context that is not saved has its
image in its core, but quay registers and a save area are warm (00 R5). -/
def chargeDebug (s : State) (d : DebugOp) (wb : Nat) : State :=
  if d.sel = 1 ∨ (s.ctx d.x).saved then s else s.chargePilot (s.gangOf d.x).part (wb * d.len)

/-- DEBUG_READ (23 R392). -/
def execDebugRead (s : State) : Result :=
  debugAccess s false fun d proc s =>
    let v := if d.sel = 1 then s.mem.readN ((Place.quay (coreOf d.x)).key d.off) d.len else imgBytes (debugImage s d.x).1 d.off d.len
    pokeBuffer (chargeDebug s d 32) proc d.buf d.len v

/-- DEBUG_WRITE (23 R392): the written values stand at count F; held landings still land. -/
def execDebugWrite (s : State) : Result :=
  debugAccess s true fun d proc s =>
    let v := s.readVirt proc d.buf d.len
    let s := (chargeDebug s d 8).touchVirt proc d.buf d.len
    if d.sel = 1 then s.poke ((Place.quay (coreOf d.x)).key d.off) d.len v
    else
      let r := debugImage s d.x
      let img := maskedWrite s d.x r.1 d.off d.len v
      if (s.ctx d.x).saved then s.poke (saveKey d.x d.off) d.len (imgBytes img d.off d.len)
      else
        -- what is written has good parity from now on (04 R85)
        let s := s.freshen fun p => (imageOffset d.x p).any fun o => decide (d.off ≤ o ∧ o < d.off + d.len)
        let s := if d.off < 21568 then s.updCtx d.x fun c => putControl c img else s
        putTail s d.x img d.off (d.off + d.len)

/-! ### BREAK, TRACE, GRAPH (23 R384, R390, R392) -/

/-- DEBUG_BREAK (23 R392). -/
def execDebugBreak (s : State) : Result :=
  debugOp s true fun d _ s =>
    let c := s.ctx d.x
    if !c.resident || (s.gang c.gang).job != d.job then (9, s)
    else (0, s.setCtx d.x { c with bps := SMap.put none c.bps d.idx (if bit d.arg 11 then some (fld d.arg 10 0) else none) })

/-- DEBUG_TRACE (23 R392): a ring and its enables, or, with LOG and ARG zero, no recording. -/
def execDebugTrace (s : State) : Result :=
  debugOp s false fun d q s =>
    let log := fld d.off 4 0
    let per := fld d.arg 12 8
    if log = 0 ∧ d.arg = 0 then (0, s.updMod fun m => { m with traces := SMap.erase m.traces d.job })
    else if log < 4 || decide (20 < log) || (bit d.arg 3 && (decide (per < 10) || decide (24 < per))) then (1, s)
    else (0, s.updMod fun m => { m with traces := SMap.set m.traces d.job ⟨d.buf, log, fld d.arg 4 0, per, s.owner q⟩ })

/-- The scope code and number of a flag. -/
def flagName (k : Nat) : Nat × Nat := if k < 64 then (9, k) else if k < 64 * 512 then (4, k % 64) else (3, k % 64)

/-- The waits that a job's contexts are frozen in now: waiter, flag and setter. -/
def openWaits (s : State) (job : Nat) : List (Nat × Nat × Nat) :=
  (jobGangs s job).flatMap fun e =>
    if e.2.run = .frozen then e.2.served.filterMap fun w => match w with
      | .wait f n x _ _ _ _ => some (x, flagKey f n, s.setterOf e.1 f n)
      | _ => none
    else []

/-- One entry of the graph (23 R390). -/
def edgeBytes (s : State) (x flag setter waits : Nat) (open_ : Bool) : Nat :=
  let f := flagName flag
  let w0 := x % 4096 + s.modNum % 4096 * 2 ^ 12 + f.2 * 2 ^ 24 + f.1 * 2 ^ 30 + (if open_ then 2 ^ 34 else 0)
  let smod := if setter / 2 ^ 16 = 0 then s.modNum else setter / 2 ^ 16 - 1
  let w1 := if setter = 0 then 15 else (setter - 1) / 2 ^ 12 % 16 + (setter - 1) % 4096 * 2 ^ 4 + smod % 4096 * 2 ^ 16
  w0 + (w1 + Nat.min waits (2 ^ 36 - 1) * 2 ^ 28) * 2 ^ 64

/-- The edges of a job: those that have closed waits, and the open ones. -/
def graphOf (s : State) (job : Nat) : List Nat :=
  let open_ := openWaits s job
  let kept := s.mod.edges.filter fun e => e.1 / 4096 == job
  (kept.map fun e => edgeBytes s (e.1 % 4096) e.2.1 e.2.2.1 e.2.2.2 (open_.contains (e.1 % 4096, e.2.1, e.2.2.1)))
    ++ (open_.filter fun w => !(kept.any fun e => (e.1 % 4096, e.2.1, e.2.2.1) == w)).map fun w => edgeBytes s w.1 w.2.1 w.2.2 0 true

/-- DEBUG_GRAPH (23 R390, R392): one entry per edge, up to LEN bytes. -/
def execDebugGraph (s : State) : Result :=
  debugOp s false fun d q s =>
    if d.len % 64 ≠ 0 then (1, s)
    else (0, ((graphOf s d.job).take (d.len / 16)).zipIdx.foldl (fun s e => s.pokeVirt (s.owner q) (d.buf + 16 * e.2) 16 e.1) s)

/-! ### Samples (23 R388) -/

/-- STATE of a condition of a freeze. -/
def whyState : Why → Nat
  | .wait .. => 2
  | .meter _ _ => 3
  | .yield _ | .slot => 4
  | .fault _ => 5
  | .slack => 6
  | _ => 7

/-- Whether a context has issued a bundle in the cycle in hand. -/
def issuedNow (s : State) (x : Nat) : Bool := decide (s.tide - s.tide % (s.gangOf x).pace < (s.ctx x).lastT)

/-- STATE of a context in a sample: a wider gang's null bundles after its WAIT are part of that (log 89). -/
def sampleState (s : State) (x : Nat) : Nat :=
  let c := s.ctx x
  let g := s.gang c.gang
  if c.handler.isSome then 5
  else if issuedNow s x then 0
  else match g.run with
    | .frozen => ((if g.left.isEmpty then g.served else g.left).map whyState).headD 7
    | .running =>
      if g.sch < c.nullTo then 2
      else if (s.ctx x).psw.getLsbD 10 && (s.core (s.slotKey x)).holder == some (x % 4) then 8 else 1
    | _ => 1

/-- The bundle that a sample names, and its count: the one issued now, or the next one. -/
def sampleBundle (s : State) (x : Nat) : Nat × Nat :=
  let c := s.ctx x
  let g := s.gang c.gang
  let next := match g.run with
    | .running => Nat.max (g.sch + 1) c.nullTo
    | _ => g.sch
  match c.handler, issuedNow s x with
  | some _, true => (c.lastA, g.F)
  | some h, false => (fetchPc c h.cnt, g.F)
  | none, true => (c.lastA, g.sch)
  | none, false => ((c.reent.map Resume.reAddr).getD (fetchPc c next), next)

/-- TRACE_SAMPLE (23 R388): a record of every member context of the job in the frame, at the end of the sampled cycle. -/
def execTraceSample (s : State) : Result :=
  let job := s.fr.id
  .next ((sortBy (fun a b => decide (a ≤ b)) (jobMembers s job)).foldl (fun s x =>
    let b := sampleBundle s x
    s.traceRec job 3 2 b.1 x (sampleState s x) b.2 s.tide (Nat.min (s.gangOf x).bal (2 ^ 32 - 1))) s)

end Sys2Proof.Machine
end

