-- ==== Sys2Proof/Machine/Sha.lean ====
section
/-! DEFINITION. SHA-256 and HMAC-SHA-256 (FIPS 180-4, FIPS 198-1), by which a cap frame is authenticated (21 R355). -/

namespace Sys2Proof.Machine.Sha

/-- The 64 round constants. -/
def roundK : List Nat :=
  [0x428a2f98, 0x71374491, 0xb5c0fbcf, 0xe9b5dba5, 0x3956c25b, 0x59f111f1, 0x923f82a4, 0xab1c5ed5,
   0xd807aa98, 0x12835b01, 0x243185be, 0x550c7dc3, 0x72be5d74, 0x80deb1fe, 0x9bdc06a7, 0xc19bf174,
   0xe49b69c1, 0xefbe4786, 0x0fc19dc6, 0x240ca1cc, 0x2de92c6f, 0x4a7484aa, 0x5cb0a9dc, 0x76f988da]
  ++ [0x983e5152, 0xa831c66d, 0xb00327c8, 0xbf597fc7, 0xc6e00bf3, 0xd5a79147, 0x06ca6351, 0x14292967,
   0x27b70a85, 0x2e1b2138, 0x4d2c6dfc, 0x53380d13, 0x650a7354, 0x766a0abb, 0x81c2c92e, 0x92722c85,
   0xa2bfe8a1, 0xa81a664b, 0xc24b8b70, 0xc76c51a3, 0xd192e819, 0xd6990624, 0xf40e3585, 0x106aa070]
  ++ [0x19a4c116, 0x1e376c08, 0x2748774c, 0x34b0bcb5, 0x391c0cb3, 0x4ed8aa4a, 0x5b9cca4f, 0x682e6ff3,
   0x748f82ee, 0x78a5636f, 0x84c87814, 0x8cc70208, 0x90befffa, 0xa4506ceb, 0xbef9a3f7, 0xc67178f2]

/-- A right rotation of a 32-bit word. -/
def rotr (n x : Nat) : Nat := x / 2 ^ n + x % 2 ^ n * 2 ^ (32 - n)

/-- Three words XORed. -/
def xor3 (a b c : Nat) : Nat := Nat.xor (Nat.xor a b) c

/-- The message schedule: each further word from the 16 before it, newest first. -/
def schedule : Nat → List Nat → List Nat
  | 0, w => w
  | n + 1, w =>
    let s0 := let x := w.getD 14 0; xor3 (rotr 7 x) (rotr 18 x) (x / 2 ^ 3)
    let s1 := let x := w.getD 1 0; xor3 (rotr 17 x) (rotr 19 x) (x / 2 ^ 10)
    schedule n ((w.getD 15 0 + s0 + w.getD 6 0 + s1) % 2 ^ 32 :: w)

/-- One round on the eight working words. -/
def round (v : List Nat) (k w : Nat) : List Nat :=
  match v with
  | [a, b, c, d, e, f, g, h] =>
    let ch := Nat.xor (Nat.land e f) (Nat.land (2 ^ 32 - 1 - e) g)
    let t1 := h + xor3 (rotr 6 e) (rotr 11 e) (rotr 25 e) + ch + k + w
    let t2 := xor3 (rotr 2 a) (rotr 13 a) (rotr 22 a) + xor3 (Nat.land a b) (Nat.land a c) (Nat.land b c)
    [(t1 + t2) % 2 ^ 32, a, b, c, (d + t1) % 2 ^ 32, e, f, g]
  | _ => v

/-- The number that bytes make, the first the most significant. -/
def bigEndian (bs : List Nat) : Nat := bs.foldl (fun a b => a * 256 + b % 256) 0

/-- The bytes of a number of `n` bytes, the most significant first. -/
def bytesOf (n v : Nat) : List Nat := (List.range n).map fun i => v / 256 ^ (n - 1 - i) % 256

/-- One block of 64 bytes. -/
def block (h bs : List Nat) : List Nat :=
  let w := (List.range 16).map fun i => bigEndian ((bs.drop (4 * i)).take 4)
  let ws := (schedule 48 w.reverse).reverse
  let v := (roundK.zip ws).foldl (fun v e => round v e.1 e.2) h
  (h.zip v).map fun e => (e.1 + e.2) % 2 ^ 32

/-- The blocks of a padded message. -/
def blocks : Nat → List Nat → List Nat → List Nat
  | 0, _, h => h
  | n + 1, bs, h => blocks n (bs.drop 64) (block h (bs.take 64))

/-- The message with its padding: a byte 0x80, zeros, and its length in bits in 8 bytes. -/
def pad (bs : List Nat) : List Nat := bs ++ [128] ++ List.replicate ((119 - bs.length % 64) % 64) 0 ++ bytesOf 8 (8 * bs.length)

/-- SHA-256 of a list of bytes, as its 32 bytes. -/
def sha256 (bs : List Nat) : List Nat :=
  let m := pad bs
  (blocks (m.length / 64) m
    [0x6a09e667, 0xbb67ae85, 0x3c6ef372, 0xa54ff53a, 0x510e527f, 0x9b05688c, 0x1f83d9ab, 0x5be0cd19]).flatMap (bytesOf 4)

/-- HMAC-SHA-256 under a key of at most 64 bytes. -/
def hmac (key bs : List Nat) : List Nat :=
  let k := key ++ List.replicate (64 - key.length) 0
  let with_ := fun (c : Nat) => k.map fun b => Nat.xor b c
  sha256 (with_ 0x5c ++ sha256 (with_ 0x36 ++ bs))

end Sys2Proof.Machine.Sha
end

