-- ==== Sys2Proof/Machine/Power.lean ====
section
/-! DEFINITION. Module states, firmware, bias domains, partitions, caps and clock ratios (17 R289 to R291, 21 R348 to
R360). -/

namespace Sys2Proof.Machine

namespace State

/-! ### The module's state (21 R348 to R350) -/

/-- MSTAT.STATE. -/
def mode (s : State) : Nat := fld s.mod.mstat.toNat 3 0

/-- MSTAT.HEK. -/
def hek (s : State) : Nat := fld s.mod.mstat.toNat 47 32

/-- MSTAT.HEF. -/
def hef (s : State) : Nat := fld s.mod.mstat.toNat 63 48

/-- MSTAT from its fields. -/
def setMstat (s : State) (hef hek fcode st : Nat) : State :=
  let dock := s.mod.bank.isSome && st != 3 && !(st == 4 && fcode == 5)
  s.updMod fun m => { m with mstat := BitVec.ofNat 64 (hef % 2 ^ 16 * 2 ^ 48 + hek % 2 ^ 16 * 2 ^ 32 + fcode % 2 ^ 16 * 2 ^ 16
    + (if dock then 2 ^ 8 else 0) + st) }

/-- A record whose D0 is known; the rest is free. -/
def eventD0 (s : State) (p type d0 : Nat) : State :=
  let a := s.freeValue 64
  let b := a.2.freeValue 64
  b.2.eventRec p type d0 a.1.toNat b.1.toNat

/-- A change of state, posted to every enabled partition. -/
def enter (s : State) (st fcode : Nat) : State :=
  let old := s.mode
  let s := s.setMstat s.hef s.hek (if st = 4 then fcode else 0) st
  s.partsOn.foldl (fun s p => s.eventD0 p 1 (old + st * 2 ^ 16)) s

/-! ### Bias domains (17 R289, R290) -/

/-- Domain `d`. -/
def domain (s : State) (d : Nat) : Domain := SMap.get {} s.mod.domains d

/-- Domain `d` replaced. -/
def setDomain (s : State) (d : Nat) (k : Domain) : State := s.updMod fun m => { m with domains := SMap.put {} m.domains d k }

/-- The partitions that a domain's cores belong to. -/
def domainParts (s : State) (cores : List Nat) : List Nat := (cores.filterMap s.partOf).eraseDups

end State

/-- The clusters of a domain. -/
def domainClusters (d : Nat) : List Nat := (List.range 8).map fun i => 32 * (d / 4) + 8 * (d % 4) + i

/-- The cores of a domain. -/
def domainCores (d : Nat) : List Nat := (domainClusters d).flatMap fun c => (List.range 4).map fun i => 4 * c + i

/-- Whether a memory key lies in a cold store of one of the cores: the quay stores stay. -/
def coldKey (cores : List Nat) (key : Nat) : Bool :=
  let p := key / 2 ^ 64
  match p % 16 with
  | 0 | 4 | 5 | 6 | 7 | 8 | 9 | 10 => cores.contains (p / 16)
  | 1 => cores.any fun c => clusterOf c == p / 16
  | _ => false

/-- A context whose core has lost its state: its registers, loop stack, rings and crossings are as at reset, but for the record of the
fault that ended it (log 1). -/
def coldCtx (c : Ctx) : Ctx :=
  { c with regs := {}, past := [], lstk := [], rbv := 0, rbp := 0, psw := 0, fmask := 0, amax := 0, hlmthr := 0
           ydl := 0xFFFFFFFFFFFFFFFF, wdog := 0, wcnt := 0, seed := 0, rings := [], xfers := [], charges := [], crossings := [], commands := []
           ciLoads := [], ciLoadsH := [] }

namespace State

/-- The state of cores, cluster berths and routers is lost (17 R290): they read as at reset (log 1). -/
def loseCold (s : State) (cores : List Nat) : State :=
  let clus := (cores.map clusterOf).eraseDups
  let s := { s with mem := s.mem.filter fun e => !coldKey cores e.1, ecc := s.ecc.filter fun e => !coldKey cores (8 * e.1) }
  let s := s.freshen fun p => match p with
    | .reg y _ _ | .creg y _ | .held y _ _ _ _ | .heldMem y _ _ _ | .heldCreg y _ _ _ => cores.contains (coreOf y)
    | .mem key => coldKey cores key
    | .wreg c _ | .word c _ => clus.contains c
  let s := clus.foldl (fun s c => s.setClu c { s.clu c with flags := 0, router := {} }) s
  let here := fun (fr : Frame) => cores.contains (coreOf fr.who)
  let s := { s with pend := s.pend.filter fun e => !here e.fr, flight := s.flight.filter fun e => !cores.contains (coreOf e.x) }
  let s := (s.ctxs.filter fun e => cores.contains (coreOf e.1)).foldl (fun s e => s.setCtx e.1 (coldCtx e.2)) s
  cores.foldl (fun s c => s.setCore c { s.core c with flags := 0, calls := [] }) s

/-- The contexts of cold gangs on a list of cores. -/
def coldOn (s : State) (cores : List Nat) : List Nat :=
  (cores.flatMap fun c => (List.range 4).map fun k => 4 * c + k).filter fun x => (s.ctx x).resident && !(s.gangOf x).dock

/-- The cold soft error of a context whose domain is gone: no handler takes it (17 R290, 10 R231). -/
def domainFault (s : State) (dom d x : Nat) : State :=
  let c := s.ctx x
  let hnd := c.handler.isSome
  let F := s.now x hnd
  let f : PendFault := ⟨x, hnd, F, F, false, 0, c.pc, 20, BitVec.ofNat 64 (dom * 2 ^ 15 + d * 2 ^ 16), 0, true, c.rbv, c.rbp⟩
  (s.faultTrace f hnd).unhandled f

/-- Cold contexts are ended and cold state is lost; `dom` is FINFO's DOM. Their gangs end once they have frozen (log 83). The state of a
dock gang lies in the dock (21 R351). -/
def coldLoss (s : State) (dom d : Nat) (cores : List Nat) : State :=
  let gone := ((s.coldOn cores).map fun x => (s.ctx x).gang).eraseDups
  let s := gone.foldl (fun s gi => s.timedAt (s.tide + 1) .taskComplete { id := gi, slot := 1 }) s
  let dock := (s.liveGangs.filter fun e => e.2.dock).flatMap fun e => e.2.clusters
  ((s.coldOn cores).foldl (fun s x => s.domainFault dom d x) s).loseCold (cores.filter fun c => !dock.contains (clusterOf c))

/-- ANCHOR (21 R350): every domain is OFF, and cold contexts end as for a FAILED domain. -/
def anchor (s : State) (fcode : Nat) : State :=
  let s := s.coldLoss 0 0 ((List.range 32).flatMap domainCores)
  let s := (List.range 32).foldl (fun s d => s.setDomain d { s.domain d with st := 0, ramped := false }) s
  s.enter 4 fcode

/-- Ten minutes in cycles of TIDE. -/
def tenMinutes : Nat := 19200000000000

/-- COOLDOWN is entered once firmware has verified and helium flows (21 R349); the ten minutes count from a reading at or
below 4,400 mK. -/
def tryCooldown (s : State) : State :=
  if s.mode = 0 ∧ s.mod.bank.isSome ∧ s.hef ≠ 0 then
    let s := s.enter 1 0
    match s.mod.coolSince with
    | some t => s.timedAt (Nat.max (s.tide + 1) (t + tenMinutes)) .cooldownTimer
    | none => s
  else s

end State

/-! ### Firmware images (21 R352) -/

/-- An image as it stands in a flash bank: its security version, the SHA-384 hashes of its two public keys and its contents (log 92). -/
def bankOf (v : Nat) : Bank :=
  { version := v % 2 ^ 32, rsaHash := v / 2 ^ 32 % 2 ^ 384, slhHash := v / 2 ^ 416 % 2 ^ 384, image := v / 2 ^ 800 }

/-- The flash banks that a reset finds: an image staged through the mailbox goes into bank 0, whose own goes to bank 1 (log 92). -/
def Module.nextBanks (m : Module) : List Bank :=
  match m.image with
  | some v => [bankOf v, m.banks.getD 0 {}]
  | none => m.banks

/-- Whether the boot ROM loads a bank: both its signatures hold (`signed`), for the keys whose hashes are fused, and its security version
is at least the rollback counter. -/
def Module.verifies (m : Module) (i : Nat) (signed : Bool) : Bool :=
  let b := m.banks.getD i {}
  signed && b.rsaHash == m.fuses.rsaHash && b.slhHash == m.fuses.slhHash && decide (m.fuses.rollback ≤ b.version)

/-- An attestation report (21 R352): the measurement of the loaded image, signed with the identity keys of both kinds. -/
structure Report where
  measure : Nat
  rsa     : Nat
  slh     : Nat
  deriving DecidableEq, Repr

/-- The module's report: none while no bank is loaded. -/
def State.attest (s : State) : Option Report :=
  s.mod.bank.map fun b =>
    let m := Config.measure (s.mod.banks.getD b {}).image
    ⟨m, Config.signature false m, Config.signature true m⟩

/-- A verifier accepts a report only when both signatures hold. -/
def Report.accepted (r : Report) : Bool := Config.signatureHolds false r.measure r.rsa && Config.signatureHolds true r.measure r.slh

/-- MODULE_RESET (21 R349): the reset state, with the record of its change of state; the capacity tier, host memory, flash and fuses lie
outside, and a staged image takes effect. -/
def execModuleReset (s : State) : Result :=
  let t := if s.mode = 0 then s else s.enter 0 0
  .next { State.reset with
    mem := (if s.mode = 0 then s.mem else t.pilotMem).filter fun e => decide (e.1 / 2 ^ 64 = Place.tier.code ∨ e.1 / 2 ^ 64 = Place.host.code ∨ e.1 / 2 ^ 64 = Place.flash.code)
    free := t.free
    nextId := t.nextId
    inputs := s.inputs
    soft := s.soft.filter fun e => decide (s.tide < e.at_)
    mod := { State.reset.mod with banks := s.mod.nextBanks, fuses := s.mod.fuses } }

/-- FIRMWARE_VERIFY_DONE (21 R349, R352): the first bank that verifies is loaded, with the boot routines and the dock-core
firmware; when none does, the module enters ANCHOR. `ok0` and `ok1` say whether both signatures of a bank's image hold. -/
def execFirmwareVerifyDone (ok0 ok1 : Bool) (s : State) : Result :=
  let v0 := s.mod.verifies 0 ok0
  let v1 := s.mod.verifies 1 ok1
  if s.mode ≠ 0 ∨ s.mod.bank.isSome then .next s
  else if !v0 && !v1 then .next (s.anchor 5)
  else
    let s := s.updMod fun m => { m with bank := some (if v0 then 0 else 1) }
    .next (s.setMstat s.hef s.hek 0 0).tryCooldown

/-- HELIUM_FLOW_CHANGE (21 R349). -/
def execHeliumFlowChange (v : Nat) (s : State) : Result :=
  .next (s.setMstat v s.hek (fld s.mod.mstat.toNat 31 16) s.mode).tryCooldown

/-- COOLDOWN_TIMER (21 R349): after ten minutes at or below 4,400 mK the module enters SELFTEST, and every bias domain
ramps. -/
def execCooldownTimer (s : State) : Result :=
  if s.mode == 1 && (s.mod.coolSince.any fun t => decide (t + State.tenMinutes ≤ s.tide)) then
    let s := s.enter 2 0
    .next ((List.range 32).foldl (fun s d =>
      (s.setDomain d { s.domain d with st := 1, end_ := s.tide + 65536, ramped := false }).timedAt (s.tide + 65536) (.rampEnd d)) s)
  else .next s

/-- SELF_TEST_COMPLETE (21 R349, 17 R291): with every domain through RAMP and the test passed, the module enters RUN, and ANCHOR at once
with helium above 4,800 mK; a failure's code is in the frame's `t`. Bit c of `capv` marks core c unavailable; with more than 64 of them the test fails. -/
def execSelfTestComplete (pass : Bool) (s : State) : Result :=
  let fr := s.fr
  if s.mode ≠ 2 then .next s
  else if !pass then .next (s.anchor fr.t)
  else if !((List.range 32).all fun d => (s.domain d).ramped) then .next (s.timedAt (s.tide + 4096) (.selfTestComplete pass) fr)
  else
    let bad := (List.range 1024).filter fr.capv.getLsbD
    if 64 < bad.length then .next (s.anchor 4)
    else
      let s := (bad.foldl (fun s c => s.setCore c { s.core c with avail := false, defect := true }) s).enter 3 0
      .next (if 4800 < s.hek then s.anchor 6 else s)

/-! ### Domains (17 R289, R290) -/

namespace State

/-- A move of a domain, posted to every affected partition. -/
def moveDomain (s : State) (d : Nat) (k : Domain) : State :=
  (s.domainParts (domainCores d)).foldl (fun s p => s.eventOpen p 9) (s.setDomain d k)

/-- The availability of a domain's cores: one that self-test has found defective stays unavailable (17 R291). -/
def markCores (s : State) (d : Nat) (ok : Bool) : State :=
  (domainCores d).foldl (fun s c => s.setCore c { s.core c with avail := ok && !(s.core c).defect }) s

/-- Whether a domain that has failed can be recovered: nothing is resident there. -/
def domainFree (s : State) (d : Nat) : Bool := (s.domain d).st == 4 && (s.coldOn (domainCores d)).isEmpty

end State

/-- BIAS_DOMAIN_FAILURE (17 R290). -/
def execBiasDomainFailure (d : Nat) (s : State) : Result :=
  let k := s.domain d
  if 32 ≤ d ∨ (k.st ≠ 1 ∧ k.st ≠ 2 ∧ k.st ≠ 3) then .next s
  else .next ((s.coldLoss 1 d (domainCores d)).moveDomain d { k with st := 4, fails := k.fails + 1 })

/-- DOMAIN_RECOVERY_START (17 R290): OFF, and then RAMP, unless the domain has failed before. -/
def execDomainRecoveryStart (d : Nat) (s : State) : Result :=
  if !s.domainFree d then .next s
  else
    let k := s.domain d
    let s := s.moveDomain d { k with st := 0 }
    if 2 ≤ k.fails then .next (s.markCores d false)
    else .next ((s.moveDomain d { k with st := 1, end_ := s.tide + 65536 }).timedAt (s.tide + 65536) (.rampEnd d))

/-- RAMP_END (17 R289, R290): the domain is ON; one that recovers is tested first. -/
def execRampEnd (d : Nat) (s : State) : Result :=
  let k := s.domain d
  if k.st ≠ 1 ∨ s.tide < k.end_ then .next s
  else .next (s.setDomain d { k with st := if k.fails = 0 then 3 else 2, ramped := true })

/-- DOMAIN_SELF_TEST_DONE (17 R290, R291): ON with its cores available, or OFF with none. Bit c of the frame's `capv` says that the test
has found core c defective. -/
def execDomainSelfTestDone (d : Nat) (pass : Bool) (s : State) : Result :=
  let k := s.domain d
  if k.st ≠ 2 then .next s
  else if pass then
    let bad := (domainCores d).filter s.fr.capv.getLsbD
    let s := bad.foldl (fun s c => s.setCore c { s.core c with defect := true }) s
    .next ((s.moveDomain d { k with st := 3 }).markCores d true)
  else .next ((s.moveDomain d { k with st := 0 }).markCores d false)

/-! ### Caps (21 R355 to R357) -/

/-- RANK, WCAP and CALL of a partition. -/
def Part.rank (p : Part) : Nat := fld p.pcfg.toNat 55 53
def Part.wcap (p : Part) : Nat := fld p.pcfg.toNat 42 32
def Part.call (p : Part) : Nat := fld p.pcfg.toNat 31 16

/-- The demand of a partition in 1/16 mW: W + C × SP. -/
def demand (sp : Nat) (p : Part) : Nat := p.wcap * 16000 + p.call * sp

/-- What each rank keeps of its demand, as a fraction, and what is left to cut, in quarters of the demand's unit. -/
def rankCuts (s : State) (sp : Nat) : Nat → Nat → Nat → List (Nat × Nat) × Nat
  | 0, _, E => ([], E)
  | n + 1, r, E =>
    let D := ((s.partsOn.filter fun p => (s.part p).rank == r).map fun p => demand sp (s.part p)).foldl (· + ·) 0
    let cut := Nat.min E (3 * D)
    let t := rankCuts s sp n (r + 1) (E - cut)
    ((4 * D - cut, 4 * D) :: t.1, t.2)

/-- The cuts for a budget in W: a fraction for each rank, and whether the budget is met. -/
def cutsFor (s : State) (budget sp : Nat) : List (Nat × Nat) × Bool :=
  let D := (s.partsOn.map fun p => demand sp (s.part p)).foldl (· + ·) 0
  let r := rankCuts s sp 8 0 (4 * (D - budget * 16000))
  (r.1, r.2 == 0)

/-- The limits in force, each with its bit of CAPCAUSE, its budget and its SP. The module's own limits use the specific power of the budget
in force, and 0 while there is none (21 R356, log 56). -/
def limitsOf (s : State) : List (Nat × Nat × Nat) :=
  let caps := s.mod.caps.zipIdx.filterMap fun e => match e.1 with
    | (_, b + 1, sp) => some (e.2, b, sp)
    | _ => none
  let sp := match caps with
    | [a, b] => if a.2.1 ≤ b.2.1 then a.2.2 else b.2.2
    | [a] => a.2.2
    | _ => 0
  caps ++ (if bit s.mod.limits 0 then [(2, 2000, sp)] else []) ++ (if bit s.mod.limits 1 then [(3, 32, sp)] else [])

/-- The limit with the least budget. -/
def leastLimit : List (Nat × Nat × Nat) → Option (Nat × Nat × Nat)
  | [] => none
  | a :: r =>
    match leastLimit r with
    | none => some a
    | some b => if a.2.1 ≤ b.2.1 then some a else some b

/-- The least budget in force, in W. -/
def budgetOf (s : State) : Option Nat := (leastLimit (limitsOf s)).map fun l => l.2.1

/-- The fraction of its demand that a limit leaves a partition. -/
def fracOf (s : State) (l : Nat × Nat × Nat) (p : Part) : Nat × Nat :=
  let f := (cutsFor s l.2.1 l.2.2).1.getD p.rank (1, 1)
  if f.2 = 0 ∨ demand l.2.2 p = 0 then (1, 1) else f

/-- The helium's limit on a cold allotment (21 R356). -/
def heliumScale (s : State) (c : Nat) : Nat := if 4500 < s.hek then c * (4800 - s.hek) / 300 else c

/-- A change of ratio asked for, if the partition does not run at it. -/
def wantRatio (s : State) (p r : Nat) : State :=
  let k := s.part p
  if k.ratio = r ∧ k.shake.isNone then s else s.timedAt s.tide (.ratioChange p r)

/-- The causes of a partition have changed: its gangs show them. -/
def showPart (s : State) (p : Nat) : State := (s.liveGangs.filter fun e => e.2.part == p).foldl (fun s e => s.showCauses e.1) s

/-- Partition `p` takes the allotment and ratio that the limits in force give it, with its causes; a change is posted as a
cap record (21 R356 to R358). -/
def applyPart (s : State) (p : Nat) : State :=
  let k := s.part p
  let ls := limitsOf s
  let f := match leastLimit ls with
    | some l => fracOf s l k
    | none => (1, 1)
  let base := k.call * f.1 / f.2
  let warm := 1000 * k.wcap * f.1 / f.2
  let allot := heliumScale s base
  let r := Nat.max k.low (if f.2 ≤ f.1 ∨ k.wcap = 0 then 0 else if f.2 ≤ 2 * f.1 then 1 else 2)
  let bits := (ls.map fun l => let g := fracOf s l k; if g.1 < g.2 then 2 ^ l.1 else 0).foldl Nat.lor 0
  let cause := bits + (if 4500 < s.hek ∧ k.call ≠ 0 then 16 else 0) + (if k.low = 0 then 0 else 32)
  let new := allot != k.allot || warm != k.warm
  let chg := if new then (k.chg + 1) % 2 ^ 16 else k.chg
  let s := showPart (s.setPart p { k with base := base, warm := warm, allot := allot, cause := cause, chg := chg }) p
  wantRatio (if new then (s.eventRec p 2 (cause % 2 ^ 16 + chg * 2 ^ 16) warm allot).allotSoon p else s) p r

/-- The helium's limit has changed: it scales the cold allotment that the caps have left a partition, and no cap comes into force with it
(21 R356). A change is posted as a thermal record. -/
def reHelium (s : State) (p : Nat) : State :=
  let k := s.part p
  let allot := heliumScale s k.base
  let therm := if 4500 < s.hek ∧ k.call ≠ 0 then 16 else 0
  let new := allot != k.allot
  let s := showPart (s.setPart p { k with
    allot := allot
    cause := k.cause - Nat.land k.cause 16 + therm
    chg := if new then (k.chg + 1) % 2 ^ 16 else k.chg }) p
  if new then (s.eventD0 p 4 s.hek).allotSoon p else s

/-- 0.25 ms in cycles. -/
def quarterMs : Nat := 8000000

/-- The ranks in the order in which a change of the budget applies: each one takes effect no later than its 0.25 ms allow, at
a free time before it. -/
def scheduleRanks (s : State) (raised : Bool) : State :=
  (List.range 8).foldl (fun s i =>
    let v := s.freeValue 22
    v.2.timedAt (s.tide + quarterMs * i + 1 + v.1.toNat) .capRankApply { slot := if raised then 7 - i else i }) s

/-- The schedule of a change of the limits: `old` is the budget that was in force. A budget that cannot be met is posted. -/
def limitsChanged (s : State) (old : Option Nat) : State :=
  let new := budgetOf s
  let raised := match old, new with
    | some a, some b => decide (a < b)
    | some _, none => true
    | none, _ => false
  let unmet := match leastLimit (limitsOf s) with
    | some l => !(cutsFor s l.2.1 l.2.2).2
    | none => false
  let s := if unmet then s.partsOn.foldl (fun s p => s.eventOpen p 10) s else s
  scheduleRanks s raised

/-- The bytes of a number, the least significant first. -/
def leBytes (n v : Nat) : List Nat := (List.range n).map fun i => v / 256 ^ i % 256

/-- The MAC of bytes 0 to 31 of a cap payload: HMAC-SHA-256 under the hall key, its first 16 bytes (log 93). -/
def capMac (key body : Nat) : Nat :=
  ((Sha.hmac (leBytes 32 key) (leBytes 32 body)).take 16).reverse.foldl (fun a b => a * 256 + b) 0

/-- CAP_FRAME (21 R355): the payload of a datagram, as its bytes 0 to 31 and its MAC. One without the MAGIC, with another LEVEL, with a MAC
that fails or an SEQ that does not exceed the last of its level is dropped. -/
def execCapFrame (body mac : Nat) (s : State) : Result :=
  let lv := fld body 39 32
  let seq := fld body 127 64
  if fld body 31 0 ≠ 0x524E4350 ∨ 1 < lv ∨ mac ≠ capMac s.mod.fuses.hallKey body
      ∨ seq < (s.mod.caps.getD lv (0, 0, 0)).1 then .next s
  else
    let old := budgetOf s
    let s := s.updMod fun m => { m with caps := m.caps.set lv (seq + 1, fld body 159 128 + 1, fld body 191 160) }
    .next (limitsChanged s old)

/-- CAP_RANK_APPLY (21 R356): the rank in the frame's slot takes its allotment and ratio. -/
def execCapRankApply (s : State) : Result :=
  .next ((s.partsOn.filter fun p => (s.part p).rank == s.fr.slot).foldl applyPart s)

/-- MODULE_LIMIT_EXCEEDED (21 R356): the warm or the cold limit holds; in slot 1 it holds no longer. -/
def execModuleLimitExceeded (warm : Bool) (s : State) : Result :=
  let b := if warm then 1 else 2
  let old := budgetOf s
  let keep := s.mod.limits - Nat.land s.mod.limits b
  .next (limitsChanged (s.updMod fun m => { m with limits := if s.fr.slot = 1 then keep else keep + b }) old)

/-- HEK_CHANGE (21 R349, R356): above 4,800 mK a RUN module enters ANCHOR; above 4,500 mK allotments are scaled. -/
def execHekChange (v : Nat) (s : State) : Result :=
  let was := s.hek
  let s := s.setMstat s.hef v (fld s.mod.mstat.toNat 31 16) s.mode
  let cold := decide (v ≤ 4400)
  let s := s.updMod fun m => { m with coolSince := if cold then (match m.coolSince with | some t => some t | none => some s.tide) else none }
  let s := if cold ∧ s.mode = 1 then
      s.timedAt (s.tide + State.tenMinutes) .cooldownTimer
    else s
  if 4800 < v ∧ s.mode = 3 then .next (s.anchor 6)
  else .next (if 4500 < v ∨ 4500 < was then s.partsOn.foldl reHelium s else s)

/-- PARTITION_WARM_CAP_REACHED (21 R357): the partition's ratio is lowered; in slot 1 its draw has fallen again. -/
def execPartitionWarmCapReached (p : Nat) (s : State) : Result :=
  let k := s.part p
  if !s.partOn p then .next s
  else .next (applyPart (s.setPart p { k with low := if s.fr.slot = 1 then 0 else Nat.min 2 (k.ratio + 1) }) p)

/-! ### Clock ratios (21 R359) -/

/-- The clusters of a partition. -/
def partClusters (s : State) (p : Nat) : List Nat := (List.range 256).filter fun c => s.partOf (4 * c) == some p

/-- The gangs with a member in a partition. -/
def partGangs (s : State) (p : Nat) : List (Nat × Gang) := s.liveGangs.filter fun e => e.2.part == p && !e.2.dock

/-- The clusters of a partition take a ratio at a multiple of 4,096; the other modules of its fabric gangs learn it. -/
def takeRatio (s : State) (p r : Nat) : State :=
  let s := (partClusters s p).foldl (fun s c => s.setClu c { s.clu c with ratio := r }) s
  let s := ((partGangs s p).filter fun e => e.2.nmod != 0).foldl (fun s e => s.tellRatio (e.2.job * 256 + e.2.gidx) s.modNum r none) s
  s.setPart p { s.part p with ratio := r, shake := some (r, 1) }

/-- Every change of ratio whose gangs have all frozen, each at its own F, takes effect as the cycle of a multiple of 4,096 begins; its
handshake ends 1,024 and 256 cycles later. -/
def takeRatios (s : State) : State :=
  s.partsOn.foldl (fun s p => match (s.part p).shake with
    | some (r, 0) =>
      if (partGangs s p).any fun e => e.2.run == .running || e.2.reqs.any fun q => q.why == .ratio then s
      else (takeRatio s p r).timedAt (s.tide + 1280) (.ratioChange p r) { slot := 1 }
    | _ => s) s

/-- RATIO_CHANGE (21 R359): slot 0 asks the partition's gangs to freeze; the clusters take the new ratio at the first multiple of 4,096
after the last of them, and slot 1 ends the handshake. One that is asked for during another follows it. In slot 2 the module in `t` has
told the ratio of the members there of the gang `id`, a job and a gang index; what is new goes on over the job's other links. -/
def execRatioChange (p r : Nat) (s : State) : Result :=
  let k := s.part p
  match s.fr.slot with
  | 0 =>
    if k.shake.isSome then .next (s.timedAt (State.ceilTo 4096 (s.tide + 1)) (.ratioChange p r))
    else if k.ratio = r then .next s
    else
      let s := s.setPart p { k with shake := some (r, 0) }
      .next ((partGangs s p).foldl (fun s e => match e.2.run with
        | .running => s.request e.1 (e.2.reqPoint e.2.sch) .ratio
        | .frozen => s.join e.1 .ratio
        | _ => s) s)
  | 1 =>
    let s := showPart (s.setPart p { k with shake := none, chg := (k.chg + 1) % 2 ^ 16 }) p
    .next (s.eventD0 p 3 (((partClusters s p).headD 0) % 2 ^ 16 + r * 2 ^ 16))
  | _ =>
    let fr := s.fr
    .next (match fabricGang s fr.id with
      | some (gi, g) =>
        if fr.t = s.modNum ∨ SMap.get 0 g.far fr.t = r then s
        else (s.setGang gi { g with far := SMap.put 0 g.far fr.t r }).tellRatio fr.id fr.t r fr.via
      | none => s)

/-- CLOCK_RUN_PERIOD (21 R359): at a multiple of 4,096 a cluster's clock runs or stops, and with it every gang that has a member there;
in slot 1 of the frame, every gang that another module's ratio stops. -/
def execClockRunPeriod (clu : Nat) (s : State) : Result :=
  let k := s.clu clu
  let own := s.fr.slot != 1
  let runs := s.tide / 4096 % 2 ^ k.ratio == 0
  let s := if own then s.setClu clu { k with stopped := !runs } else s
  .next ((s.liveGangs.filter fun e => !e.2.dock && e.2.run == .running && !s.runsAt e.2 s.tide && (!own || e.2.clusters.contains clu)).foldl
    (fun s e => s.stopAt e.1 .clock) s)

/-! ### Partition registers and firmware images (21 R352, R353) -/

/-- Whether a set of partitions keeps the limits of R353. -/
def partsWell (s : State) : Bool :=
  let on := s.partsOn
  let mask := fun (p : Nat) => ((s.part p).clu.zipIdx.map fun e => e.1.toNat * 2 ^ (64 * e.2)).foldl (· + ·) 0
  let sum := fun (f : Part → Nat) => (on.map fun p => f (s.part p)).foldl (· + ·) 0
  on.all (fun p => on.all fun q => p == q || Nat.land (mask p) (mask q) == 0)
    && decide (sum Part.call ≤ 32000) && decide (sum Part.wcap ≤ 2000)

/-- A refused write of a partition's register is recorded in its own event queue, or, while it is not enabled, in every enabled one's
(21 R353, log 94). -/
def refusedWrite (s : State) (p : Nat) : State :=
  (if s.partOn p then [p] else s.partsOn).foldl (fun s p => s.eventOpen p 5) s

/-- The clusters that a write has moved take the ratio of the partition they have come to, or ratio 1 outside all (21 R359). -/
def moveClusters (old s : State) : State :=
  ((List.range 256).filter fun c => old.partOf (4 * c) != s.partOf (4 * c)).foldl (fun s c =>
    let r := ((s.partOf (4 * c)).map fun q => (s.part q).ratio).getD 0
    s.setClu c { s.clu c with ratio := r, stopped := s.tide / 4096 % 2 ^ r != 0 }) s

/-- PARTITION_CONFIG_WRITE (21 R353): registers 0 to 3 are PCLU0 to PCLU3, 4 is PCFG, 5 is PEVQ. A change of a partition's demand moves
the cuts of every other one, on the spacing of a lowered cap (21 R356, log 56). -/
def execPartitionConfigWrite (p r v : Nat) (s : State) : Result :=
  let k := s.part p
  let w := BitVec.ofNat 64 v
  let k' := if r < 4 then { k with clu := k.clu.set r w }
    else if r = 4 then { k with pcfg := w &&& 0x00E007FFFFFFFF01 }
    else { k with pevq := w, evCount := 0 }
  let s' := s.setPart p k'
  let held := ((s.liveGangs.flatMap fun e => if e.2.dock then [] else e.2.clusters).eraseDups)
  if 16 ≤ p ∨ 6 ≤ r then .next s
  else if !partsWell s' || held.any (fun c => s.partOf (4 * c) != s'.partOf (4 * c)) then .next (refusedWrite s p)
  else if 5 ≤ r then .next s'
  else
    let t := applyPart (moveClusters s s') p
    .next (if (budgetOf t).isSome then scheduleRanks t false else t)

/-- MAILBOX_IMAGE_WRITE (21 R352): the image takes effect at the next reset. -/
def execMailboxImageWrite (v : Nat) (s : State) : Result := .next (s.updMod fun m => { m with image := some v })

end Sys2Proof.Machine
end

