-- ==== Sys2Proof/Machine/Upkeep.lean ====
section
/-! DEFINITION. Scrubbing, refresh, corrected words and host writes (08 R168, 10 R231, 17 R292, 18 R308 to R312). -/

namespace Sys2Proof.Machine

/-- The rank of a write-back of corrected bits, after every other write of its cycle (17 R292, 18 R307). -/
def writeBackRank : Nat := 2 ^ 20 + 2

/-! ### Berths (08 R168, 17 R292) -/

/-- Whether `n` bytes at `key` have a word in the bank of berth word `word` (07 R146). -/
def meetsBank (word key n : Nat) : Bool :=
  key / 2 ^ 64 == word / 2 ^ 64 && (List.range ((key % 8 + n + 7) / 8)).any fun i => (key / 8 + i) % 16 == word / 8 % 16

/-- Whether a step of a tile word reads or writes the store of a berth word (log 58). -/
def tileUses (s : State) (word id : Nat) : Bool :=
  s.tiles.any fun j => j.id == id && [j.opA, j.opB, j.opC].any fun o =>
    (o.d.sto == 2 || o.d.sto == 3 || o.d.sto == 4) && (operandKey s o.y o.core o.d 0).any fun k => k / 2 ^ 64 == word / 2 ^ 64

/-- Whether an access of this cycle uses the service port of a berth word's bank: of an own berth anything but its core's own L slots and
the reads of its array (07 R146). -/
def portBusy (s : State) (word : Nat) : Bool :=
  let p := word / 2 ^ 64
  let far := fun (e : Eff) => p % 16 == 1 || coreOf e.fr.x != p / 16
  s.pend.any fun e => s.due e && (match e.act with
    | .store k n _ _ => (p % 16 == 1 || e.pri != 0) && meetsBank word k n
    | .atom _ w k _ _ _ _ => (p % 16 == 1 || e.pri != 0) && meetsBank word k (atomBytes w)
    | .load _ srcs _ | .fetch _ srcs _ _ => far e && srcs.any fun r => meetsBank word r.1 r.2.1
    | .wload _ k _ => meetsBank word k 64
    | .regAt y _ _ _ => p % 16 == 0 && coreOf y == p / 16
    | .poke k n _ _ => meetsBank word k n
    | .bits k off n _ => meetsBank word k ((off + n + 7) / 8)
    | .tile id _ => tileUses s word id
    | _ => false)

/-- The words with an error that the patrol of the berths visits now: of every own berth and cluster berth the line of 16 banks whose
turn it is, one every 256 cycles (17 R292, log 58). -/
def berthVisits (s : State) : List (Nat × Nat) :=
  s.ecc.filter fun e =>
    let p := 8 * e.1 / 2 ^ 64
    let line := 8 * e.1 % 2 ^ 64 / 128
    (p % 16 == 0 && line == s.tide / 256 % 512) || (p % 16 == 1 && line == s.tide / 256 % 2048)

/-- BERTH_SCRUB (17 R292). With 1 in the frame's `id` the patrol reads a word of each bank; one that has an error is read when its
service port is idle, as every word is. Otherwise the frame's `t` is the key of the word that is read, and its slot what the code finds there: 1 a
correctable, 2 an uncorrectable error. -/
def execBerthScrub (s : State) : Result :=
  if s.fr.id = 1 then
    .next { s with agenda := (berthVisits s).map (fun e => ⟨.berthScrub, { t := 8 * e.1, slot := e.2, id := 2 }⟩) ++ s.agenda }
  else
    let key := s.fr.t / 8 * 8
    let mark := SMap.get 0 s.ecc (key / 8)
    if portBusy s key then .next (s.timedAt (s.tide + 1) .berthScrub s.fr)
    else match (if s.fr.id = 2 then mark else Nat.max s.fr.slot mark) with
    | 0 => .next s
    | 1 =>
      let s := { s with ecc := SMap.put 0 s.ecc (key / 8) 1 }
      .next ((s.countError key).timedAt (s.tide + 2) (.berthScrubWriteback key))
    | _ => .next (if mark = 2 then s else { s with ecc := SMap.put 0 s.ecc (key / 8) 2 }.errorPlace key (key % 2 ^ 64))

/-- BERTH_SCRUB_WRITEBACK (17 R292): the corrected word is written back, unless a write performs by the end of this cycle. -/
def execBerthScrubWriteback (key : Nat) (s : State) : Result := .next (s.later outside writeBackRank (.writeBack key 8))

/-- CORRECTED_WRITE_BACK (08 R168): a word that a read has found correctable is written back corrected in the next cycle in which its
service port is idle. -/
def execCorrectedWriteBack (key : Nat) (s : State) : Result :=
  .next (if SMap.get 0 s.ecc (key / 8) ≠ 1 then s
    else if portBusy s key then s.timedAt (s.tide + 1) (.correctedWriteBack key)
    else s.later outside writeBackRank (.writeBack key 8))

/-! ### Warm stores (18 R308, R312) -/

/-- 12 hours and one second in cycles of TIDE. -/
def hbmPatrol : Nat := 1382400000000000
def quayPatrol : Nat := 32000000000

/-- The TIDE, modulo its period, at which the patrol of a quay die reads a granule, with the period: the granules of its four stacks, or
those of its quays and accumulator stores, one after another at even steps (18 R312, log 58). -/
def patrolTurn (key : Nat) : Option (Nat × Nat) :=
  let p := key / 2 ^ 64
  let g := key % 2 ^ 64 / 64
  if p = Place.hbm.code then some ((hbmRow g * 2048 + g % 2048) * hbmPatrol / 2 ^ 32, hbmPatrol)
  else if p % 16 = 2 then some ((p / 16 % 256 * 49152 + g) * quayPatrol / 12582912, quayPatrol)
  else if p % 16 = 3 then some ((p / 16 % 256 * 49152 + 32768 + g) * quayPatrol / 12582912, quayPatrol)
  else none

/-- The patrol reads of granules with an error that come in this cycle. -/
def warmVisits (s : State) : List Act :=
  ((s.ecc.map fun e => e.1 / 8).eraseDups.filter fun g => (patrolTurn (64 * g)).any fun e => s.tide % e.2 == e.1).map fun g =>
    ⟨.warmScrub, { t := 64 * g, slot := s.granuleEcc g }⟩

/-- WARM_SCRUB (18 R312): a granule of HBM or of a quay is read; the frame's `t` is its key, and its slot what the code finds there. -/
def execWarmScrub (s : State) : Result :=
  let key := s.fr.t / 64 * 64
  match s.fr.slot with
  | 0 => .next s
  | 1 =>
    let s := if s.granuleEcc (key / 64) = 0 then { s with ecc := SMap.put 0 s.ecc (key / 8) 1 }
      else { s with ecc := s.ecc.map fun e => (e.1, if e.2 = 3 && e.1 / 8 == key / 64 then 1 else e.2) }
    .next ((s.countError key).timedAt (s.tide + 32) (.warmScrubWriteback key))
  | _ =>
    let s := { s.poisonGranule (key / 64) with ecc := s.ecc.filter fun e => e.1 / 8 != key / 64 }
    .next (s.errorPlace key (key % 2 ^ 64))

/-- WARM_SCRUB_WRITEBACK (18 R312): the corrected granule is written back, unless a demand write performs by the end of this cycle. -/
def execWarmScrubWriteback (key : Nat) (s : State) : Result := .next (s.later outside writeBackRank (.writeBack (key / 64 * 64) 64))

/-- 32 ms, and the 1 ms that activation stamps resolve, in cycles. -/
def refreshWindow : Nat := 1024000000
def stampUnit : Nat := 32000000

/-- Row groups of the 16 banks of a channel (18 R304, R308). -/
def channelGroups : Nat := 16 * 2 ^ 18

/-- Whether a stamp lies within the preceding 32 ms, at 1 ms resolution. -/
def stampRecent (T stamp : Nat) : Bool :=
  match stamp with
  | 0 => false
  | a + 1 => decide (T / stampUnit * stampUnit ≤ a / stampUnit * stampUnit + refreshWindow)

/-- HBM_REFRESH (18 R308): the row groups of channel `ch` are visited, once in a window of 32 ms; one activated within the preceding 32 ms
is skipped. The visits of a channel count at one TIDE (log 58). -/
def execHbmRefresh (ch : Nat) (s : State) : Result :=
  let n := (s.mod.act.filter fun e => e.1 % 8192 / 16 == ch && stampRecent s.tide e.2).length
  let st := ch / 32
  .next (s.updMod fun m => { m with
    skipped := SMap.put 0 m.skipped st (SMap.get 0 m.skipped st + n)
    refreshed := SMap.put 0 m.refreshed st (SMap.get 0 m.refreshed st + (channelGroups - n)) })

/-- The refresh visits of this cycle: one channel every 2,000,000 cycles. -/
def refreshNow (s : State) : List Act :=
  if s.tide % 2000000 = 0 then [⟨.hbmRefresh (s.tide / 2000000 % 512), {}⟩] else []

/-- HOST_WRITE (18 R310): bytes at a warm physical address, after the accesses of the cycle; the record of a part that is discarded names
the host's queue, in the frame's `id`. -/
def execHostWrite (addr len : Nat) (data : Nat) (s : State) : Result :=
  match physKey addr with
  | none => .next s
  | some key => .next (s.pilotWrite key len data (some (fld (s.queue s.fr.id).qcfg.toNat 7 4, s.fr.id)))

end Sys2Proof.Machine
end

