-- ==== Sys2Proof/Machine/Cycle.lean ====
section
/-! DEFINITION. One cycle of the module: counts, what the pilots do, landings, issues, performs (00 R7, 07 R147, R149, R153,
log 5). -/

namespace Sys2Proof.Machine

namespace State

/-! ### The counts of a new cycle (00 R7, 10 R224) -/

/-- The clock of a cluster in the cycle that begins: it runs or stops at a multiple of 4,096 (21 R359). -/
def tickCluster (s : State) (k : Cluster) : Cluster :=
  if s.tide % 4096 = 0 then { k with stopped := s.tide / 4096 % 2 ^ k.ratio != 0 } else k

/-- A handler's count in the cycle that begins: while the clock of its core stands, so does the count, and a handler that has not
started waits. -/
def tickHandler (s : State) (x : Nat) (c : Ctx) : Ctx :=
  let beat := s.beat (s.gang c.gang)
  { c with handler := c.handler.map fun h =>
    if !s.clockRuns x true then { h with start := if s.tide ≤ h.start then h.start + (if h.start = s.tide then 1 else 0) else h.start }
    else if beat && decide (h.start < s.tide) then { h with cnt := h.cnt + 1 } else h }

/-- A gang's counts in the cycle that begins. -/
def tickGang (s : State) (g : Gang) : Gang :=
  if g.live && g.run == .running && s.beat g then { g with sch := g.sch + 1, cyc := g.cyc + 1 } else g

/-- TIDE goes on, with the counts of running gangs and of handlers; the watchdog of a context being saved goes on too. TIDE is a number
without end here: what reads or records it takes its low 64 bits (log 74). -/
def advance (s : State) : State :=
  let s := { s with tide := s.tide + 1 }
  let s := if s.tide % 4096 = 0 then takeRatios s else s
  let ks : SMap Cluster := s.clus.map fun e => (e.1, s.tickCluster e.2)
  let s := { s with clus := ks }
  let gs : SMap Gang := s.gangs.map fun e => (e.1, s.tickGang e.2)
  let cs : SMap Ctx := s.ctxs.map fun e => (e.1, s.tickHandler e.1 e.2)
  let s := { s with gangs := gs, ctxs := cs }
  (s.ctxs.filter fun e => e.2.saving && !e.2.saved && e.2.bulkOn).foldl (fun s e => s.watchdogTick e.1) s

/-! ### What happens at the start of a cycle -/

/-- Acts that recur at their TIDEs (07 R152, 17 R292, 20 R342, 21 R359, 22 R364). -/
def recurring (s : State) : List Act :=
  (if s.tide % 4096 = 0 then (s.clus.filter fun e => e.2.ratio != 0).map fun e => ⟨.clockRunPeriod e.1, {}⟩ else [])
    ++ (if s.tide % 4096 = 0 && s.liveGangs.any fun e => e.2.far.any fun f => f.2 != 0 then [⟨.clockRunPeriod 0, { slot := 1 }⟩] else [])
    ++ (if s.tide % 16384 = 0 then [⟨.shareCredit, {}⟩] else []) ++ (if s.tide % 4096 = 0 then [⟨.shareDecision, {}⟩] else [])
    ++ (if s.liveGangs.isEmpty then [] else [⟨.hlmRefill, {}⟩]) ++ (if s.tide % 2 ^ 20 = 0 then [⟨.tideExchange, {}⟩] else [])
    ++ (if s.tide % 256 = 0 then [⟨.berthScrub, { id := 1 }⟩] else []) ++ warmVisits s ++ refreshNow s

/-- What the pilots do now: domains that can recover, saves that can start, and one packet or command of each queue. -/
def pilots (s : State) : List Act :=
  ((s.mod.domains.filter fun e => s.domainFree e.1).map fun e => ⟨.domainRecoveryStart e.1, {}⟩)
    ++ ((s.ctxs.filter fun e => e.2.saving && !e.2.saved && !e.2.bulkOn).map fun e => ⟨.contextSaveStart e.1, { x := e.1 }⟩)
    ++ s.mod.queues.filterMap fun e => ((headEvent s e.1).orElse fun _ => streamEvent s e.1).map fun i => ⟨i, { id := e.1 }⟩

/-- What is due, split off from the front of the inputs. -/
def dueInputs (T : Nat) : List Timed → List Act × List Timed
  | [] => ([], [])
  | e :: r => if e.at_ ≤ T then ((e.act :: (dueInputs T r).1), (dueInputs T r).2) else ([], e :: r)

/-- The acts of the start of a cycle: the recurring ones, the inputs and the timed acts that are due, the pilots'. The trace of the
cycle before it is written first. -/
def openCycle (s : State) : State :=
  let s := s.flushTrace.advance
  let p := s.timed.partition fun e => decide (e.at_ ≤ s.tide)
  let q := dueInputs s.tide s.inputs
  let s := { s with timed := p.2, inputs := q.2 }
  { s with agenda := s.agenda ++ s.recurring ++ q.1 ++ p.1.map (fun e => e.act) ++ s.pilots, phase := .land }

/-! ### Freezes, resumes and faults of a cycle -/

/-- Of a gang's contexts the one whose due fault is taken first. -/
def firstFaulty (s : State) (g : Gang) : Option Nat :=
  (g.members.foldl (fun (b : Option (Nat × PendFault)) x =>
    match s.dueFault x, b with
    | none, b => b
    | some f, none => some (x, f)
    | some f, some (y, h) => if f.before h then some (x, f) else some (y, h)) none).map fun e => e.1

/-- The act that a gang's state asks for now: a fault taken, a freeze, a resume, or in the cycle before it the issue of a re-entry
bundle. -/
def gangAct (s : State) (gi : Nat) (g : Gang) : Option Act :=
  match s.firstFaulty g with
  | some x => some ⟨.faultTaken x, { x := x }⟩
  | none =>
    match g.run, g.G with
    | .running, _ => if g.reqs.any fun r => decide (r.F ≤ g.sch) then some ⟨.gangFreeze, { id := gi }⟩ else none
    | .frozen, some G =>
      if G ≤ s.tide then some ⟨.gangResume, { id := gi }⟩
      else if G = s.tide + 1 then (g.members.find? s.reentWaits).map fun x => ⟨.bundleIssue x, { x := x }⟩
      else none
    | _, _ => none

/-- Conditions of frozen gangs looked at, fences that cost nothing dropped, and the acts that follow. -/
def scan (s : State) : State :=
  let s := s.liveGangs.foldl (fun s e =>
    match e.2.run with
    | .frozen => s.settle e.1
    | .running => s.dropFences e.1
    | _ => s) s
  { s with agenda := s.liveGangs.filterMap fun e => s.gangAct e.1 e.2 }

/-! ### The body of a cycle -/

/-- Whether a put-off act is due. -/
def flightDue (s : State) (f : Flight) : Bool :=
  s.clockRuns f.x f.hnd && decide (f.due ≤ s.now f.x f.hnd) && (f.run == 0 || decide (f.run ≤ s.clk f.x f.hnd))

/-- Whether an act retires a call; those come first (09 R205). -/
def retires (f : Flight) : Bool := match f.act.i with | .matrixCallRetire _ => true | _ => false

/-- The routers that issue a word in this cycle (15 R267). -/
def routers (s : State) : List Act :=
  (s.clus.filter fun e => e.2.router.active && s.clockRuns e.2.router.x e.2.router.hnd && s.beat (s.gangOf e.2.router.x)
      && decide (e.2.router.next ≤ s.now e.2.router.x e.2.router.hnd)).map fun e =>
    ⟨.routerWordIssue e.1, {}⟩

/-- The issue slot of a core, kept at a key (07 R154): when the context that holds it has nothing to issue and another is ready, the core issues one
null bundle, and then the next ready context in cyclic order has the slot. One that has ended its task leaves it the same way (log
13). -/
def handOver (s : State) (slot : Nat × Nat) : State :=
  let (key, core) := slot
  let k := s.core key
  let h := k.holder.getD 3
  let ready := fun (n : Nat) => s.ready (4 * core + n) && s.slotKey (4 * core + n) == key
  if k.holder.isSome && ready h then (if k.gap = 0 then s else s.setCore key { k with gap := 0 })
  else match [1, 2, 3, 4].find? fun i => ready ((h + i) % 4) with
    | none => s
    | some i =>
      if k.gap = 0 then s.setCore key { k with gap := s.tide + 1 }
      else if k.gap ≤ s.tide then s.setCore key { k with holder := some ((h + i) % 4), gap := 0 }
      else s

/-- The acts after the landings: put-off acts, router words, and the bundles of the contexts that issue. -/
def body (s : State) : State :=
  let s := s.landings
  let s := ((s.liveGangs.flatMap fun e => if e.2.members.length < 2 then [] else e.2.members.map fun x => (s.slotKey x, coreOf x)).eraseDups).foldl handOver s
  let p := s.flight.partition s.flightDue
  let q := p.1.partition retires
  let xs := (s.ctxs.filter fun e => s.issues e.1 || (e.2.reent.isSome && e.2.handler.isNone && (s.gang e.2.gang).run == .running)).map
    fun e => (⟨.bundleIssue e.1, { x := e.1 }⟩ : Act)
  { s with flight := p.2, agenda := s.agenda ++ (q.1 ++ q.2).map (fun f => f.act) ++ s.routers ++ xs, phase := .perform }

/-- The jobs that are sampled in this cycle (23 R388). -/
def samples (s : State) : List Act :=
  (s.mod.traces.filter fun e => bit e.2.enab 3 && s.tide % 2 ^ e.2.per == 0).map fun e => ⟨.traceSample, { id := e.1 }⟩

/-- The end of a cycle: its performs, tasks that are complete, and samples. -/
def close (s : State) : State :=
  let s := s.performs
  { s with agenda := s.agenda ++ ((s.liveGangs.filter fun e => s.taskDone e.1).map fun e => ⟨.taskComplete, { id := e.1 }⟩)
             ++ ((s.liveGangs.filter fun e => s.endReady e.1).map fun e => ⟨.taskComplete, { id := e.1, slot := 2 }⟩) ++ s.samples,
           phase := .manage }

/-- What comes when the agenda is empty. A freeze, a fault or a resume of this cycle comes before its landings, and again
before its performs. -/
def nextPhase (s : State) : State :=
  match s.phase with
  | .manage => s.openCycle
  | .land =>
    let s := s.scan
    if s.agenda.isEmpty then s.body else s
  | .perform =>
    let s := s.scan
    if s.agenda.isEmpty then s.close else s

end State

/-! ### The instruction at hand (00 R7, 02 R21) -/

/-- The slots of the bundle being issued run one after another; one whose encoding is illegal faults. -/
def runSlots (run : Instr → State → Result) : Nat → State → Result
  | 0, s => .next s
  | n + 1, s =>
    match s.staged with
    | [] => .next s
    | .bad fr :: r => runSlots run n ({ s with staged := r, fr := fr }).illegal
    | .run a :: r =>
      match runChecked run a.i { s with staged := r, fr := a.fr } with
      | .next s' => runSlots run n s'
      | o => o

/-- The next step by the acts' meanings: one act of the agenda with the slots that it stages, or the next phase. -/
def stepWith (run : Instr → State → Result) (s : State) : Result :=
  match s.agenda with
  | [] => .next s.nextPhase
  | a :: r =>
    match runChecked run a.i { s with agenda := r, staged := [], fr := a.fr } with
    | .next s' => runSlots run 4 s'
    | o => o

/-- The state in which the very next step fetches and issues the bundle that holds `w` in slot 0, and no-operations above it:
context 0 of core 0 runs alone in a gang, with the whole bundle store, at bundle 0. -/
def placeFirst (s : State) (w : Nat) : State :=
  let s := s.setGang 0 { live := true, run := .running, members := [0] }
  let s := s.setCore 0 { s.core 0 with holder := some 0, gap := 0 }
  let s := s.setCtx 0 { s.ctx 0 with
    resident := true, gang := 0, pc := 0, allot := BitVec.ofNat 64 (31 * 2 ^ 38), xfers := [], lb := false, handler := none, reent := none
    skip := 0, noIssue := false, ended := none, nullTo := 0, bps := [] }
  { s with
    mem := s.mem.writeN ((Place.bundles 0).key 0) 16 (w % 2 ^ 32) (allBytes 16)
    agenda := [⟨.bundleIssue 0, { x := 0 }⟩]
    staged := []
    phase := .land }

end Sys2Proof.Machine
end

