-- ==== Sys2Proof/Machine/Dispatch.lean ====
section
/-! DEFINITION. The meaning of every instruction, operation and event: one arm per constructor. -/

namespace Sys2Proof.Machine

/-- The meaning of an instruction. -/
def exec (i : Instr) (s : State) : Host.Outcome State Fault Refusal :=
  match i with
  | .br g target => Sys2Proof.Machine.execBr g target s
  | .bri g s1 => Sys2Proof.Machine.execBri g s1 s
  | .call g target => Sys2Proof.Machine.execCall g target s
  | .ret g => Sys2Proof.Machine.execRet g s
  | .loop g s1 imm => Sys2Proof.Machine.execLoop g s1 imm s
  | .endl g => Sys2Proof.Machine.execEndl g s
  | .leave g => Sys2Proof.Machine.execLeave g s
  | .endTask g => Sys2Proof.Machine.execEndTask g s
  | .yield g => Sys2Proof.Machine.execYield g s
  | .wait g scope f => Sys2Proof.Machine.execWait g scope f s
  | .setf g scope f => Sys2Proof.Machine.execSetf g scope f s
  | .clrf g scope f => Sys2Proof.Machine.execClrf g scope f s
  | .tstf g pp scope f => Sys2Proof.Machine.execTstf g pp scope f s
  | .trap g code => Sys2Proof.Machine.execTrap g code s
  | .rte g => Sys2Proof.Machine.execRte g s
  | .get g s1 n => Sys2Proof.Machine.execGet g s1 n s
  | .set g s1 n => Sys2Proof.Machine.execSet g s1 n s
  | .launch g s1 => Sys2Proof.Machine.execLaunch g s1 s
  | .tiss g s1 => Sys2Proof.Machine.execTiss g s1 s
  | .slack g code => Sys2Proof.Machine.execSlack g code s
  | .bkpt g code => Sys2Proof.Machine.execBkpt g code s
  | .mark g code => Sys2Proof.Machine.execMark g code s
  | .fence g scope => Sys2Proof.Machine.execFence g scope s
  | .sys g s1 n f => Sys2Proof.Machine.execSys g s1 n f s
  | .ctxs g c => Sys2Proof.Machine.execCtxs g c s
  | .ctxr g c => Sys2Proof.Machine.execCtxr g c s
  | .add g d a b => Sys2Proof.Machine.execAdd g d a b s
  | .sub g d a b => Sys2Proof.Machine.execSub g d a b s
  | .mul g d a b => Sys2Proof.Machine.execMul g d a b s
  | .mulh g u d a b => Sys2Proof.Machine.execMulh g u d a b s
  | .and g d a b => Sys2Proof.Machine.execAnd g d a b s
  | .or g d a b => Sys2Proof.Machine.execOr g d a b s
  | .xor g d a b => Sys2Proof.Machine.execXor g d a b s
  | .andn g d a b => Sys2Proof.Machine.execAndn g d a b s
  | .shl g d a b => Sys2Proof.Machine.execShl g d a b s
  | .shr g d a b => Sys2Proof.Machine.execShr g d a b s
  | .sra g d a b => Sys2Proof.Machine.execSra g d a b s
  | .min g u d a b => Sys2Proof.Machine.execMin g u d a b s
  | .max g u d a b => Sys2Proof.Machine.execMax g u d a b s
  | .clz g d a => Sys2Proof.Machine.execClz g d a s
  | .popc g d a => Sys2Proof.Machine.execPopc g d a s
  | .mov g d a => Sys2Proof.Machine.execMov g d a s
  | .addi g d a imm => Sys2Proof.Machine.execAddi g d a imm s
  | .li g d imm => Sys2Proof.Machine.execLi g d imm s
  | .lih g d imm => Sys2Proof.Machine.execLih g d imm s
  | .sel g d a b c => Sys2Proof.Machine.execSel g d a b c s
  | .cmp g cond d a b => Sys2Proof.Machine.execCmp g cond d a b s
  | .vadd g ty sat d a b => Sys2Proof.Machine.execVadd g ty sat d a b s
  | .vsub g ty sat d a b => Sys2Proof.Machine.execVsub g ty sat d a b s
  | .vmul g ty sat d a b => Sys2Proof.Machine.execVmul g ty sat d a b s
  | .vmulh g ty d a b => Sys2Proof.Machine.execVmulh g ty d a b s
  | .vmad g ty sat d a b => Sys2Proof.Machine.execVmad g ty sat d a b s
  | .vdot4 g ty sat d a b => Sys2Proof.Machine.execVdot4 g ty sat d a b s
  | .vmin g ty d a b => Sys2Proof.Machine.execVmin g ty d a b s
  | .vmax g ty d a b => Sys2Proof.Machine.execVmax g ty d a b s
  | .vand g d a b => Sys2Proof.Machine.execVand g d a b s
  | .vor g d a b => Sys2Proof.Machine.execVor g d a b s
  | .vxor g d a b => Sys2Proof.Machine.execVxor g d a b s
  | .vandn g d a b => Sys2Proof.Machine.execVandn g d a b s
  | .vshl g ty sat d a b => Sys2Proof.Machine.execVshl g ty sat d a b s
  | .vshr g ty d a b => Sys2Proof.Machine.execVshr g ty d a b s
  | .vsra g ty d a b => Sys2Proof.Machine.execVsra g ty d a b s
  | .vabs g ty sat d a => Sys2Proof.Machine.execVabs g ty sat d a s
  | .vneg g ty sat d a => Sys2Proof.Machine.execVneg g ty sat d a s
  | .vclz g ty d a => Sys2Proof.Machine.execVclz g ty d a s
  | .vpopc g ty d a => Sys2Proof.Machine.execVpopc g ty d a s
  | .vmov g d a => Sys2Proof.Machine.execVmov g d a s
  | .vbc g ty d a => Sys2Proof.Machine.execVbc g ty d a s
  | .viota g ty d => Sys2Proof.Machine.execViota g ty d s
  | .vred g ty sat op d a => Sys2Proof.Machine.execVred g ty sat op d a s
  | .fadd g ft rnd d a b => Sys2Proof.Machine.execFadd g ft rnd d a b s
  | .fsub g ft rnd d a b => Sys2Proof.Machine.execFsub g ft rnd d a b s
  | .fmul g ft rnd d a b => Sys2Proof.Machine.execFmul g ft rnd d a b s
  | .fmin g ft d a b => Sys2Proof.Machine.execFmin g ft d a b s
  | .fmax g ft d a b => Sys2Proof.Machine.execFmax g ft d a b s
  | .fcps g ft d a b => Sys2Proof.Machine.execFcps g ft d a b s
  | .fabs g ft d a => Sys2Proof.Machine.execFabs g ft d a s
  | .fneg g ft d a => Sys2Proof.Machine.execFneg g ft d a s
  | .frcp g ft rnd d a => Sys2Proof.Machine.execFrcp g ft rnd d a s
  | .frsq g ft rnd d a => Sys2Proof.Machine.execFrsq g ft rnd d a s
  | .fsqrt g ft rnd d a => Sys2Proof.Machine.execFsqrt g ft rnd d a s
  | .fexp2 g ft rnd d a => Sys2Proof.Machine.execFexp2 g ft rnd d a s
  | .flog2 g ft rnd d a => Sys2Proof.Machine.execFlog2 g ft rnd d a s
  | .ftanh g ft rnd d a => Sys2Proof.Machine.execFtanh g ft rnd d a s
  | .fcls g ft d a => Sys2Proof.Machine.execFcls g ft d a s
  | .fred g ft rnd op d a => Sys2Proof.Machine.execFred g ft rnd op d a s
  | .fma g ft rnd d a b c => Sys2Proof.Machine.execFma g ft rnd d a b c s
  | .fms g ft rnd d a b c => Sys2Proof.Machine.execFms g ft rnd d a b c s
  | .fnma g ft rnd d a b c => Sys2Proof.Machine.execFnma g ft rnd d a b c s
  | .vcmp g ty cond pp a b => Sys2Proof.Machine.execVcmp g ty cond pp a b s
  | .fcmp g ty cond pp a b => Sys2Proof.Machine.execFcmp g ty cond pp a b s
  | .pand g d a b => Sys2Proof.Machine.execPand g d a b s
  | .por g d a b => Sys2Proof.Machine.execPor g d a b s
  | .pxor g d a b => Sys2Proof.Machine.execPxor g d a b s
  | .pnot g d a => Sys2Proof.Machine.execPnot g d a s
  | .pmov g d a => Sys2Proof.Machine.execPmov g d a s
  | .pcnt g d a => Sys2Proof.Machine.execPcnt g d a s
  | .vsel g d a b p => Sys2Proof.Machine.execVsel g d a b p s
  | .cvt g dty sty rnd d a => Sys2Proof.Machine.execCvt g dty sty rnd d a s
  | .cvtSat g dty sty rnd d a => Sys2Proof.Machine.execCvtSat g dty sty rnd d a s
  | .cvtb g bf16 dx4 dec rnd d a => Sys2Proof.Machine.execCvtb g bf16 dx4 dec rnd d a s
  | .cvtg g d a => Sys2Proof.Machine.execCvtg g d a s
  | .amaxr g d => Sys2Proof.Machine.execAmaxr g d s
  | .seed g => Sys2Proof.Machine.execSeed g s
  | .seedFromVector g a => Sys2Proof.Machine.execSeedFromVector g a s
  | .pack g w part d a => Sys2Proof.Machine.execPack g w part d a s
  | .unpk g w part d a => Sys2Proof.Machine.execUnpk g w part d a s
  | .zip2 g size d a b => Sys2Proof.Machine.execZip2 g size d a b s
  | .zip3 g size d a => Sys2Proof.Machine.execZip3 g size d a s
  | .zip4 g size d a => Sys2Proof.Machine.execZip4 g size d a s
  | .uzp2 g size d a b => Sys2Proof.Machine.execUzp2 g size d a b s
  | .uzp3 g size d a => Sys2Proof.Machine.execUzp3 g size d a s
  | .uzp4 g size d a => Sys2Proof.Machine.execUzp4 g size d a s
  | .perm g size d a b => Sys2Proof.Machine.execPerm g size d a b s
  | .slide g d a n => Sys2Proof.Machine.execSlide g d a n s
  | .drv g st a => Sys2Proof.Machine.execDrv g st a s
  | .tap g d st => Sys2Proof.Machine.execTap g d st s
  | .xcp g d st a => Sys2Proof.Machine.execXcp g d st a s
  | .dtx g k d a b => Sys2Proof.Machine.execDtx g k d a b s
  | .dtu g k d a => Sys2Proof.Machine.execDtu g k d a s
  | .dtc g k pp a b => Sys2Proof.Machine.execDtc g k pp a b s
  | .dts g d a => Sys2Proof.Machine.execDts g d a s
  | .dtz g k => Sys2Proof.Machine.execDtz g k s
  | .dtq g k d => Sys2Proof.Machine.execDtq g k d s
  | .dtld g k a imm => Sys2Proof.Machine.execDtld g k a imm s
  | .vld g d a disp => Sys2Proof.Machine.execVld g d a disp s
  | .vst g d a disp => Sys2Proof.Machine.execVst g d a disp s
  | .lds g d a disp => Sys2Proof.Machine.execLds g d a disp s
  | .sts g d a disp => Sys2Proof.Machine.execSts g d a disp s
  | .vlds g d a b => Sys2Proof.Machine.execVlds g d a b s
  | .vldx g d a b => Sys2Proof.Machine.execVldx g d a b s
  | .vstx g d a b => Sys2Proof.Machine.execVstx g d a b s
  | .rset g ring a => Sys2Proof.Machine.execRset g ring a s
  | .rpush g ring => Sys2Proof.Machine.execRpush g ring s
  | .rinfo g d ring => Sys2Proof.Machine.execRinfo g d ring s
  | .atom g op w d a b => Sys2Proof.Machine.execAtom g op w d a b s
  | .xin g v q sz => Sys2Proof.Machine.execXin g v q sz s
  | .xout g v q sz => Sys2Proof.Machine.execXout g v q sz s
  | .xinm g scope v q mask => Sys2Proof.Machine.execXinm g scope v q mask s
  | .xinr g ring q sz => Sys2Proof.Machine.execXinr g ring q sz s
  | .xina g lat h => Sys2Proof.Machine.execXina g lat h s
  | .xouta g lat h => Sys2Proof.Machine.execXouta g lat h s
  | .xcal g d => Sys2Proof.Machine.execXcal g d s
  | .mcall g n => Sys2Proof.Machine.execMcall g n s
  | .mset g m s1 => Sys2Proof.Machine.execMset g m s1 s
  | .mget g m s1 => Sys2Proof.Machine.execMget g m s1 s
  | .mzero g lat => Sys2Proof.Machine.execMzero g lat s
  | .mpop g v lat grp => Sys2Proof.Machine.execMpop g v lat grp s
  | .mpsh g v lat grp => Sys2Proof.Machine.execMpsh g v lat grp s
  | .mload g n s1 => Sys2Proof.Machine.execMload g n s1 s
  | .sld g lat a imm => Sys2Proof.Machine.execSld g lat a imm s
  | .trn g a grp => Sys2Proof.Machine.execTrn g a grp s
  | .trno g d grp => Sys2Proof.Machine.execTrno g d grp s
  | .ceLd g a b off => Sys2Proof.Machine.execCeLd g a b off s
  | .ceSt g a b off => Sys2Proof.Machine.execCeSt g a b off s
  | .ceAl g a b off => Sys2Proof.Machine.execCeAl g a b off s
  | .ceAs g a b off => Sys2Proof.Machine.execCeAs g a b off s
  | .ceGth g a b off => Sys2Proof.Machine.execCeGth g a b off s
  | .ceFil g a b off => Sys2Proof.Machine.execCeFil g a b off s
  | .rtLd g a b off => Sys2Proof.Machine.execRtLd g a b off s
  | .rtGo g a b off => Sys2Proof.Machine.execRtGo g a b off s
  | .rtStop g off => Sys2Proof.Machine.execRtStop g off s
  | .bxSend g a b off => Sys2Proof.Machine.execBxSend g a b off s
  | .bxPost g a b f => Sys2Proof.Machine.execBxPost g a b f s
  | .ceCxlToQuay g q s1 f => Sys2Proof.Machine.execCeCxlToQuay g q s1 f s
  | .ceCxlToTier g q s1 f => Sys2Proof.Machine.execCeCxlToTier g q s1 f s
  | .bundleIssue x => Sys2Proof.Machine.execBundleIssue x s
  | .rld d stp gr => Sys2Proof.Machine.execRld d stp gr s
  | .rldc d x stp gr => Sys2Proof.Machine.execRldc d x stp gr s
  | .rldi d imm => Sys2Proof.Machine.execRldi d imm s
  | .radd ty d a b => Sys2Proof.Machine.execRadd ty d a b s
  | .rmax ty d a b => Sys2Proof.Machine.execRmax ty d a b s
  | .rmin ty d a b => Sys2Proof.Machine.execRmin ty d a b s
  | .rand d a b => Sys2Proof.Machine.execRand d a b s
  | .rflt d a mask => Sys2Proof.Machine.execRflt d a mask s
  | .rthr ty d a b => Sys2Proof.Machine.execRthr ty d a b s
  | .rmov d a => Sys2Proof.Machine.execRmov d a s
  | .rst a stp gr => Sys2Proof.Machine.execRst a stp gr s
  | .rstc x a stp gr => Sys2Proof.Machine.execRstc x a stp gr s
  | .rpsh x d a => Sys2Proof.Machine.execRpsh x d a s
  | .rflg n => Sys2Proof.Machine.execRflg n s
  | .routerWordIssue clu => Sys2Proof.Machine.execRouterWordIssue clu s
  | .tmul w => Sys2Proof.Machine.execTmul w s
  | .tmuls w => Sys2Proof.Machine.execTmuls w s
  | .tadd w => Sys2Proof.Machine.execTadd w s
  | .tscl w => Sys2Proof.Machine.execTscl w s
  | .tred w => Sys2Proof.Machine.execTred w s
  | .tcpy w => Sys2Proof.Machine.execTcpy w s
  | .txps w => Sys2Proof.Machine.execTxps w s
  | .tdig w => Sys2Proof.Machine.execTdig w s
  | .tfil w => Sys2Proof.Machine.execTfil w s
  | .tfen w => Sys2Proof.Machine.execTfen w s
  | .matrixCallStart core => Sys2Proof.Machine.execMatrixCallStart core s
  | .matrixCallRetire core => Sys2Proof.Machine.execMatrixCallRetire core s
  | .lockSlot x id => Sys2Proof.Machine.execLockSlot x id s
  | .engineSlot x id => Sys2Proof.Machine.execEngineSlot x id s
  | .hbmCalendarAccess id => Sys2Proof.Machine.execHbmCalendarAccess id s
  | .faultTaken x => Sys2Proof.Machine.execFaultTaken x s
  | .contextSaveStart x => Sys2Proof.Machine.execContextSaveStart x s
  | .watchdogExpiry x => Sys2Proof.Machine.execWatchdogExpiry x s
  | .qtailWrite q v => Sys2Proof.Machine.execQtailWrite q v s
  | .deviceLaunch id => Sys2Proof.Machine.execDeviceLaunch id s
  | .sysNop id => Sys2Proof.Machine.execSysNop id s
  | .sysClock id => Sys2Proof.Machine.execSysClock id s
  | .sysLease id => Sys2Proof.Machine.execSysLease id s
  | .sysTokens id => Sys2Proof.Machine.execSysTokens id s
  | .sysUserRecord id => Sys2Proof.Machine.execSysUserRecord id s
  | .cxlRequestComplete id ok => Sys2Proof.Machine.execCxlRequestComplete id ok s
  | .cxlRequestTimeout id => Sys2Proof.Machine.execCxlRequestTimeout id s
  | .sysReply id => Sys2Proof.Machine.execSysReply id s
  | .bxSendArrival gid due va data bad => Sys2Proof.Machine.execBxSendArrival gid due va data bad s
  | .bxPostArrival job va data rf rfn after => Sys2Proof.Machine.execBxPostArrival job va data rf rfn after s
  | .bxPostAck id info ok => Sys2Proof.Machine.execBxPostAck id info ok s
  | .flitReceive link ok => Sys2Proof.Machine.execFlitReceive link ok s
  | .linkTrained link => Sys2Proof.Machine.execLinkTrained link s
  | .linkFailed link => Sys2Proof.Machine.execLinkFailed link s
  | .gangReadyReport gid md win => Sys2Proof.Machine.execGangReadyReport gid md win s
  | .slackWaveArrival job w0 w1 w2 => Sys2Proof.Machine.execSlackWaveArrival job w0 w1 w2 s
  | .berthScrubWriteback key => Sys2Proof.Machine.execBerthScrubWriteback key s
  | .warmScrubWriteback key => Sys2Proof.Machine.execWarmScrubWriteback key s
  | .hbmRefresh ch => Sys2Proof.Machine.execHbmRefresh ch s
  | .hostWrite addr len data => Sys2Proof.Machine.execHostWrite addr len data s
  | .firmwareVerifyDone ok0 ok1 => Sys2Proof.Machine.execFirmwareVerifyDone ok0 ok1 s
  | .selfTestComplete pass => Sys2Proof.Machine.execSelfTestComplete pass s
  | .hekChange v => Sys2Proof.Machine.execHekChange v s
  | .moduleLimitExceeded warm => Sys2Proof.Machine.execModuleLimitExceeded warm s
  | .biasDomainFailure d => Sys2Proof.Machine.execBiasDomainFailure d s
  | .domainRecoveryStart d => Sys2Proof.Machine.execDomainRecoveryStart d s
  | .rampEnd d => Sys2Proof.Machine.execRampEnd d s
  | .domainSelfTestDone d pass => Sys2Proof.Machine.execDomainSelfTestDone d pass s
  | .capFrame body mac => Sys2Proof.Machine.execCapFrame body mac s
  | .ratioChange p r => Sys2Proof.Machine.execRatioChange p r s
  | .clockRunPeriod clu => Sys2Proof.Machine.execClockRunPeriod clu s
  | .allotmentUpdate p => Sys2Proof.Machine.execAllotmentUpdate p s
  | .partitionConfigWrite p r v => Sys2Proof.Machine.execPartitionConfigWrite p r v s
  | .fjtWrite n v => Sys2Proof.Machine.execFjtWrite n v s
  | .lgrtWrite link cell v => Sys2Proof.Machine.execLgrtWrite link cell v s
  | .mailboxImageWrite v => Sys2Proof.Machine.execMailboxImageWrite v s
  | .registerWrite r v => Sys2Proof.Machine.execRegisterWrite r v s
  | .heliumFlowChange v => Sys2Proof.Machine.execHeliumFlowChange v s
  | .linkTrainingStart link => Sys2Proof.Machine.execLinkTrainingStart link s
  | .partitionWarmCapReached p => Sys2Proof.Machine.execPartitionWarmCapReached p s
  | .cxlRequestSend id => Sys2Proof.Machine.execCxlRequestSend id s
  | .correctedWriteBack key => Sys2Proof.Machine.execCorrectedWriteBack key s
  | .rnop => Sys2Proof.Machine.execRnop s
  | .rhalt => Sys2Proof.Machine.execRhalt s
  | .gangFreeze => Sys2Proof.Machine.execGangFreeze s
  | .gangResume => Sys2Proof.Machine.execGangResume s
  | .taskComplete => Sys2Proof.Machine.execTaskComplete s
  | .launchPacket => Sys2Proof.Machine.execLaunchPacket s
  | .gangStart => Sys2Proof.Machine.execGangStart s
  | .stagingComplete => Sys2Proof.Machine.execStagingComplete s
  | .table => Sys2Proof.Machine.execTable s
  | .tilePacket => Sys2Proof.Machine.execTilePacket s
  | .eventPacket => Sys2Proof.Machine.execEventPacket s
  | .fencePacket => Sys2Proof.Machine.execFencePacket s
  | .lease => Sys2Proof.Machine.execLease s
  | .leaseExpiry => Sys2Proof.Machine.execLeaseExpiry s
  | .leaseRevocation => Sys2Proof.Machine.execLeaseRevocation s
  | .leaseRevocationEnd => Sys2Proof.Machine.execLeaseRevocationEnd s
  | .csend => Sys2Proof.Machine.execCsend s
  | .csln => Sys2Proof.Machine.execCsln s
  | .csin => Sys2Proof.Machine.execCsin s
  | .csjm => Sys2Proof.Machine.execCsjm s
  | .csbr => Sys2Proof.Machine.execCsbr s
  | .cslp => Sys2Proof.Machine.execCslp s
  | .csel => Sys2Proof.Machine.execCsel s
  | .cswf => Sys2Proof.Machine.execCswf s
  | .commandStreamWaitEnd => Sys2Proof.Machine.execCommandStreamWaitEnd s
  | .shareCredit => Sys2Proof.Machine.execShareCredit s
  | .shareDecision => Sys2Proof.Machine.execShareDecision s
  | .hlmRefill => Sys2Proof.Machine.execHlmRefill s
  | .tideExchange => Sys2Proof.Machine.execTideExchange s
  | .fabricLaunchTimeout => Sys2Proof.Machine.execFabricLaunchTimeout s
  | .startWave => Sys2Proof.Machine.execStartWave s
  | .slackFreeze => Sys2Proof.Machine.execSlackFreeze s
  | .resumeWave => Sys2Proof.Machine.execResumeWave s
  | .stepEnd => Sys2Proof.Machine.execStepEnd s
  | .debugStop => Sys2Proof.Machine.execDebugStop s
  | .debugResume => Sys2Proof.Machine.execDebugResume s
  | .debugStep => Sys2Proof.Machine.execDebugStep s
  | .debugRead => Sys2Proof.Machine.execDebugRead s
  | .debugWrite => Sys2Proof.Machine.execDebugWrite s
  | .debugBreak => Sys2Proof.Machine.execDebugBreak s
  | .debugTrace => Sys2Proof.Machine.execDebugTrace s
  | .debugGraph => Sys2Proof.Machine.execDebugGraph s
  | .debugEnd => Sys2Proof.Machine.execDebugEnd s
  | .traceSample => Sys2Proof.Machine.execTraceSample s
  | .berthScrub => Sys2Proof.Machine.execBerthScrub s
  | .warmScrub => Sys2Proof.Machine.execWarmScrub s
  | .moduleReset => Sys2Proof.Machine.execModuleReset s
  | .cooldownTimer => Sys2Proof.Machine.execCooldownTimer s
  | .capRankApply => Sys2Proof.Machine.execCapRankApply s
  | .tileChildEnd => Sys2Proof.Machine.execTileChildEnd s

end Sys2Proof.Machine
end

