-- ==== Sys2Proof/Machine/Step.lean ====
section
/-! DEFINITION. One step of the module, and the placing of a first instruction. -/

namespace Sys2Proof.Machine

/-- One step: the next act of the cycle in progress with the slots that it issues, or the next phase of the cycle. -/
def step (s : State) : Host.Outcome State Fault Refusal := stepWith exec s

/-- The state with an instruction where the next step fetches (log 15). -/
def State.withFetchWord (s : State) (nbits w : Nat) : State := placeFirst s (w % 2 ^ nbits)

end Sys2Proof.Machine
end

