-- ==== Sys2Proof/Safety.lean ====
section
/-! DEFINITION. What the statements are said in: the invariant that makes equal stores equal data, and the shapes in which a
slot answers. -/

namespace Sys2Proof.Machine

/-- The invariant: the byte memory is in its canonical form. -/
def State.Canonical (s : State) : Prop := s.mem.wf = true

/-- The state of a slot that reads its guard once: `t` when the guard is true, `s` itself when it is not (02 R24). -/
def once (g : Guard) (s t : State) : State := if s.onceGuard g then t else s

/-- Element `j` of width `w` of a slice. -/
def elemOf (w : Nat) (v : Gran) (j : Nat) : Nat := v.toNat / 2 ^ (w * j) % 2 ^ w

/-- The state after one slice of a per-lane slot: `val` is to land in vd `lat` counts after the slice executes, under the
guards of its elements, and the slot goes on in the next slice (04 R80, 05 R88). -/
def laneNext (i : Instr) (g : Guard) (w lat d : Nat) (val : Gran) (s : State) : State :=
  (s.landV d s.fr.slice val (elemMask w (s.laneGuard g s.fr.slice)) (s.fr.t + s.fr.slice + lat)).nextSlice i s.fr

/-- `val` holds `f j` in every element `j`. -/
def HoldsElems (w : Nat) (val : Gran) (f : Nat → Nat) : Prop := ∀ j, j < 512 / w → elemOf w val j = f j

/-- Two states agree on everything but what is pending, put off and in the undo log. -/
def State.SameStore (s t : State) : Prop :=
  t.mem = s.mem ∧ t.ctxs = s.ctxs ∧ t.cores = s.cores ∧ t.clus = s.clus ∧ t.gangs = s.gangs ∧ t.mod = s.mod ∧ t.tide = s.tide

/-- The frame of the program's bundle that context `x` fetches at `pc` now (04 R79, 02 R21). -/
def State.bundleFrame (s : State) (x pc : Nat) : Frame :=
  let c := s.ctx x
  { x := x, t := s.now x false, addr := pc, rbv := c.rbv, rbp := c.rbp, fmask := c.fmask.toNat, allot := some c.allot }

/-- The program of context `x` fetches at `pc` in this cycle: it issues, in no handler, outside the compatibility interlock,
with nothing left over from a fault or a wait. -/
def State.Fetches (s : State) (x pc : Nat) : Prop :=
  let c := s.ctx x
  s.issues x = true ∧ c.handler = none ∧ c.reent = none ∧ issuedAtF s x = false ∧ c.nullTo ≤ s.now x false ∧ c.skip = 0
    ∧ c.lb = false ∧ c.psw.getLsbD 10 = false ∧ fetchPc c (s.now x false) = pc

/-- The charge of the slots of bundle `b` at `pc` (07 R152); none on dock cores (21 R351). -/
def State.bundleCharge (s : State) (x pc b : Nat) : Nat :=
  if (s.gangOf x).dock then 0 else ((stageSlots (s.bundleFrame x pc) b 0).map (slotCharge s)).foldl (· + ·) 0

/-- Bundle `b` at `pc` passes the checks before its slots: it lies in the allotment, no breakpoint meets it, it keeps the
resource limits, and the meter admits it. -/
def State.Admits (s : State) (x pc b : Nat) : Prop :=
  (s.ctx x).bundleIn pc = true ∧ hitBreak (s.ctx x) pc = none ∧ s.bundleAt (coreOf x) pc = b ∧ resourceOver b = 0
    ∧ (s.gangOf x).admits (s.ctx x).hlmthr.toNat (s.bundleCharge x pc b) = true

/-- No byte carries an error mark and no parity has failed, so that every write lands whole and leaves no mark to renew. -/
def State.Clean (s : State) : Prop := s.ecc = [] ∧ s.poison = [] ∧ s.soft = []

end Sys2Proof.Machine
end

