-- ==== Sys2Proof/WellFormed.lean ====
section
/-! DEFINITION. Well-formed instructions: every operand fits its field (02 R28) and lies inside the
instruction's stated limits (02 R36). -/

namespace Sys2Proof

/-- A guard that is not "not p0": a slot with that guard is a null slot (02 R25). -/
def Guard.ok (g : Guard) : Bool := decide (g.p < 16) && !(g.neg && g.p == 0)

/-- A descriptor whose fields fit (02 R44). -/
def TileDesc.fits (d : TileDesc) : Bool := decide (d.sto < 2 ^ 4 ∧ d.str < 2 ^ 14 ∧ d.adr < 2 ^ 40)

/-- A tile word whose fields fit (02 R42). -/
def TileWord.fits (t : TileWord) : Bool :=
  decide (t.lvl < 8 ∧ t.fa < 32 ∧ t.fb < 32 ∧ t.fc < 32 ∧ t.rnd < 8 ∧ t.aux < 8 ∧ t.tm < 2 ^ 16 ∧ t.tn < 2 ^ 16
    ∧ t.tk < 2 ^ 16) && t.dsa.fits && t.dsb.fits && t.dsc.fits

/-- Every operand fits its field. An event of the table has no word and so no field. -/
def Instr.fits : Instr → Bool
  | .br g target => g.ok && decide (target < 2048)
  | .bri g s => g.ok && decide (s < 32)
  | .call g target => g.ok && decide (target < 2048)
  | .ret g => g.ok
  | .loop g s imm => g.ok && decide (s < 32 ∧ imm < 2048)
  | .endl g => g.ok
  | .leave g => g.ok
  | .endTask g => g.ok
  | .yield g => g.ok
  | .wait g _ f => g.ok && decide (f < 64)
  | .setf g _ f => g.ok && decide (f < 64)
  | .clrf g _ f => g.ok && decide (f < 64)
  | .tstf g pp _ f => g.ok && decide (pp < 8 ∧ f < 64)
  | .trap g code => g.ok && decide (code < 2048)
  | .rte g => g.ok
  | .get g s n => g.ok && decide (s < 32 ∧ n < 2048)
  | .set g s n => g.ok && decide (s < 32 ∧ n < 2048)
  | .launch g s => g.ok && decide (s < 32)
  | .tiss g s => g.ok && decide (s < 32)
  | .slack g code => g.ok && decide (code < 2048)
  | .bkpt g code => g.ok && decide (code < 2048)
  | .mark g code => g.ok && decide (code < 2048)
  | .fence g _ => g.ok
  | .sys g s n f => g.ok && decide (s < 32 ∧ n < 128 ∧ f < 16)
  | .ctxs g c => g.ok && decide (c < 4)
  | .ctxr g c => g.ok && decide (c < 4)
  | .add g d a b => g.ok && decide (d < 32 ∧ a < 32 ∧ b < 32)
  | .sub g d a b => g.ok && decide (d < 32 ∧ a < 32 ∧ b < 32)
  | .mul g d a b => g.ok && decide (d < 32 ∧ a < 32 ∧ b < 32)
  | .mulh g _ d a b => g.ok && decide (d < 32 ∧ a < 32 ∧ b < 32)
  | .and g d a b => g.ok && decide (d < 32 ∧ a < 32 ∧ b < 32)
  | .or g d a b => g.ok && decide (d < 32 ∧ a < 32 ∧ b < 32)
  | .xor g d a b => g.ok && decide (d < 32 ∧ a < 32 ∧ b < 32)
  | .andn g d a b => g.ok && decide (d < 32 ∧ a < 32 ∧ b < 32)
  | .shl g d a b => g.ok && decide (d < 32 ∧ a < 32 ∧ b < 32)
  | .shr g d a b => g.ok && decide (d < 32 ∧ a < 32 ∧ b < 32)
  | .sra g d a b => g.ok && decide (d < 32 ∧ a < 32 ∧ b < 32)
  | .min g _ d a b => g.ok && decide (d < 32 ∧ a < 32 ∧ b < 32)
  | .max g _ d a b => g.ok && decide (d < 32 ∧ a < 32 ∧ b < 32)
  | .clz g d a => g.ok && decide (d < 32 ∧ a < 32)
  | .popc g d a => g.ok && decide (d < 32 ∧ a < 32)
  | .mov g d a => g.ok && decide (d < 32 ∧ a < 32)
  | .addi g d a imm => g.ok && decide (d < 32 ∧ a < 32 ∧ -131072 ≤ imm ∧ imm < 131072)
  | .li g d imm => g.ok && decide (d < 32 ∧ -4194304 ≤ imm ∧ imm < 4194304)
  | .lih g d imm => g.ok && decide (d < 32 ∧ imm < 65536)
  | .sel g d a b c => g.ok && decide (d < 32 ∧ a < 32 ∧ b < 32 ∧ c < 32)
  | .cmp g _ d a b => g.ok && decide (d < 32 ∧ a < 32 ∧ b < 32)
  | .vadd g _ _ d a b => g.ok && decide (d < 32 ∧ a < 32 ∧ b < 32)
  | .vsub g _ _ d a b => g.ok && decide (d < 32 ∧ a < 32 ∧ b < 32)
  | .vmul g _ _ d a b => g.ok && decide (d < 32 ∧ a < 32 ∧ b < 32)
  | .vmulh g _ d a b => g.ok && decide (d < 32 ∧ a < 32 ∧ b < 32)
  | .vmad g _ _ d a b => g.ok && decide (d < 32 ∧ a < 32 ∧ b < 32)
  | .vdot4 g _ _ d a b => g.ok && decide (d < 32 ∧ a < 32 ∧ b < 32)
  | .vmin g _ d a b => g.ok && decide (d < 32 ∧ a < 32 ∧ b < 32)
  | .vmax g _ d a b => g.ok && decide (d < 32 ∧ a < 32 ∧ b < 32)
  | .vand g d a b => g.ok && decide (d < 32 ∧ a < 32 ∧ b < 32)
  | .vor g d a b => g.ok && decide (d < 32 ∧ a < 32 ∧ b < 32)
  | .vxor g d a b => g.ok && decide (d < 32 ∧ a < 32 ∧ b < 32)
  | .vandn g d a b => g.ok && decide (d < 32 ∧ a < 32 ∧ b < 32)
  | .vshl g _ _ d a b => g.ok && decide (d < 32 ∧ a < 32 ∧ b < 32)
  | .vshr g _ d a b => g.ok && decide (d < 32 ∧ a < 32 ∧ b < 32)
  | .vsra g _ d a b => g.ok && decide (d < 32 ∧ a < 32 ∧ b < 32)
  | .vabs g _ _ d a => g.ok && decide (d < 32 ∧ a < 32)
  | .vneg g _ _ d a => g.ok && decide (d < 32 ∧ a < 32)
  | .vclz g _ d a => g.ok && decide (d < 32 ∧ a < 32)
  | .vpopc g _ d a => g.ok && decide (d < 32 ∧ a < 32)
  | .vmov g d a => g.ok && decide (d < 32 ∧ a < 32)
  | .vbc g _ d a => g.ok && decide (d < 32 ∧ a < 32)
  | .viota g _ d => g.ok && decide (d < 32)
  | .vred g _ _ _ d a => g.ok && decide (d < 8 ∧ a < 32)
  | .fadd g _ _ d a b => g.ok && decide (d < 32 ∧ a < 32 ∧ b < 32)
  | .fsub g _ _ d a b => g.ok && decide (d < 32 ∧ a < 32 ∧ b < 32)
  | .fmul g _ _ d a b => g.ok && decide (d < 32 ∧ a < 32 ∧ b < 32)
  | .fmin g _ d a b => g.ok && decide (d < 32 ∧ a < 32 ∧ b < 32)
  | .fmax g _ d a b => g.ok && decide (d < 32 ∧ a < 32 ∧ b < 32)
  | .fcps g _ d a b => g.ok && decide (d < 32 ∧ a < 32 ∧ b < 32)
  | .fabs g _ d a => g.ok && decide (d < 32 ∧ a < 32)
  | .fneg g _ d a => g.ok && decide (d < 32 ∧ a < 32)
  | .frcp g _ _ d a => g.ok && decide (d < 32 ∧ a < 32)
  | .frsq g _ _ d a => g.ok && decide (d < 32 ∧ a < 32)
  | .fsqrt g _ _ d a => g.ok && decide (d < 32 ∧ a < 32)
  | .fexp2 g _ _ d a => g.ok && decide (d < 32 ∧ a < 32)
  | .flog2 g _ _ d a => g.ok && decide (d < 32 ∧ a < 32)
  | .ftanh g _ _ d a => g.ok && decide (d < 32 ∧ a < 32)
  | .fcls g _ d a => g.ok && decide (d < 32 ∧ a < 32)
  | .fred g _ _ _ d a => g.ok && decide (d < 8 ∧ a < 32)
  | .fma g _ _ d a b c => g.ok && decide (d < 32 ∧ a < 32 ∧ b < 32 ∧ c < 32)
  | .fms g _ _ d a b c => g.ok && decide (d < 32 ∧ a < 32 ∧ b < 32 ∧ c < 32)
  | .fnma g _ _ d a b c => g.ok && decide (d < 32 ∧ a < 32 ∧ b < 32 ∧ c < 32)
  | .vcmp g _ _ pp a b => g.ok && decide (pp < 8 ∧ a < 32 ∧ b < 32)
  | .fcmp g _ _ pp a b => g.ok && decide (pp < 8 ∧ a < 32 ∧ b < 32)
  | .pand g d a b => g.ok && decide (d < 32 ∧ a < 32 ∧ b < 32)
  | .por g d a b => g.ok && decide (d < 32 ∧ a < 32 ∧ b < 32)
  | .pxor g d a b => g.ok && decide (d < 32 ∧ a < 32 ∧ b < 32)
  | .pnot g d a => g.ok && decide (d < 32 ∧ a < 32)
  | .pmov g d a => g.ok && decide (d < 32 ∧ a < 32)
  | .pcnt g d a => g.ok && decide (d < 32 ∧ a < 32)
  | .vsel g d a b p => g.ok && decide (d < 32 ∧ a < 32 ∧ b < 32 ∧ p < 16)
  | .cvt g _ _ _ d a => g.ok && decide (d < 32 ∧ a < 32)
  | .cvtSat g _ _ _ d a => g.ok && decide (d < 32 ∧ a < 32)
  | .cvtb g _ _ _ _ d a => g.ok && decide (d < 32 ∧ a < 32)
  | .cvtg g d a => g.ok && decide (d < 32 ∧ a < 32)
  | .amaxr g d => g.ok && decide (d < 32)
  | .seed g => g.ok
  | .seedFromVector g a => g.ok && decide (a < 32)
  | .pack g w part d a => g.ok && decide (w < 4 ∧ part < 8 ∧ d < 32 ∧ a < 32)
  | .unpk g w part d a => g.ok && decide (w < 4 ∧ part < 8 ∧ d < 32 ∧ a < 32)
  | .zip2 g _ d a b => g.ok && decide (d < 32 ∧ a < 32 ∧ b < 32)
  | .zip3 g _ d a => g.ok && decide (d < 32 ∧ a < 32)
  | .zip4 g _ d a => g.ok && decide (d < 32 ∧ a < 32)
  | .uzp2 g _ d a b => g.ok && decide (d < 32 ∧ a < 32 ∧ b < 32)
  | .uzp3 g _ d a => g.ok && decide (d < 32 ∧ a < 32)
  | .uzp4 g _ d a => g.ok && decide (d < 32 ∧ a < 32)
  | .perm g _ d a b => g.ok && decide (d < 32 ∧ a < 32 ∧ b < 32)
  | .slide g d a n => g.ok && decide (d < 32 ∧ a < 32 ∧ -131072 ≤ n ∧ n < 131072)
  | .drv g st a => g.ok && decide (st < 8 ∧ a < 32)
  | .tap g d st => g.ok && decide (d < 32 ∧ st < 8)
  | .xcp g d st a => g.ok && decide (d < 32 ∧ st < 8 ∧ a < 32)
  | .dtx g k d a b => g.ok && decide (k < 4 ∧ d < 32 ∧ a < 32 ∧ b < 32)
  | .dtu g k d a => g.ok && decide (k < 4 ∧ d < 32 ∧ a < 32)
  | .dtc g k pp a b => g.ok && decide (k < 4 ∧ pp < 8 ∧ a < 32 ∧ b < 32)
  | .dts g d a => g.ok && decide (d < 32 ∧ a < 32)
  | .dtz g k => g.ok && decide (k < 4)
  | .dtq g k d => g.ok && decide (k < 4 ∧ d < 32)
  | .dtld g k a imm => g.ok && decide (k < 4 ∧ a < 32 ∧ -131072 ≤ imm ∧ imm < 131072)
  | .vld g d a disp => g.ok && decide (d < 32 ∧ a < 32 ∧ -65536 ≤ disp ∧ disp < 65536)
  | .vst g d a disp => g.ok && decide (d < 32 ∧ a < 32 ∧ -65536 ≤ disp ∧ disp < 65536)
  | .lds g d a disp => g.ok && decide (d < 32 ∧ a < 32 ∧ -65536 ≤ disp ∧ disp < 65536)
  | .sts g d a disp => g.ok && decide (d < 32 ∧ a < 32 ∧ -65536 ≤ disp ∧ disp < 65536)
  | .vlds g d a b => g.ok && decide (d < 32 ∧ a < 32 ∧ b < 32)
  | .vldx g d a b => g.ok && decide (d < 32 ∧ a < 32 ∧ b < 32)
  | .vstx g d a b => g.ok && decide (d < 32 ∧ a < 32 ∧ b < 32)
  | .rset g ring a => g.ok && decide (ring < 8 ∧ a < 32)
  | .rpush g ring => g.ok && decide (ring < 8)
  | .rinfo g d ring => g.ok && decide (d < 32 ∧ ring < 8)
  | .atom g _ _ d a b => g.ok && decide (d < 32 ∧ a < 32 ∧ b < 32)
  | .xin g v q sz => g.ok && decide (v < 32 ∧ q < 4096 ∧ sz < 8)
  | .xout g v q sz => g.ok && decide (v < 32 ∧ q < 4096 ∧ sz < 8)
  | .xinm g _ v q mask => g.ok && decide (v < 32 ∧ q < 4096 ∧ mask < 16)
  | .xinr g ring q sz => g.ok && decide (ring < 8 ∧ q < 4096 ∧ sz < 8)
  | .xina g lat h => g.ok && decide (lat < 8 ∧ h < 256)
  | .xouta g lat h => g.ok && decide (lat < 8 ∧ h < 256)
  | .xcal g d => g.ok && decide (d < 32)
  | .mcall g n => g.ok && decide (n < 256)
  | .mset g m s => g.ok && decide (m < 8 ∧ s < 32)
  | .mget g m s => g.ok && decide (m < 8 ∧ s < 32)
  | .mzero g lat => g.ok && decide (lat < 8)
  | .mpop g v lat grp => g.ok && decide (v < 32 ∧ lat < 8 ∧ grp < 8)
  | .mpsh g v lat grp => g.ok && decide (v < 32 ∧ lat < 8 ∧ grp < 8)
  | .mload g n s => g.ok && decide (n < 256 ∧ s < 32)
  | .sld g lat a imm => g.ok && decide (lat < 8 ∧ a < 32 ∧ -131072 ≤ imm ∧ imm < 131072)
  | .trn g a grp => g.ok && decide (a < 32 ∧ grp < 8)
  | .trno g d grp => g.ok && decide (d < 32 ∧ grp < 8)
  | .ceLd g a b off => g.ok && decide (a < 32 ∧ b < 32 ∧ off < 16384)
  | .ceSt g a b off => g.ok && decide (a < 32 ∧ b < 32 ∧ off < 16384)
  | .ceAl g a b off => g.ok && decide (a < 32 ∧ b < 32 ∧ off < 16384)
  | .ceAs g a b off => g.ok && decide (a < 32 ∧ b < 32 ∧ off < 16384)
  | .ceGth g a b off => g.ok && decide (a < 32 ∧ b < 32 ∧ off < 16384)
  | .ceFil g a b off => g.ok && decide (a < 32 ∧ b < 32 ∧ off < 16384)
  | .rtLd g a b off => g.ok && decide (a < 32 ∧ b < 32 ∧ off < 16384)
  | .rtGo g a b off => g.ok && decide (a < 32 ∧ b < 32 ∧ off < 16384)
  | .rtStop g off => g.ok && decide (off < 16384)
  | .bxSend g a b off => g.ok && decide (a < 32 ∧ b < 32 ∧ off < 16384)
  | .bxPost g a b f => g.ok && decide (a < 32 ∧ b < 32 ∧ f < 16)
  | .ceCxlToQuay g q s f => g.ok && decide (q < 4096 ∧ s < 32 ∧ f < 16)
  | .ceCxlToTier g q s f => g.ok && decide (q < 4096 ∧ s < 32 ∧ f < 16)
  | .rld d stp gr => decide (d < 8 ∧ stp < 256 ∧ gr < 4096)
  | .rldc d x stp gr => decide (d < 8 ∧ x < 4 ∧ stp < 256 ∧ gr < 4096)
  | .rldi d imm => decide (d < 8 ∧ imm < 65536)
  | .radd _ d a b | .rmax _ d a b | .rmin _ d a b | .rthr _ d a b => decide (d < 8 ∧ a < 8 ∧ b < 8)
  | .rand d a b => decide (d < 8 ∧ a < 8 ∧ b < 8)
  | .rflt d a mask => decide (d < 8 ∧ a < 8 ∧ mask < 65536)
  | .rmov d a => decide (d < 8 ∧ a < 8)
  | .rst a stp gr => decide (a < 8 ∧ stp < 256 ∧ gr < 4096)
  | .rstc x a stp gr => decide (x < 16 ∧ a < 8 ∧ stp < 256 ∧ gr < 4096)
  | .rpsh x d a => decide (x < 16 ∧ d < 8 ∧ a < 8)
  | .rflg n => decide (n < 64)
  | .tmul t | .tmuls t | .tadd t | .tscl t | .tred t | .tcpy t | .txps t | .tdig t | .tfil t | .tfen t => t.fits
  | _ => true

/-- A well-formed instruction. -/
def Instr.WellFormed (i : Instr) : Prop := (i.fits && i.legal) = true

/-- Well-formedness as a test, by name. -/
def Instr.wf (i : Instr) : Bool := i.fits && i.legal

end Sys2Proof
end

