-- ==== Sys2Proof/Certificates/Slice0/Obligations.lean ====
section
/-! DEFINITION. The statements for the provers. -/

open Sys2Proof Sys2Proof.Machine

/-! ### Scalar instructions (08 R164 to R166, 07 R143) -/

/-- 08 R164, R165: sums, differences and products modulo 2^64, the high half of a product, and immediates; they land in
sd one count after issue, products three. With a false guard nothing changes.

08 R164: bitwise results bit by bit, and shifts as products and quotients with powers of two for every count, also one
of 64 or more.

08 R164, R165: minimum, maximum, leading zeros, one bits, selection and comparison. -/
def Obligations.ScalarResults : Prop :=
  (∀ (g : Guard) (d a b : Nat) (s : State),
    let x := s.sget a
    let y := s.sget b
    let lands := fun (v : Word) (lat : Nat) => once g s (s.landS d v (s.fr.t + lat))
    (∃ v, exec (.add g d a b) s = .next (lands v 1) ∧ v.toNat = (x.toNat + y.toNat) % 2 ^ 64)
    ∧ (∃ v, exec (.sub g d a b) s = .next (lands v 1) ∧ (v.toNat + y.toNat) % 2 ^ 64 = x.toNat)
    ∧ (∃ v, exec (.mul g d a b) s = .next (lands v 3) ∧ v.toNat = x.toNat * y.toNat % 2 ^ 64)
    ∧ (∃ v, exec (.mulh g true d a b) s = .next (lands v 3) ∧ v.toNat = x.toNat * y.toNat / 2 ^ 64)
    ∧ (∃ v, exec (.mulh g false d a b) s = .next (lands v 3) ∧ v.toInt = x.toInt * y.toInt / 2 ^ 64)
    ∧ (∀ imm : Int, ∃ v, exec (.addi g d a imm) s = .next (lands v 1) ∧ (v.toNat : Int) = (x.toNat + imm) % 2 ^ 64)
    ∧ (∀ imm : Int, ∃ v, exec (.li g d imm) s = .next (lands v 1) ∧ (v.toNat : Int) = imm % 2 ^ 64)
    ∧ (∀ imm : Nat, imm < 2 ^ 16 → ∃ v, exec (.lih g d imm) s = .next (lands v 1)
        ∧ v.toNat = (s.sget d).toNat * 2 ^ 16 % 2 ^ 64 + imm)
    ∧ exec (.mov g d a) s = .next (lands x 1))
  ∧ (∀ (g : Guard) (d a b : Nat) (s : State),
    let x := s.sget a
    let y := s.sget b
    let lands := fun (v : Word) => once g s (s.landS d v (s.fr.t + 1))
    (∃ v, exec (.and g d a b) s = .next (lands v) ∧ ∀ i, v.getLsbD i = (x.getLsbD i && y.getLsbD i))
    ∧ (∃ v, exec (.or g d a b) s = .next (lands v) ∧ ∀ i, v.getLsbD i = (x.getLsbD i || y.getLsbD i))
    ∧ (∃ v, exec (.xor g d a b) s = .next (lands v) ∧ ∀ i, v.getLsbD i = (x.getLsbD i != y.getLsbD i))
    ∧ (∃ v, exec (.andn g d a b) s = .next (lands v) ∧ ∀ i, v.getLsbD i = (x.getLsbD i && !y.getLsbD i))
    ∧ (∃ v, exec (.shl g d a b) s = .next (lands v) ∧ v.toNat = x.toNat * 2 ^ y.toNat % 2 ^ 64)
    ∧ (∃ v, exec (.shr g d a b) s = .next (lands v) ∧ v.toNat = x.toNat / 2 ^ y.toNat)
    ∧ (∃ v, exec (.sra g d a b) s = .next (lands v) ∧ v.toInt = x.toInt / 2 ^ y.toNat))
  ∧ (∀ (g : Guard) (d a b c : Nat) (s : State),
    let x := s.sget a
    let y := s.sget b
    let lands := fun (v : Word) => once g s (s.landS d v (s.fr.t + 1))
    (∃ v, exec (.min g true d a b) s = .next (lands v) ∧ v.toNat = min x.toNat y.toNat)
    ∧ (∃ v, exec (.min g false d a b) s = .next (lands v) ∧ v.toInt = min x.toInt y.toInt)
    ∧ (∃ v, exec (.max g true d a b) s = .next (lands v) ∧ v.toNat = max x.toNat y.toNat)
    ∧ (∃ v, exec (.max g false d a b) s = .next (lands v) ∧ v.toInt = max x.toInt y.toInt)
    ∧ (∃ v, exec (.clz g d a) s = .next (lands v) ∧ v.toNat ≤ 64 ∧ x.toNat < 2 ^ (64 - v.toNat)
        ∧ (v.toNat < 64 → 2 ^ (63 - v.toNat) ≤ x.toNat))
    ∧ (∃ v, exec (.popc g d a) s = .next (lands v) ∧ v.toNat = ((List.range 64).filter x.getLsbD).length)
    ∧ exec (.sel g d a b c) s = .next (lands (if s.sget c = 0 then y else x))
    ∧ ∀ k : Cond, exec (.cmp g k d a b) s = .next (lands (if (match k with
        | .eq => x == y
        | .ne => x != y
        | .lt => decide (x.toInt < y.toInt)
        | .le => decide (x.toInt ≤ y.toInt)
        | .gt => decide (y.toInt < x.toInt)
        | .ge => decide (y.toInt ≤ x.toInt)
        | .ltn => decide (x.toNat < y.toNat)
        | .len => decide (x.toNat ≤ y.toNat)
        | .gtn => decide (y.toNat < x.toNat)
        | .gen => decide (y.toNat ≤ x.toNat) : Bool) then 1 else 0)))

/-- 07 R143, 10 R226: GET lands the register that its number names one count after issue, each as the context, its gang or the
module holds it at issue. TIDE, HLMBAL, YDL and CAPCAUSE are inputs of a run and leave a trace record (23 R394); one of them that a
re-entry bundle reads lands as it stood in the cycle before the resume. -/
def Obligations.GetReadsControlRegisters : Prop :=
  ∀ (g : Guard) (r : Nat) (s : State),
    let c := s.ctx s.fr.x
    let k := s.gangOf s.fr.x
    let runs : Nat → Bool := fun n => n == 3 || n == 22 || n == 24 || n == 26
    let gets := fun (n : Nat) (now : Word) =>
      let v := if s.fr.pre = true ∧ runs n then s.fr.cap else now
      exec (.get g r n) s = .next (once g s ((if runs n then
        s.record 4 6 1 (if s.fr.pre then s.tide - 1 else s.tide) v.toNat else s).landS r v (s.fr.t + 1)))
    gets 0 c.psw
    ∧ gets 1 (BitVec.ofNat 64 (if s.fr.hnd then k.F else k.sch))
    ∧ gets 2 (BitVec.ofNat 64 k.anchor)
    ∧ gets 3 (BitVec.ofNat 64 s.tide)
    ∧ gets 4 (BitVec.ofNat 64 c.rbv) ∧ gets 5 (BitVec.ofNat 64 c.rbp)
    ∧ gets 6 (BitVec.ofNat 64 c.lstk.length)
    ∧ (∀ n, n < 6 → gets (8 + n) (match c.lstk[n]? with
        | some e => BitVec.ofNat 64 (e.1 * 2 ^ 32 + e.2 % 2 ^ 32)
        | none => 0))
    ∧ (s.pend = [] → gets 16 c.amax)
    ∧ gets 17 c.fmask ∧ gets 18 c.fcause ∧ gets 19 c.finfo ∧ gets 20 c.fbnd ∧ gets 21 c.allot
    ∧ gets 22 (BitVec.ofNat 64 k.bal) ∧ gets 23 c.hlmthr ∧ gets 24 c.ydl ∧ gets 25 c.wdog ∧ gets 26 c.capcause
    ∧ gets 27 (BitVec.ofNat 64 (c.owner * 2 ^ 32 + s.fr.x / 4 * 4 + s.fr.x % 4))
    ∧ gets 28 c.seed

/-- 07 R143: SET writes its register at issue + 1, before any other landing of that count; without PRIV a SET of ALLOT,
HLMTHR, YDL or WDOG raises the privilege fault (code 3, reason 0) at its issue, and no later slot of its bundle issues.

07 R141 to R144: what a SET leaves in its register when it takes effect: the writable fields of PSW, RBV, RBP, AMAX,
FMASK, ALLOT and WDOG, the whole of HLMTHR, YDL and SEED; no other register of the context changes, except that a SET of
WDOG restarts its count and one of SEED loads the generators. -/
def Obligations.SetWritesItsRegister : Prop :=
  (∀ (g : Guard) (r n : Nat) (s : State),
    (¬ (n = 21 ∨ n = 23 ∨ n = 24 ∨ n = 25) ∨ (s.ctx s.fr.x).psw.getLsbD 11 = true →
      exec (.set g r n) s = .next (once g s (s.push (s.fr.t + 1) (.creg n (s.sget r)) 0)))
    ∧ ((n = 21 ∨ n = 23 ∨ n = 24 ∨ n = 25) → (s.ctx s.fr.x).psw.getLsbD 11 = false → s.onceGuard g = true →
      exec (.set g r n) s = .next { s with
        staged := []
        faults := addFault ⟨s.fr.x, s.fr.hnd, s.fr.t, s.fr.t, s.fr.re, s.fr.slot, s.fr.addr, 3, 0, 0, false, s.fr.rbv, s.fr.rbp⟩
          s.faults }))
  ∧ (∀ (s : State) (fr : Frame) (due run pri n : Nat) (v : Word),
    let c := s.ctx fr.x
    let c' := (s.land ⟨fr, due, run, pri, .creg n v, 0⟩).ctx fr.x
    (n = 0 → c' = { c with psw := (c.psw &&& ~~~0x3F3#64) ||| (v &&& 0x3F3#64) })
    ∧ (n = 4 → c' = { c with rbv := v.toNat % 16 })
    ∧ (n = 5 → c' = { c with rbp := v.toNat % 8 })
    ∧ (n = 16 → c' = { c with amax := v &&& 0x1FFFFFFFF#64 })
    ∧ (n = 17 → c' = { c with fmask := v &&& 0x3F#64 })
    ∧ (n = 21 → c' = { c with allot := v &&& ~~~0x3F#64, bare := 0 })
    ∧ (n = 23 → c' = { c with hlmthr := v })
    ∧ (n = 24 → c' = { c with ydl := v })
    ∧ (n = 25 → c' = { c with wdog := v &&& 0xC0000000FFFFFFFF#64, wcnt := 0 })
    ∧ (n = 28 → c'.seed = v ∧ ∀ k, k < 8 → c'.regs.read (.gen k) = seedSlice v k)
    ∧ (∀ j, n = 8 + j → j < 6 → c' = if j < c.lstk.length then
        { c with lstk := c.lstk.set j (v.toNat / 2 ^ 32 % 2 ^ 11, v.toNat % 2 ^ 32) } else c))

/-! ### Landings of registers (07 R140, R147, 04 R77) -/

/-- 07 R140, 04 R77: a landing writes its register of its context under its mask and nothing else; s0 reads zero and a
write to it lands nowhere, p0 reads ones, p1 zeros. Other contexts, memory and every other store keep what they hold.

07 R147, R153: a pending landing comes in the cycle of its due count and in no earlier one, and in none while its clock stands:
with one effect pending, the landings of a cycle do it when its count has come, and else change nothing but the list of what the
cycle has landed.

07 R147, R155: effects of one cycle are done in the order of their issue counts, and within a bundle of their slots:
of two landings in one register the later-issued one stays. -/
def Obligations.LandingsWriteInOrder : Prop :=
  (∀ (s : State) (fr : Frame) (due run pri : Nat) (l : Loc) (val mask : Gran),
    let t := s.land ⟨fr, due, run, pri, .reg l val mask, 0⟩
    let old := (s.ctx fr.x).regs
    let new := (t.ctx fr.x).regs
    (∀ n, new.read (.s n) = if l = .s n ∧ n ≠ 0 then ((mergeBits (old.read l) val mask).setWidth 64).setWidth 512 else old.read (.s n))
    ∧ (∀ n k, new.read (.v n k) = match l with
        | .v n' k' => if 8 * n' + k' = 8 * n + k then mergeBits (old.read l) val mask else old.read (.v n k)
        | _ => old.read (.v n k))
    ∧ (∀ n k, new.read (.p n k) = match l with
        | .p n' k' => if 8 * n' + k' = 8 * n + k ∧ 1 < n ∧ 1 < n' then ((mergeBits (old.read l) val mask).setWidth 16).setWidth 512
            else old.read (.p n k)
        | _ => old.read (.p n k))
    ∧ (∀ k, new.read (.dsr k) = if l = .dsr k then ((mergeBits (old.read l) val mask).setWidth 64).setWidth 512 else old.read (.dsr k))
    ∧ (∀ k, new.read (.gen k) = if l = .gen k then mergeBits (old.read l) val mask else old.read (.gen k))
    ∧ (∀ i, new.read (.strm i) = if l = .strm i then mergeBits (old.read l) val mask else old.read (.strm i))
    ∧ (∀ n, new.read (.m n) = if l = .m n then ((mergeBits (old.read l) val mask).setWidth 64).setWidth 512 else old.read (.m n))
    ∧ new.read (.s 0) = 0 ∧ (∀ k, new.read (.p 0 k) = 0xFFFF) ∧ (∀ k, new.read (.p 1 k) = 0)
    ∧ (∀ y, y ≠ fr.x → t.ctx y = s.ctx y)
    ∧ (∃ ps, t.ctx fr.x = { s.ctx fr.x with regs := new, past := ps })
    ∧ t.mem = s.mem ∧ t.cores = s.cores ∧ t.clus = s.clus ∧ t.gangs = s.gangs ∧ t.tide = s.tide
    ∧ (s.soft = [] → t.mod = s.mod ∧ t.pend = s.pend))
  ∧ ((∀ (s : State) (e : Eff), s.pend = [e] → e.act.performs = false → e.run = 0 → e.wall = 0 →
    (e.due ≤ s.now e.fr.x e.fr.hnd → s.clockRuns e.fr.x e.fr.hnd = true →
      ∃ l, s.landings = { ({ s with pend := [], landed := [] } : State).land e with landed := l })
    ∧ (s.now e.fr.x e.fr.hnd < e.due ∨ s.clockRuns e.fr.x e.fr.hnd = false → s.landings = { s with landed := [] }))
  ∧ (∀ (s : State) (f f' : Frame) (r : Nat) (v v' : Word) (n n' : Nat),
    f.x = f'.x → f.hnd = f'.hnd → n ≤ s.now f.x f.hnd → n' ≤ s.now f.x f.hnd → s.clockRuns f.x f.hnd = true → f.ord < f'.ord → r ≠ 0 →
    (s.pend = [⟨f, n, 0, 1, .reg (.s r) (v.setWidth 512) allBits, 0⟩, ⟨f', n', 0, 1, .reg (.s r) (v'.setWidth 512) allBits, 0⟩]
      ∨ s.pend = [⟨f', n', 0, 1, .reg (.s r) (v'.setWidth 512) allBits, 0⟩, ⟨f, n, 0, 1, .reg (.s r) (v.setWidth 512) allBits, 0⟩]) →
    (s.landings.ctx f.x).regs.read (.s r) = v'.setWidth 512))

/-! ### Vector instructions over integers (05 R88 to R98, 03 R48, R50) -/

/-- 05 R94, R95: sums, differences, products, high halves, minimum, maximum and multiply-add of each element, wrapped or
clamped to the type, landing two counts after the slice executes, products four; vd is the addend of VMAD and VDOT4.

05 R94, R97, R107: bitwise results lane by lane, moves, the choice by a predicate, and a scalar or the element's index
in every element.

05 R96, R97: shifts, absolute value, negation, leading zeros and one bits of each element.

03 R48, R50: an exact integer result is kept modulo 2^w, or with .sat the nearest value of the type is. -/
def Obligations.VectorIntegerResults : Prop :=
  ((∀ (g : Guard) (ty : ElemTy) (sat : Bool) (d a b : Nat) (s : State),
    let k := s.fr.slice
    let w := ty.width
    let v := fun (r j : Nat) => intVal ty.isSigned w (elemAt s w r k j)
    let answers := fun (i : Instr) (lat : Nat) (f : Nat → Nat) =>
      ∃ val, exec i s = .next (laneNext i g w lat d val s) ∧ HoldsElems w val f
    answers (.vadd g ty sat d a b) 2 (fun j => fit ty.isSigned sat w (v a j + v b j))
    ∧ answers (.vsub g ty sat d a b) 2 (fun j => fit ty.isSigned sat w (v a j - v b j))
    ∧ answers (.vmul g ty sat d a b) 4 (fun j => fit ty.isSigned sat w (v a j * v b j))
    ∧ answers (.vmulh g ty d a b) 4 (fun j => fit ty.isSigned false w (v a j * v b j / 2 ^ w))
    ∧ answers (.vmin g ty d a b) 2 (fun j => fit ty.isSigned false w (min (v a j) (v b j)))
    ∧ answers (.vmax g ty d a b) 2 (fun j => fit ty.isSigned false w (max (v a j) (v b j)))
    ∧ answers (.vmad g ty sat d a b) 4 (fun j => fit ty.isSigned sat w (v d j + v a j * v b j))
    ∧ ∃ val, exec (.vdot4 g ty sat d a b) s = .next (laneNext (.vdot4 g ty sat d a b) g 32 4 d val s)
      ∧ HoldsElems 32 val fun j => fit ty.isSigned sat 32 (intVal ty.isSigned 32 (elemAt s 32 d k j)
          + ((List.range (32 / w)).map fun i => v a (j * (32 / w) + i) * v b (j * (32 / w) + i)).foldl (· + ·) 0))
  ∧ (∀ (g : Guard) (ty : ElemTy) (d a b p : Nat) (s : State),
    let k := s.fr.slice
    let w := ty.width
    let x := s.vget a k
    let y := s.vget b k
    let answers := fun (i : Instr) (w : Nat) (P : Gran → Prop) => ∃ val, exec i s = .next (laneNext i g w 2 d val s) ∧ P val
    answers (.vand g d a b) 32 (fun v => ∀ i, v.getLsbD i = (x.getLsbD i && y.getLsbD i))
    ∧ answers (.vor g d a b) 32 (fun v => ∀ i, v.getLsbD i = (x.getLsbD i || y.getLsbD i))
    ∧ answers (.vxor g d a b) 32 (fun v => ∀ i, v.getLsbD i = (x.getLsbD i != y.getLsbD i))
    ∧ answers (.vandn g d a b) 32 (fun v => ∀ i, v.getLsbD i = (x.getLsbD i && !y.getLsbD i))
    ∧ answers (.vmov g d a) 32 (fun v => v = x)
    ∧ answers (.vsel g d a b p) 32 (fun v => HoldsElems 32 v fun j =>
        if (s.pget p k).getLsbD j then elemOf 32 x j else elemOf 32 y j)
    ∧ answers (.viota g ty d) w (fun v => HoldsElems w v fun j => (k * (512 / w) + j) % 2 ^ w)
    ∧ ∃ val, exec (.vbc g ty d a) s = .next (laneNext (.vbc g ty d a) g w 2 d val (captureScalar a s))
        ∧ HoldsElems w val fun _ => (captureScalar a s).fr.cap.toNat % 2 ^ w)
  ∧ (∀ (g : Guard) (ty : ElemTy) (sat : Bool) (d a b : Nat) (s : State),
    let k := s.fr.slice
    let w := ty.width
    let x := fun j => elemAt s w a k j
    let c := fun j => elemAt s w b k j
    let answers := fun (i : Instr) (P : Nat → Nat → Prop) =>
      ∃ val, exec i s = .next (laneNext i g w 2 d val s) ∧ ∀ j, j < 512 / w → P j (elemOf w val j)
    answers (.vshl g ty sat d a b) (fun j r => r = fit ty.isSigned sat w (intVal ty.isSigned w (x j) * 2 ^ c j))
    ∧ answers (.vshr g ty d a b) (fun j r => r = x j / 2 ^ c j)
    ∧ answers (.vsra g ty d a b) (fun j r => intVal true w r = intVal true w (x j) / 2 ^ c j)
    ∧ answers (.vabs g ty sat d a) (fun j r => r = fit true sat w |intVal true w (x j)|)
    ∧ answers (.vneg g ty sat d a) (fun j r => r = fit ty.isSigned sat w (-(intVal ty.isSigned w (x j))))
    ∧ answers (.vclz g ty d a) (fun j r => r ≤ w ∧ x j < 2 ^ (w - r) ∧ (r < w → 2 ^ (w - 1 - r) ≤ x j))
    ∧ answers (.vpopc g ty d a) (fun j r => r = ((List.range w).filter fun i => (x j).testBit i).length)))
  ∧ (∀ (sg : Bool) (w : Nat) (e : Int), 0 < w →
    ((fit sg false w e : Nat) : Int) = e % 2 ^ w
    ∧ intVal sg w (fit sg true w e) = max (if sg then -(2 ^ (w - 1)) else 0) (min (if sg then 2 ^ (w - 1) - 1 else 2 ^ w - 1) e)
    ∧ (∀ x, x < 2 ^ w → fit sg false w (intVal sg w x) = x))

/-- 05 R98, R104, 03 R74: a reduction takes one slice a cycle with the identity in guarded-off elements, and after slice 7
its one value lands in every element of all slices under their guards, 40 counts after issue for VRED, 64 for FRED and 128
for FRED.f64; FRED's flags come with it. -/
def Obligations.ReductionsLandOneValue : Prop :=
  ∀ (g : Guard) (d a : Nat) (s : State),
    let k := s.fr.slice
    let gm := s.laneGuard g k
    let taken := fun (w ident : Nat) => ({ s with fr := { s.fr with
      capv := withGran s.fr.capv k (eGran w (redLeaves w ident gm (s.vget a k)))
      gt := s.fr.gt ||| BitVec.ofNat 128 (gm.toNat * 2 ^ (16 * k)) } } : State)
    let spread := fun (w lat : Nat) (v : Nat) (u : State) => (List.range 8).foldl (fun (u : State) j =>
      u.landV d j (eGran w (List.replicate (512 / w) v)) (elemMask w (sliceOf u.fr.gt j)) (s.fr.t + lat)) u
    let slices := fun (w : Nat) (u : State) => (List.range 8).map fun j => granE w (granOf u.fr.capv j)
    (∀ (ty : ElemTy) (sat : Bool) (op : RedOp),
      let u := taken ty.width (intIdentity ty op)
      let r := reduce8 (intNode ty sat op) (treeLevels ty.width) (slices ty.width u)
      exec (.vred g ty sat op d a) s = .next (if k < 7 then u.nextSlice (.vred g ty sat op d a) u.fr
        else (spread ty.width 40 r.1 u).fpFlags r.2 (s.fr.t + 40) (s.fr.t + 40)))
    ∧ ∀ (ft : FTy) (rnd : Rnd) (op : RedOp),
      let F := ftFmt ft
      let lat := if ft = .f64 then 128 else 64
      let u := taken F.width (fpIdentity F op)
      let r := reduce8 (fpNode F rnd op) (treeLevels F.width) (slices F.width u)
      exec (.fred g ft rnd op d a) s = .next (if k < 7 then u.nextSlice (.fred g ft rnd op d a) u.fr
        else (spread F.width lat r.1 u).fpFlags r.2 (s.fr.t + lat) (s.fr.t + lat))

/-! ### Vector instructions over floating point (05 R99 to R105, 03 R52 to R61) -/

/-- 03 R60, R61: the flags of a slot merge into PSW at their count, and those enabled in the FMASK captured at issue raise
the enabled-FP-exception fault (code 10) one count after the slot's last landing. Flags that land are set in PSW, and stay set when a
SET of PSW is taken back; no other context and no memory changes. -/
def Obligations.EnabledFlagsFault : Prop :=
  (∀ (s : State) (fr : Frame) (due run pri fl : Nat),
    let t := s.land ⟨fr, due, run, pri, .flagsOr fl, 0⟩
    t.ctx fr.x = { s.ctx fr.x with psw := (s.ctx fr.x).psw ||| BitVec.ofNat 64 (fl * 16) } ∧ t.mem = s.mem ∧ t.pend = s.pend
      ∧ (∀ y, y ≠ fr.x → t.ctx y = s.ctx y)
      ∧ (∀ u o, u ∈ s.undo → u.x = fr.x → u.old = .creg 0 o → ∃ u' ∈ t.undo, u'.old = .creg 0 (o ||| BitVec.ofNat 64 (fl * 16))))
  ∧ ∀ (s : State) (fl due D : Nat),
    let en := fl &&& s.fr.fmask &&& 0x1F
    (s.fpFlags 0 due D = s)
    ∧ (fl ≠ 0 → en = 0 → s.fpFlags fl due D = s.push due (.flagsOr fl) 2)
    ∧ (fl ≠ 0 → en ≠ 0 → s.fpFlags fl due D = { s.push due (.flagsOr fl) 2 with
        faults := addFault ⟨s.fr.x, s.fr.hnd, D + 1, s.fr.t, s.fr.re, s.fr.slot, s.fr.addr, 10, BitVec.ofNat 64 en, 0, false,
          s.fr.rbv, s.fr.rbp⟩ s.faults })

/-- 05 R100 to R104: each element's result and flags by the rule of the instruction, over the slice's elements and the draws
of its generators; it lands after 6 counts (12 for .f64), 2 for the instructions that do not round, 10 for the functions of
R103. The flags are those of the elements that the guards let through.

Where the rules leave a point to reading it rests on log entries 41 and 42. -/
def Obligations.VectorFloatArithmetic : Prop :=
  ∀ (g : Guard) (ft : FTy) (rnd : Rnd) (d a b c : Nat) (s : State),
    let F := ftFmt ft
    let w := F.width
    let k := s.fr.slice
    let gm := s.laneGuard g k
    let x := fun j => elemAt s w a k j
    let y := fun j => elemAt s w b k j
    let z := fun j => elemAt s w c k j
    let arith := if ft = .f64 then 12 else 6
    let answers := fun (i : Instr) (rnd : Rnd) (lat : Nat) (f : Nat → Nat → Nat × Nat) =>
      let p := s.draws rnd w (512 / w) k (elemOn w gm)
      let r := fun j => f (p.1.getD j 0) j
      let due := s.fr.t + k + lat
      ∃ val fl, exec i s = .next (((p.2.landV d k val (elemMask w gm) due).fpFlags fl due (s.fr.t + 7 + lat)).nextSlice i s.fr)
        ∧ (∀ j, j < 512 / w → elemOf w val j = (r j).1 % 2 ^ w)
        ∧ fl = ((List.range (512 / w)).filter (elemOn w gm)).foldl (fun m j => m ||| (r j).2) 0
    answers (.fadd g ft rnd d a b) rnd arith (fun u j => F.add rnd u (x j) (y j))
    ∧ answers (.fsub g ft rnd d a b) rnd arith (fun u j => F.sub rnd u (x j) (y j))
    ∧ answers (.fmul g ft rnd d a b) rnd arith (fun u j => F.mul rnd u (x j) (y j))
    ∧ answers (.fma g ft rnd d a b c) rnd arith (fun u j => F.fma rnd u false false (x j) (y j) (z j))
    ∧ answers (.fms g ft rnd d a b c) rnd arith (fun u j => F.fma rnd u false true (x j) (y j) (z j))
    ∧ answers (.fnma g ft rnd d a b c) rnd arith (fun u j => F.fma rnd u true false (x j) (y j) (z j))
    ∧ answers (.fmin g ft d a b) .rn 2 (fun _ j => F.minmax false (x j) (y j))
    ∧ answers (.fmax g ft d a b) .rn 2 (fun _ j => F.minmax true (x j) (y j))
    ∧ answers (.fcps g ft d a b) .rn 2 (fun _ j => (x j % 2 ^ (w - 1) + y j / 2 ^ (w - 1) * 2 ^ (w - 1), 0))
    ∧ answers (.fabs g ft d a) .rn 2 (fun _ j => (x j % 2 ^ (w - 1), 0))
    ∧ answers (.fneg g ft d a) .rn 2 (fun _ j => (x j % 2 ^ (w - 1) + (1 - x j / 2 ^ (w - 1)) * 2 ^ (w - 1), 0))
    ∧ answers (.fcls g ft d a) .rn 2 (fun _ j => (2 ^ classBit F (x j), 0))
    ∧ answers (.frcp g ft rnd d a) rnd 10 (fun _ j => F.frcp rnd (x j))
    ∧ answers (.frsq g ft rnd d a) rnd 10 (fun _ j => F.frsq rnd (x j))
    ∧ answers (.fsqrt g ft rnd d a) rnd 10 (fun _ j => F.fsqrt rnd (x j))
    ∧ answers (.fexp2 g ft rnd d a) rnd 10 (fun _ j => F.fexp2 rnd (x j))
    ∧ answers (.flog2 g ft rnd d a) rnd 10 (fun _ j => F.flog2 rnd (x j))
    ∧ answers (.ftanh g ft rnd d a) rnd 10 (fun _ j => F.ftanh rnd (x j))

/-- 03 R55: an exact magnitude becomes an integer number of units of the last place next to it, the nearest one with ties to
even under .rn, the one toward zero under .rz, upward or downward by the sign under .ru and .rd; a magnitude that is a
whole number of units stays, and only then is the result exact. -/
def Obligations.RoundingPicksANeighbour : Prop :=
  ∀ (rnd : Rnd) (u : Nat) (neg : Bool) (m : Nat) (e q : Int),
    let r := roundInt rnd u neg m e q false
    let x : ℚ := (m : ℚ) * (2 : ℚ) ^ (e - q)
    ((r.1 : ℚ) < x + 1 ∧ x < (r.1 : ℚ) + 1)
    ∧ (r.2 = true ↔ (r.1 : ℚ) = x)
    ∧ (rnd = .rn → |(r.1 : ℚ) - x| ≤ 1 / 2 ∧ (|(r.1 : ℚ) - x| = 1 / 2 → r.1 % 2 = 0))
    ∧ (rnd = .rz → (r.1 : ℚ) ≤ x)
    ∧ (rnd = .ru → if neg then (r.1 : ℚ) ≤ x else x ≤ (r.1 : ℚ))
    ∧ (rnd = .rd → if neg then x ≤ (r.1 : ℚ) else (r.1 : ℚ) ≤ x)

/-- 05 R105 to R107: a compare lands its result and the complement in the pair three counts after the slice executes, each
lane under its guard; predicate logic lands after two, and PCNT counts a slice's ones into each of its lanes. -/
def Obligations.ComparesAndPredicates : Prop :=
  ∀ (g : Guard) (ty : ElemTy) (cond : Cond) (pp d a b : Nat) (s : State),
    let k := s.fr.slice
    let w := ty.width
    let gm := s.laneGuard g k
    let due := s.fr.t + k + 3
    let pair := fun (m v : LaneMask) (u : State) => (u.landP (2 * pp) k v m due).landP (2 * pp + 1) k (~~~v) m due
    let holds := fun (j : Nat) => condHolds cond (intVal ty.isSigned w (elemAt s w a k j)) (intVal ty.isSigned w (elemAt s w b k j))
      (elemAt s w a k j) (elemAt s w b k j)
    let logic := fun (i : Instr) (f : Nat → Bool) => ∃ v, exec i s = .next ((s.landP d k v gm (s.fr.t + k + 2)).nextSlice i s.fr)
      ∧ ∀ l, l < 16 → v.getLsbD l = f l
    (∃ v m, exec (.vcmp g ty cond pp a b) s = .next ((pair m v s).nextSlice (.vcmp g ty cond pp a b) s.fr)
      ∧ (∀ l, l < 16 → v.getLsbD l = if w = 64 then holds (l / 2) else (List.range (32 / w)).all fun i => holds (l * (32 / w) + i))
      ∧ ∀ l, l < 16 → m.getLsbD l = gm.getLsbD (if w = 64 then 2 * (l / 2) else l))
    ∧ (∀ F, elemFmt ty = some F → ∃ v m fl,
        let r := fun j => fcmpElem F cond (elemAt s F.width a k j) (elemAt s F.width b k j)
        exec (.fcmp g ty cond pp a b) s = .next (((pair m v s).fpFlags fl due (s.fr.t + 10)).nextSlice (.fcmp g ty cond pp a b) s.fr)
        ∧ (∀ l, l < 16 → v.getLsbD l = if F.width = 64 then (r (l / 2)).1
            else (List.range (32 / F.width)).all fun i => (r (l * (32 / F.width) + i)).1)
        ∧ (∀ l, l < 16 → m.getLsbD l = gm.getLsbD (if F.width = 64 then 2 * (l / 2) else l))
        ∧ fl = ((List.range (512 / F.width)).filter (elemOn F.width gm)).foldl (fun m j => m ||| (r j).2) 0)
    ∧ logic (.pand g d a b) (fun l => (s.pget a k).getLsbD l && (s.pget b k).getLsbD l)
    ∧ logic (.por g d a b) (fun l => (s.pget a k).getLsbD l || (s.pget b k).getLsbD l)
    ∧ logic (.pxor g d a b) (fun l => (s.pget a k).getLsbD l != (s.pget b k).getLsbD l)
    ∧ logic (.pnot g d a) (fun l => !(s.pget a k).getLsbD l)
    ∧ logic (.pmov g d a) (fun l => (s.pget a k).getLsbD l)
    ∧ ∃ val, exec (.pcnt g d a) s = .next (laneNext (.pcnt g d a) g 32 2 d val s)
      ∧ HoldsElems 32 val fun _ => ((List.range 16).filter fun l => (s.pget a k).getLsbD l).length

/-! ### Conversions, rearrangement and streams (05 R108 to R117, 04 R82, R83) -/

/-- 05 R108: CVT converts each element in its unit of the wider type and lands four counts after the slice executes, with
the flags of the guarded elements at the same count; an FP8 destination merges the magnitudes of the guarded inputs into
AMAX at issue + 11. CVT.sat clamps instead of wrapping or overflowing.

Where the rules leave a point to reading it rests on log entries 41 and 71. -/
def Obligations.ConversionsOfElements : Prop :=
  ∀ (g : Guard) (dt st : ElemTy) (rnd : Rnd) (sat : Bool) (d a : Nat) (s : State),
    let i : Instr := if sat then .cvtSat g dt st rnd d a else .cvt g dt st rnd d a
    let k := s.fr.slice
    let gm := s.laneGuard g k
    let W := max dt.width st.width
    let n := 512 / W
    let x := fun j => (s.vget a k).toNat / 2 ^ cvtPlace W st.width j % 2 ^ st.width
    let p := s.draws (if cvtRounds st dt then rnd else .rn) W n k (elemOn W gm)
    let r := fun j => cvtElem st dt rnd (p.1.getD j 0) sat (x j)
    let due := s.fr.t + k + 4
    ∃ val fl,
      let u := (p.2.landV d k val (elemMask W gm) due).fpFlags fl due (s.fr.t + 11)
      exec i s = .next ((if dt = .e4m3 ∨ dt = .e5m2 then
          amaxList u (((List.range n).filter (elemOn W gm)).map fun j => elemIn st (x j)) (s.fr.t + 11) else u).nextSlice i s.fr)
      ∧ val = BitVec.ofNat 512 (((List.range n).map fun j => (r j).1 * 2 ^ cvtPlace W dt.width j).foldl (· + ·) 0)
      ∧ fl = ((List.range n).filter (elemOn W gm)).foldl (fun m j => m ||| (r j).2) 0

/-- 05 R109, R110, 03 R57, R65 to R68: the block conversions read every slice and guard at issue. Decoding gives each element the
value of its code and scales, exactly; encoding gives each block of 64 its codes and its two scale bytes; CVTG expands G4
groups to BF16. All land in slice k at issue + 4 + k under their guards and merge the magnitudes of their guarded elements into
AMAX at issue + 11; encoding and CVTG also merge their flags there. Encoding with .rs draws for the elements that the guards of its issue
let through, and advances the generators of slice k at issue + k. On a dock core a DX4 conversion with a true guard raises the
unsupported-in-dock fault (21 R351). So CVTB completes wherever it is not refused, and CVTG always.

Where the rules leave a point to reading it rests on log entries 41, 43, 73 and 81. -/
def Obligations.BlockConversions : Prop :=
  ∀ (g : Guard) (bf dx4 : Bool) (rnd : Rnd) (d a : Nat) (s : State),
    let gt := s.allGuards g
    let F := if bf then Fmt.bf16 else Fmt.f32
    let w := F.width
    let v := wholeReg s a
    let bw := if dx4 then 4 else 8
    let on := fun j => gt.getLsbD (j * w / 32)
    let refused := dx4 && (s.gangOf s.fr.x).dock && gt != 0
    let dec := fun j => dxVal dx4 (v / 2 ^ (8 * (448 + 2 * (j / 64))) % 256) (v / 2 ^ (8 * (449 + 2 * (j / 64))) % 256) (v / 2 ^ (bw * j) % 2 ^ bw)
    let us := drawWhole s rnd w gt
    let xs := (List.range (4096 / w)).map fun j => if on j then F.decode (v / 2 ^ (w * j) % 2 ^ w) else FV.fin false 0 0
    let blk := fun b => dxEncode dx4 rnd ((xs.drop (64 * b)).take 64) ((us.drop (64 * b)).take 64)
    let gx := fun j => g4Exact (v / 2 ^ (8 * (128 + 4 * (j / 64))) % 65536) (v / 2 ^ (8 * (130 + 4 * (j / 64))) % 16)
      (v / 2 ^ (256 * (j / 64) + 4 * (j % 64)) % 16)
    let gr := fun j => Fmt.bf16.finish .rn 0 (gx j)
    let flags := fun (l : List Nat) => l.foldl (fun m e => m ||| e) 0
    let i : Instr := .cvtb g bf dx4 false rnd d a
    let advances := fun (u : State) => (u.draws .rs w (512 / w) u.fr.slice (elemOn w (sliceOf u.fr.gt u.fr.slice))).2.nextSlice i u.fr
    (s.fr.slice ≠ 0 → exec i s = .next (if rnd = .rs then advances s else s))
    ∧ (refused = true → s.fr.slice = 0 → ∀ dec, exec (.cvtb g bf dx4 dec rnd d a) s = .next (s.raiseIssue 22 (BitVec.ofNat 64 s.fr.bits)))
    ∧ (refused = false → s.fr.slice = 0 → ∃ img, exec (.cvtb g bf dx4 true rnd d a) s
          = .next (amaxList (landWhole s d 4 gt img) (((List.range (4096 / w)).filter on).map fun j => amaxIn (dec j)) (s.fr.t + 11))
        ∧ ∀ j, j < 4096 / w → img / 2 ^ (w * j) % 2 ^ w = (F.ofFV .rn 0 false (dec j)).1 % 2 ^ w)
    ∧ (refused = false → s.fr.slice = 0 → ∃ img,
        let u := amaxList ((landWhole s d 4 gt img).fpFlags (flags ((List.range (4096 / w / 64)).map fun b => (blk b).2.2.2))
            (s.fr.t + 11) (s.fr.t + 11)) (((List.range (4096 / w)).filter on).map fun j => amaxIn (F.decode (v / 2 ^ (w * j) % 2 ^ w))) (s.fr.t + 11)
        exec i s = .next (if rnd = .rs then advances { u with fr := { s.fr with gt := gt } } else { u with fr := { s.fr with gt := gt } })
        ∧ ∀ b, b < 4096 / w / 64 →
          (∀ i, i < 64 → img / 2 ^ (bw * (64 * b + i)) % 2 ^ bw = (blk b).1.getD i 0 % 2 ^ bw)
          ∧ img / 2 ^ (8 * (448 + 2 * b)) % 256 = (blk b).2.1 % 256 ∧ img / 2 ^ (8 * (449 + 2 * b)) % 256 = (blk b).2.2.1 % 256)
    ∧ (∃ img, exec (.cvtg g d a) s
        = .next (amaxList ((landWhole s d 4 gt img).fpFlags (flags (((List.range 256).filter fun j => gt.getLsbD (j / 2)).map fun j => (gr j).2))
          (s.fr.t + 11) (s.fr.t + 11)) (((List.range 256).filter fun j => gt.getLsbD (j / 2)).map fun j => amaxIn (gx j).1) (s.fr.t + 11))
      ∧ ∀ j, j < 256 → img / 2 ^ (16 * j) % 2 ^ 16 = (gr j).1 % 2 ^ 16)
    ∧ (∀ (u : State) img, ∃ val : Nat → Gran, (∀ k, val k = BitVec.ofNat 512 (img / 2 ^ (512 * k)))
      ∧ landWhole u d 4 gt img = (List.range 8).foldl (fun (y : State) k => y.landV d k (val k) (laneBits (sliceOf gt k)) (u.fr.t + 4 + k)) u)
    ∧ ∀ (u : State) (l : List (Option Nat)) due, let top := l.foldl (fun m e => max m (e.getD 0)) 0
      amaxList u l due = (if top = 0 ∧ (∀ e ∈ l, e ≠ none) then u else u.push due (.amax top (l.any Option.isNone)))

/-- 05 R111 to R113, 03 R58: AMAXR reads AMAX at issue into every lane pair and clears it when lane 0's guard is true; PACK
replaces one field of each lane of vd and UNPK extracts one; SEED loads the guarded lanes' generators from the SEED
register or from va at the end of the slice's cycle. -/
def Obligations.PackUnpackAndSeed : Prop :=
  ∀ (g : Guard) (w p d a : Nat) (s : State), packWidth w * (p + 1) ≤ 32 →
    let k := s.fr.slice
    let W := packWidth w
    let c := s.ctx s.fr.x
    (∃ val, exec (.pack g w p d a) s = .next (laneNext (.pack g w p d a) g 32 2 d val s)
      ∧ ∀ l, l < 16 → elemOf 32 val l / 2 ^ (W * p) % 2 ^ W = elemAt s 32 a k l % 2 ^ W
        ∧ elemOf 32 val l % 2 ^ (W * p) = elemAt s 32 d k l % 2 ^ (W * p)
        ∧ elemOf 32 val l / 2 ^ (W * (p + 1)) = elemAt s 32 d k l / 2 ^ (W * (p + 1)))
    ∧ (∃ val, exec (.unpk g w p d a) s = .next (laneNext (.unpk g w p d a) g 32 2 d val s)
      ∧ HoldsElems 32 val fun l => elemAt s 32 a k l / 2 ^ (W * p) % 2 ^ W)
    ∧ (let s0 : State := if k = 0 then { s with fr := { s.fr with cap := c.amax } } else s
       let s1 : State := if k = 0 ∧ s.onceGuard g = true then
           { s0.setCtx s.fr.x { c with amax := 0 } with undo := ⟨s.fr.x, s.fr.hnd, s.fr.ord, .creg 16 c.amax, 0⟩ :: s.undo } else s0
       ∃ val, exec (.amaxr g d) s = .next (laneNext (.amaxr g d) g 64 2 d val s1) ∧ HoldsElems 64 val fun _ => s1.fr.cap.toNat)
    ∧ (let s0 : State := if k = 0 then { s with fr := { s.fr with cap := c.seed } } else s
       exec (.seed g) s = .next ((s0.push (s.fr.t + k) (.seedGen k (seedSlice s0.fr.cap k) (laneBits (s.laneGuard g k)))).nextSlice
         (.seed g) s0.fr))
    ∧ ∃ val, exec (.seedFromVector g a) s = .next ((s.push (s.fr.t + k) (.seedGen k val (laneBits (s.laneGuard g k)))).nextSlice
        (.seedFromVector g a) s.fr)
      ∧ HoldsElems 32 val fun l => if elemAt s 32 a k l = 0 then 0x6D2B79F5 else elemAt s 32 a k l

/-- 05 R114, R115: ZIP interleaves and UZP de-interleaves the elements of two, three or four registers within a slice; PERM
picks elements of a slice by the index bytes of vb, zero for an index of 0x80 or more. All land three counts after the
slice executes. -/
def Obligations.RearrangementsOfElements : Prop :=
  ∀ (g : Guard) (z : ESize) (d a b : Nat) (s : State),
    let k := s.fr.slice
    let w := z.width
    let n := 512 / w
    let two := fun (j i : Nat) => if j = 0 then elemAt s w a k i else elemAt s w b k i
    let group := fun (j i : Nat) => elemAt s w (a + j) k i
    let answers := fun (i : Instr) (m : Nat) (f : Nat → Nat → Nat) =>
      ∃ vals : List Gran, vals.length = m
        ∧ exec i s = .next ((vals.zipIdx.foldl (fun (u : State) e =>
            u.landV (d + e.2) k e.1 (laneBits (s.laneGuard g k)) (s.fr.t + k + 3)) s).nextSlice i s.fr)
        ∧ ∀ r, r < m → HoldsElems w (vals.getD r 0) (f r)
    let zip := fun (m : Nat) (src : Nat → Nat → Nat) (r i : Nat) => src ((r * n + i) % m) ((r * n + i) / m)
    let uzp := fun (m : Nat) (src : Nat → Nat → Nat) (r i : Nat) => src ((m * i + r) / n) ((m * i + r) % n)
    answers (.zip2 g z d a b) 2 (zip 2 two) ∧ answers (.zip3 g z d a) 3 (zip 3 group) ∧ answers (.zip4 g z d a) 4 (zip 4 group)
    ∧ answers (.uzp2 g z d a b) 2 (uzp 2 two) ∧ answers (.uzp3 g z d a) 3 (uzp 3 group) ∧ answers (.uzp4 g z d a) 4 (uzp 4 group)
    ∧ ∃ val, exec (.perm g z d a b) s = .next (laneNext (.perm g z d a b) g 32 3 d val s)
      ∧ HoldsElems w val fun i =>
          let x := (s.vget b k).toNat / 2 ^ (8 * i) % 256
          if 0x80 ≤ x then 0 else elemAt s w a k (x % n)

/-- 05 R116, R117, 04 R82: SLIDE moves lanes by n across the slices, zeros entering, and lands slice j at issue + j + 3 + the
slices the distance spans; DRV drives the stream's boundary register of its slice under the guards for the next cycle, TAP
reads the neighbour's, zero at the row's edge, and XCP does both. -/
def Obligations.SlidesAndStreams : Prop :=
  ∀ (g : Guard) (d a st : Nat) (n : Int) (s : State),
    let k := s.fr.slice
    let gm := s.laneGuard g k
    let u : State := { s with fr := { s.fr with
      capv := withGran s.fr.capv k (s.vget a k), gt := s.fr.gt ||| BitVec.ofNat 128 (gm.toNat * 2 ^ (16 * k)) } }
    let out := if st < 4 then (if k < 7 then some (7 * st + k) else none) else (if 0 < k then some (7 * st + (k - 1)) else none)
    let inn := if st < 4 then (if 0 < k then some (7 * st + (k - 1)) else none) else (if k < 7 then some (7 * st + k) else none)
    let drives := match out with
      | some j => s.push (s.fr.t + k + 1) (.reg (.strm j) (s.vget a k) (laneBits gm))
      | none => s
    let taps := match inn with
      | some j => s.reg (.strm j)
      | none => 0
    exec (.slide g d a n) s = .next (((List.range 8).foldl (fun (u : State) j =>
        if slideNeed n j = k then
          u.landV d j (slideSlice n u.fr.capv j) (laneBits (sliceOf u.fr.gt j)) (s.fr.t + j + (3 + (n.natAbs + 15) / 16))
        else u) u).nextSlice (.slide g d a n) u.fr)
    ∧ (∀ (src : BitVec 4096) j, HoldsElems 32 (slideSlice n src j) fun l =>
        if 0 ≤ (16 * j + l : Int) - n ∧ (16 * j + l : Int) - n ≤ 127 then
          src.toNat / 2 ^ (32 * ((16 * j + l : Int) - n).toNat) % 2 ^ 32 else 0)
    ∧ exec (.drv g st a) s = .next (drives.nextSlice (.drv g st a) s.fr)
    ∧ exec (.tap g d st) s = .next (laneNext (.tap g d st) g 32 2 d taps s)
    ∧ exec (.xcp g d st a) s = .next ((drives.landV d k taps (laneBits gm) (s.fr.t + k + 2)).nextSlice (.xcp g d st a) s.fr)

/-! ### Digit transducers (06 R120 to R139) -/

/-- 06 R129, R134: a walk whose guarded lanes all find valid entries lands its digits (DTX, DTU) or the last transition's FL[0]
and its complement (DTC), and the states it reached in DSR, 4 + ceil(digits / 4) counts after the slice executes; a slice
with an invalid entry lands nothing and raises the chart fault of KIND 0, which names the lanes that failed and, of the lowest, its digit
position, state and digits. A slot that the bundle's ALLOT does not hold raises KIND 2, an illegal attribute word KIND 3, and a chart of
the wrong arity KIND 4, with no lane named. A slice without a true guard does nothing.

The detecting count of KIND 2 and 3 rests on log entry 44. -/
def Obligations.WalksLandDigitsAndStates : Prop :=
  ∀ (g : Guard) (n d pp a b : Nat) (s : State),
    let k := s.fr.slice
    let gm := s.laneGuard g k
    let attr := chartAttr s (coreOf s.fr.x) k n
    let w := attrW attr
    let lat := walkLat w
    let due := s.fr.t + k + lat
    let run := fun (b l : Nat) => walk (chartEntry s (coreOf s.fr.x) k n) (attrAr attr) w (elemAt s 32 a k l) (elemAt s 32 b k l)
      (walkOrder (attrDir attr) (digits w)) (elemOf 4 (s.reg (.dsr k)) l) 0 false
    let clean := fun (b : Nat) => ∀ l, l < 16 → gm.getLsbD l = true → ∃ p, run b l = .inl p
    let states := fun (b : Nat) (val : Gran) => ∀ l st o fin, l < 16 → run b l = .inl (st, o, fin) → elemOf 4 val l = st % 16
    let held := ((s.ctx s.fr.x).asIssued s.fr).chartIn n
    let faults := fun (i : Instr) (kind info : Nat) =>
      exec i s = .next ((s.chartFault kind n info (s.fr.t + 7 + walkLat (if w = 0 then 1 else w))).nextSlice i s.fr)
    let invalid := fun (i : Instr) (b : Nat) => ¬ clean b → ∃ l f mask,
      (l < 16 ∧ gm.getLsbD l = true ∧ run b l = .inr f) ∧ (∀ m, m < l → gm.getLsbD m = true → ∃ p, run b m = .inl p)
        ∧ mask < 2 ^ 16 ∧ (∀ m, m < 16 → (mask.testBit m = true ↔ gm.getLsbD m = true ∧ ∃ e, run b m = .inr e))
        ∧ faults i 0 (k * 2 ^ 47 + mask * 2 ^ 31 + l * 2 ^ 27 + f.j * 2 ^ 22 + f.st * 2 ^ 18 + f.da * 2 ^ 15 + f.db * 2 ^ 13)
    let every := fun (kind : Nat) => faults (.dtx g n d a b) kind 0 ∧ faults (.dtu g n d a) kind 0 ∧ faults (.dtc g n pp a b) kind 0
    (gm = 0 → exec (.dtx g n d a b) s = .next (s.nextSlice (.dtx g n d a b) s.fr)
      ∧ exec (.dtu g n d a) s = .next (s.nextSlice (.dtu g n d a) s.fr)
      ∧ exec (.dtc g n pp a b) s = .next (s.nextSlice (.dtc g n pp a b) s.fr))
    ∧ (gm ≠ 0 → held = false → every 2)
    ∧ (gm ≠ 0 → held = true → attrBad attr = true → every 3)
    ∧ (gm ≠ 0 → held = true → attrBad attr = false →
      (attrAr attr = false → faults (.dtx g n d a b) 4 0) ∧ (attrAr attr = true → faults (.dtu g n d a) 4 0)
      ∧ (attrAr attr = true → clean b → ∃ q val, exec (.dtx g n d a b) s = .next (((s.push due (.reg (.dsr k) q (dsrBits gm))).landV
          d k val (laneBits gm) due).nextSlice (.dtx g n d a b) s.fr) ∧ states b q
          ∧ ∀ l st o fin, l < 16 → run b l = .inl (st, o, fin) → elemOf 32 val l = o % 2 ^ 32)
      ∧ (attrAr attr = false → clean a → ∃ q val, exec (.dtu g n d a) s = .next (((s.push due (.reg (.dsr k) q (dsrBits gm))).landV
          d k val (laneBits gm) due).nextSlice (.dtu g n d a) s.fr) ∧ states a q
          ∧ ∀ l st o fin, l < 16 → run a l = .inl (st, o, fin) → elemOf 32 val l = o % 2 ^ 32)
      ∧ (clean b → ∃ q v, exec (.dtc g n pp a b) s = .next ((landPair (s.push due (.reg (.dsr k) q (dsrBits gm))) pp k v gm
          due).nextSlice (.dtc g n pp a b) s.fr) ∧ states b q
          ∧ ∀ l st o fin, l < 16 → run b l = .inl (st, o, fin) → v.getLsbD l = fin)
      ∧ (attrAr attr = true → invalid (.dtx g n d a b) b) ∧ (attrAr attr = false → invalid (.dtu g n d a) a)
      ∧ invalid (.dtc g n pp a b) b)

/-- 06 R131 to R133: DTS exchanges DSR with a register, DTZ loads START into DSR, and DTQ lands the final action of each state
and, with FIN, START; a state whose final entry is invalid raises the chart fault of KIND 1 and lands nothing.

06 R126: DTLD of an aligned image inside the berth allotment into a held slot reads it at issue + 2; when its attribute
word is legal the image is in force in slice k ten counts later plus k, in all eight slices; a bad one raises the chart
fault of KIND 3. A misaligned or outlying address raises the berth-bound fault, a slot not held the chart fault of KIND 2.

Where the rules leave a point to reading it rests on log entry 44. -/
def Obligations.ExchangeFinalsAndChartLoads : Prop :=
  (∀ (g : Guard) (n d a : Nat) (s : State),
    let k := s.fr.slice
    let gm := s.laneGuard g k
    let core := coreOf s.fr.x
    let attr := chartAttr s core k n
    let st := fun l => elemOf 4 (s.reg (.dsr k)) l
    let fin := fun l => chartFinal s core k n (st l)
    (∃ q val, exec (.dts g d a) s = .next (((s.push (s.fr.t + k + 2) (.reg (.dsr k) q (dsrBits gm))).landV d k val (laneBits gm)
        (s.fr.t + k + 2)).nextSlice (.dts g d a) s.fr)
      ∧ (∀ l, l < 16 → elemOf 4 q l = elemAt s 32 a k l % 16) ∧ HoldsElems 32 val st)
    ∧ (gm ≠ 0 → ((s.ctx s.fr.x).asIssued s.fr).chartIn n = true → attrBad attr = false →
      (∃ q, exec (.dtz g n) s = .next ((s.push (s.fr.t + k + 2) (.reg (.dsr k) q (dsrBits gm))).nextSlice (.dtz g n) s.fr)
        ∧ ∀ l, l < 16 → elemOf 4 q l = attrStart attr)
      ∧ ((∀ l, l < 16 → gm.getLsbD l = true → (fin l).testBit 15 = true) →
        ∃ q val, exec (.dtq g n d) s = .next ((if attrFin attr = true then
            (s.landV d k val (laneBits gm) (s.fr.t + k + 4)).push (s.fr.t + k + 4) (.reg (.dsr k) q (dsrBits gm))
            else s.landV d k val (laneBits gm) (s.fr.t + k + 4)).nextSlice (.dtq g n d) s.fr)
          ∧ (∀ l, l < 16 → elemOf 4 q l = attrStart attr)
          ∧ HoldsElems 32 val fun l => fld (fin l) 7 4 * 16 + fld (fin l) 10 8)
      ∧ ((∃ l, l < 16 ∧ gm.getLsbD l = true ∧ (fin l).testBit 15 = false) →
        ∃ info, exec (.dtq g n d) s = .next ((s.chartFault 1 n info (s.fr.t + 11)).nextSlice (.dtq g n d) s.fr))))
  ∧ (∀ (g : Guard) (n a : Nat) (imm : Int) (s : State), s.onceGuard g = true →
    let ad := (((s.sget a).toInt + imm * 64) % 2 ^ 32).toNat
    let key := (Place.berth (coreOf s.fr.x)).key ad
    (ad % 64 = 0 → ownOnly (s.ctx s.fr.x) ad 576 = none → (s.ctx s.fr.x).chartIn n = true →
      exec (.dtld g n a imm) s = .next ((s.push (s.fr.t + 2) (.dtld n key)).notePerf (s.fr.t + 2)))
    ∧ (ad % 64 ≠ 0 → exec (.dtld g n a imm) s = .next (s.berthBound 0 0 ad))
    ∧ (∀ r, ad % 64 = 0 → ownOnly (s.ctx s.fr.x) ad 576 = some r → exec (.dtld g n a imm) s = .next (s.berthBound r 0 ad))
    ∧ (ad % 64 = 0 → ownOnly (s.ctx s.fr.x) ad 576 = none → (s.ctx s.fr.x).chartIn n = false →
      exec (.dtld g n a imm) s = .next (s.raiseIssue 8 (BitVec.ofNat 64 (2 * 2 ^ 52 + n * 2 ^ 50))))
    ∧ ∀ due, s.Clean → let img := s.mem.readN key 576
      s.landDtld n key due = if attrBad (imgBytes img 512 4) then s.chartFault 3 n 0 due
        else (List.range 8).foldl (fun (u : State) k =>
          u.push (due + 10 + k) (.landMem (chartKey (coreOf u.fr.x) k n) 576 img (allBytes 576))) s)

/-! ### Berth accesses and rings (08 R167 to R174) -/

/-- 08 R167, R169, R170: a load that passes its checks reads the named bytes into the guarded lanes of each slice: from the own berth
at and with a landing six counts after the slice executes, from the cluster berth 14, from a far berth 14 + 4h with the read
halfway; a gather reads each guarded lane's own word of the own berth. Every guarded lane gets the four bytes at its address,
and a slice without a guarded lane reads nothing. A slot with no true guard does nothing, and a failed check raises the
berth-bound fault with its reason. So a load completes whenever its address passes: aligned and inside the berth allotment.
Under compatibility interlock a load from the own berth lands no sooner than six cycles after issue (10 R232).

Where the rules leave a point to reading it rests on log entry 45. -/
def Obligations.LoadsReadTheBerth : Prop :=
  (∀ (g : Guard) (d a b : Nat) (disp : Int) (s : State),
    let ad := jAddr s a disp 64
    let as := jAddr s a disp 8
    let gt := s.allGuards g
    let x := s.fr.x
    let spread := fun (c : Cold) (u : State) => ((List.range 8).filter fun k => sliceOf gt k != 0).foldl (fun (u : State) k =>
      loadAt u c k (.v (physV u.fr.rbv d) k) (laneSrcs (c.key + 64 * k) (sliceOf gt k)) (laneBits (sliceOf gt k))) u
    let gathers := fun (i : Instr) (f : Nat → Nat) =>
      (∀ l y r, laneFault (s.ctx x) (laneAddrs gt f) = some (l, y, r) → exec i s = .next (s.berthBound r l y))
      ∧ (gt = 0 → exec i s = .next s)
      ∧ (laneFault (s.ctx x) (laneAddrs gt f) = none → gt ≠ 0 → exec i s = .next (noteCi (((List.range 8).filter fun k => sliceOf gt k != 0).foldl
          (fun (u : State) k => loadAt u ⟨0, 6, 6, 2, 4, 8, 0⟩ k (.v (physV u.fr.rbv d) k)
            (((laneAddrs gt f).filter fun e => e.1 / 16 == k).map fun e => ((Place.berth (coreOf x)).key (e.2 % 2 ^ 16), 4, 4 * (e.1 % 16)))
            (laneBits (sliceOf gt k))) s) (32 + physV s.fr.rbv d) ⟨0, 6, 6, 2, 4, 8, 0⟩))
    (gt = 0 → exec (.vld g d a disp) s = .next s)
    ∧ (∀ c, gt ≠ 0 → vecAccess s ad = .inl c → exec (.vld g d a disp) s = .next (noteCi (spread c s) (32 + physV s.fr.rbv d) c))
    ∧ (∀ r, gt ≠ 0 → vecAccess s ad = .inr r → exec (.vld g d a disp) s = .next (s.berthBound r (lowLane gt) ad))
    ∧ (∀ c, scalarAccess s as 8 = .inl c →
      exec (.lds g d a disp) s = .next (once g s (noteCi (loadAt s c 0 (.s d) [(c.key, 8, 0)] allBits) d c)))
    ∧ (∀ r, scalarAccess s as 8 = .inr r → exec (.lds g d a disp) s = .next (once g s (s.berthBound r 0 as)))
    ∧ gathers (.vlds g d a b) (fun l => (s.sget a).toNat + l * (s.sget b).toNat)
    ∧ gathers (.vldx g d a b) (fun l => (s.sget a).toNat + wholeReg s b / 2 ^ (32 * l) % 2 ^ 32)
    ∧ (ad % 64 = 0 → ownOnly (s.ctx x) ad 512 = none → vecAccess s ad = .inl (coldPlace x ad))
    ∧ (as % 8 = 0 → ownOnly (s.ctx x) as 8 = none → scalarAccess s as 8 = .inl (coldPlace x as))
    ∧ (∀ c, vecAccess s ad = .inl c → ad % 64 = 0 ∧ c = coldPlace x ad)
    ∧ (s.ci = false → ∀ reg c, noteCi s reg c = s)
    ∧ ∀ c k l srcs mask,
      (s.ci = false → c.read = c.land → loadAt s c k l srcs mask = (s.push (s.fr.t + k + c.land) (.load l srcs mask)).notePerf (s.fr.t + k + c.land))
      ∧ (c.land ≠ 6 → c.read ≠ c.land → loadAt s c k l srcs mask
          = (s.push (s.fr.t + k + c.read) (.fetch l srcs mask (s.fr.t + k + c.land))).notePerf (s.fr.t + k + c.land))
      ∧ (s.ci = true → s.fr.hnd = false → c.land = 6 → loadAt s c k l srcs mask
          = (s.push (s.fr.t + k + 4) (.load l srcs mask) 1 (s.clk x false + k + 6)).notePerf (s.fr.t + k + 6)))
  ∧ (∀ (x a : Nat), let c := coldPlace x a
      (a / 2 ^ 30 = 0 → c.key = (Place.berth (coreOf x)).key (a % 2 ^ 16) ∧ c.read = 6 ∧ c.land = 6)
      ∧ (a / 2 ^ 30 = 1 → c.key = (Place.cluster (clusterOf (coreOf x))).key (a % 2 ^ 18) ∧ c.read = 14 ∧ c.land = 14)
      ∧ (a / 2 ^ 30 = 2 → let far := dieOf (coreOf x) * 128 + a / 2 ^ 16 % 128
        c.key = (Place.berth far).key (a % 2 ^ 16) ∧ c.land = 14 + 4 * hops (coreOf x) far ∧ 2 * c.read = c.land))
  ∧ (∀ (m : Memory) (key l : Nat) (gm : LaneMask), l < 16 → gm.getLsbD l = true →
      elemOf 32 (BitVec.ofNat 512 (gatherNow m (laneSrcs key gm))) l = m.readN (key + 4 * l) 4)
  ∧ ∀ (s : State) (fr : Frame) (due run pri at_ : Nat) (l : Loc) (srcs : List (Nat × Nat × Nat)) (mask : Gran), s.Clean →
      let u : State := { s with fr := fr }
      s.land ⟨fr, due, run, pri, .load l srcs mask, 0⟩ = u.landReg l (BitVec.ofNat 512 (gatherNow s.mem srcs)) mask
      ∧ s.land ⟨fr, due, run, pri, .fetch l srcs mask at_, 0⟩ = u.push at_ (.reg l (BitVec.ofNat 512 (gatherNow s.mem srcs)) mask)

/-- 08 R167, R169, R170: a store checks its address in slice 0, at issue, and there only. It performs the enabled lanes of slice k at
the address computed at issue plus 64 k, in the own berth two counts after the slice executes; STS performs eight bytes, and
VSTX each guarded lane's word, the highest lane last. A failed check raises the berth-bound fault with its reason, and a slot with
no true guard stores nothing. The bytes named are the only ones that change when the store performs. -/
def Obligations.StoresPerformTheirBytes : Prop :=
  (∀ (g : Guard) (d a b : Nat) (disp : Int) (s : State),
    let k := s.fr.slice
    let gt := s.allGuards g
    let ad := jAddr s a disp 64
    let as := jAddr s a disp 8
    let u : State := { s with fr := { s.fr with gt := gt, cap := BitVec.ofNat 64 ad } }
    let x : State := { s with fr := { s.fr with gt := gt, cap := s.sget a, capv := BitVec.ofNat 4096 (wholeReg s b) } }
    let put := fun (c : Cold) (y : State) => if sliceOf y.fr.gt k = 0 then y else
      y.push (y.fr.t + k + c.perf) (.store (c.key + 64 * k) 64 (y.vget d k).toNat (laneBytes (sliceOf y.fr.gt k))) c.pri
    let lanes := fun (y : State) => laneAddrs y.fr.gt fun l => y.fr.cap.toNat + y.fr.capv.toNat / 2 ^ (32 * l) % 2 ^ 32
    let scatter := fun (y : State) => ((lanes y).filter fun e => e.1 / 16 == k).foldl (fun (z : State) e =>
      z.push (y.fr.t + k + 2) (.store ((Place.berth (coreOf y.fr.x)).key (e.2 % 2 ^ 16)) 4
        ((y.vget d k).toNat / 2 ^ (32 * (e.1 % 16)) % 2 ^ 32) 15) 0) y
    (k = 0 → gt = 0 → exec (.vst g d a disp) s = .next s)
    ∧ (∀ c, k = 0 → gt ≠ 0 → vecAccess s ad = .inl c → exec (.vst g d a disp) s
        = .next ((put c (u.notePerf (s.fr.t + lastSlice gt + c.perf))).nextSlice (.vst g d a disp) u.fr))
    ∧ (∀ r, k = 0 → gt ≠ 0 → vecAccess s ad = .inr r → exec (.vst g d a disp) s = .next (s.berthBound r (lowLane gt) ad))
    ∧ (k ≠ 0 → exec (.vst g d a disp) s = .next ((put (coldPlace s.fr.x s.fr.cap.toNat) s).nextSlice (.vst g d a disp) s.fr))
    ∧ (ad % 64 = 0 → ownOnly (s.ctx s.fr.x) ad 512 = none → vecAccess s ad = .inl (coldPlace s.fr.x ad) ∧ (coldPlace s.fr.x ad).perf = 2)
    ∧ (∀ c, scalarAccess s as 8 = .inl c → exec (.sts g d a disp) s = .next (once g s
        ((s.push (s.fr.t + c.perf) (.store c.key 8 (s.sget d).toNat (allBytes 8)) c.pri).notePerf (s.fr.t + c.perf))))
    ∧ (∀ r, scalarAccess s as 8 = .inr r → exec (.sts g d a disp) s = .next (once g s (s.berthBound r 0 as)))
    ∧ (k = 0 → gt = 0 → exec (.vstx g d a b) s = .next x)
    ∧ (k = 0 → gt ≠ 0 → laneFault (s.ctx s.fr.x) (lanes x) = none → exec (.vstx g d a b) s
        = .next ((scatter (x.notePerf (s.fr.t + lastSlice gt + 2))).nextSlice (.vstx g d a b) x.fr))
    ∧ (∀ l y r, k = 0 → laneFault (s.ctx s.fr.x) (lanes x) = some (l, y, r) → exec (.vstx g d a b) s = .next (x.berthBound r l y))
    ∧ (k ≠ 0 → exec (.vstx g d a b) s = .next ((scatter s).nextSlice (.vstx g d a b) s.fr)))
  ∧ ∀ (s : State) (fr : Frame) (due run pri key n v m : Nat), s.Clean →
      let t := s.perform ⟨fr, due, run, pri, .store key n v m, 0⟩
      (∀ q, t.mem.read q = if key ≤ q ∧ q < key + n ∧ m.testBit (q - key) = true then BitVec.ofNat 8 (v / 256 ^ (q - key)) else s.mem.read q)
      ∧ t.ctxs = s.ctxs ∧ t.cores = s.cores ∧ t.clus = s.clus ∧ t.gangs = s.gangs ∧ t.tide = s.tide
      ∧ (key / 2 ^ 64 ≠ Place.hbm.code → t.mod = s.mod)

/-- 08 R171 to R174: RSET sets a ring at issue + 1 when its tiles lie inside the berth allotment, RPUSH claims and publishes
at issue + 2, RINFO lands the ring's word, and ATOM that passes its checks performs once at its store's count and lands the
old value later. -/
def Obligations.RingsAndAtomics : Prop :=
  ∀ (g : Guard) (ring d a b : Nat) (op : AtomOp) (w : AtomW) (s : State),
    let c := s.ctx s.fr.x
    let v := s.sget a
    let r := Ring.ofWord v
    let ad := v.toNat % 2 ^ 32
    (ownBound c (r.base * 64) ((r.depth + 1) * (r.size + 1) * 64) = none →
      exec (.rset g ring a) s = .next (once g s (s.push (s.fr.t + 1) (.rset ring v) 0)))
    ∧ (∀ n, ownBound c (r.base * 64) ((r.depth + 1) * (r.size + 1) * 64) = some n →
      exec (.rset g ring a) s = .next (once g s (s.berthBound n 0 (r.base * 64))))
    ∧ exec (.rpush g ring) s = .next (once g s (s.push (s.fr.t + 2) (.claimPush ring) 5))
    ∧ exec (.rinfo g d ring) s = .next (once g s (s.landS d (c.ring ring).word (s.fr.t + 1)))
    ∧ (∀ k, scalarAccess s ad (atomBytes w) = .inl k → exec (.atom g op w d a b) s = .next (once g s
        (((s.push (s.fr.t + k.aPerf) (.atom op w k.key (s.sget b) (s.sget d) d (s.fr.t + k.aLand)) k.pri).notePerf
          (s.fr.t + k.aPerf)).noteEff (s.fr.t + k.aLand))))
    ∧ (∀ n, scalarAccess s ad (atomBytes w) = .inr n → exec (.atom g op w d a b) s = .next (once g s (s.berthBound n 0 ad)))
    ∧ ∀ (due run pri key : Nat) (x y : Word) (dst land : Nat), s.Clean → op ≠ .add ∨ w ≠ .f32 →
      let n := atomBytes w
      let old := s.mem.readN key n
      let t := s.perform ⟨s.fr, due, run, pri, .atom op w key x y dst land, 0⟩
      t.mem = s.mem.writeN key n (atomNew op w old (x.toNat % 2 ^ (8 * n)) (y.toNat % 2 ^ (8 * n))).1 (2 ^ n - 1)
      ∧ t.pend = (s.landS dst (atomOld w old) land).pend

/-! ### Crossings of the lock (07 R149 to R151, 08 R175 to R178) -/

/-- 07 R149, R150: a crossing of n slots takes exactly n slots of its core: those that start at its core's place in the lane's period, of
64 cycles inbound and 256 outbound, in rotations that LK holds, and that no crossing holds; the first is the slot in progress at issue
or comes after it, and none of them is passed over. The slots that crossings hold are those of the context and of the core's others.

15 R258: the n granules of a command take exactly n engine slots of its core, which start at 16 times the core's number in the cluster
in a rotation of 64 cycles that LK holds, at or after S; none is held by an earlier command, and none that is not is passed over. -/
def Obligations.SlotsAreOfHeldRotations : Prop :=
  (∀ (lk n : Nat) (out : Bool) (s : State), lk % 16 ≠ 0 →
    let x := s.fr.x
    let T : Int := s.cal x s.fr.hnd
    let p : Int := if out then 256 else 64
    let owned := fun (u : Int) => (u - 8 * ((coreOf x : Int) % (p / 8))) % p = 0
      ∧ lk.testBit (u / (if out then 256 else 128) % 4).toNat = true ∧ T < u + 8 ∧ u ∉ heldSlots s x s.fr.hnd out
    let l := (takeSlots s lk out n).map fun u => u + (T - s.clk x s.fr.hnd)
    l.length = n ∧ l.Pairwise (· < ·) ∧ (∀ u ∈ l, owned u) ∧ ∀ u v, owned u → v ∈ l → u < v → u ∈ l)
  ∧ (∀ (n : Nat) (S : Int) (s : State),
    let x := s.fr.x
    let c := s.ctx x
    let off : Int := (s.cal x s.fr.hnd : Int) - s.clk x s.fr.hnd
    let owned := fun (u : Int) => u % 64 = 16 * ((coreOf x : Int) % 4) ∧ c.lk.testBit (u / 64 % 4).toNat = true ∧ S + off ≤ u
      ∧ ∀ k ∈ c.commands, k.hnd = s.fr.hnd → u - off ∉ k.slots
    let l := (engineSlots s S n).map fun u => u + off
    c.lk ≠ 0 → l.length = n ∧ l.Pairwise (· < ·) ∧ (∀ u ∈ l, owned u) ∧ ∀ u v, owned u → v ∈ l → u < v → u ∈ l)

/-- 08 R175 to R178, 07 R150, R151: a crossing whose checks pass enters with its slots, from the quay register, ring tile or latch
that it names; XOUT's slice j is read at issue + j and performs 160 counts after slot j starts; a replayed XINR writes the claim that
it kept. In the order of the checks: an XINM target outside the gang raises the privilege fault of reason 5 and a latch outside
AMASK that of reason 2, a register or tile outside the allotment the quay-bound fault, a tile too small or a full ring the
ring-overflow fault, no lock rotation the timing fault. XCAL lands the calendar's phase. So each crossing completes when its
register, tile, latch, targets and ring pass and LK is not zero, and XCAL always. -/
def Obligations.CrossingsEnterTheLock : Prop :=
  ∀ (g : Guard) (v q sz ring lat h mask d : Nat) (scope : XmScope) (s : State),
    let c := s.ctx s.fr.x
    let core := coreOf s.fr.x
    let k := s.fr.slice
    let quay := (Place.quay core).key (512 * q)
    let tile := (Place.acc core).key (4096 * h)
    let latch := (Place.latch core).key (4096 * lat)
    let b := 2 ^ (sz + 3)
    let r := c.ring ring
    let xm := (xinmTargets s.fr.x scope mask).all (fun y => sameGang s s.fr.x y)
    let big := 64 * (r.size + 1) < b
    let full := keptClaim s ring = none ∧ r.count + r.claims.length = r.depth + 1
    let put := fun (u : State) (e : Crossing) =>
      let n := min 64 (b - 64 * k)
      let w := u.pushClk (e.slots.getD k 0 + 160).toNat (.store (quay + 64 * k) n (u.reg (.v (physV u.fr.rbv v) k)).toNat (allBytes n)) 0
      if 64 * (k + 1) < b ∧ k < 7 then w.nextSlice (.xout g v q sz) u.fr else w
    (c.quayIn q = true → c.lk ≠ 0 →
      exec (.xin g v q sz) s = .next (once g s (s.cross (.xin (physV s.fr.rbv v)) false c.lk quay 0 b))
      ∧ (xm = true →
        exec (.xinm g scope v q mask) s = .next (once g s (s.cross (.xinm (scope == .die) mask (physV s.fr.rbv v)) false c.lk quay 0 512)))
      ∧ (k = 0 → s.onceGuard g = true → let u := s.cross (.xout v) true c.lk 0 quay b
        ∃ e, u.crossing s.fr.x s.nextId = some e ∧ exec (.xout g v q sz) s = .next (put u e))
      ∧ (¬ big → keptClaim s ring = none → r.count + r.claims.length ≠ r.depth + 1 →
        ∃ u, claimTile s s.fr.x ring = some (r.clm, s.nextId, u) ∧ exec (.xinr g ring q sz) s = .next (once g s
          (u.cross (.xinr ring r.clm s.nextId) false c.lk quay ((Place.berth core).key (r.tileByte r.clm)) b)))
      ∧ (∀ tl id, ¬ big → keptClaim s ring = some (tl, id) → exec (.xinr g ring q sz) s = .next (once g s
          ((s.updCtx s.fr.x fun c => c.setRing ring { r with kept := r.kept.filter fun e => e.id != id }).cross (.xinr ring tl id) false c.lk
            quay ((Place.berth core).key (r.tileByte tl)) b))))
    ∧ (k ≠ 0 → ∀ e, s.crossing s.fr.x s.fr.id = some e → exec (.xout g v q sz) s = .next (put s e))
    ∧ (k = 0 → s.onceGuard g = false → exec (.xout g v q sz) s = .next s)
    ∧ (xm = false → exec (.xinm g scope v q mask) s = .next (once g s (s.privilege 5)))
    ∧ (c.quayIn q = false → exec (.xin g v q sz) s = .next (once g s (s.quayBound false q))
      ∧ exec (.xinr g ring q sz) s = .next (once g s (s.quayBound false q))
      ∧ (xm = true → exec (.xinm g scope v q mask) s = .next (once g s (s.quayBound false q)))
      ∧ (k = 0 → exec (.xout g v q sz) s = .next (once g s (s.quayBound false q))))
    ∧ (c.quayIn q = true → big ∨ full → exec (.xinr g ring q sz) s = .next (once g s (s.ringOver ring)))
    ∧ (c.quayIn q = true → c.lk = 0 → exec (.xin g v q sz) s = .next (once g s s.noLock)
      ∧ (¬ big → ¬ full → exec (.xinr g ring q sz) s = .next (once g s s.noLock))
      ∧ (xm = true → exec (.xinm g scope v q mask) s = .next (once g s s.noLock))
      ∧ (k = 0 → exec (.xout g v q sz) s = .next (once g s s.noLock)))
    ∧ (c.latchIn lat = true → c.tileIn h = true → c.lk ≠ 0 →
      exec (.xina g lat h) s = .next (once g s (s.cross (.xina lat) false c.lk tile latch 4096))
      ∧ exec (.xouta g lat h) s = .next (once g s (s.cross (.xouta lat) true c.lk latch tile 4096)))
    ∧ (c.latchIn lat = false → exec (.xina g lat h) s = .next (once g s (s.privilege 2))
      ∧ exec (.xouta g lat h) s = .next (once g s (s.privilege 2)))
    ∧ (c.latchIn lat = true → c.tileIn h = false → exec (.xina g lat h) s = .next (once g s (s.quayBound true h))
      ∧ exec (.xouta g lat h) s = .next (once g s (s.quayBound true h)))
    ∧ (c.latchIn lat = true → c.tileIn h = true → c.lk = 0 → exec (.xina g lat h) s = .next (once g s s.noLock)
      ∧ exec (.xouta g lat h) s = .next (once g s s.noLock))
    ∧ exec (.xcal g d) s = .next (once g s (s.landS d (BitVec.ofNat 64 (core * 2 ^ 32 + c.lk * 2 ^ 16
        + (((s.cal s.fr.x s.fr.hnd : Int) - 8 * (core % 32 : Nat)) % 256).toNat * 2 ^ 8
        + (((s.cal s.fr.x s.fr.hnd : Int) - 8 * (core % 8 : Nat)) % 64).toNat)) (s.fr.t + 1)))
    ∧ ∀ kind out src dst bytes, let u := s.cross kind out c.lk src dst bytes
      (u.ctx s.fr.x).crossings.getLast? = some ⟨s.nextId, s.fr.hnd, s.fr.ord, { s.fr with id := s.nextId }, kind, out, src, dst, bytes,
        takeSlots s c.lk out ((bytes + 63) / 64), 0, []⟩
      ∧ u.mem = s.mem ∧ u.faults = s.faults ∧ u.pend = s.pend ∧ (u.ctx s.fr.x).regs = c.regs ∧ ∀ y, y ≠ s.fr.x → u.ctx y = s.ctx y

/-- 07 R150, 08 R175 to R178: each lock slot reads or sends its 64 bytes: an inbound slot lands them 192 counts after it starts, in the
register, latch or ring tile, XINM's 200 (.clu) or 232 (.die) in every target; the last slot of an XINR publishes the tile; an
outbound latch slot performs after 160. A poisoned granule, or one with an uncorrectable error, raises the poison-consumed fault and
lands nothing (18 R311), and so does a failed latch parity with the cold-soft-error fault.

Where the rules leave a point to reading it rests on log entry 86. -/
def Obligations.LockSlotMovesAGranule : Prop :=
  ∀ (x id : Nat) (k : Crossing) (s : State), s.crossing x id = some k →
    let j := k.next
    let S := k.slots.getD j 0
    let u := s.updCtx x fun c => { c with crossings := c.crossings.map fun e => if e.id == id then { e with next := j + 1 } else e }
    let n := min 64 (k.bytes - 64 * j)
    let key := k.src + 64 * j
    let at_ := fun (d : Nat) => (S + d).toNat
    let clean := u.released k key = none ∧ u.poisoned key = false ∧ u.granuleEcc (key / 64) ≠ 2
    let got := fun (v : Nat) (w : State) => (clean ∧ v = u.mem.readN key n ∧ w = u.meetWords (State.wordsOf key n))
      ∨ ∃ r, u.released k key = some r ∧ r.poison = false ∧ r.bad = false ∧ v = r.data % 2 ^ (8 * n) ∧ w = u
    (∀ v w, got v w →
      (∀ r, k.kind = .xin r → exec (.lockSlot x id) s = .next (w.pushClk (at_ 192) (.reg (.v r j) (BitVec.ofNat 512 v) (lowBytes n))))
      ∧ (∀ die mask r, k.kind = .xinm die mask r → exec (.lockSlot x id) s
          = .next ((xinmTargets x (if die then .die else .clu) mask).foldl (fun (y : State) z =>
              y.pushClk (at_ (if die then 232 else 200)) (.regAt z (.v r j) (BitVec.ofNat 512 v) (lowBytes n))) w))
      ∧ (∀ l, k.kind = .xina l → exec (.lockSlot x id) s = .next (w.pushClk (at_ 192) (.landMem (k.dst + 64 * j) n v (allBytes n))))
      ∧ (∀ ring tile cid, k.kind = .xinr ring tile cid → exec (.lockSlot x id) s
          = .next (let y := w.pushClk (at_ 192) (.store (k.dst + 64 * j) n v (allBytes n)) (1 + coreOf x)
            if j + 1 = k.slots.length then y.pushClk (at_ 192) (.publish x ring cid) 3 else y)))
    ∧ (∀ l, k.kind = .xouta l → u.failedByte key 64 = none → exec (.lockSlot x id) s
        = .next (u.pushClk (at_ 160) (.store (k.dst + 64 * j) 64 (u.mem.readN key 64) (allBytes 64)) 0))
    ∧ (∀ l i, k.kind = .xouta l → u.failedByte key 64 = some i → exec (.lockSlot x id) s
        = .next (u.latchFault l (64 * j + i) (u.toSch (k.slots.getLastD 0 + 160).toNat)))
    ∧ (∀ d, ((∃ r, k.kind = .xin r) ∨ (∃ l, k.kind = .xina l) ∨ ∃ ring tile cid, k.kind = .xinr ring tile cid) ∧ d = 192
        ∨ (∃ mask r, k.kind = .xinm false mask r) ∧ d = 200 ∨ (∃ mask r, k.kind = .xinm true mask r) ∧ d = 232 →
      u.released k key = none →
      let y := u.raiseExec 11 4 (BitVec.ofNat 64 (poisonAddr key)) (u.toSch (at_ d))
      (u.granuleEcc (key / 64) = 2 → exec (.lockSlot x id) s = .next (y.errorSlot 4 (poisonAddr key)))
      ∧ (u.granuleEcc (key / 64) ≠ 2 → u.poisoned key = true → exec (.lockSlot x id) s = .next y))

/-! ### Sequencing (08 R158 to R163) -/

/-- 08 R158, R159: a taken transfer goes to its target after two delay bundles, and CALL lands the address of the bundle after
them in s31; a target outside the bundle allotment, or a register with bits above bit 10, raises the privilege fault. The two words
that R159 gives decode to BR and CALL. -/
def Obligations.TransfersAfterTwoDelayBundles : Prop :=
  ∀ (g : Guard) (target a : Nat) (s : State),
    let c := s.ctx s.fr.x
    let v := (s.sget a).toNat
    let r := (s.sget 31).toNat
    let goes := fun (n : Nat) => ({ s.setCtx s.fr.x { c with xfers := c.xfers ++ [(s.fr.t + 3, n)] } with
      undo := ⟨s.fr.x, s.fr.hnd, s.fr.ord, .xfer (s.fr.t + 3) n, 0⟩ :: s.undo } : State)
    (c.bundleIn target = true → exec (.br g target) s = .next (once g s (goes target))
      ∧ exec (.call g target) s = .next (once g s ((goes target).landS 31 (BitVec.ofNat 64 (s.fr.addr + 3)) (s.fr.t + 1))))
    ∧ (c.bundleIn target = false → exec (.br g target) s = .next (once g s (s.privilege 1))
      ∧ exec (.call g target) s = .next (once g s (s.privilege 1)))
    ∧ (v < 2 ^ 11 → c.bundleIn v = true → exec (.bri g a) s = .next (once g s (goes v)))
    ∧ (r < 2 ^ 11 → c.bundleIn r = true → exec (.ret g) s = .next (once g s (goes r)))
    ∧ (2 ^ 11 ≤ v → exec (.bri g a) s = .next (once g s (s.privilege 3)))
    ∧ (v < 2 ^ 11 → c.bundleIn v = false → exec (.bri g a) s = .next (once g s (s.privilege 1)))
    ∧ (2 ^ 11 ≤ r → exec (.ret g) s = .next (once g s (s.privilege 3)))
    ∧ (r < 2 ^ 11 → c.bundleIn r = false → exec (.ret g) s = .next (once g s (s.privilege 1)))
    ∧ decodeTableWord 32 0x00200040 = some (.br ⟨false, 0⟩ 0x40) ∧ decodeTableWord 32 0x00220028 = some (.call ⟨false, 0⟩ 40)

/-- 08 R160 to R162, 07 R144: LOOP pushes the next bundle and its trip count (one for zero) unless six entries stand; ENDL
rotates the bases and either counts its entry down and goes back to the head, or pops it; LEAVE pops. An ENDL of a re-entry bundle, whose
count F has its bundle already, goes to the head at F + 1 (10 R226). Without an entry ENDL
and LEAVE raise the loop-stack fault. The pushes and pops are done when they land, and change the loop stack alone; the words
that R160 and R161 give decode to LOOP and ENDL.

Where the rules leave a point to reading it rests on log entry 96. -/
def Obligations.LoopsCountAndRotate : Prop :=
  ∀ (g : Guard) (a imm : Nat) (s : State),
    let c := s.ctx s.fr.x
    let t1 := s.fr.t + 1
    let n := if a = 0 then imm else (s.sget a).toNat % 2 ^ 32
    let turned := (s.push t1 (.creg 4 (BitVec.ofNat 64 ((c.rbv + 15) % 16))) 0).push t1 (.creg 5 (BitVec.ofNat 64 ((c.rbp + 7) % 8))) 0
    let back := fun (u : State) (head : Nat) => if s.fr.re = true then
        ({ u.setCtx s.fr.x { c with xfers := (t1, head) :: c.xfers } with
          undo := ⟨s.fr.x, s.fr.hnd, s.fr.ord, .xfer t1 head, 0⟩ :: s.undo } : State)
      else u.setCtx s.fr.x { c with pc := head, lb := true }
    (c.lstk.length < 6 →
      exec (.loop g a imm) s = .next (once g s (s.push t1 (.lpush ((s.fr.addr + 1) % 2048) (if n = 0 then 1 else n)) 0)))
    ∧ (6 ≤ c.lstk.length → exec (.loop g a imm) s = .next (once g s (s.raiseIssue 12 0)))
    ∧ (∀ head cnt, c.lstk.getLast? = some (head, cnt) → 1 < cnt → exec (.endl g) s = .next (once g s
        (back (turned.push t1 (.creg (7 + c.lstk.length) (BitVec.ofNat 64 (head * 2 ^ 32 + (cnt - 1)))) 0) head)))
    ∧ (∀ head cnt, c.lstk.getLast? = some (head, cnt) → cnt ≤ 1 → exec (.endl g) s = .next (once g s (turned.push t1 .lpop 0)))
    ∧ (c.lstk = [] → exec (.endl g) s = .next (once g s (s.raiseIssue 12 1)) ∧ exec (.leave g) s = .next (once g s (s.raiseIssue 12 1)))
    ∧ (c.lstk ≠ [] → exec (.leave g) s = .next (once g s (s.push t1 .lpop 0)))
    ∧ (∀ (fr : Frame) (due run pri h m : Nat), let t := s.land ⟨fr, due, run, pri, .lpush h m, 0⟩
        t.ctx fr.x = { s.ctx fr.x with lstk := (s.ctx fr.x).lstk ++ [(h, m)] } ∧ t.mem = s.mem ∧ ∀ y, y ≠ fr.x → t.ctx y = s.ctx y)
    ∧ (∀ (fr : Frame) (due run pri : Nat), let t := s.land ⟨fr, due, run, pri, .lpop, 0⟩
        t.ctx fr.x = { s.ctx fr.x with lstk := (s.ctx fr.x).lstk.dropLast } ∧ t.mem = s.mem ∧ ∀ y, y ≠ fr.x → t.ctx y = s.ctx y)
    ∧ decodeTableWord 32 0x00243000 = some (.loop ⟨false, 0⟩ 6 0) ∧ decodeTableWord 32 0x00240008 = some (.loop ⟨false, 0⟩ 0 8)
    ∧ decodeTableWord 32 0x00250000 = some (.endl ⟨false, 0⟩)

/-- 08 R163, R179 to R182: END lets the context complete 64 counts later; SETF sets its flag no sooner than 2, 8 or 256 counts
after issue by its scope, nor before what the context's own static accesses and those of its router program have performed, and waits for
commands and tile words that it issued before and that have accesses to come; CLRF clears it; TSTF lands the flag's value and complement
in a predicate pair from three counts after its read, which a trace records where no program or router has set the flag last (23 R394).

08 R179, 15 R255: a flag change that performs changes that flag alone, and no memory, context or gang.

Where the rules leave a point to reading it rests on log entries 13, 36, 37 and 63. -/
def Obligations.EndAndFlags : Prop :=
  (∀ (g : Guard) (sc : Scope) (n pp : Nat) (f : FlagFile) (s : State), flagFile s.fr.x sc = some f →
    let c := s.ctx s.fr.x
    let lat := match sc with
      | .core => 2
      | .clu => 8
      | _ => 256
    let r := (s.clu (clusterOf (coreOf s.fr.x))).router
    let P := max (if s.fr.hnd then c.perfH else c.perfP) (if r.x = s.fr.x ∧ r.hnd = s.fr.hnd then r.perfP else 0)
    let due := max (s.fr.t + lat) (P + 1)
    let last := SMap.get 0 s.mod.setters (flagKey f n)
    let noted := if last = 0 ∨ 2 ≤ (last - 1) / 2 ^ 12 % 16 then s.record 4 6 0 s.tide (s.flagVal f n).toNat else s
    exec (.endTask g) s = .next (once g s { s.setCtx s.fr.x { c with
      ended := some ((if s.fr.hnd then (s.gangOf s.fr.x).F else s.fr.t) + 64)
      handler := c.handler.map fun h => { h with live := false } } with
      undo := ⟨s.fr.x, s.fr.hnd, s.fr.ord, .ended c.ended, 0⟩ :: s.undo })
    ∧ exec (.setf g sc n) s = .next (once g s ((s.push due (.flag f n true 0 true) 1).noteEff due))
    ∧ exec (.clrf g sc n) s = .next (once g s ((s.push (s.fr.t + lat) (.flag f n false 0 false) 0).noteEff (s.fr.t + lat)))
    ∧ (sc = .core → exec (.tstf g pp sc n) s = .next (once g s (landFlag noted (2 * pp) (s.flagVal f n) s.fr.t)))
    ∧ (sc ≠ .core → exec (.tstf g pp sc n) s = .next (once g s ((s.push (s.fr.t + lat) (.readFlag (2 * pp) s.fr.rbp f n) 1).noteEff
        (s.fr.t + lat + 10)))))
  ∧ (∀ (s : State) (fr : Frame) (due run pri n m kind : Nat) (f h : FlagFile) (v w : Bool),
    let width := fun (f : FlagFile) => match f with
      | .core _ => 16
      | _ => 64
    n < width f → m < width h →
    let e : Eff := ⟨fr, due, run, pri, .flag f n v kind w, 0⟩
    let t := s.perform e
    (w = true → s.olderOpen fr = true → t = { s with fr := fr, pend := s.pend ++ [e] })
    ∧ ((w = true → s.olderOpen fr = false) →
      t.flagVal h m = (if h = f ∧ m = n then v else s.flagVal h m) ∧ t.mem = s.mem ∧ t.ctxs = s.ctxs ∧ t.gangs = s.gangs ∧ t.tide = s.tide))

/-- 08 R181, R182, 07 R153, 20 R343, 10 R230: WAIT, YIELD and FENCE ask the gang to freeze: one count after issue on one core, SKB counts
after issue in a wider gang, which issues null bundles up to a WAIT's point. A YIELD is cooperative at a count up to YDL. A FENCE waits for
what was issued before its bundle; with nothing outstanding it does nothing, and one whose accesses have all performed by its point asks for nothing any more. In
handler mode WAIT and YIELD raise the privilege fault and FENCE holds the handler. So all three complete wherever the context is
not in its handler.

Where the rules leave a point to reading it rests on log entry 16. -/
def Obligations.WaitsAskForAFreeze : Prop :=
  (∀ (g : Guard) (sc : Scope) (n : Nat) (f : FlagFile) (s : State), flagFile s.fr.x sc = some f →
    let c := s.ctx s.fr.x
    let k := s.gangOf s.fr.x
    let F := if k.oneCore then s.fr.t + 1 else s.fr.t + k.skb
    let ids := c.nonstatic.filter fun i => !s.besides.contains i
    let asks := fun (u : State) (why : Why) => ({ u.setGang c.gang { k with reqs := k.reqs ++ [⟨F, why⟩] } with
      undo := ⟨s.fr.x, s.fr.hnd, s.fr.ord, .asked c.gang F why, 0⟩ :: u.undo } : State)
    (s.fr.hnd = false →
      exec (.wait g sc n) s = .next (once g s (asks (if s.fr.re = true then s else s.setCtx s.fr.x { c with nullTo := F })
        (.wait f n s.fr.x s.fr.addr s.fr.t (if s.fr.pre then s.tide - 1 else s.tide) false)))
      ∧ exec (.yield g) s = .next (once g s (asks s (.yield (decide (s.fr.t ≤ c.ydl.toNat)))))
      ∧ (ids ≠ [] → exec (.fence g sc) s = .next (once g s (asks s (.fence s.fr.x ids)))))
    ∧ (ids = [] → exec (.fence g sc) s = .next s)
    ∧ (s.fr.hnd = true →
      exec (.wait g sc n) s = .next (once g s (s.privilege 8)) ∧ exec (.yield g) s = .next (once g s (s.privilege 8))
      ∧ (ids ≠ [] → exec (.fence g sc) s = .next (once g s (s.setCtx s.fr.x { c with hwait := ids })))))
  ∧ ∀ (s : State) (gi x : Nat) (ids : List Nat) (F : Nat), (s.gang gi).reqs = [⟨F, .fence x ids⟩] → F ≤ (s.gang gi).sch →
      ((∀ i ∈ ids, i ∉ (s.ctx x).nonstatic) → ((s.dropFences gi).gang gi).reqs = [])
      ∧ ((∃ i ∈ ids, i ∈ (s.ctx x).nonstatic) → s.dropFences gi = s)

/-- 08 R186, 10 R226, 22 R375, 23 R387: TRAP raises its boundary fault with F one count after issue; RTE returns when TH is set and
raises the privilege fault of reason 4 otherwise; SLACK and BKPT start the slack wave with the bundle as its origin, once no slot below
them can be taken back, and BKPT also freezes a gang on one core at the next count; MARK's record carries the TIDE of its issue.

Where the rules leave a point to reading it rests on log entry 61. -/
def Obligations.TrapsReturnsAndMarks : Prop :=
  ∀ (g : Guard) (code : Nat) (s : State),
    let c := s.ctx s.fr.x
    let cause := fun (fr : Frame) (n : Nat) => (⟨fr.x, fr.hnd, fr.t + 1, fr.t, fr.re, fr.slot, fr.addr, n, BitVec.ofNat 64 code, 0, true,
      fr.rbv, fr.rbp⟩ : PendFault)
    let T := if s.fr.pre then s.tide - 1 else s.tide
    let waves := fun (n : Nat) (own : Bool) => ({ s with
      pend := s.pend ++ [⟨{ s.fr with cap := 0, capv := 0, gt := 0 }, s.fr.t, 0, 9, .trig n code T own, s.tide + 1⟩] } : State)
    exec (.trap g code) s = .next (once g s { s with faults := addFault (cause s.fr 15) s.faults })
    ∧ (c.psw.getLsbD 3 = true → exec (.rte g) s = .next (once g s (s.faultReturn s.fr.x)))
    ∧ (c.psw.getLsbD 3 = false → exec (.rte g) s = .next (once g s (s.privilege 4)))
    ∧ exec (.slack g code) s = .next (once g s (waves 19 false))
    ∧ exec (.bkpt g code) s = .next (once g s (if (s.gangOf s.fr.x).oneCore = true ∧ s.fr.hnd = false then
        (waves 16 true).ask c.gang (s.fr.t + 1) .slack else waves 16 false))
    ∧ exec (.mark g code) s = .next (once g s (s.push s.fr.t (.record 0 1 code T 0) 9))
    ∧ ∀ (fr : Frame) (due run pri wall n tide : Nat), let u : State := { s with fr := fr }
        u.lowerOpen = false → s.perform ⟨fr, due, run, pri, .trig n code tide false, wall⟩
          = (u.setCtx fr.x { u.ctx fr.x with wave := some (cause fr n) }).triggerCtx fr.x fr.addr n code u.schOf tide

/-- 08 R183 to R185, R187, R189, 10 R218: LAUNCH, TISS and SYS read their record in the own berth at issue + 2 or carry their scalar;
LAUNCH and SYS cross outbound to the pilot, and so does a TISS whose word is for the die or the fabric, which takes its slot at
issue. A misaligned or outlying record raises the berth-bound fault, a context without a lock rotation the timing fault, and on
a dock core a word with formats that dry dock lacks the unsupported-in-dock fault (21 R351). So LAUNCH and SYS complete with an
aligned record in the berth allotment and a lock rotation, and TISS with its record alone outside dry dock.

Where the rules leave a point to reading it rests on log entry 25. -/
def Obligations.RequestsToThePilot : Prop :=
  ∀ (g : Guard) (a n f : Nat) (s : State),
    let c := s.ctx s.fr.x
    let v := (s.sget a).toNat
    let key := (Place.berth (coreOf s.fr.x)).key (v % 2 ^ 16)
    let sent := fun (kind : CrossKind) (bytes : Nat) (m : Msg) =>
      let u := s.cross kind true c.lk 0 0 bytes
      ({ u with mod := { u.mod with msgs := u.mod.msgs ++ [{ m with id := u.fr.id, x := u.fr.x, fr := u.fr }] } } : State)
    let raw := foreseen s key 32
    let abroad := 4 ≤ fld raw 6 4 ∧ fld raw 6 4 < 6 ∧ fld raw 3 0 < 10 ∧ c.lk ≠ 0
    let reads := fun (u : State) => (u.push (s.fr.t + 2) (.tissRead key)).noteEff (s.fr.t + 4)
    (v % 64 = 0 → ownOnly c v 64 = none → c.lk ≠ 0 →
      exec (.launch g a) s = .next (once g s ((sent .launch 64 { id := 0, kind := .launch }).push (s.fr.t + 2) (.launchRead key))))
    ∧ (v % 32 = 0 → ownOnly c v 32 = none → ((s.gangOf s.fr.x).dock && dockTile (s.mem.readN key 32)) = false →
      (abroad → exec (.tiss g a) s = .next (once g s (reads { s.cross (.tiss raw) true c.lk 0 0 32 with fr := s.fr })))
      ∧ (¬ abroad → exec (.tiss g a) s = .next (once g s (reads s))))
    ∧ (v % 32 = 0 → ownOnly c v 32 = none → (s.gangOf s.fr.x).dock = true → dockTile (s.mem.readN key 32) = true →
      exec (.tiss g a) s = .next (once g s (s.raiseIssue 22 (BitVec.ofNat 64 s.fr.bits))))
    ∧ (c.lk ≠ 0 → exec (.sys g a n f) s
        = .next (once g s (sent (.sys n f (s.sget a)) 16 { id := 0, kind := .sys, a := n, b := f, d := s.schOf, data := v })))
    ∧ (c.lk = 0 → exec (.sys g a n f) s = .next (once g s s.noLock))
    ∧ (v % 64 = 0 → ownOnly c v 64 = none → c.lk = 0 → exec (.launch g a) s = .next (once g s s.noLock))
    ∧ (v % 64 ≠ 0 → exec (.launch g a) s = .next (once g s (s.berthBound 0 0 v)))
    ∧ (v % 32 ≠ 0 → exec (.tiss g a) s = .next (once g s (s.berthBound 0 0 v)))
    ∧ (∀ r, v % 64 = 0 → ownOnly c v 64 = some r → exec (.launch g a) s = .next (once g s (s.berthBound r 0 v)))
    ∧ (∀ r, v % 32 = 0 → ownOnly c v 32 = some r → exec (.tiss g a) s = .next (once g s (s.berthBound r 0 v)))

/-- 10 R228: CTXS and CTXR need PRIV (reason 0) and a context of the core that may be saved or restored (reason 6), and CTXR an
allotment and watchdog that match the save area (reason 7). Accepted, CTXS asks the target's running gang to freeze, or has its
frozen gang stay so, and CTXR charges the target's gang at issue; the issuing gang freezes until the save or restore has ended,
unless the bundle is a handler's. The restore begins once that gang has frozen, and the save once the target is frozen, too, the slots
that it had crossing have landed and its charge is admitted; each enters as one crossing of its granules over the slots of its own
rotations and of those that no running context holds, and waits while these do not suffice. So CTXS and CTXR complete in these
conditions.

Where the rules leave a point to reading it rests on log entry 49. -/
def Obligations.ContextSwitches : Prop :=
  ∀ (g : Guard) (n : Nat) (s : State), s.onceGuard g = true →
    let x := s.fr.x
    let y := x / 4 * 4 + n % 4
    let c := s.ctx y
    let k := s.gangOf y
    let kept := s.timedAt (s.tide + 1) (.ctxr g n) { s.fr with slice := 1 }
    let enters := fun (t : State) (out : Bool) (m : Nat) => t.mem = s.mem ∧ ∃ e, (t.ctx y).crossings = c.crossings ++ [e]
      ∧ e.kind = .bulk ∧ e.out = out ∧ e.bytes = 64 * m ∧ e.slots = s.bulkSlots y out m ∧ e.next = 0
    let m := ((imageOf s y).2 + 63) / 64 + 64 * ((List.range 8).filter c.latchIn).length
    let ready := c.saving = true ∧ c.saved = false ∧ k.run ≠ .running ∧ c.bulkOn = false ∧ s.askerRuns y = false
      ∧ crossingsLanded s y = true ∧ k.admits c.hlmthr.toNat (32 * saveBytes s y) = true
    (s.priv = false → exec (.ctxs g n) s = .next (s.privilege 0) ∧ (s.fr.slice ≠ 1 → exec (.ctxr g n) s = .next (s.privilege 0)))
    ∧ (s.priv = true → (y = x ∨ c.resident = false ∨ c.handler.isSome = true ∨ c.saved = true ∨ c.saving = true) →
      exec (.ctxs g n) s = .next (s.privilege 6))
    ∧ (s.priv = true → c.saved = false → s.fr.slice ≠ 1 → exec (.ctxr g n) s = .next (s.privilege 6))
    ∧ (s.priv = true → c.saved = true → s.fr.slice ≠ 1 → (c.allot.toNat ≠ s.mem.readN (saveKey y (8 * 37)) 8 ∨ c.wdog.getLsbD 63 = true) →
      exec (.ctxr g n) s = .next (s.privilege 7))
    ∧ (s.priv = true → y ≠ x → c.resident = true → c.handler = none → c.saved = false → c.saving = false →
      ∃ t, exec (.ctxs g n) s = .next t ∧ (t.ctx y).saving = true ∧ (t.ctx y).savedFor = some (x, s.fr.hnd, s.fr.ord) ∧ t.mem = s.mem
        ∧ (k.run = .running → ⟨k.reqPoint k.sch, .save y⟩ ∈ (t.gangOf y).reqs)
        ∧ (k.run = .waiting → ⟨0, .save y⟩ ∈ (t.gangOf y).reqs)
        ∧ (k.run = .frozen → .save y ∈ (t.gangOf y).left ∧ .save y ∈ (t.gangOf y).served)
        ∧ (s.fr.hnd = false → ⟨(s.gangOf x).reqPoint s.fr.t, .ctxop y 0⟩ ∈ (t.gangOf x).reqs))
    ∧ (s.priv = true → c.saved = true → s.fr.slice ≠ 1 → c.allot.toNat = s.mem.readN (saveKey y (8 * 37)) 8 → c.wdog.getLsbD 63 = false →
      ∃ t, exec (.ctxr g n) s = .next t ∧ (t.ctx y).saving = true ∧ (t.ctx y).wcnt = 0
        ∧ (t.ctx y).savedFor = some (x, s.fr.hnd, s.fr.ord) ∧ t.mem = s.mem
        ∧ (t.gangOf y).bal = (k.debit (8 * saveBytes s y)).bal
        ∧ t.timed = s.timed ++ [⟨s.tide + 1, ⟨.ctxr g n, { s.fr with slice := 1 }⟩⟩]
        ∧ (s.fr.hnd = false → ⟨(s.gangOf x).reqPoint s.fr.t, .ctxop y 1⟩ ∈ (t.gangOf x).reqs))
    ∧ (s.fr.slice = 1 → s.askerRuns y = true ∨ (s.bulkSlots y false (saveBytes s y / 64)).length < saveBytes s y / 64 →
      exec (.ctxr g n) s = .next kept)
    ∧ (s.fr.slice = 1 → s.askerRuns y = false → saveBytes s y / 64 ≤ (s.bulkSlots y false (saveBytes s y / 64)).length →
      ∃ t, exec (.ctxr g n) s = .next t ∧ enters t false (saveBytes s y / 64))
    ∧ (ready → m ≤ (s.bulkSlots y true m).length →
      ∃ t, exec (.contextSaveStart y) s = .next t ∧ (t.gangOf y).bal = (k.debit (32 * saveBytes s y)).bal ∧ enters t true m)
    ∧ (¬ ready ∨ (s.bulkSlots y true m).length < m → exec (.contextSaveStart y) s = .next s)

/-! ### The matrix class (09 R192 to R210) -/

/-- 09 R192 to R195, R199, R208 to R210: the parameter registers, latches, routines, scale latches and the transposer: what each
slot moves, where it lands and when; a latch outside AMASK raises the privilege fault, and so does a routine below 64
without PRIV. -/
def Obligations.MatrixClassMoves : Prop :=
  ∀ (g : Guard) (m d v lat grp a n : Nat) (imm : Int) (s : State),
    let c := s.ctx s.fr.x
    let core := coreOf s.fr.x
    let k := s.fr.slice
    let row := (Place.latch core).key (4096 * lat + 128 * (4 * grp + k / 2) + 64 * (k % 2))
    let sa := (s.sget a).toNat
    let sl := (s.sget a + BitVec.ofInt 64 imm).toNat
    let held := if k = 0 then s.onceGuard g = true ∧ c.latchIn lat = true else True
    exec (.mset g m a) s = .next (once g s (s.push (s.fr.t + 1) (.reg (.m m) ((s.sget a).setWidth 512) allBits)))
    ∧ exec (.mget g m d) s = .next (once g s (s.landS d ((s.reg (.m m)).setWidth 64) (s.fr.t + 1)))
    ∧ (c.latchIn lat = true → exec (.mzero g lat) s
        = .next (once g s (s.push (s.fr.t + 2) (.landMem ((Place.latch core).key (4096 * lat)) 4096 0 (allBytes 4096)))))
    ∧ (c.latchIn lat = false → exec (.mzero g lat) s = .next (once g s (s.privilege 2)))
    ∧ (s.fr.old = 0 → s.seenMem = s.mem)
    ∧ (held → exec (.mpop g v lat grp) s = .next ((s.landV v k (BitVec.ofNat 512 (s.seenMem.readN row 64)) allBits (s.fr.t + k + 8)).nextSlice
        (.mpop g v lat grp) s.fr)
      ∧ exec (.mpsh g v lat grp) s = .next ((s.push (s.fr.t + k + 4) (.landMem row 64 (s.vget v k).toNat (allBytes 64))).nextSlice
        (.mpsh g v lat grp) s.fr))
    ∧ (k = 0 → c.latchIn lat = false → exec (.mpop g v lat grp) s = .next (once g s (s.privilege 2))
      ∧ exec (.mpsh g v lat grp) s = .next (once g s (s.privilege 2)))
    ∧ ((64 ≤ n ∨ s.priv = true) → sa % 64 = 0 → ownOnly c sa 64 = none → exec (.mload g n a) s = .next (once g s
        ((s.push (s.fr.t + 2) (.mload n ((Place.berth core).key (sa % 2 ^ 16)))).noteEff (s.fr.t + 4))))
    ∧ (n < 64 → s.priv = false → exec (.mload g n a) s = .next (once g s (s.privilege 0)))
    ∧ (c.latchIn lat = true → sl % 64 = 0 → ownOnly c sl 128 = none → exec (.sld g lat a imm) s = .next (once g s
        ((s.push (s.fr.t + 2) (.sld lat ((Place.berth core).key (sl % 2 ^ 16)))).noteEff (s.fr.t + 4))))
    ∧ (c.latchIn lat = false → exec (.sld g lat a imm) s = .next (once g s (s.privilege 2)))
    ∧ (c.allotF 59 52 ≠ 0 → exec (.trn g a grp) s = .next ((s.push (s.fr.t + 10) (.landMem ((Place.trans core).key
        (128 * (4 * grp + k / 2) + 64 * (k % 2))) 64 (s.vget a k).toNat (laneBytes (s.laneGuard g k)))).nextSlice (.trn g a grp) s.fr))
    ∧ (c.allotF 59 52 ≠ 0 → k = 0 → ∃ val u, exec (.trno g d grp) s = .next (laneNext (.trno g d grp) g 32 2 d val u)
      ∧ u = { s with fr := { s.fr with capv := u.fr.capv } }
      ∧ HoldsElems 32 val fun l => s.mem.readN ((Place.trans core).key (128 * l + 4 * (4 * grp))) 4)
    ∧ (k ≠ 0 → exec (.trno g d grp) s = .next (laneNext (.trno g d grp) g 32 2 d (granOf s.fr.capv k) s))
    ∧ (c.allotF 59 52 = 0 → k = 0 → s.allGuards g ≠ 0 → exec (.trn g a grp) s = .next (s.privilege 2)
      ∧ exec (.trno g d grp) s = .next (s.privilege 2))

/-- 09 R201: a call of the array starts at the later of the next count and the count at which the input of the call issued before it
is free; a third call raises the timing fault with that call's start, and on a dock core a routine with formats that dry dock
lacks the unsupported-in-dock fault (21 R351). So MCALL completes whenever the call before it has started or starts at the next
count, and the routine's formats are present. The call enters the array's queue and samples its routine and parameters at t + 1.

09 R203: at its start a call whose first descriptor of a latch clears it has the start value zero there, and one that keeps
it the latch's bytes, if no earlier call on that latch is still to land; its first step reads at the end of that cycle.

09 R205: at its retirement a call leaves the array, and a call of an MCALL merges its flags into the PSW of its context.

Where the rules leave a point to reading it rests on log entries 67 and 77. -/
def Obligations.MatrixCallsStartAndRetire : Prop :=
  (∀ (g : Guard) (n : Nat) (s : State),
    let core := coreOf s.fr.x
    let prev := prevCall s core s.fr.x s.fr.hnd
    let S := max (s.fr.t + 1) ((prev.map fun c => c.free).getD 0)
    let u := enterCall s core n s.fr.t S s.fr.x [] none
    ((∀ p, prev = some p → p.start ≤ s.fr.t + 1) → dockRefuses s n = false →
      exec (.mcall g n) s = .next (once g s u)
      ∧ (∃ c, (u.core core).calls = (s.core core).calls ++ [c] ∧ c.start = S ∧ c.rout = n ∧ c.id = s.nextId ∧ c.y = s.fr.x ∧ c.tile = none)
      ∧ (∃ e ∈ u.pend, e.due = s.fr.t + 1 ∧ e.act = .mxSample core s.nextId) ∧ u.mem = s.mem ∧ u.ctxs = s.ctxs ∧ u.faults = s.faults)
    ∧ ((∀ p, prev = some p → p.start ≤ s.fr.t + 1) → dockRefuses s n = true →
      exec (.mcall g n) s = .next (once g s (s.raiseIssue 22 (BitVec.ofNat 64 s.fr.bits))))
    ∧ (∀ p, prev = some p → s.fr.t + 1 < p.start → exec (.mcall g n) s = .next (once g s
        (s.raiseIssue 7 (BitVec.ofNat 64 (s.fromAnchor p.start + s.fromAnchor s.fr.t * 2 ^ 32))))))
  ∧ (∀ (core lat : Nat) (c : Call) (s : State), s.callOf core s.fr.id = some c → c.dead = false → s.soft = [] → callLats c = [lat] →
    let first := ((usedDescs c.code 1).find? fun i => desc c.m i 2 0 == lat).getD 0
    ∃ t k, exec (.matrixCallStart core) s = .next t ∧ t.callOf core s.fr.id = some k
      ∧ (desc c.m first 3 3 = 0 → k.acc = (lat, 0) :: c.acc)
      ∧ (desc c.m first 3 3 ≠ 0 → (∀ e ∈ (s.core core).calls, e.id < s.fr.id → lat ∉ callLats e) →
          k.acc = (lat, s.mem.readN ((Place.latch core).key (4096 * lat)) (accBytes c)) :: c.acc.filter fun e => e.1 != lat)
      ∧ (∃ e ∈ t.pend, e.due = c.start ∧ e.act = .mxStep core s.fr.id) ∧ t.mem = s.mem ∧ t.ctxs = s.ctxs)
  ∧ (∀ (core : Nat) (c : Call) (s : State), s.callOf core s.fr.id = some c →
    ∃ t, exec (.matrixCallRetire core) s = .next t
      ∧ (t.core core).calls = (s.core core).calls.filter (fun e => e.id != c.id)
      ∧ (c.dead = false → c.tile = none → (t.ctx c.fr.x).psw = (s.ctx c.fr.x).psw ||| BitVec.ofNat 64 (c.flags * 16))
      ∧ (c.dead = true → t.ctxs = s.ctxs) ∧ t.mem = s.mem ∧ ∀ y, y ≠ c.fr.x → t.ctx y = s.ctx y)

/-! ### Engine and router commands (15 R256 to R263, 18 R301 to R306, 22 R368, R371) -/

/-- 15 R257: the start count that an offset names is the one count from the anchor that is congruent to it modulo 16,384 and lies
from 8,191 before issue to 8,192 after. -/
def Obligations.StartCountIsUnique : Prop :=
  ∀ (s : State) (off : Nat), off < 16384 → s.fr.hnd = false →
    let a : Int := (s.gangOf s.fr.x).anchor
    let S := startCount s off
    (s.fr.t : Int) - 8191 ≤ S ∧ S ≤ s.fr.t + 8192 ∧ (S - a) % 16384 = off
    ∧ ∀ T : Int, (s.fr.t : Int) - 8191 ≤ T → T ≤ s.fr.t + 8192 → (T - a) % 16384 = off → T = S

/-- 15 R257 to R260, 22 R368: an engine command whose descriptor, bounds, start count and lock pass is entered with its slots and
has its warm addresses checked two counts after issue; a reserved bit raises the illegal-encoding fault, a register outside
the allotment the quay-bound fault, a start less than 24 counts ahead, no lock, no cell of a send's link, or a seventeenth command
the timing fault. So each of CE.LD, CE.ST, CE.AL, CE.AS, CE.GTH, CE.FIL and BX.SEND completes when its descriptor, bounds, start
count and lock pass. A check two counts on that finds no bad granule changes nothing, and one that does raises the translation
fault of the first (18 R301).

15 R258, R263, 18 R305, R306: in a granule's slot the engine takes an access count: the first one at or after the slot, whole
multiples of 64 later, in which the granule's channel is due and which no granule of its core holds. It comes at its TIDE, whether
the gang runs then or not. A granule of HBM that is read at its access count performs in the quay 224 counts later; a granule
read from the quay performs in HBM at its access count.

Where the rules leave a point to reading it rests on log entry 47. -/
def Obligations.EngineCommandsMoveGranules : Prop :=
  (∀ (g : Guard) (a b off : Nat) (s : State),
    let c := s.ctx s.fr.x
    let S := startCount s off
    let dw := s.sget b
    let w := (s.sget a).toNat
    let all := fun (P : Nat → (Nat → Nat → Nat → Instr) → Prop) =>
      P 0 (fun a b o => .ceLd g a b o) ∧ P 1 (fun a b o => .ceSt g a b o) ∧ P 2 (fun a b o => .ceAl g a b o)
      ∧ P 3 (fun a b o => .ceAs g a b o) ∧ P 4 (fun a b o => .ceGth g a b o) ∧ P 5 (fun a b o => .ceFil g a b o)
    all (fun op i =>
      (∀ d, xferOf op dw = some d → xferBound c op d = none → (s.fr.t : Int) + 24 ≤ S → c.lk ≠ 0 → openCommands s s.fr.x < 16 →
        exec (i a b off) s = .next (once g s (enterCommand s op d w dw S)))
      ∧ (xferOf op dw = none → exec (i a b off) s = .next (once g s s.illegal))
      ∧ (∀ d tile n, xferOf op dw = some d → xferBound c op d = some (tile, n) → exec (i a b off) s = .next (once g s (s.quayBound tile n)))
      ∧ (∀ d, xferOf op dw = some d → xferBound c op d = none → S < s.fr.t + 24 ∨ c.lk = 0 ∨ 16 ≤ openCommands s s.fr.x →
        exec (i a b off) s = .next (once g s (s.lateStart S))))
    ∧ (∀ d, w / 2 ^ 46 % 4 = 0 → xferOf 9 dw = some d → xferBound c 9 d = none → (s.fr.t : Int) + 24 ≤ S → c.lk ≠ 0 →
      openCommands s s.fr.x < 16 →
      (cellsOf s s.fr.x (w / 2 ^ 48 % 16) ≠ [] → exec (.bxSend g a b off) s = .next (once g s (enterCommand s 9 d w dw S)))
      ∧ (cellsOf s s.fr.x (w / 2 ^ 48 % 16) = [] → exec (.bxSend g a b off) s = .next (once g s (s.lateStart S))))
    ∧ (w / 2 ^ 46 % 4 ≠ 0 → exec (.bxSend g a b off) s = .next (once g s s.illegal))
    ∧ ∀ op d, s.fr.slice ≠ 1 → let u := enterCommand s op d w dw S
      (∃ k, (u.ctx s.fr.x).commands = c.commands ++ [k] ∧ k.op = op ∧ k.start = S.toNat ∧ k.id = s.nextId ∧ k.warm = w ∧ k.desc = dw
        ∧ k.slots = engineSlots s (S + ((s.clk s.fr.x s.fr.hnd : Int) - s.now s.fr.x s.fr.hnd)) d.n)
      ∧ u.mem = s.mem ∧ u.faults = s.faults
      ∧ ∃ e ∈ u.pend, e.due = s.now s.fr.x s.fr.hnd + 2 ∧ e.act = .warmCheck s.nextId)
  ∧ ((∀ (s : State) (fr : Frame) (due run pri wall id : Nat) (k : Command) (d : Xfer), s.command fr.x id = some k → xferOf k.op k.desc = some d →
      k.op ≠ 4 →
      let u : State := { s with fr := fr }
      let bad := firstBad (commandWindow u fr.x k.op k.warm) (opWrites k.op || k.op == 9) false 0 (checkAddrs k.op d k.warm)
      (bad = none → s.land ⟨fr, due, run, pri, .warmCheck id, wall⟩ = u)
      ∧ ∀ i va kind, bad = some (i, va, kind) → s.land ⟨fr, due, run, pri, .warmCheck id, wall⟩
          = u.raiseExec 6 (BitVec.ofNat 64 (min i 0xFFFF * 256 + kind)) (BitVec.ofNat 64 va) due)
  ∧ (∀ (s : State) (x id pa : Nat) (k : Command) (d : Xfer), s.command x id = some k → xferOf k.op k.desc = some d → s.fr.slice ≠ 1 → s.fr.slice ≠ 2 →
    s.fr.x = x → k.op < 5 → s.ecc = [] → windowPhys s x (xferVa k.op d k.warm k.idx k.next) = some pa →
    let u := s.clk x k.hnd
    let c := s.cal x k.hnd
    let A := accessCount (heldAccess s x k.hnd) c c pa - c
    let T := s.tide + (s.gangOf x).pace * A
    ∃ t e fr, exec (.engineSlot x id) s = .next t ∧ t.command x id = some e ∧ e.next = k.next + 1
      ∧ e.last = max (max k.last u) (u + A + (if opWrites k.op then 0 else 224))
      ∧ fr.x = x ∧ fr.slice = k.next ∧ fr.cap = BitVec.ofNat 64 (u + A)
      ∧ (opWrites k.op = true → fr.capv = BitVec.ofNat 4096 (s.mem.readN (xferKey (coreOf x) k.op d k.next) 64)
        ∧ fr.gt = (if s.poisoned (xferKey (coreOf x) k.op d k.next) then 1 else 0))
      ∧ (T ≤ s.tide → t.agenda = s.agenda ++ [⟨.hbmCalendarAccess id, fr⟩])
      ∧ (s.tide < T → t.timed = s.timed ++ [⟨T, ⟨.hbmCalendarAccess id, fr⟩⟩])
      ∧ (x, k.hnd, u + A, T) ∈ (t.core (coreOf x)).hbm ∧ t.mem = s.mem ∧ t.pend = s.pend ∧ ∀ y, y ≠ x → t.ctx y = s.ctx y)
  ∧ (∀ (held : List Nat) (T u off : Nat), let A := accessCount held T u off
      u ≤ A ∧ (A - u) % 64 = 0 ∧ A ∉ held ∧ (T + (A - u)) / 64 % 16 = off / 64 % 16)
  ∧ (∀ (s : State) (id key : Nat) (k : Command) (d : Xfer), s.command s.fr.x id = some k → xferOf k.op k.desc = some d → s.ecc = [] →
      (windowPhys s s.fr.x (xferVa k.op d k.warm k.idx s.fr.slice)).bind physKey = some key →
      let u := s.activate key
      let fr := { s.fr with slice := 0, cap := 0, capv := 0, gt := 0 }
      let q := xferKey (coreOf s.fr.x) k.op d s.fr.slice
      let w := u.later fr (clusterOf (coreOf s.fr.x)) (.store key 64 (s.fr.capv.toNat % 2 ^ 512) (allBytes 64))
      let r := { u with fr := fr }.pushClk (s.fr.cap.toNat + 224) (.store q 64 (s.mem.readN key 64) (allBytes 64)) 1
      (opWrites k.op = true → exec (.hbmCalendarAccess id) s
          = .next (if s.fr.gt = 0 then w else w.later fr (clusterOf (coreOf s.fr.x)) (.taint key)))
      ∧ (opWrites k.op = false → exec (.hbmCalendarAccess id) s
          = .next (if s.poisoned key then r.pushClk (s.fr.cap.toNat + 224) (.taint q) 1 else r))))

/-- 15 R261, 22 R371: BX.POST enters below the cluster's limit of 64 posts and counts one more, and a CE.CXL enters below the limit of
256 with eight requests of 64 bytes, its address checked two counts on by TIDE; at the limit the gang is asked to freeze and the
command comes again at the freeze point with the operands that it has read, a handler's with its next count; from its issue on it is a
non-static access that a FENCE waits for. As it comes again, commands whose last bytes its gang's freeze has held until then count no
more. So both complete below their limits.

18 R314, 15 R261, R263: a request that is sent has 1 ms; to the tier it carries the quay's bytes as they are sent. What returns with
a completed read is the tier's bytes as they stand then, and of host memory those of the task's tail write with what the module has
written since (19 R321); they perform at the end of that cycle, or are held while the program's
gang is frozen. A request that is not answered in time has failed, and what a failed read brings is poisoned. The last request of a
command sets its cluster flag and gives its place back.

Where the rules leave a point to reading it rests on log entries 10, 35 and 80. -/
def Obligations.PostsAndTierCopiesRun : Prop :=
  (∀ (g : Guard) (a b f q : Nat) (s : State), s.onceGuard g = true → s.fr.slice ≠ 1 →
    let c := s.ctx s.fr.x
    let clu := clusterOf (coreOf s.fr.x)
    let w := (s.sget a).toNat
    let n := s.now s.fr.x s.fr.hnd
    let F := (s.gangOf s.fr.x).reqPoint n
    let again := fun (why : Why) (i : Instr) (x y : Word) =>
      let u := { s with nextId := s.nextId + 1 }.noteNonstatic s.nextId
      let fr := { s.fr with slice := 1, id := s.nextId, cap := x, capv := y.setWidth 4096 }
      if s.fr.hnd then u.fly (n + 1) i fr else (u.ask c.gang F why).fly F i fr
    let nonstatic := if s.nextId ∈ c.nonstatic then c.nonstatic else c.nonstatic ++ [s.nextId]
    (∀ d, w / 2 ^ 48 % 16 = 0 → w.testBit 46 = false → xferOf 10 (s.sget b) = some d → xferBound c 10 d = none → c.lk ≠ 0 →
      openCommands s s.fr.x < 16 →
      ((s.clu clu).posts < 64 → ∃ t, exec (.bxPost g a b f) s = .next t ∧ (t.clu clu).posts = (s.clu clu).posts + 1
        ∧ (t.ctx s.fr.x).nonstatic = nonstatic ∧ (t.ctx s.fr.x).commands.length = c.commands.length + 1 ∧ t.mem = s.mem
        ∧ t.faults = s.faults)
      ∧ (64 ≤ (s.clu clu).posts → exec (.bxPost g a b f) s = .next (again (.postFull clu) (.bxPost g a b f) (s.sget a) (s.sget b))))
    ∧ (w / 2 ^ 48 % 16 ≠ 0 ∨ w.testBit 46 = true → exec (.bxPost g a b f) s = .next s.illegal)
    ∧ (c.quayIn q = true → c.lk ≠ 0 →
      ((s.clu clu).cxl < 256 →
        exec (.ceCxlToQuay g q a f) s = .next (enterCxl s false q w f) ∧ exec (.ceCxlToTier g q a f) s = .next (enterCxl s true q w f))
      ∧ (256 ≤ (s.clu clu).cxl → exec (.ceCxlToQuay g q a f) s = .next (again (.cxlFull clu) (.ceCxlToQuay g q a f) (s.sget a) 0)
        ∧ exec (.ceCxlToTier g q a f) s = .next (again (.cxlFull clu) (.ceCxlToTier g q a f) (s.sget a) 0)))
    ∧ (c.quayIn q = true → c.lk = 0 → exec (.ceCxlToQuay g q a f) s = .next (s.lateStart s.fr.t)
      ∧ exec (.ceCxlToTier g q a f) s = .next (s.lateStart s.fr.t))
    ∧ (c.quayIn q = false → exec (.ceCxlToQuay g q a f) s = .next (s.quayBound false q)
      ∧ exec (.ceCxlToTier g q a f) s = .next (s.quayBound false q))
    ∧ ∀ dir va, let u := enterCxl s dir q va f
      (u.clu clu).cxl = (s.clu clu).cxl + 1 ∧ u.mod.cxl.length = s.mod.cxl.length + 8 ∧ u.mem = s.mem ∧ u.faults = s.faults
      ∧ (u.ctx s.fr.x).nonstatic = nonstatic
      ∧ (∀ i, i < 8 → ∃ r ∈ u.mod.cxl, r.cmd = s.nextId ∧ r.dir = dir ∧ r.tier = va / 64 * 64 + 64 * i
          ∧ r.key = (Place.quay (coreOf s.fr.x)).key (512 * q + 64 * i) ∧ r.flag = (clu, f))
      ∧ ∃ e ∈ u.pend, e.act = .warmCheck s.nextId ∧ e.due = n + 2 ∧ e.wall = s.tide + 2 * (s.gangOf s.fr.x).pace + 1)
  ∧ (∀ (g : Guard) (a f q : Nat) (s : State), s.fr.slice = 1 →
      (s.clu (clusterOf (coreOf s.fr.x))).cxl < 256 + s.arrivedOn (s.ctx s.fr.x).gang (clusterOf (coreOf s.fr.x)) →
      exec (.ceCxlToQuay g q a f) s = .next (enterCxl s false q s.fr.cap.toNat f)
      ∧ exec (.ceCxlToTier g q a f) s = .next (enterCxl s true q s.fr.cap.toNat f))
  ∧ (∀ (s : State) (id : Nat) (r : CxlReq), s.cxlReq id = some r → s.ecc = [] →
    let key := (windowPhys s r.x r.tier).bind physKey
    let others := s.mod.cxl.filter fun e => e.id != id
    let arrives := fun (t : State) => t.pend = (if cxlHeld s { r with done := true, bad := false } then s.pend
      else s.pend ++ [⟨outside, 0, 0, cxlRank, .arrive id, s.tide + 1⟩])
    (∃ t T, exec (.cxlRequestSend id) s = .next t ∧ (∀ e ∈ t.mod.cxl, e.id = id → e.sent = some s.tide
        ∧ (r.dir = true → e.data = s.mem.readN r.key 64 ∧ e.poison = s.poisoned r.key))
      ∧ t.timed = s.timed ++ [⟨s.tide + 32000000, ⟨.cxlRequestTimeout id, {}⟩⟩, ⟨T, ⟨.cxlRequestComplete id true, {}⟩⟩]
      ∧ s.tide < T ∧ T ≤ s.tide + 2 ^ 26 ∧ t.mem = s.mem ∧ t.pend = s.pend)
    ∧ (r.sent.isSome = true → r.done = false → r.dir = true →
      ∃ t, exec (.cxlRequestComplete id true) s = .next t ∧ t.mem = s.mem ∧ arrives t
        ∧ t.mod.cxl = others ++ [{ r with done := true, bad := false }])
    ∧ (∀ k, r.sent.isSome = true → r.done = false → r.dir = false → key = some k → s.poisoned k = false →
      ∃ t, exec (.cxlRequestComplete id true) s = .next t ∧ t.mem = s.mem ∧ arrives t
        ∧ t.mod.cxl = others ++ [{ r with data := (if State.hostKey k then s.hostMem (s.gang r.gid).rel else s.mem).readN k 64, poison := false, done := true, bad := false }])
    ∧ (r.sent.isSome = true → r.done = false → ∃ t e, exec (.cxlRequestTimeout id) s = .next t ∧ t.mod.cxl = others ++ [e]
        ∧ e.id = id ∧ e.cmd = r.cmd ∧ e.done = true ∧ e.bad = true ∧ t.mem = s.mem)
    ∧ (r.done = true → exec (.cxlRequestTimeout id) s = .next s ∧ exec (.cxlRequestComplete id true) s = .next s))
  ∧ ∀ (s : State) (fr : Frame) (due run pri wall id : Nat) (r : CxlReq), s.cxlReq id = some r →
    let target := if r.dir then (windowPhys s r.x r.tier).bind physKey else some r.key
    let t := s.perform ⟨fr, due, run, pri, .arrive id, wall⟩
    let last := (s.mod.cxl.filter fun e => e.id != id).all fun e => e.cmd != r.cmd
    (r.bad = false → r.poison = false → s.Clean → (target = none → t.mem = s.mem)
      ∧ ∀ k, target = some k → t.mem = s.mem.writeN k 64 r.data (allBytes 64))
    ∧ (r.bad = true → r.dir = false → r.key / 64 ∈ t.poison)
    ∧ t.mod.cxl = s.mod.cxl.filter (fun e => e.id != id)
    ∧ (last = true → (t.clu r.flag.1).cxl = (s.clu r.flag.1).cxl - 1 ∧ (r.flag.2 < 64 → t.flagVal (.clu r.flag.1) r.flag.2 = true)
      ∧ r.cmd ∉ (t.ctx r.x).nonstatic)
    ∧ (last = false → t.clus = s.clus ∧ t.ctxs = s.ctxs)

/-- 15 R256, R267: RT.LD reads word j at S + j into the loop buffer, RT.GO starts a program at S unless one runs
there, RT.STOP stops it at S; a reserved bit of an operand raises the illegal-encoding fault, a context that does not hold
the router the privilege fault, and an S less than four counts ahead the timing fault.

15 R266, R268: an active router issues the three operations of its word, in slot order, and goes to TGT with one count less
when CTL is 1 and RCNT is not zero, else to the next entry; a word that does not decode stops the router and raises its
context's boundary fault. An idle router does nothing.

Where the rules leave a point to reading it rests on log entries 22 and 48. -/
def Obligations.RouterCommands : Prop :=
  (∀ (g : Guard) (a b off : Nat) (s : State), s.onceGuard g = true →
    let w := (s.sget b).toNat
    let e := (s.sget a).toNat
    let n := w / 2 ^ 6 % 2 ^ 7
    let S := startCount s off
    let ad := e % 2 ^ 32
    let clu := clusterOf (coreOf s.fr.x)
    let holds := s.priv = true ∨ (s.clu clu).holding = some (s.ctx s.fr.x).gang
    let lies := ∀ j, j < n → inUnion s ((s.clu clu).holding.getD (s.ctx s.fr.x).gang) clu ((ad % 2 ^ 18 + 16 * j) / 64) = true
    (holds → w < 2 ^ 13 → 1 ≤ n → n ≤ 64 → ad % 16 = 0 → ad / 2 ^ 30 = 1 → ad / 2 ^ 18 % 2 ^ 12 = 0 →
      (lies → (s.fr.t : Int) + 4 ≤ S → exec (.rtLd g a b off) s = .next ((List.range n).foldl (fun (u : State) j =>
        u.push (S.toNat + j) (.rtLoad ((w % 64 + j) % 64) ((Place.cluster clu).key (ad % 2 ^ 18 + 16 * j))) 1) s))
      ∧ (lies → S < s.fr.t + 4 → exec (.rtLd g a b off) s = .next (s.lateStart S))
      ∧ (¬ lies → exec (.rtLd g a b off) s = .next (s.berthBound 3 0 ad)))
    ∧ (holds → e < 2 ^ 6 → (s.fr.t : Int) + 4 ≤ S → programAt s s.myClu S.toNat (s.fr.t + 1) s.fr.hnd = false → s.tiles = [] →
      exec (.rtGo g a b off) s = .next ((s.push S.toNat (.rtGo e (w % 2 ^ 32)) 2).noteEff S.toNat))
    ∧ (holds → (s.fr.t : Int) + 4 ≤ S → exec (.rtStop g off) s = .next (s.push S.toNat .rtStop 0))
    ∧ (holds → S < s.fr.t + 4 → e < 2 ^ 6 → exec (.rtGo g a b off) s = .next (s.lateStart S) ∧ exec (.rtStop g off) s = .next (s.lateStart S))
    ∧ (¬ holds → exec (.rtStop g off) s = .next (s.privilege 0) ∧ (e < 2 ^ 6 → exec (.rtGo g a b off) s = .next (s.privilege 0)))
    ∧ (2 ^ 6 ≤ e → exec (.rtGo g a b off) s = .next s.illegal)
    ∧ (2 ^ 13 ≤ w ∨ n = 0 ∨ 64 < n → exec (.rtLd g a b off) s = .next s.illegal))
  ∧ (∀ (clu : Nat) (s : State),
    let r := (s.clu clu).router
    let u := s.now r.x r.hnd
    (r.active = false → exec (.routerWordIssue clu) s = .next s)
    ∧ (∀ a b c ctl tgt, r.active = true → s.soft = [] → decodeRouterWord (SMap.get 0 r.buf r.entry) = some (a, b, c, ctl, tgt) →
      wordFault s r.x r.iter [a, b, c] = none → ∃ (t : State) (fr : Frame), exec (.routerWordIssue clu) s = .next t
        ∧ t.staged = [.run ⟨a, fr⟩, .run ⟨b, { fr with slot := 1 }⟩, .run ⟨c, { fr with slot := 2 }⟩]
        ∧ fr = { x := r.x, hnd := r.hnd, t := u, addr := r.addr, bits := r.entry, cap := BitVec.ofNat 64 r.iter, rt := true }
        ∧ (t.clu clu).router = { r with
            entry := if ctl = 1 ∧ r.rcnt ≠ 0 then tgt else (r.entry + 1) % 64
            rcnt := if ctl = 1 ∧ r.rcnt ≠ 0 then r.rcnt - 1 else r.rcnt
            iter := if ctl = 1 ∧ r.rcnt ≠ 0 then (r.iter + 1) % 2 ^ 32 else r.iter
            next := u + 1
            endAt := max r.endAt u })
    ∧ (r.active = true → s.soft = [] → decodeRouterWord (SMap.get 0 r.buf r.entry) = none → ∃ (t : State) (f : PendFault), exec (.routerWordIssue clu) s = .next t
        ∧ ((t.clu clu).router).active = false ∧ t.faults = s.faults ++ [f] ∧ f.x = r.x ∧ f.code = 1 ∧ f.F = u + 1 ∧ f.bnd = true))

/-- 15 R264, R265: each router operation's result, by lanes, and its count: loads land after 4 or 6, arithmetic after 2 or 4,
moves and immediates after 1; stores perform after 2 or 6, and RFLG after every earlier store of the program.

15 R265, 08 R172: RPSH puts the granule into each target core's ring six counts after issue: the granule that opens a tile
claims it, and the last one publishes it as it performs. -/
def Obligations.RouterOperations : Prop :=
  (∀ (ty : RTy) (d a b x stp gr n imm mask : Nat) (s : State),
    let t := s.fr.t
    let G := (gr + s.fr.cap.toNat * stp) % 4096
    let clu := (Place.cluster (clusterOf (coreOf s.fr.x))).key (64 * G)
    let own := fun (i : Nat) => (Place.berth (coreOf ((coreOf s.fr.x / 4 * 4 + i) * 4 + s.fr.x % 4))).key (64 * G)
    let e := fun (w r j : Nat) => elemOf w (s.wget r) j
    let lanes := fun (i : Instr) (lat w : Nat) (f : Nat → Nat) => ∃ v, exec i s = .next (s.landW d lat v) ∧ HoldsElems w v f
    let int := fun (r j : Nat) => intVal true 32 (e 32 r j)
    exec .rnop s = .next s
    ∧ exec (.rld d stp gr) s = .next (s.loadW d 4 clu)
    ∧ exec (.rldc d x stp gr) s = .next (s.loadW d 6 (own x))
    ∧ lanes (.rldi d imm) 1 32 (fun _ => ofInt 32 (intVal true 16 imm))
    ∧ lanes (.radd .t0 d a b) 2 32 (fun j => fit true false 32 (int a j + int b j))
    ∧ lanes (.radd .t1 d a b) 2 32 (fun j => fit true true 32 (int a j + int b j))
    ∧ lanes (.radd .t2 d a b) 4 32 (fun j => (Fmt.f32.add .rn 0 (e 32 a j) (e 32 b j)).1 % 2 ^ 32)
    ∧ lanes (.radd .t3 d a b) 4 16 (fun j => (Fmt.bf16.add .rn 0 (e 16 a j) (e 16 b j)).1 % 2 ^ 16)
    ∧ lanes (.rmax .t0 d a b) 2 32 (fun j => ofInt 32 (max (int a j) (int b j)))
    ∧ lanes (.rmax .t1 d a b) 2 32 (fun j => max (e 32 a j) (e 32 b j))
    ∧ lanes (.rmax .t2 d a b) 2 32 (fun j => (Fmt.f32.minmax true (e 32 a j) (e 32 b j)).1 % 2 ^ 32)
    ∧ lanes (.rmax .t3 d a b) 2 16 (fun j => (Fmt.bf16.minmax true (e 16 a j) (e 16 b j)).1 % 2 ^ 16)
    ∧ lanes (.rmin .t0 d a b) 2 32 (fun j => ofInt 32 (min (int a j) (int b j)))
    ∧ lanes (.rmin .t1 d a b) 2 32 (fun j => min (e 32 a j) (e 32 b j))
    ∧ lanes (.rmin .t2 d a b) 2 32 (fun j => (Fmt.f32.minmax false (e 32 a j) (e 32 b j)).1 % 2 ^ 32)
    ∧ lanes (.rmin .t3 d a b) 2 16 (fun j => (Fmt.bf16.minmax false (e 16 a j) (e 16 b j)).1 % 2 ^ 16)
    ∧ (∃ v, exec (.rand d a b) s = .next (s.landW d 2 v) ∧ ∀ i, v.getLsbD i = ((s.wget a).getLsbD i && (s.wget b).getLsbD i))
    ∧ lanes (.rflt d a mask) 2 32 (fun j => if mask.testBit j then e 32 a j else 0)
    ∧ lanes (.rthr ty d a b) 2 32 (fun j => if passes ty (e 32 a j) (e 32 b j) then e 32 a j else 0)
    ∧ exec (.rmov d a) s = .next (s.landW d 1 (s.wget a))
    ∧ exec (.rst a stp gr) s = .next (s.storeW 2 clu 5 (s.wget a))
    ∧ exec (.rstc x a stp gr) s = .next (((List.range 4).filter x.testBit).foldl (fun (u : State) i =>
        u.storeW 6 (own i) (1 + coreOf u.fr.x) (u.wget a)) s)
    ∧ exec (.rflg n) s = .next ((s.push (max (t + 2) ((s.clu s.myClu).router.perfP + 1)) (.flag (.clu s.myClu) n true 1 false) 1).updRouter s.myClu
        fun r => { r with endAt := max r.endAt (max (t + 2) ((s.clu s.myClu).router.perfP + 1)) })
    ∧ exec .rhalt s = .next (s.updRouter s.myClu fun r => { r with active := false, endAt := max r.endAt t }))
  ∧ (∀ (c d a : Nat) (s : State), c < 4 →
    let y := (coreOf s.fr.x / 4 * 4 + c) * 4 + s.fr.x % 4
    let r := (s.ctx y).ring d
    let due := s.fr.t + 6
    r.gran = 0 → r.count + r.claims.length < r.depth + 1 →
    ∃ t, exec (.rpsh (2 ^ c) d a) s = .next t
      ∧ ((t.ctx y).ring d).claims = r.claims ++ [(r.clm, s.nextId, false)]
      ∧ ((t.ctx y).ring d).gran = (if r.size = 0 then 0 else 1)
      ∧ (∃ e ∈ t.pend, e.due = due ∧ e.act = .store ((Place.berth (coreOf y)).key (64 * (r.base + r.clm * (r.size + 1)))) 64 (s.wget a).toNat (allBytes 64))
      ∧ (r.size = 0 → ∃ e ∈ t.pend, e.due = due ∧ e.act = .publish y d s.nextId)
      ∧ t.mem = s.mem)

/-! ### A step, bundles and words (00 R7, 02 R21 to R45, 08 R158) -/

/-- 00 R7, 02 R21, R22: a step runs the meaning of the act at the front of the agenda, and, where that act is the issue of a
bundle, the meaning of each decoded slot after it in slot order, each with its own frame, until a slot ends the bundle. When
the bundle that a context fetches now holds one slot that decodes to a legal instruction i, the step is the issue followed
by exec of i; when nothing is left to do the next phase of the cycle comes. So it is where no parity has failed.

04 R85, 05 R91, 10 R231: a slot that reads a failed parity raises the cold-soft-error fault, which names what it read, and
lands nothing but its flags and its AMAX; what else it leaves pending is the pilot's error record.

Where the rules leave a point to reading it rests on log entries 5 and 9. -/
def Obligations.StepRunsTheDecodedInstruction : Prop :=
  (∀ (s : State), s.agenda = [] → step s = .next s.nextPhase)
  ∧ (∀ (s t : State) (a : Act) (r : List Act), s.agenda = a :: r →
      s.soft = [] → exec a.i { s with agenda := r, staged := [], fr := a.fr } = .next t → t.staged = [] → step s = .next t)
  ∧ (∀ (s t u : State) (x pc b n w : Nat) (fr : Frame) (r : List Act) (i : Instr), s.agenda = ⟨.bundleIssue x, fr⟩ :: r →
      s.Fetches x pc → s.Admits x pc b →
      n < 4 → bundleSlot b n = w → nullSlot w = false → (n = 0 → isHeader w = false) →
      (∀ m, m < 4 → m ≠ n → nullSlot (bundleSlot b m) = true ∨ (m = 0 ∧ isHeader (bundleSlot b m) = true ∧ fld (bundleSlot b m) 31 27 = 0)) →
      decodeSlot w (slotExt b n) (slotLent b n) = some i → i.legal = true →
      s.soft = [] → exec (.bundleIssue x) { s with agenda := r, staged := [], fr := fr } = .next t → t.soft = [] →
      exec i { t with staged := [], fr := { s.bundleFrame x pc with slot := n, bits := w } } = .next u → u.staged = [] → step s = .next u)
  ∧ (∀ (s t : State) (i : Instr) (rd : Rd) (snap : Bool), s.soft ≠ [] → i.slotWord ≠ none → State.routerUses i = [] → exec i s = .next t →
      s.softRead i = some (rd, snap) → ∃ u D, runChecked exec i s = .next u
      ∧ u.faults = addFault ⟨s.fr.x, s.fr.hnd, D + 1, s.fr.t, s.fr.re, s.fr.slot, s.fr.addr, 20,
          BitVec.ofNat 64 (rd.slice + rd.lane * 8 + rd.num % 32 * 2 ^ 7 + (if snap then 7 else rd.file) * 2 ^ 12), 0, false,
          s.fr.rbv, s.fr.rbp⟩ t.faults
      ∧ s.fr.t ≤ D ∧ ∀ e ∈ u.pend, (e.wall ≠ 0 ∧ ∃ k n v r, e.act = .poke k n v r)
        ∨ (e ∈ t.pend ∧ (e ∈ t.pend.take s.pend.length ∨ (∃ f, e.act = .flagsOr f) ∨ ∃ v n, e.act = .amax v n)))

/-- 02 R28, R34, R35, R42, 15 R264: words written out field by field from the encoding tables decode to the instructions they
stand for, those of the spec's own worked bundle among them, and reserved words decode to none. -/
def Obligations.WordsDecodeByTheTables : Prop :=
  decodeTableWord 32 0b00000_001000_00001_00010_00011_000000 = some (.add ⟨false, 0⟩ 1 2 3)
  ∧ decodeTableWord 32 0b10011_000001_00000_00000_00000000101 = some (.br ⟨true, 3⟩ 5)
  ∧ decodeTableWord 32 0b00000_000001_10000_00010_00000010001 = some (.set ⟨false, 0⟩ 2 17)
  ∧ decodeTableWord 32 0b00000_010000_00001_00010_00011_1_0011_0 = some (.vadd ⟨false, 0⟩ .i32 true 1 2 3)
  ∧ decodeTableWord 32 0b00000_100000_010_00011_00100_0010_0011 = some (.vcmp ⟨false, 0⟩ .i32 .lt 2 3 4)
  ∧ decodeTableWord 32 0b00000_101100_00001_00010_00011_01_000_0 = some (.dtx ⟨false, 0⟩ 1 1 2 3)
  ∧ decodeTableWord 32 0b00000_110000_00100_00101_0_1111111111 = some (.vld ⟨false, 0⟩ 4 5 (-1))
  ∧ decodeTableWord 32 0b00000_110111_00011_00000101_000000_00 = some (.xina ⟨false, 0⟩ 3 5)
  ∧ decodeTableWord 32 0b00000_111000_000_01000001_00000_00000 = some (.mcall ⟨false, 0⟩ 65)
  ∧ decodeTableWord 32 0b00000_111100_0000_00100_00101_0000111 = some (.ceLd ⟨false, 0⟩ 4 5 7)
  ∧ decodeTableWord 32 0x002E0000 = some (.rte ⟨false, 0⟩)
  ∧ decodeTableWord 32 0x002D0005 = some (.trap ⟨false, 0⟩ 5)
  ∧ decodeTableWord 32 0x07C10001 = some (.ctxs ⟨false, 0⟩ 1)
  ∧ (let b := 0x000000000386_3A0C_0682_F460_07E0_0001
     bundleSlot b 1 = 0x0682F460 ∧ slotExt b 1 = 1 ∧ decodeSlot (bundleSlot b 1) (slotExt b 1) (slotLent b 1) = some (.xin ⟨false, 0⟩ 2 1000 6)
     ∧ decodeSlot (bundleSlot b 2) (slotExt b 2) (slotLent b 2) = some (.fma ⟨false, 0⟩ .f32 .rn 6 7 8 6)
     ∧ nullSlot (bundleSlot b 3) = true ∧ isHeader (bundleSlot b 0) = true ∧ resourceOver b = 0)
  ∧ decodeTableWord 32 (0b000010 * 2 ^ 21) = none ∧ decodeTableWord 32 (0b001000 * 2 ^ 21 + 32) = none ∧ decodeTableWord 32 0 = none
  ∧ decodeRouterOp 0 (1 * 2 ^ 36 + 5 * 2 ^ 33 + 9 * 2 ^ 12 + 100) = some (.rld 5 9 100)
  ∧ decodeRouterOp 1 (1 * 2 ^ 36) = none
  ∧ (decodeTile (5 + 1 * 2 ^ 4 + 12 * 2 ^ 7 + 12 * 2 ^ 17 + 32 * 2 ^ 32 + 16 * 2 ^ 48)).isSome = true

/-- 02 R26 to R28, R34, R35, R42, R44, 15 R264: every well-formed instruction with a word is the one that the decoder reads
from it: a slot word with its extension (lent by a header where the instruction needs one), a router operation in its slot,
a tile word. The words fit their widths, and no slot word is a null slot or a header. -/
def Obligations.EveryEncodingDecodesBack : Prop :=
  (∀ (i : Instr) (w e : Nat), i.WellFormed → i.slotWord = some (w, e) →
    decodeSlot w (if i.needsHeader then e else 0) i.needsHeader = some i ∧ w < 2 ^ 32 ∧ e < 2 ^ 7 ∧ nullSlot w = false ∧ isHeader w = false)
  ∧ (∀ (i : Instr) (w : Nat), i.WellFormed → i.routerOp = some w → w < 2 ^ 40 ∧ ∃ n, n < 3 ∧ decodeRouterOp n w = some i)
  ∧ (∀ (i : Instr) (w : Nat), i.WellFormed → i.tileBits = some w → w < 2 ^ 256 ∧ decodeTile w = some i)

/-- 08 R158, 02 R38 to R40, 07 R152: a context whose program fetches now issues the bundle at its address: PC goes on to the next
bundle, transfers that have fallen due are done with, the slots that are not null are staged in order, a slot with an
illegal encoding as such, and the meter is debited; no register, other context or fault changes, and where no job is traced
nothing in memory or pending. A bundle
outside the bundle-store allotment raises the privilege fault with reason 1, one over a resource limit the
bundle-resource fault and stages nothing, and one that the meter does not admit asks a gang on one core to freeze at its
count.

Where the rules leave a point to reading it rests on log entries 5 and 40. -/
def Obligations.BundlesIssue : Prop :=
  ∀ (s : State) (x pc b : Nat), s.Fetches x pc →
    let c := s.ctx x
    let u := s.now x false
    let g := s.gangOf x
    let fr := s.bundleFrame x pc
    let C := s.bundleCharge x pc b
    (s.Admits x pc b → ∃ t, exec (.bundleIssue x) s = .next t ∧ t.staged = stageSlots fr b 0 ∧ (t.ctx x).pc = pc + 1
      ∧ (t.ctx x).xfers = c.xfers.filter (fun e => u < e.1) ∧ (t.ctx x).regs = c.regs ∧ (∀ y, y ≠ x → t.ctx y = s.ctx y)
      ∧ t.faults = s.faults ∧ t.cores = s.cores ∧ t.clus = s.clus
      ∧ (g.dock = false → C ≤ g.bal → (t.gangOf x).bal + C = g.bal ∧ (t.gangOf x).deficit = g.deficit - 1)
      ∧ (s.mod.traces = [] → t.mem = s.mem ∧ t.pend = s.pend))
    ∧ (c.bundleIn pc = false → ∃ t, exec (.bundleIssue x) s = .next t ∧ t.staged = [] ∧ t.ctxs = s.ctxs
      ∧ t.faults = addFault ⟨x, false, u, u, false, 0, pc, 3, 1, 0, false, fr.rbv, fr.rbp⟩ s.faults)
    ∧ (c.bundleIn pc = true → hitBreak c pc = none → s.bundleAt (coreOf x) pc = b → resourceOver b ≠ 0 →
      ∃ t, exec (.bundleIssue x) s = .next t ∧ t.staged = [] ∧ t.ctxs = s.ctxs
      ∧ t.faults = addFault ⟨x, false, u, u, false, 0, pc, 2, BitVec.ofNat 64 (resourceOver b), 0, false, fr.rbv, fr.rbp⟩ s.faults)
    ∧ (c.bundleIn pc = true → hitBreak c pc = none → s.bundleAt (coreOf x) pc = b → resourceOver b = 0 → g.oneCore = true →
      g.admits c.hlmthr.toNat C = false →
      ∃ t, exec (.bundleIssue x) s = .next t ∧ t.ctxs = s.ctxs ∧ t.staged = s.staged ∧ (t.gangOf x).reqs = g.reqs ++ [⟨u, .meter x C⟩])
    ∧ ∀ n, n < 4 → stageSlot fr b n = (let w := bundleSlot b n
        if nullSlot w || (n == 0 && isHeader w && fld w 31 27 == 0) then none
        else match decodeSlot w (slotExt b n) (slotLent b n) with
          | some i => some (if i.legal then .run ⟨i, { fr with slot := n, bits := w }⟩ else .bad { fr with slot := n, bits := w })
          | none => some (.bad { fr with slot := n, bits := w }))

/-- Every step keeps the canonical form of memory: keys strictly rise, and no entry equals what an unlisted byte reads as, so
that equal memories are equal data (log 1). -/
def Obligations.StepKeepsMemoryCanonical : Prop :=
  ∀ (s t : State), s.Canonical → step s = .next t → t.Canonical

/-- 00 R7, 07 R140 to R144, 15 R253, 21 R348 to R350: after module reset nothing is listed in memory, which is canonical; no
context is resident and no gang lives; every register reads zero but p0, which reads ones, and YDL, which holds ones; the
module is in WARM with DOCK 0, no firmware bank is loaded, every domain is OFF and every link DOWN. The values that the
spec leaves open are those of log 1 to 3. -/
def Obligations.ResetState : Prop :=
  let s := State.reset
  s.Canonical ∧ (∀ k, s.mem.read k = 0) ∧ s.tide = 0 ∧ s.pend = [] ∧ s.faults = [] ∧ s.tiles = []
  ∧ (∀ x, s.ctx x = {} ∧ (s.ctx x).resident = false ∧ (s.ctx x).psw = 0 ∧ (s.ctx x).ydl = BitVec.allOnes 64)
  ∧ (∀ x n k, (s.ctx x).regs.read (.s n) = 0 ∧ (s.ctx x).regs.read (.v n k) = 0 ∧ (s.ctx x).regs.read (.p 0 k) = 0xFFFF
      ∧ (s.ctx x).regs.read (.p (n + 1) k) = 0 ∧ (s.ctx x).regs.read (.m n) = 0)
  ∧ (∀ g, (s.gang g).live = false) ∧ (∀ c, (s.core c).flags = 0 ∧ (s.clu c).flags = 0 ∧ (s.clu c).router.active = false) ∧ s.mod.flags = 0
  ∧ s.mode = 0 ∧ s.docked = false ∧ s.mod.bank = none ∧ (∀ d, (s.domain d).st = 0) ∧ (∀ l, (s.link l).st = 0)

/-! ### Taking a fault, freezing and resuming (10 R218 to R229, 07 R153) -/

/-- 10 R221, R223, R225: of a context's faults that are due the one with the least F is taken, of equal ones the one with the
lowest issue count and then the lowest slot. With a handler FCAUSE names the bundle, slot, code and the issue count from
the anchor, FINFO and FBND are the fault's, TH is set, SR holds the slot (0 for a boundary fault), the gang freezes at its
count, and the first handler bundle is due at the handler entry two cycles after T_F (4,096 on dock cores). With none on a gang
of one core the context is marked faulted and the gang freezes for the slack wave; a context of a wider gang issues no more, and
its gang is to freeze SKB counts after F; a fault in handler mode sets NEST and ends the handler.

Where the rules leave a point to reading it rests on log entries 23 and 33. -/
def Obligations.FaultsAreTaken : Prop :=
  ∀ (s : State) (x : Nat) (f : PendFault), s.dueFault x = some f →
    let g := s.gangOf x
    let code := fun (t : State) (nest : Bool) (n : Int) =>
      let w := (t.ctx x).fcause.toNat
      w / 2 ^ 53 = f.addr ∧ w / 2 ^ 51 % 4 = f.slot ∧ w.testBit 50 = f.bnd ∧ w.testBit 49 = nest ∧ w / 2 ^ 32 % 256 = f.code
        ∧ (w % 2 ^ 32 : Int) = n % 2 ^ 32
    let small := f.addr < 2048 ∧ f.slot < 4 ∧ f.code < 256
    (f ∈ s.faults ∧ f.x = x ∧ ∀ e ∈ s.faults, e.x = x → e.hnd = f.hnd → e.before f = false)
    ∧ (small → handlerTakes s f = true → ∃ t h, exec (.faultTaken x) s = .next t
      ∧ code t false ((f.t : Int) - g.anchor) ∧ (t.ctx x).finfo = f.finfo ∧ (t.ctx x).fbnd = f.fbnd
      ∧ (t.ctx x).psw.getLsbD 3 = true ∧ (t.ctx x).psw.toNat % 4 = (if f.bnd then 0 else f.slot)
      ∧ (t.ctx x).pc = (s.ctx x).hent.getD 0 ∧ (t.ctx x).xfers = []
      ∧ (t.ctx x).handler = some h ∧ h.cnt = 0 ∧ h.live = true ∧ h.start = s.tide - s.tide % g.pace + (if g.dock then 4096 else 2)
      ∧ (t.gangOf x).run = .frozen ∧ (t.gangOf x).F = g.sch ∧ (t.gangOf x).TF = s.tide - s.tide % g.pace)
    ∧ (small → handlerTakes s f = false → f.hnd = false → g.oneCore = true → (s.ctx x).wave = none → ∃ t, exec (.faultTaken x) s = .next t
      ∧ code t false ((f.t : Int) - g.anchor) ∧ (t.ctx x).finfo = f.finfo ∧ (t.ctx x).fbnd = f.fbnd ∧ (t.ctx x).faulted = true
      ∧ (t.ctx x).psw.toNat % 4 = (if f.bnd then 0 else f.slot) ∧ (t.gangOf x).run = .frozen ∧ (t.gangOf x).F = g.sch ∧ .slack ∈ (t.gangOf x).left)
    ∧ (f.hnd = false → g.oneCore = false → ∃ t, exec (.faultTaken x) s = .next t ∧ (t.ctx x).faulted = true ∧ (t.ctx x).noIssue = true
      ∧ (t.ctx x).finfo = f.finfo ∧ (t.gangOf x).run = .running ∧ ⟨f.F + g.skb, .slack⟩ ∈ (t.gangOf x).reqs)
    ∧ (small → f.hnd = true → (s.ctx x).wave = none → ∃ t, exec (.faultTaken x) s = .next t ∧ code t true f.t ∧ (t.ctx x).finfo = f.finfo
      ∧ (t.ctx x).faulted = true ∧ ∀ h, (t.ctx x).handler = some h → h.live = false)

/-- 10 R222, 07 R152: of the bundle that a fault stops, nothing from the fault's slot on lands or performs later but its AMAX, and
what it has written comes back: registers, bytes, draws and freeze requests among it; effects of every other slot, and those of router
operations, stay pending, and a boundary fault cancels nothing. 10 R229: an expiry sets HUNG and raises the watchdog fault at the
next bundle boundary; during a save it sets INSAVE too, and the fault, which no handler takes, has 1 in FINFO.

Where the rules leave a point to reading it rests on log entry 38. -/
def Obligations.FaultsCancelTheirSlots : Prop :=
  ∀ (s : State) (f : PendFault),
    (∀ e ∈ (s.cancel f).pend, (∀ v n, e.act ≠ .amax v n) → f.cancels e.fr.who e.fr.hnd e.fr.ord = false)
    ∧ (∀ e ∈ s.pend, f.cancels e.fr.who e.fr.hnd e.fr.ord = false → e ∈ (s.cancel f).pend)
    ∧ (∀ e ∈ s.pend, f.x < 4096 → e.fr.rt = true → e ∈ (s.cancel f).pend)
    ∧ (∀ e ∈ (s.cancel f).flight, f.cancels e.x e.hnd e.act.fr.ord = false)
    ∧ (f.bnd = true → (s.cancel f).pend = s.pend ∧ (s.cancel f).flight = s.flight ∧ (s.cancel f).mem = s.mem ∧ (s.cancel f).undo = s.undo
      ∧ (s.cancel f).faults = s.faults)
    ∧ (∀ x hnd ord y n k old mask land, s.undo = [⟨x, hnd, ord, .reg y (.v n k) old mask, land⟩] → f.cancels x hnd ord = true →
      ((s.cancel f).ctx y).regs.read (.v n k) = ((s.ctx y).regs.read (.v n k) &&& ~~~mask) ||| (old &&& mask))
    ∧ (∀ x hnd ord key n old land, s.undo = [⟨x, hnd, ord, .mem key n old (allBytes n), land⟩] → f.cancels x hnd ord = true →
      ∀ k, (s.cancel f).mem.read k = if key ≤ k ∧ k < key + n then BitVec.ofNat 8 (old / 256 ^ (k - key)) else s.mem.read k)
    ∧ (∀ x hnd ord g F why land, s.undo = [⟨x, hnd, ord, .asked g F why, land⟩] → f.cancels x hnd ord = true →
      ⟨F, why⟩ ∉ ((s.cancel f).gang g).reqs)
    ∧ (∀ x hnd ord k n mask land, s.undo = [⟨x, hnd, ord, .draw k n mask, land⟩] → f.cancels x hnd ord = true →
      ((s.cancel f).ctx x).regs.read (.gen k) = undrawn n ((s.ctx x).regs.read (.gen k)) mask)
    ∧ ∀ x, let c := s.ctx x
      let u := s.now x c.handler.isSome
      (c.saving = false → ∃ t e, exec (.watchdogExpiry x) s = .next t ∧ (t.ctx x).wdog = c.wdog ||| BitVec.ofNat 64 (2 ^ 63)
        ∧ t.faults = s.faults ++ [e] ∧ e.x = x ∧ e.code = 18 ∧ e.F = u + 1 ∧ e.bnd = true ∧ e.addr = c.lastA ∧ e.finfo = 0 ∧ t.mem = s.mem)
      ∧ (c.saving = true → c.wave = none → (s.gangOf x).run = .frozen → ∃ t, exec (.watchdogExpiry x) s = .next t ∧ t.faults = s.faults
        ∧ (t.ctx x).wdog = c.wdog ||| BitVec.ofNat 64 (2 ^ 63) ||| BitVec.ofNat 64 (2 ^ 62) ∧ (t.ctx x).saving = true ∧ (t.ctx x).faulted = true
        ∧ (t.ctx x).fcause.toNat / 2 ^ 32 % 256 = 18 ∧ (t.ctx x).finfo = 1)

/-- 07 R153, R154, 08 R181, R182, 20 R342, R343: a gang freezes at the count it has reached with the least pending freeze point: SCH
holds, the requests of that point are served, the anchor moves there for a WAIT, and what its members landed at that count is
held; a fence whose accesses have all performed by then asks nothing. A pre-emption freezes a holder one cycle before the waiter's
G, and makes one that has frozen by itself a waiter. A gang resumes at its G, neither before it nor without one, with every
member's core slot taken and YDL back at all ones. G is the least TIDE above a bound at which G - T_F is a positive multiple of
4,096 counts.

Where the rules leave a point to reading it rests on log entries 16, 17, 18 and 28. -/
def Obligations.GangsFreezeAndResume : Prop :=
  ∀ (s : State),
    let gi := s.fr.id
    let g := s.gang gi
    let served := fun (r : FreezeReq) => r ∈ g.reqs ∧ r.F ≤ g.sch
    let stands := fun (r : FreezeReq) => ∀ x ids, r.why = .fence x ids → ∃ n ∈ ids, n ∈ (s.ctx x).nonstatic
    (s.fr.slot ≠ 1 → g.run = .running → g.heir ≠ some gi → (∃ r, served r ∧ stands r) → ∃ t, exec .gangFreeze s = .next t
      ∧ (t.gang gi).run = .frozen ∧ (t.gang gi).F = g.sch ∧ (t.gang gi).sch = g.sch ∧ (t.gang gi).TF = s.tide - s.tide % g.pace
      ∧ (t.gang gi).reqs = g.reqs.filter (fun r => g.sch < r.F) ∧ (t.gang gi).G = none
      ∧ ((∃ r f n x a T u p, served r ∧ r.why = .wait f n x a u T p) → (t.gang gi).anchor = g.sch)
      ∧ ((∀ r f n x a T u p, served r → r.why ≠ .wait f n x a u T p) → (t.gang gi).anchor = g.anchor)
      ∧ (s.phase ≠ .perform → t.mem = s.mem ∧ (s.mod.traces = [] → t.pend = s.pend ∧ t.mod = s.mod))
      ∧ (s.phase = .perform → ∀ n ∈ s.landed, n.eff.fr.x ∈ g.members → n.eff ∈ t.pend))
    ∧ (s.fr.slot ≠ 1 → (∀ r ∈ g.reqs, g.sch < r.F) → exec .gangFreeze s = .next s)
    ∧ (s.fr.slot = 1 → g.heir = some s.fr.addr → s.fr.addr ≠ gi → g.dock = false → (s.gang s.fr.addr).G = some (s.tide + 1) →
      g.run = .running ∨ g.run = .frozen →
      ∃ t, exec .gangFreeze s = .next t ∧ (t.gang gi).run = .frozen ∧ .slot ∈ (t.gang gi).left ∧ (g.run = .running → (t.gang gi).F = g.sch)
        ∧ (t.gang gi).deficit = (if g.grace = 0 then g.deficit else g.deficit - 4096 * g.members.length))
    ∧ (∀ G, g.run = .frozen → g.G = some G → G ≤ s.tide → ∃ t, exec .gangResume s = .next t
      ∧ (t.gang gi).run = .running ∧ (t.gang gi).left = [] ∧ (t.gang gi).G = none ∧ (t.gang gi).sch = g.sch ∧ (t.gang gi).anchor = g.anchor
      ∧ t.mem = s.mem
      ∧ ∀ x ∈ g.members, (t.ctx x).ydl = BitVec.allOnes 64 ∧ ∃ i, (t.core (s.slotKey x)).holder = some i
        ∧ ∃ y ∈ g.members, s.slotKey y = s.slotKey x
          ∧ (i = y % 4 ∨ ((s.ctx (4 * coreOf y + i)).resident = true ∧ (s.ctx (4 * coreOf y + i)).gang = gi)))
    ∧ (g.G = none ∨ (∃ G, g.G = some G ∧ s.tide < G) → exec .gangResume s = .next s)
    ∧ ∀ pace TF n, 0 < pace → let G := State.leastG pace TF n
      n < G ∧ TF < G ∧ (G - TF) % (4096 * pace) = 0 ∧ ∀ k, 0 < k → n < TF + k * (4096 * pace) → G ≤ TF + k * (4096 * pace)

/-! ### Tile words (08 R185, 09 R211 to R215) -/

/-- 08 R185, 09 R213, R214: a tile word of each operation that reaches its port is accepted: it takes a number of its own and
acts for the issuing context, from four counts after the issue of the TISS that read it when its level is below 4, else from the
count in hand. With nothing before it that holds it, it starts at once, else it waits; a TFEN waits for every word accepted before
it at the port, and every word for a TFEN before it. A TFEN and a word without elements end at the count in hand. Acceptance changes no
byte, no register and no gang; a word below level 3 and above it changes no context, but a TFIL that finds its fill value bad.

A word or child that ends has its count recorded, with the flags that another module has sent back where it ran there (22 R373); a word
that no other has made merges its flags into PSW when it has not failed. -/
def Obligations.TileWordsAreAccepted : Prop :=
  (∀ (w : TileWord) (s : State), (∀ e ∈ s.tiles, e.id < s.nextId) →
    let all := fun (P : Nat → Instr → Prop) => P 0 (.tmul w) ∧ P 1 (.tmuls w) ∧ P 2 (.tadd w) ∧ P 3 (.tscl w) ∧ P 4 (.tred w) ∧ P 5 (.tcpy w)
      ∧ P 6 (.txps w) ∧ P 7 (.tdig w) ∧ P 8 (.tfil w) ∧ P 9 (.tfen w)
    let issue := if w.lvl < 4 ∧ s.fr.slice = 0 then s.fr.t + 4 else s.now s.fr.x s.fr.hnd
    all fun op i => ∃ t j, exec i s = .next t ∧ t.tileJob s.nextId = some j ∧ s.nextId < t.nextId
      ∧ j.op = op ∧ j.w = w ∧ j.lvl = w.lvl ∧ j.y = s.fr.x ∧ j.core = coreOf s.fr.x ∧ j.parent = none ∧ j.done = none
      ∧ t.mem = s.mem ∧ t.clus = s.clus ∧ t.gangs = s.gangs ∧ (w.lvl ≠ 3 → op ≠ 8 ∨ s.Clean → t.ctxs = s.ctxs)
      ∧ (∀ y, (t.ctx y).regs = (s.ctx y).regs ∧ (t.ctx y).psw = (s.ctx y).psw)
      ∧ (s.Clean → ∀ e ∈ s.tiles, e ∈ t.tiles)
      ∧ (j.run = true ↔ ∀ e ∈ s.tiles, samePort e j = true → e.done = none → op ≠ 9 ∧ e.op ≠ 9)
      ∧ (j.run = false → j.start = issue) ∧ (j.run = true → j.start = max issue (s.now s.fr.x s.fr.hnd))
      ∧ (j.run = true → (op = 9 ∨ w.tm = 0 ∨ w.tn = 0 ∨ w.tk = 0) → ∃ e ∈ t.flight, e.due = s.now s.fr.x s.fr.hnd ∧ e.act.i = .tileChildEnd
          ∧ e.act.fr.id = s.nextId))
  ∧ (∀ (s : State), ∃ t, exec .tileChildEnd s = .next t ∧ t.mem = s.mem ∧ t.gangs = s.gangs
      ∧ ∀ c, s.Clean → s.tileJob s.fr.id = some c → c.done = none → c.parent = none → ∃ d, t.tileJob s.fr.id = some d
        ∧ d.done = some (s.now c.fr.x c.fr.hnd)
        ∧ (∀ y, (t.ctx y).regs = (s.ctx y).regs ∧ (y ≠ c.y → (t.ctx y).psw = (s.ctx y).psw))
        ∧ (t.ctx c.y).psw = (if c.failed = none then (s.ctx c.y).psw
          ||| BitVec.ofNat 64 ((if s.fr.slot = 3 then s.fr.t % 64 else c.flags) * 16) else (s.ctx c.y).psw))

/-! ### Queues, launches and tasks (08 R163, R184, 20 R326 to R346) -/

/-- 20 R328, R332, R335 to R339, 08 R184: a QTAIL write that keeps the ring's bounds releases its packets, and another is refused.
A device launch that reaches the pilot joins its queue. A packet taken up whose job is done at once leaves its queue: an
EVENT sets its module flag, a FENCE waits for nothing more. A TABLE puts its entries next, in table order, with BASE and offset as
TICK. A TILE packet hands its word to the port of the context it names, if its queue owns that gang, and its end completes the
packet. A completion record holds STATUS, CAUSE, TAG, JOB, TIDE, the launch clock and SCH when its write has performed.

Where the rules leave a point to reading it rests on log entries 51, 54, 84 and 85. -/
def Obligations.PacketsAreServed : Prop :=
  (∀ (s : State) (q v : Nat), v < 2 ^ 32 →
    let k := s.queue q
    let used := (k.qtail + 2 ^ 32 - k.qhead) % 2 ^ 32
    let ahead := (v + 2 ^ 32 - k.qhead) % 2 ^ 32
    let ok := k.qcfg.getLsbD 8 = true ∧ used ≤ ahead ∧ ahead ≤ 2 ^ (k.qcfg.toNat % 16)
    (ok → ∃ t, exec (.qtailWrite q v) s = .next t ∧ (t.queue q).qtail = v ∧ (t.queue q).qhead = k.qhead
      ∧ (t.queue q).items.length = k.items.length + (v + 2 ^ 32 - k.qtail) % 2 ^ 32 ∧ (t.queue q).items.take k.items.length = k.items
      ∧ t.mem = s.mem ∧ t.ctxs = s.ctxs)
    ∧ (¬ ok → ∃ t, exec (.qtailWrite q v) s = .next t ∧ t.queue q = k ∧ t.ctxs = s.ctxs ∧ t.gangs = s.gangs))
  ∧ (∀ (s : State) (id : Nat) (m : Msg), (s.mod.msgs.find? fun e => e.id == id && e.kind == .launch) = some m →
      let q := (s.gangOf m.x).queue
      let k := s.queue q
      let e : QItem := { seq := k.nextSeq, data := m.data, owner := (s.ctx m.x).owner }
      ∃ t, exec (.deviceLaunch id) s = .next t ∧ (t.queue q).items = (if s.streams q then k.items else k.items ++ [e])
        ∧ (t.queue q).dev = (if s.streams q then k.dev ++ [e] else k.dev)
        ∧ (∀ e ∈ t.mod.msgs, e.id ≠ id) ∧ t.mem = s.mem ∧ t.ctxs = s.ctxs)
  ∧ (∀ (s u : State) (it : QItem) (p : Nat), takeUp s s.fr.id = some (it, p, u) →
      let q := s.fr.id
      let seq := it.seq
      let gone := fun (t : State) => ∀ e ∈ (t.queue q).tasks, e.seq ≠ seq
      let proc := u.owner q
      let tbl := p / 2 ^ 64 % 2 ^ 64
      let n := p / 2 ^ 128 % 2 ^ 12 + 1
      let raw := p / 2 ^ 64 % 2 ^ 256
      let x := p / 2 ^ 320 % 2 ^ 16
      let f := p / 2 ^ 64 % 64
      (p / 2 ^ 9 % 2 ^ 7 = 0 → ∃ t, exec .eventPacket s = .next t ∧ gone t ∧ t.ctxs = s.ctxs ∧ t.gangs = s.gangs
        ∧ (s.phase = .manage → t.mod.flags.getLsbD f = true)
        ∧ (s.phase ≠ .manage → t.mod.flags = s.mod.flags ∧ ∃ e ∈ t.pend, e.wall = s.tide + 1 ∧ ∃ k, e.act = .flagIn .mod f k))
      ∧ (p / 2 ^ 9 % 2 ^ 7 = 0 → ∃ t, exec .fencePacket s = .next t ∧ gone t ∧ t.mod.flags = s.mod.flags ∧ t.ctxs = s.ctxs ∧ t.gangs = s.gangs)
      ∧ (p / 2 ^ 9 % 2 ^ 7 = 0 → tbl % 16 = 0 → u.mapped proc tbl = true →
        ∃ t, exec .table s = .next t ∧ t.ctxs = s.ctxs ∧ t.gangs = s.gangs ∧ t.mem = s.mem ∧ (t.queue q).tasks = (u.queue q).tasks
        ∧ (t.queue q).items = (List.range n).map (fun e =>
            let w := u.readVirt proc (tbl + 16 * e) 16
            { seq := seq, data := withTick (u.readVirt proc (w % 2 ^ 64) 64) (p / 2 ^ 192 % 2 ^ 64 + w / 2 ^ 64 % 2 ^ 64), tbl := some seq })
            ++ (u.queue q).items)
      ∧ (s.fr.slot ≠ 1 → s.fr.slot ≠ 2 → p / 2 ^ 9 % 2 ^ 7 = 0 → (s.ctx x).resident = true → (s.gangOf x).job = p / 2 ^ 32 % 2 ^ 32 →
        (ownsGang u q (u.gangOf x) = true → 2 ≤ raw / 2 ^ 4 % 8 → packetWord u x raw = true → ∀ i, decodeTile raw = some i →
          ∃ (t : State) (fr : Frame), exec .tilePacket s = .next t ∧ t.agenda = s.agenda ++ [⟨i, fr⟩]
            ∧ fr.x = x ∧ fr.t = (s.gangOf x).sch ∧ fr.id = q ∧ fr.addr = seq ∧ t.mem = s.mem ∧ t.ctxs = s.ctxs)
        ∧ (ownsGang u q (u.gangOf x) = false → exec .tilePacket s = .next (u.finishPacket q seq 1 8 0))
        ∧ (ownsGang u q (u.gangOf x) = true → raw / 2 ^ 4 % 8 < 2 ∨ packetWord u x raw = false →
          exec .tilePacket s = .next (u.finishPacket q seq 1 1 0))))
  ∧ (∀ (s : State), s.fr.slot = 1 → s.fr.id < 256 →
      ∃ t, exec .tilePacket s = .next t ∧ (∀ e ∈ (t.queue s.fr.id).tasks, e.seq ≠ s.fr.addr) ∧ t.ctxs = s.ctxs)
  ∧ ∀ (s : State) (proc va job tag status cause sch k : Nat), va ≠ 0 → s.virtKey proc va = some k → s.Clean → status < 256 → cause < 256 →
      tag < 2 ^ 16 → job < 2 ^ 32 → s.tide < 2 ^ 64 → s.clock < 2 ^ 64 → sch < 2 ^ 64 →
      ∃ t e, s.completion proc va job tag status cause sch = t ∧ t.pend = s.pend ++ [e] ∧ t.mem = s.mem ∧ t.ctxs = s.ctxs ∧ t.gangs = s.gangs
        ∧ e.wall = s.tide + 1 ∧
      let m := (s.perform e).mem
      m.readN k 1 = status ∧ m.readN (k + 1) 1 = cause ∧ m.readN (k + 2) 2 = tag ∧ m.readN (k + 4) 4 = job
        ∧ m.readN (k + 8) 8 = s.tide ∧ m.readN (k + 16) 8 = s.clock ∧ m.readN (k + 24) 8 = sch
        ∧ ∀ a, a < k ∨ k + 32 ≤ a → m.read a = s.mem.read a

/-- 20 R330 to R336, R339, 07 R140, R145, 08 R163, 18 R303: a LAUNCH whose checks pass makes a gang with its job, tag, cores and
contexts: each member starts at its allotment's first bundle with the packet's threshold, watchdog, handler entry and
seed; a start TIDE is chosen once every earlier task of its queue has one, and a gang of several modules reports that it is ready. One
that a check rejects makes nothing. At its start TIDE count 0 is due with the anchor at 0 when its slots are free, and else the gang
starts frozen for want of them. Staged pages are copied, and end their wait. A task whose members have all ended and have nothing left
to come completes: its gang and its contexts are given back. A gang that is hung, or whose fault no handler took, is to end with STATUS 3
or 2 when the pilot says so, and ends when the accesses that it has begun are over (19 R322).

Where the rules leave a point to reading it rests on log entries 19, 20, 30, 51, 82, 83 and 100. -/
def Obligations.GangsLaunchAndComplete : Prop :=
  (∀ (s u : State) (it : QItem) (p : Nat), takeUp s s.fr.id = some (it, p, u) →
    let q := s.fr.id
    let l := launchOf p
    let o := if it.tbl.isSome || it.idx.isSome then none else some it.owner
    (∀ pl, checkLaunch u q o p = .inr pl → ∃ t gi, exec .launchPacket s = .next t
      ∧ (t.gang gi).live = true ∧ (t.gang gi).run = .waiting ∧ (t.gang gi).job = l.job ∧ (t.gang gi).tag = l.tag ∧ (t.gang gi).queue = q
      ∧ (t.gang gi).members = l.members ∧ (t.gang gi).share = l.share ∧ (t.gang gi).window = pl.window
      ∧ (l.nmod = 0 → (∀ e ∈ s.gangs, e.2.live = true → e.2.queue = q → e.2.start.isSome = true) →
        ∃ S, (t.gang gi).start = some S ∧ s.tide < S ∧ (u.queue q).lastS ≤ S ∧ ⟨S, ⟨.gangStart, { id := gi }⟩⟩ ∈ t.timed)
      ∧ (l.nmod ≠ 0 → (t.gang gi).start = none ∧ (t.gang gi).ready = true
        ∧ ∃ T, s.tide < T ∧ ⟨T, ⟨.gangReadyReport (l.job * 256 + l.gidx) s.modNum [], {}⟩⟩ ∈ t.timed)
      ∧ ∀ e ∈ pl.places, (t.ctx e.1).resident = true ∧ (t.ctx e.1).gang = gi ∧ (t.ctx e.1).pc = 64 * e.2.1.bb ∧ (t.ctx e.1).allot = e.2.1.allot
          ∧ (t.ctx e.1).hlmthr = BitVec.ofNat 64 l.hthr ∧ (t.ctx e.1).wdog = BitVec.ofNat 64 l.wlim ∧ (t.ctx e.1).hent = l.hent
          ∧ (t.ctx e.1).seed = BitVec.ofNat 64 l.seed ∧ (t.ctx e.1).cbLen = 1024 * e.2.1.cbk
          ∧ (∀ n, (t.ctx e.1).regs.read (.s n) = 0) ∧ (t.ctx e.1).psw.toNat % 16 = 0 ∧ (t.ctx e.1).psw.getLsbD 10 = pl.d.compat)
    ∧ (∀ cause, checkLaunch u q o p = .inl cause → ∃ t, exec .launchPacket s = .next t ∧ t.gangs = s.gangs ∧ t.ctxs = s.ctxs
      ∧ (it.tbl = none → ∀ e ∈ (t.queue q).tasks, e.seq ≠ it.seq)))
  ∧ (∀ (s : State),
      let gi := s.fr.id
      let g := s.gang gi
      (s.fr.slot ≠ 1 → s.phase = .land → g.live = true → g.run = .waiting → g.staged = true → g.dock = false → (s.slackOf g.job).st = 0 →
        s.holds gi .ratio = true → s.runsAt g s.tide = true →
        (s.slotsFree gi = true → ∃ t, exec .gangStart s = .next t ∧ (t.gang gi).run = .running ∧ (t.gang gi).sch = 0 ∧ (t.gang gi).anchor = 0
          ∧ (t.gang gi).start = some s.tide ∧ (∀ x ∈ g.members, (t.core (s.slotKey x)).holder.isSome = true) ∧ t.ctxs = s.ctxs)
        ∧ (s.slotsFree gi = false → (∀ r ∈ g.reqs, 0 < r.F) → ∃ t, exec .gangStart s = .next t ∧ (t.gang gi).run = .frozen ∧ (t.gang gi).left = [.slot]
          ∧ (t.gang gi).F = 0 ∧ (t.gang gi).TF = s.tide ∧ t.cores = s.cores))
      ∧ (g.live = true → ∃ t, exec .stagingComplete s = .next t ∧ (t.gang gi) = { g with staged := true } ∧ t.ctxs = s.ctxs
        ∧ (g.pages = [] → t.mem = s.mem)
        ∧ (∀ to_ from_ w a b, g.pages = [(to_, from_, w)] → physKey (from_ * 2 ^ 16) = some a → physKey (to_ * 2 ^ 16) = some b → s.Clean →
          t.mem = s.mem.writeN b (2 ^ 16) (s.mem.readN a (2 ^ 16)) (allBytes (2 ^ 16))))
      ∧ (s.fr.slot ≠ 1 → s.fr.slot ≠ 2 → s.taskDone gi = true → ∃ t, exec .taskComplete s = .next t ∧ (t.gang gi).live = false ∧ (∀ x ∈ g.members, t.ctx x = {})
        ∧ ((∀ e ∈ g.pages, e.2.2 = false) → t.mem = s.mem))
      ∧ (s.fr.slot = 1 → g.live = true → g.run ≠ .running → g.ending = none →
        ((∃ x ∈ g.members, (s.ctx x).wdog.getLsbD 63 = true) → exec .taskComplete s = .next (s.endLater gi 3 18))
        ∧ (∀ x, (∀ y ∈ g.members, (s.ctx y).wdog.getLsbD 63 = false) → g.members = [x] → (s.ctx x).faulted = true →
          exec .taskComplete s = .next (s.endLater gi 2 ((s.ctx x).fcause.toNat / 2 ^ 32 % 256))))
      ∧ (∀ status cause, g.run ≠ .running → let t := s.endLater gi status cause
        (t.gang gi).ending = some (status, cause, g.F) ∧ (t.gang gi).G = none ∧ t.mem = s.mem
        ∧ ∀ x ∈ g.members, ∀ h, (t.ctx x).handler = some h → h.live = false)
      ∧ (∀ status cause F, s.fr.slot = 2 → g.ending = some (status, cause, F) →
        (g.run ≠ .running → s.accessesOpen gi = false → exec .taskComplete s = .next ((s.performHeld gi).endGang gi status cause F))
        ∧ (g.run = .running ∨ s.accessesOpen gi = true → exec .taskComplete s = .next s)))

/-- 20 R345, R346, R326, 08 R187: a lease that its limits and the bath reserve allow is in force for its time and ends with it; one for a
gang of another process or partition is refused; a revocation marks the gang's leases and ends them 100 microseconds later, or with their
own time. Each
service answers its request at a later time with its reply: NOP and USER_RECORD 0, CLOCK the launch clock, TOKENS the context's boost
tokens, LEASE whether it was granted; a number that no service has is answered with all ones. The reply performs in the own-berth word
that its flag names, and then sets that core flag; it waits while its context is saved.

Where the rules leave a point to reading it rests on log entries 11, 55 and 95. -/
def Obligations.LeasesAndServices : Prop :=
  (∀ (s u : State) (it : QItem) (p gi : Nat), takeUp s s.fr.id = some (it, p, u) → p / 2 ^ 9 % 2 ^ 7 = 0 →
    gangOfJob u (p / 2 ^ 32 % 2 ^ 32) (p / 2 ^ 64 % 2 ^ 8) = some gi →
    let rate := p / 2 ^ 128 % 2 ^ 32
    let dur := p / 2 ^ 192 % 2 ^ 32
    let ok := 1 ≤ dur ∧ dur ≤ 100000 ∧ bathCovers u rate = true
    (ownsGang u s.fr.id (u.gang gi) = true → ∃ t, exec .lease s = .next t ∧ (∀ e ∈ (t.queue s.fr.id).tasks, e.seq ≠ it.seq) ∧ t.ctxs = s.ctxs
      ∧ (ok → (t.gang gi).leases = (s.gang gi).leases ++ [(rate, s.tide + 32000 * dur, false)]
        ∧ ⟨s.tide + 32000 * dur, ⟨.leaseExpiry, { id := gi }⟩⟩ ∈ t.timed)
      ∧ (¬ ok → t.gangs = s.gangs))
    ∧ (ownsGang u s.fr.id (u.gang gi) = false → exec .lease s = .next (u.finishPacket s.fr.id it.seq 1 8 0)))
  ∧ (∀ (s : State),
      let g := s.gang s.fr.id
      (∃ t, exec .leaseExpiry s = .next t ∧ (t.gang s.fr.id).leases = g.leases.filter (fun l => s.tide < l.2.1) ∧ t.mem = s.mem)
      ∧ (g.leases ≠ [] → ∃ t, exec .leaseRevocation s = .next t ∧ (t.gang s.fr.id).leases = g.leases.map (fun l =>
          if l.2.2 then l else (l.1, min l.2.1 (s.tide + 3200000), true))
        ∧ ⟨s.tide + 3200000, ⟨.leaseRevocationEnd, { id := s.fr.id }⟩⟩ ∈ t.timed ∧ ∀ x ∈ g.members, (t.ctx x).capcause.getLsbD 6 = true)
      ∧ (∃ t, exec .leaseRevocationEnd s = .next t ∧ (t.gang s.fr.id).leases = g.leases.filter (fun l => s.tide < l.2.1) ∧ t.mem = s.mem
        ∧ ((∀ l ∈ g.leases, s.tide < l.2.1 → l.2.2 = false) → ∀ x ∈ g.members, (t.ctx x).capcause.getLsbD 6 = false)))
  ∧ (∀ (s : State) (id : Nat) (m : Msg), sysMsg s id = some m →
      let answers := fun (i : Instr) (v : Nat) => ∃ t T, exec i s = .next t ∧ s.tide < T ∧ ⟨T, ⟨.sysReply id, {}⟩⟩ ∈ t.timed
        ∧ ∀ e ∈ t.mod.msgs, e.id = id → e.data = v ∧ e.c = 1
      let rate := m.data % 2 ^ 32
      let dur := m.data / 2 ^ 32 % 2 ^ 32
      let core := coreOf m.x
      let key := (Place.berth core).key ((s.ctx m.x).berthRange.1 + 8 * m.b)
      answers (.sysNop id) 0 ∧ answers (.sysClock id) (s.clock % 2 ^ 64) ∧ answers (.sysTokens id) ((s.ctx m.x).tokens % 2 ^ 64) ∧ answers (.sysUserRecord id) 0
      ∧ answers (.sysLease id) (if 1 ≤ dur ∧ dur ≤ 100000 ∧ bathCovers s rate = true then 1 else 0)
      ∧ (m.c = 0 → answers (.sysReply id) (2 ^ 64 - 1))
      ∧ (m.c ≠ 0 → (s.ctx m.x).resident = true → ((s.ctx m.x).saved || (s.ctx m.x).saving) = true →
        exec (.sysReply id) s = .next (s.timedAt (s.tide + 1) (.sysReply id)))
      ∧ (m.c ≠ 0 → (s.ctx m.x).resident = true → ((s.ctx m.x).saved || (s.ctx m.x).saving) = false → ∃ t a, exec (.sysReply id) s = .next t
        ∧ a.act = .poke key 8 m.data none ∧ a.wall = s.tide + 1 ∧ t.ctxs = s.ctxs ∧ t.mem = s.mem ∧ (∀ e ∈ t.mod.msgs, e.id ≠ id)
        ∧ (s.Clean → (s.perform a).mem = s.mem.writeN key 8 m.data (allBytes 8))
        ∧ (s.phase = .manage → t.pend = s.pend ++ [a] ∧ t.flagVal (.core core) (m.b % 16) = true)
        ∧ (s.phase ≠ .manage → ∃ b, t.pend = s.pend ++ [a, b] ∧ b.wall = s.tide + 1 ∧ a.before b = true ∧ b.before a = false
          ∧ (s.perform b).flagVal (.core core) (m.b % 16) = true)))

/-- 20 R340: a stream goes on from command to command: CSJM to its address, CSBR there when the word at A is not 0, CSLP opens a
loop of as many passes as that word says, to a depth of four, CSEL goes back to the head of the innermost loop until its
passes are used up, CSWF waits until a module flag is 1, CSLN launches a packet with no TICK, CSIN one with as many cores as the
word at A says, none for 0 and above 1,024, and CSEND ends the stream.

Where the rules leave a point to reading it rests on log entry 54. -/
def Obligations.CommandStreamsRun : Prop :=
  (∀ (s : State) (p : Bool × Nat) (w : Nat), streamPos s s.fr.id = some p → streamCommand s s.fr.id p = some w → w / 2 ^ 9 % 2 ^ 7 = 0 →
    let q := s.fr.id
    let A := w / 2 ^ 16 % 2 ^ 48
    let B := w / 2 ^ 64 % 2 ^ 64
    let k := s.queue q
    let next : Bool × Nat := if p.1 then (true, p.2 + 16) else (false, (p.2 + 1) % 2 ^ 34)
    let u := touchCommand (noteEntry s q p) q p
    let v := u.readVirt (u.owner q) A 4
    let vn := (u.touchVirt (u.owner q) B 64).readVirt (u.owner q) A 4
    let pk := u.readVirt (s.owner q) B 64
    let goes := fun (i : Instr) (to_ : Bool × Nat) (loops : List (Nat × Nat)) => ∃ t, exec i s = .next t ∧ (t.queue q).cspos = some to_
      ∧ (t.queue q).csloop = loops ∧ (t.queue q).cswait = k.cswait ∧ t.ctxs = s.ctxs ∧ t.gangs = s.gangs
    let ends := fun (i : Instr) => ∃ t, exec i s = .next t ∧ (t.queue q).cspos = none ∧ (t.queue q).csloop = [] ∧ (t.queue q).cswait = none
      ∧ t.ctxs = s.ctxs ∧ t.gangs = s.gangs
    goes .csjm (true, B) k.csloop
    ∧ goes .csbr (if v = 0 then next else (true, B)) k.csloop
    ∧ (k.csloop.length < 4 → goes .cslp next (k.csloop ++ [(2 * next.2 + next.1.toNat, v)]))
    ∧ (4 ≤ k.csloop.length → ends .cslp)
    ∧ (∀ h n l, k.csloop = l ++ [(h, n)] → 1 < n → goes .csel (h % 2 == 1, h / 2) (l ++ [(h, n - 1)]))
    ∧ (∀ h n l, k.csloop = l ++ [(h, n)] → n ≤ 1 → goes .csel next l)
    ∧ (k.csloop = [] → ends .csel)
    ∧ (s.mod.flags.getLsbD (B % 64) = true → goes .cswf next k.csloop)
    ∧ (s.mod.flags.getLsbD (B % 64) = false → ∃ t, exec .cswf s = .next t ∧ (t.queue q).cspos = some next ∧ (t.queue q).cswait = some (B % 64)
      ∧ t.ctxs = s.ctxs ∧ t.gangs = s.gangs)
    ∧ ends .csend
    ∧ (exec .csln s = .next (moveStream ((u.touchVirt (u.owner q) B 64).launch q k.strm 3 none (withTick pk 0)) q next)
      ∧ ∃ t, exec .csln s = .next t ∧ (t.queue q).cspos = some next ∧ (t.queue q).csloop = k.csloop ∧ (t.queue q).cswait = k.cswait)
    ∧ (vn = 0 → goes .csin next k.csloop) ∧ (1024 < vn → goes .csin next k.csloop)
    ∧ (1 ≤ vn → vn ≤ 1024 → ∃ (r : State) (p' : Nat), exec .csin s = .next (moveStream (r.launch q k.strm 3 none p') q next)
      ∧ r.mem = s.mem ∧ r.ctxs = s.ctxs ∧ r.gangs = s.gangs
      ∧ (launchOf p').ncore = vn - 1 ∧ (launchOf p').job = (launchOf pk).job ∧ (launchOf p').img = (launchOf pk).img
      ∧ (launchOf p').core0 = (launchOf pk).core0 ∧ (launchOf p').tick = 0)
    ∧ ∃ t, exec .csin s = .next t ∧ (t.queue q).cspos = some next)
  ∧ ∀ (s : State) (f : Nat), (s.queue s.fr.id).cswait = some f →
      (s.mod.flags.getLsbD f = true → ∃ t, exec .commandStreamWaitEnd s = .next t ∧ (t.queue s.fr.id).cswait = none ∧ t.mem = s.mem ∧ t.ctxs = s.ctxs)
      ∧ (s.mod.flags.getLsbD f = false → exec .commandStreamWaitEnd s = .next s)

/-! ### Shares, the meter and allotments (07 R152, 20 R342 to R344, 21 R354) -/

/-- 20 R342 to R344: at a credit every gang that takes part gains SHARE times 4,096 for each member, up to twice that, and each
resident member its boost tokens, up to 16 quanta. A decision moves no byte, gives a G only to a gang that waits for a slot alone, and each
such G lies a positive multiple of 4,096 counts after T_F and at least SKB + 512 counts ahead. Of the waiters of a core that may switch,
it gives one to that with the largest deficit, and of equal ones to that with the lowest context number, and each running holder of a slot
that this waiter needs, whose deficit is at most 4,096, is to freeze one cycle before that G, with its grace over by then.

07 R152, 21 R354: in a cycle every meter that is not paused gains its refill and leases, in whole wb with the rest kept, up
to its depth, first against its debt; an update of a partition gives each of its gangs its part of the cold allotment by
SHARE and a depth of no less than 1,000 microseconds of refill, and cuts the balance to it. A charge that the balance does
not cover becomes debt, and a gang in debt pays nothing further; on dock cores nothing is charged (21 R351).

That the depth takes the greatest HLMTHR of the members is the model's choice (log 21). Where else the rules leave a point to reading it
rests on log entries 26, 27 and 104. -/
def Obligations.SharesAndMeters : Prop :=
  ((∀ (s : State), (s.gangs.map Prod.fst).Nodup → ∃ t, exec .shareCredit s = .next t ∧ t.mem = s.mem ∧ t.cores = s.cores
    ∧ ∀ gi g, (gi, g) ∈ s.gangs → (t.gang gi).deficit = if g.live && s.shares g then
        min (g.deficit + g.share * 4096 * g.members.length) (2 * (g.share * 4096 * g.members.length : Nat)) else g.deficit)
  ∧ (∀ (s : State) (gi : Nat) (g : Gang), s.gangs = [(gi, g)] → g.live = true → s.shares g = true → g.members.Nodup →
      let q := g.share * ((s.part g.part).pcfg.toNat / 2 ^ 8 % 2 ^ 8 * 2 ^ 20)
      ∃ t, exec .shareCredit s = .next t ∧ ∀ x ∈ g.members,
        (t.ctx x).tokens = if (s.ctx x).saved then (s.ctx x).tokens else min ((s.ctx x).tokens + q) (16 * q))
  ∧ (∀ (s : State) (c w : Nat), let g := s.gang w
      let best := fun (v : Nat) => v = w ∨ isWaiter s (s.gang v) = false ∨ canSwitch s v = false ∨ (s.gang v).deficit < g.deficit
        ∨ ((s.gang v).deficit = g.deficit ∧ g.lowCtx < (s.gang v).lowCtx)
      (w, g) ∈ s.liveGangs → c ∈ g.cores → (∀ e ∈ s.liveGangs, ∀ k ∈ e.2.cores, k = c) → (∃ i, i < 4 ∧ (s.ctx (4 * c + i)).resident = true
        ∧ (s.ctx (4 * c + i)).gang = w) →
      s.shares g = true → g.run = .frozen → g.G = none → g.left = [.slot] → slotTaken s w = false →
      (∀ h ∈ rivals s w, s.shares (s.gang h) = true ∧ (s.gang h).run = .running ∧ (s.gang h).heir = none ∧ (s.gang h).deficit ≤ 4096
        ∧ 4096 ≤ g.deficit) →
      (∀ i, i < 4 → (s.ctx (4 * c + i)).resident = true → best (s.ctx (4 * c + i)).gang) →
      ∃ t G, exec .shareDecision s = .next t ∧ (t.gang w).G = some G ∧ (t.gang w).left = []
        ∧ ∀ h ∈ rivals s w, (t.gang h).heir = some w ∧ ⟨G - 1, ⟨.gangFreeze, { id := h, slot := 1, addr := w }⟩⟩ ∈ t.timed
          ∧ s.tide + 1024 * (s.gang h).grace + g.skb + 512 ≤ G)
  ∧ ∀ (s : State), ∃ t, exec .shareDecision s = .next t ∧ t.mem = s.mem ∧ t.cores = s.cores ∧ t.pend = s.pend ∧ t.tide = s.tide
      ∧ ∀ gi, let g := s.gang gi
        (t.gang gi).deficit = g.deficit ∧ (t.gang gi).run = g.run ∧ (t.gang gi).members = g.members ∧ (t.gang gi).sch = g.sch
        ∧ (g.run ≠ .frozen ∨ g.G.isSome = true ∨ (∃ w ∈ g.left, w ≠ .slot ∧ ∀ b, w ≠ .yield b) → (t.gang gi).G = g.G)
        ∧ ((t.gang gi).G ≠ g.G → ∃ G, (t.gang gi).G = some G ∧ s.tide + g.skb + 512 ≤ G ∧ g.TF < G ∧ (G - g.TF) % 4096 = 0))
  ∧ ((∀ (s : State), s.fr.slot = 1 → ∃ t, exec .hlmRefill s = .next t ∧ t.gang s.fr.id = (s.gang s.fr.id).credit s.fr.t ∧ t.mem = s.mem)
  ∧ (∀ (s : State), s.fr.slot ≠ 1 → (s.gangs.map Prod.fst).Nodup → ∃ t, exec .hlmRefill s = .next t ∧ t.mem = s.mem ∧ t.cores = s.cores
    ∧ ∀ gi g, (gi, g) ∈ s.gangs → g.live = true → g.dock = false → (g.run ≠ .frozen ∨ ∀ x C, .meter x C ∉ g.served) →
      let sum := g.frac + (g.leases.map fun l => l.1).foldl (· + ·) g.refill
      (t.gang gi).frac = sum % 32000
      ∧ (g.debt = 0 → g.bal ≤ g.depth → (t.gang gi).bal = min g.depth (g.bal + sum / 32000) ∧ (t.gang gi).debt = 0)
      ∧ (sum / 32000 ≤ g.debt → (t.gang gi).bal = g.bal ∧ (t.gang gi).debt = g.debt - sum / 32000))
  ∧ (∀ (s : State) (p : Nat), (s.gangs.map Prod.fst).Nodup → ∃ t, exec (.allotmentUpdate p) s = .next t ∧ t.mem = s.mem ∧ t.ctxs = s.ctxs
    ∧ ∀ gi g, (gi, g) ∈ s.gangs → g.live = true → g.part = p →
      (t.gang gi).refill = s.wbPerUs (s.part p).allot * g.share / max 1 (shareSum s p)
      ∧ (t.gang gi).depth = max ((t.gang gi).refill * 1000) (2 * g.threshold ((g.members.map fun x => (s.ctx x).hlmthr.toNat).foldl max 0) + 262144) ∧ (t.gang gi).bal = min g.bal (t.gang gi).depth)
  ∧ ∀ (g : Gang) (H c : Nat), g.dock = false →
      ((g.debit c).bal + c = g.bal + ((g.debit c).debt - g.debt) ∧ g.debt ≤ (g.debit c).debt ∧ (c ≤ g.bal → (g.debit c).debt = g.debt)
        ∧ (g.bal ≤ c → (g.debit c).bal = 0))
      ∧ (0 < c → 0 < g.debt → g.admits H c = false) ∧ g.admits H 0 = true
      ∧ (g.debt = 0 → g.threshold H + c ≤ g.bal → g.admits H c = true)
      ∧ (∀ d : Gang, d.dock = true → d.debit c = d))

/-! ### Arrivals, links and registers (20 R327, 21 R352, 22 R361 to R371) -/

/-- 22 R368 to R372: a granule of BX.SEND that arrives is to perform at its count after the copy engines' writes, in the bytes that it
enables; a post's granule performs at the end of its cycle where a window of its job covers it for writing, and is rejected elsewhere with
no byte changed; the flag of a post is set after its last granule, once TIDE has passed, and the acknowledgement is sent then. The
acknowledgement of a post gives its place back and sets the cluster flag; a rejection raises the link fault in the context that posted,
with LINK 0.

22 R366: a ready report is kept; the ROOT pilot that holds all of a gang's reports sends the start wave, whose TIDE is a
multiple of 4,096 at least SKB + 512 cycles ahead; the wave that reaches a module fixes the start there, once; a launch
whose reports do not come in is ended with no member started, by the timer of its own first report.

Where the rules leave a point to reading it rests on log entry 59. -/
def Obligations.FabricArrivalsAndLaunches : Prop :=
  ((∀ (s : State) (gid due va data : Nat) (x : Nat) (key : Nat), (s.gang gid).members.head? = some x →
    ((coverOf (s.gang gid).window va).map fun e => e.phys va).bind physKey = some key →
    ∃ t e, exec (.bxSendArrival gid due va data false) s = .next t ∧ t.pend = s.pend ++ [e] ∧ e.due = due ∧ e.fr.x = x ∧ e.fr.hnd = false
      ∧ e.act = .store key 64 (data % 2 ^ 512) s.fr.bytes ∧ e.pri = linkRank s.fr.id s.fr.bytes ∧ 512 ≤ e.pri ∧ t.mem = s.mem ∧ t.ctxs = s.ctxs)
  ∧ (∀ (s : State) (job va data rfn after : Nat) (rf : Bool), s.fr.slot ≠ 1 → jobHeld s job = false → data < 2 ^ 512 →
      s.mod.rejected.contains (s.fr.id, s.fr.x, s.fr.t) = false →
      let sent := fun (t : State) (kind : Nat) => ∃ m, t.mod.out = s.mod.out ++ [m] ∧ m.kind = .posted ∧ m.a = s.fr.id ∧ m.x = s.fr.x ∧ m.b = kind
      (∀ e key, coverOf (jobWindow s job) va = some e → e.w = true → physKey (e.phys va) = some key →
        ∃ t a, exec (.bxPostArrival job va data rf rfn after) s = .next t ∧ t.mem = s.mem ∧ t.ctxs = s.ctxs
          ∧ a ∈ t.pend ∧ a.wall = s.tide + 1 ∧ (s.Clean → (s.perform a).mem = s.mem.writeN key 64 data s.fr.bytes)
          ∧ (s.fr.re = false → t.mod = s.mod)
          ∧ (s.fr.re = true → rf = false → sent t 0 ∧ t.mod.flags = s.mod.flags)
          ∧ (s.fr.re = true → rf = true → after + 1 < s.tide → sent t 0 ∧ (s.phase = .manage → t.mod.flags.getLsbD (rfn % 64) = true)
            ∧ (s.phase ≠ .manage → ∃ b ∈ t.pend, b.wall = s.tide + 1 ∧ a.before b = true ∧ b.before a = false
              ∧ (s.perform b).mod.flags.getLsbD (rfn % 64) = true))
          ∧ (s.fr.re = true → rf = true → s.tide ≤ after + 1 → t.mod = s.mod
            ∧ ⟨after + 2, ⟨.bxPostArrival job va data rf rfn after, { s.fr with slot := 1 }⟩⟩ ∈ t.timed))
      ∧ (coverOf (jobWindow s job) va = none ∨ (∃ e, coverOf (jobWindow s job) va = some e ∧ e.w = false) →
        ∃ t, exec (.bxPostArrival job va data rf rfn after) s = .next t ∧ t.mem = s.mem ∧ t.pend = s.pend
          ∧ sent t (if coverOf (jobWindow s job) va = none then 1 else 2) ∧ t.mod.flags = s.mod.flags))
  ∧ ∀ (s : State) (id info : Nat) (m : Msg), (s.mod.msgs.find? fun e => e.id == id && e.kind == .posted) = some m →
      (s.ctx m.x).nonstatic.contains id = true →
      (∃ t, exec (.bxPostAck id info true) s = .next t ∧ (t.clu m.b).posts = (s.clu m.b).posts - 1
        ∧ (s.phase = .manage → t.flagVal (.clu m.b) (m.a % 16) = true)
        ∧ (s.phase ≠ .manage → ∃ b ∈ t.pend, b.wall = s.tide + 1 ∧ (s.perform b).flagVal (.clu m.b) (m.a % 16) = true)
        ∧ id ∉ (t.ctx m.x).nonstatic ∧ t.mem = s.mem ∧ t.faults = s.faults)
      ∧ (∃ (t : State) (f : PendFault), exec (.bxPostAck id info false) s = .next t ∧ (t.clu m.b).posts = (s.clu m.b).posts - 1 ∧ id ∉ (t.ctx m.x).nonstatic
        ∧ f ∈ t.faults ∧ f.x = m.fr.x ∧ f.code = 23 ∧ f.bnd = true ∧ f.F = s.now m.x (s.ctx m.x).handler.isSome
        ∧ f.finfo.toNat / 2 ^ 52 = info / 2 ^ 52 % 2 ^ 12 ∧ f.finfo.toNat / 2 ^ 44 % 16 = info / 2 ^ 44 % 16
        ∧ (info / 2 ^ 44 % 16 = 1 ∨ info / 2 ^ 44 % 16 = 2 → f.finfo.toNat / 2 ^ 48 % 16 = 0)))
  ∧ (∀ (s : State) (gid gi : Nat) (g : Gang), fabricGang s gid = some (gi, g) → s.gang gi = g → g.job = gid / 256 →
    (∀ md win, md ≠ s.modNum → (∀ r ∈ s.mod.reports, ¬ (r.1 = gid ∧ r.2.1 = md)) →
      ∃ t, exec (.gangReadyReport gid md win) s = .next t ∧ t.mod.reports = s.mod.reports ++ [(gid, md, win)]
        ∧ t.mem = s.mem ∧ t.ctxs = s.ctxs ∧ (t.gang gi).start = g.start ∧ (t.gang gi).members = g.members
        ∧ (isRoot s g.job = true → g.start = none → ((s.mod.reports ++ [(gid, md, win)]).filter fun r => r.1 == gid).length = g.nmod + 1 →
          ∃ S, ⟨s.tide, ⟨.startWave, { id := gid, t := S }⟩⟩ ∈ t.timed ∧ s.tide + s.waveSkb g.job + 512 ≤ S
            ∧ ((s.queue g.queue).lastS % 4096 = 0 → S % 4096 = 0)))
    ∧ (s.fr.id = gid → g.start = none → ∃ t, exec .startWave s = .next t ∧ (t.gang gi).start = some s.fr.t ∧ t.mem = s.mem ∧ t.ctxs = s.ctxs
      ∧ ⟨s.fr.t, ⟨.gangStart, { id := gi }⟩⟩ ∈ t.timed)
    ∧ (s.fr.id = gid → g.start ≠ none → exec .fabricLaunchTimeout s = .next s
      ∧ ((∀ r ∈ s.mod.reports, r.1 ≠ gid) → (∀ r ∈ s.mod.firsts, r.1 ≠ gid) → exec .startWave s = .next s))
    ∧ (s.fr.t ≠ 0 → (s.fr.id, s.fr.t) ∉ s.mod.firsts → exec .fabricLaunchTimeout s = .next s)
    ∧ (s.fr.id = gid → g.start = none → s.fr.t = 0 ∨ (gid, s.fr.t) ∈ s.mod.firsts → ∃ t, exec .fabricLaunchTimeout s = .next t ∧ (t.gang gi).live = false ∧ ∀ x ∈ g.members, t.ctx x = {}))

/-- 22 R362 to R367, 20 R327, R334, 21 R352: training makes a link UP with a latency of its measured delay and 256 cycles, up to a
multiple of 64, and its start puts the module's number into effect; a second bad flit, or 4,096 slots without one, fails
the link, and with it the posts on their way to its far end. TIDE skips nothing at an exchange: a trained link takes it to the neighbour,
the lowest module known is the root, and a module that is not the root trims its period toward it; the launch clock's rate stays within 1 part in 2^20 of 32 cycles per ns. A grant table holds at most 80 cells, an FJT entry whose SKB is too small is
refused, and each register keeps its writable fields; the numbers of those that the spec gives no address are the model's (log 24,
82).

Where the rules leave a point to reading it rests on log entries 14, 24, 60, 82, 101 and 102. -/
def Obligations.LinksAndRegisters : Prop :=
  (∀ (s : State) (l : Nat),
    let k := s.link l
    (∃ t, exec (.linkTrainingStart l) s = .next t ∧ (t.link l).st = 1 ∧ t.mod.num = s.mod.modid.toNat % 4096 ∧ t.mem = s.mem)
    ∧ (s.fr.t < 2 ^ 15 → ∃ t, exec (.linkTrained l) s = .next t ∧ (t.link l).st = 2 ∧ (t.link l).lat % 64 = 0 ∧ s.fr.t + 256 ≤ (t.link l).lat
      ∧ (t.link l).lat < s.fr.t + 320 ∧ (t.link l).nbr = s.fr.id % 4096 ∧ (t.link l).nlnk = s.fr.slot % 16 ∧ ∀ j, j ≠ l → t.link j = s.link j)
    ∧ (∃ t, exec (.linkFailed l) s = .next t ∧ (t.link l).st = 3 ∧ t.mem = s.mem
      ∧ ((∀ m ∈ s.mod.msgs, m.kind = .posted → m.data / 2 ^ 52 % 2 ^ 12 ≠ k.nbr) → t.ctxs = s.ctxs ∧ t.faults = s.faults)
      ∧ (∀ m, s.mod.msgs = [m] → m.kind = .posted → m.data / 2 ^ 52 % 2 ^ 12 = k.nbr → (s.ctx m.x).nonstatic.contains m.id = true →
        ∃ f ∈ t.faults, f.x = m.fr.x ∧ f.code = 23 ∧ f.bnd = true ∧ f.finfo.toNat / 2 ^ 44 % 16 = 0 ∧ f.finfo.toNat / 2 ^ 48 % 16 = l % 16))
    ∧ (k.st = 2 → s.fr.slot ≠ 2 →
      (∃ t, exec (.flitReceive l true) s = .next t ∧ (t.link l).st = 2 ∧ (t.link l).silent = 0 ∧ (t.link l).replay = 0
        ∧ (t.link l).fecc = if s.fr.slot = 1 then min (k.fecc + 1) 65535 else k.fecc)
      ∧ (∃ t, exec (.flitReceive l false) s = .next t ∧ (t.link l).st = if k.replay = 0 then 2 else 3))
    ∧ (∀ ok, k.st = 2 → s.fr.slot = 2 → ∃ t, exec (.flitReceive l ok) s = .next t ∧ (t.link l).st = if k.silent < 4095 then 2 else 3)
    ∧ (∀ ok, k.st ≠ 2 → exec (.flitReceive l ok) s = .next s))
  ∧ (∀ (s : State), ∃ t, exec .tideExchange s = .next t ∧ t.tide = s.tide ∧ t.mem = s.mem ∧ t.ctxs = s.ctxs
      ∧ (s.fr.slot = 1 → (s.link s.fr.id).st = 2 → s.fr.id < 16 → t.mod.T0 = s.mod.T0 ∧ t.mod.root = min s.mod.num (min s.mod.root s.fr.addr)
        ∧ -1 ≤ trimFor s s.fr.id s.fr.t ∧ trimFor s s.fr.id s.fr.t ≤ 1
        ∧ (t.mod.root = s.mod.num → t.mod.trim = 0) ∧ (t.mod.root ≠ s.mod.num → s.fr.addr = t.mod.root → t.mod.trim = trimFor s s.fr.id s.fr.t))
      ∧ (s.fr.slot ≠ 1 → (∀ l, l < 16 → (s.link l).st ≠ 2) → t.mod.T0 = s.mod.T0 ∧ t.mod.rate = s.mod.rate ∧ t.mod.out = s.mod.out)
      ∧ (s.fr.slot ≠ 1 → ∀ l, l < 16 → (s.link l).st = 2 → ∃ m ∈ t.mod.out, m.kind = .tide ∧ m.link = l ∧ m.data = s.tide)
      ∧ (s.fr.slot ≠ 1 → (∃ l, l < 16 ∧ (s.link l).st = 2) → t.mod.T0 = s.tide ∧ s.clock ≤ t.clock ∧ t.clock ≤ s.clock + 1
        ∧ 2 ^ 25 - 32 ≤ t.mod.rate ∧ t.mod.rate ≤ 2 ^ 25 + 32))
  ∧ (∀ (s : State) (n v cell r p : Nat),
      (∃ t, exec (.mailboxImageWrite v) s = .next t ∧ t = { s with mod := { s.mod with image := some v } })
      ∧ (∃ t, exec (.fjtWrite n v) s = .next t ∧ t.ctxs = s.ctxs ∧ t.gangs = s.gangs
        ∧ (v % 2 ^ 32 < 512 → t.mod.fjt = s.mod.fjt)
        ∧ (n < 16 → v / 2 ^ 68 % 2 ^ 5 = 0 → 512 ≤ v % 2 ^ 32 → SMap.get 0 t.mod.fjt (2 * n) = BitVec.ofNat 64 v
          ∧ SMap.get 0 t.mod.fjt (2 * n + 1) = BitVec.ofNat 64 (v / 2 ^ 64) &&& 0xFFFFFFF0000001F1#64))
      ∧ (n < 16 → cell < 96 → let g := SMap.put 0 (s.link n).grants cell (BitVec.ofNat 64 v &&& 0xFFF8#64)
        ∃ t, exec (.lgrtWrite n cell v) s = .next t ∧ (t.link n).grants
          = if 80 < (g.filter fun e => e.2.getLsbD 15).length then (s.link n).grants else g)
      ∧ (∃ t, exec (.registerWrite 0 v) s = .next t ∧ t.mod.modid = BitVec.ofNat 64 v &&& 0xFFF#64 ∧ t.mod.num = s.mod.num)
      ∧ (∃ t, exec (.registerWrite 1 v) s = .next t ∧ t.mod.hlmcal = BitVec.ofNat 64 v &&& 0xFFFF#64 ∧ t.mem = s.mem)
      ∧ (∃ t, exec (.registerWrite 2 v) s = .next t ∧ t.mod.mboost = BitVec.ofNat 64 v)
      ∧ (∃ t, exec (.registerWrite 3 v) s = .next t ∧ t.mod.ilv = min v 5)
      ∧ (r < 4096 → ∃ t, exec (.registerWrite (0x300000 + r) v) s = .next t ∧ SMap.get 0 t.mod.cbk r = min v 257)
      ∧ (r < 256 → (∃ t, exec (.registerWrite (0x100000 + 32 * r) v) s = .next t ∧ (t.queue r).qbase = BitVec.ofNat 64 v &&& 0x000FFFFFFFFFFFC0#64
          ∧ (t.queue r).qcfg = (s.queue r).qcfg)
        ∧ (∃ t, exec (.registerWrite (0x100000 + 32 * r + 8) v) s = .next t ∧ (t.queue r).qcfg = BitVec.ofNat 64 v &&& 0xFFFFFFFF000003FF#64
          ∧ (t.queue r).qbase = (s.queue r).qbase))
      ∧ (∃ t, exec (.registerWrite (2 ^ 32 + p) v) s = .next t ∧ SMap.get 0 t.mod.procs p = if v % 2 = 1 then v / 2 ^ 12 % 2 ^ 40 * 4096 + 1 else 0))

/-! ### Fabric launches and the slack wave (22 R366, R375 to R380) -/

/-- 22 R375 to R379, 23 R386: the first trigger of a job starts a wave, which freezes the job's gangs SKB after the trigger; a
later one counts as merged, also where it reaches the module after the freeze, and the cause record holds the first in the order of TIDE,
module, core and context; one that is made while the job is frozen is dropped. A resume wave gives the frozen gangs the G that it carries, and the job runs from
it; a step freezes it again, and leaves its members the step fault with n and the count from which they ran.

Where the rules leave a point to reading it rests on log entry 61. -/
def Obligations.SlackWavesFreezeAndResume : Prop :=
  (∀ (s : State) (job w0 w1 w2 : Nat), s.fr.slot ≠ 1 → s.fr.slot ≠ 2 →
    let k := s.slackOf job
    let r : Slack := { triggerOf w0 w1 w2 with wide := s.fr.hnd }
    let arrives := fun (P : State → Prop) => ∃ t, exec (.slackWaveArrival job w0 w1 w2) s = .next t ∧ t.mem = s.mem ∧ t.ctxs = s.ctxs ∧ t.gangs = s.gangs ∧ P t
    (k.st = 1 ∨ k.st = 2 → k.Ts + s.waveSkb job ≤ w2 → exec (.slackWaveArrival job w0 w1 w2) s = .next s)
    ∧ (k.st = 1 ∨ k.st = 2 → w2 < k.Ts + s.waveSkb job → (r.Ts, r.omod, r.ocore, r.octx) ∉ k.seen → arrives fun t =>
        (t.slackOf job).ntrig = min (k.ntrig + 1) 1023 ∧ (t.slackOf job).st = k.st ∧ (t.slackOf job).wave = k.wave
        ∧ (t.slackOf job).Ts = (if r.before k then w2 else k.Ts))
    ∧ (k.st = 0 → k.wave = false → k.seen = [] → arrives fun t => (t.slackOf job).wave = true ∧ (t.slackOf job).Ts = w2
        ∧ (t.slackOf job).code = w0 / 2 ^ 21 % 2 ^ 8 ∧ (t.slackOf job).sch = w1 ∧ (t.slackOf job).ntrig = 0 ∧ (t.slackOf job).seq = k.seq + 1
        ∧ ⟨w2 + s.waveSkb job, ⟨.slackFreeze, { id := job }⟩⟩ ∈ t.timed)
    ∧ (k.st = 0 → k.wave = true → (r.Ts, r.omod, r.ocore, r.octx) ∉ k.seen → r.before k = false → arrives fun t =>
        t.slackOf job = { k with seen := k.seen ++ [(r.Ts, r.omod, r.ocore, r.octx)], ntrig := min (k.ntrig + 1) 1023 })
    ∧ (k.st = 0 → k.wave = true → (r.Ts, r.omod, r.ocore, r.octx) ∉ k.seen → r.before k = true → arrives fun t =>
        (t.slackOf job).Ts = w2 ∧ (t.slackOf job).ntrig = min (k.ntrig + 1) 1023 ∧ (t.slackOf job).seq = k.seq))
  ∧ (∀ (s : State) (job : Nat), s.fr.slot = 1 → s.mod.traces = [] → ∀ w0 w1 w2, ∃ t, exec (.slackWaveArrival job w0 w1 w2) s = .next t
      ∧ SMap.get 0 t.mod.slkcr (4 * s.slackEntry job) = BitVec.ofNat 64 (s.slackOf job).word0
      ∧ SMap.get 0 t.mod.slkcr (4 * s.slackEntry job + 2) = BitVec.ofNat 64 (s.slackOf job).Ts ∧ t.mem = s.mem ∧ t.ctxs = s.ctxs)
  ∧ (∀ (s : State) (gi : Nat) (g : Gang), s.gangs = [(gi, g)] → g.live = true → g.job = s.fr.id → g.dock = false →
      let job := s.fr.id
      let k := s.slackOf job
      (k.wave = true → k.Ts + s.waveSkb job ≤ s.tide → g.run = .running →
        ∃ t, exec .slackFreeze s = .next t ∧ (t.gang gi).reqs = g.reqs.filter (fun r => r.why != .slack) ++ [⟨g.sch, .slack⟩] ∧ (t.slackOf job).wave = false
          ∧ (t.slackOf job).st = (if k.resumable then 1 else 2) ∧ t.mem = s.mem)
      ∧ (k.wave = false ∨ s.tide < k.Ts + s.waveSkb job → exec .slackFreeze s = .next s)
      ∧ (s.fr.slot ≠ 1 → k.st = 1 → k.G = none → g.run = .frozen → g.left = [.slack] → g.ending = none → ∃ t G, exec .resumeWave s = .next t
        ∧ (t.gang gi).left = [] ∧ (t.gang gi).G = some G ∧ s.fr.t ≤ G ∧ g.TF < G ∧ (G - g.TF) % 4096 = 0 ∧ (t.slackOf job).G = some s.fr.t
        ∧ (t.gang gi).reqs = (if s.fr.cap = 0 then g.reqs else g.reqs ++ [⟨g.F + s.fr.cap.toNat, .slack⟩]) ∧ t.mem = s.mem
        ∧ ⟨s.fr.t, ⟨.resumeWave, { id := job, t := s.fr.t, slot := 1, cap := s.fr.cap }⟩⟩ ∈ t.timed)
      ∧ (s.fr.slot = 1 → k.st = 1 → s.fr.cap = 0 → ∃ t, exec .resumeWave s = .next t ∧ (t.slackOf job).st = 0 ∧ (t.slackOf job).G = none ∧ t.gangs = s.gangs)
      ∧ (s.fr.slot = 1 → k.st = 1 → s.fr.cap ≠ 0 → ∃ t, exec .resumeWave s = .next t ∧ (t.slackOf job).st = 3 ∧ (t.slackOf job).code = 17
        ∧ ⟨s.fr.t + s.fr.cap.toNat, ⟨.stepEnd, { id := job }⟩⟩ ∈ t.timed)
      ∧ (k.wave = true → k.st = 3 → k.code = 17 → k.Ts + s.waveSkb job ≤ s.tide → g.run = .frozen →
        ∃ t, exec .stepEnd s = .next t ∧ .slack ∈ (t.gang gi).left ∧ (t.gang gi).run = .frozen ∧ (t.slackOf job).st = (if k.resumable then 1 else 2)
          ∧ (t.slackOf job).wave = false)
      ∧ (∀ F, k.wave = true → k.st = 3 → k.code = 17 → k.Ts + s.waveSkb job ≤ s.tide → g.run = .running → k.from_ = [(gi, F)] →
        ∃ t, exec .stepEnd s = .next t ∧ ∀ x ∈ g.members, ((s.ctx x).wave.isSome = true → (t.ctx x).wave = (s.ctx x).wave)
          ∧ ((s.ctx x).wave = none → ∃ f, (t.ctx x).wave = some f ∧ f.code = 17 ∧ f.finfo.toNat = k.n % 2 ^ 32 + F % 2 ^ 32 * 2 ^ 32)))

/-! ### Debugging (23 R384 to R393) -/

/-- 23 R390 to R392, 20 R326: a DEBUG packet that is well formed and whose queue owns the contexts it names acts and completes: STOP
triggers the wave, RESUME and STEP of a frozen job reach its ROOT pilot, READ copies bytes of a context that stands still
to the buffer and WRITE from it, BREAK sets or clears a breakpoint, TRACE the job's ring, GRAPH writes one entry for each wait edge, OPEN while
its waiter is frozen in that wait and with the waits that it has closed (R390), and END has the job's gangs end with STATUS 4. A sample changes no context.

Where the rules leave a point to reading it rests on log entry 62. -/
def Obligations.DebugPacketsAct : Prop :=
  (∀ (s u : State) (it : QItem) (p : Nat), takeUp s s.fr.id = some (it, p, u) → s.fr.slot ≠ 1 → debugWell p = true →
    let q := s.fr.id
    let seq := it.seq
    let d := debugOf p
    let owns := fun (x : Nat) => (s.ctx x).owner = s.owner q ∧ ((s.ctx x).resident = true → ownsGang s q (s.gangOf x) = true)
    let one := owns d.x
    let all := ∀ x ∈ jobMembers s d.job, owns x
    let k := s.slackOf d.job
    let does := fun (i : Instr) (P : State → Prop) => ∃ t, exec i s = .next t ∧ (∀ e ∈ (t.queue q).tasks, e.seq ≠ seq) ∧ P t
    (all → jobGangs s d.job ≠ [] → k.st = 0 → k.wave = false → k.seen = [] → does .debugStop fun t =>
      (t.slackOf d.job).wave = true ∧ (t.slackOf d.job).code = 16 ∧ (t.slackOf d.job).Ts = s.tide ∧ t.ctxs = s.ctxs)
    ∧ (all → k.st = 1 → k.G = none → isRoot s d.job = true →
      (does .debugResume fun t => ∃ G, ⟨s.tide, ⟨.resumeWave, { id := d.job, t := G }⟩⟩ ∈ t.timed ∧ s.tide + s.waveSkb d.job + 512 ≤ G)
      ∧ (0 < d.arg → d.arg < 2 ^ 32 → does .debugStep fun t => ∃ G, ⟨s.tide, ⟨.resumeWave, { id := d.job, t := G, cap := BitVec.ofNat 64 d.arg }⟩⟩ ∈ t.timed))
    ∧ (one → (s.ctx d.x).resident = true → (s.gangOf d.x).job = d.job → d.idx < 4 → does .debugBreak fun t =>
      SMap.get none (t.ctx d.x).bps d.idx = (if d.arg.testBit 11 then some (d.arg % 2 ^ 11) else none) ∧ (t.ctx d.x).regs = (s.ctx d.x).regs)
    ∧ (all → 4 ≤ d.off % 2 ^ 5 → d.off % 2 ^ 5 ≤ 20 → d.arg.testBit 3 = false → does .debugTrace fun t =>
      SMap.find t.mod.traces d.job = some ⟨d.buf, d.off % 2 ^ 5, d.arg % 2 ^ 5, d.arg / 2 ^ 8 % 2 ^ 5, s.owner q⟩ ∧ t.ctxs = s.ctxs)
    ∧ (all → d.off % 2 ^ 5 = 0 → d.arg = 0 → does .debugTrace fun t => SMap.find t.mod.traces d.job = none)
    ∧ (all → d.len % 64 = 0 → does .debugGraph fun t => t.ctxs = s.ctxs ∧ t.gangs = s.gangs
      ∧ ∀ i w key, (graphOf u d.job)[i]? = some w → i < d.len / 16 → s.virtKey (s.owner q) (d.buf + 16 * i) = some key →
        ∃ e ∈ t.pend, e.act = .poke key 16 w none ∧ e.wall = s.tide + 1)
    ∧ (one → d.len = 64 → d.sel = 1 → debugStill s d = true → debugOut s d false = false → s.Clean → (word p 6 = 0) →
      (∀ key, s.virtKey (s.owner q) d.buf = some key → does .debugRead fun t => t.mem = s.mem ∧ t.ctxs = s.ctxs ∧ ∃ e, t.pend = s.pend ++ [e] ∧ e.wall = s.tide + 1
        ∧ (s.perform e).mem = s.mem.writeN key 64 (s.mem.readN ((Place.quay (coreOf d.x)).key d.off) 64) (allBytes 64)))
    ∧ (one → d.len = 64 → d.sel = 1 → debugStill s d = true → debugOut s d true = false → s.Clean → (word p 6 = 0) → does .debugWrite fun t =>
        t.mem = s.mem.writeN ((Place.quay (coreOf d.x)).key d.off) 64 (s.readVirt (s.owner q) d.buf 64) (allBytes 64) ∧ t.ctxs = s.ctxs)
    ∧ (all → (s.gangs.map Prod.fst).Nodup → does .debugEnd fun t => (∀ e ∈ jobGangs s d.job, (t.gang e.1).ending
        = some (4, 0, if e.2.run = .running then s.reach e.2 else e.2.F)) ∧ (t.slackOf d.job).st = 0
      ∧ (t.slackOf d.job).wave = false))
  ∧ (∀ (s : State) (job : Nat),
      (∀ w ∈ openWaits s job, ∃ e ∈ graphOf s job, e % 2 ^ 12 = w.1 % 2 ^ 12 ∧ e.testBit 34 = true
        ∧ (w.2.2 = 0 → e / 2 ^ 64 % 16 = 15))
      ∧ ∀ k ∈ s.mod.edges, k.1 / 4096 = job → ∃ e ∈ graphOf s job, e % 2 ^ 12 = k.1 % 2 ^ 12 ∧ e / 2 ^ 92 = min k.2.2.2 (2 ^ 36 - 1)
        ∧ e.testBit 34 = (openWaits s job).contains (k.1 % 4096, k.2.1, k.2.2.1))
  ∧ ∀ (s : State), ∃ t, exec .traceSample s = .next t ∧ t.ctxs = s.ctxs ∧ t.gangs = s.gangs ∧ t.mod = s.mod ∧ t.mem = s.mem

/-! ### Module states and bias domains (17 R289 to R291, 21 R348 to R352) -/

/-- 21 R348 to R352: the module goes from WARM to COOLDOWN to SELFTEST to RUN on the readings and results that the table names, and to
ANCHOR where the table says so, with FCODE; the boot ROM loads the first bank whose signatures hold, for the fused keys, with a version that
the rollback counter admits; RUN waits until every domain has come through RAMP. A module reset keeps what lies outside the module, and
puts a staged image into its bank.

17 R289 to R291: a domain that fails loses the state of its cores and ends the contexts there; it is recovered through RAMP and a
test once, if nothing is resident on it, and it stays OFF, its cores unavailable, if the test fails or it has failed before. A core
with a defect stays unavailable, and more than 64 of them fail the module's self-test.

Where the rules leave a point to reading it rests on log entries 1, 2, 57 and 92. -/
def Obligations.ModuleStatesAndDomains : Prop :=
  (∀ (s : State),
    let goes := fun (i : Instr) (P : State → Prop) => ∃ t, exec i s = .next t ∧ P t
    let st := fun (t : State) => fld t.mod.mstat.toNat 3 0
    let fcode := fun (t : State) => fld t.mod.mstat.toNat 31 16
    let dock := fun (t : State) => t.mod.mstat.getLsbD 8
    let outside_ := fun (a : Nat) => a / 2 ^ 64 = Place.tier.code ∨ a / 2 ^ 64 = Place.host.code ∨ a / 2 ^ 64 = Place.flash.code
    (goes .moduleReset fun t => t.tide = 0 ∧ st t = 0 ∧ t.ctxs = [] ∧ t.gangs = [] ∧ t.cores = [] ∧ t.clus = []
      ∧ (∀ a, ¬ outside_ a → t.mem.read a = 0)
      ∧ (st s = 0 ∨ (s.partsOn = [] ∧ s.pend = []) → ∀ a, outside_ a → t.mem.read a = s.mem.read a)
      ∧ t.mod.banks = s.mod.nextBanks ∧ t.mod.fuses = s.mod.fuses ∧ t.mod.image = none)
    ∧ (∀ i ok, s.mod.verifies i ok = true ↔ ok = true ∧ (s.mod.banks.getD i {}).rsaHash = s.mod.fuses.rsaHash
      ∧ (s.mod.banks.getD i {}).slhHash = s.mod.fuses.slhHash ∧ s.mod.fuses.rollback ≤ (s.mod.banks.getD i {}).version)
    ∧ (st s = 0 → s.mod.bank = none → ∀ ok0 ok1,
      let v0 := s.mod.verifies 0 ok0
      let v1 := s.mod.verifies 1 ok1
      (v0 = true → goes (.firmwareVerifyDone ok0 ok1) fun t => t.mod.bank = some 0 ∧ dock t = true ∧ st t = if s.hef = 0 then 0 else 1)
      ∧ (v0 = false → v1 = true → goes (.firmwareVerifyDone ok0 ok1) fun t => t.mod.bank = some 1 ∧ dock t = true)
      ∧ (v0 = false → v1 = false → goes (.firmwareVerifyDone ok0 ok1) fun t => st t = 4 ∧ fcode t = 5 ∧ dock t = false ∧ t.mod.bank = none))
    ∧ (∀ v, v < 2 ^ 16 →
      (goes (.heliumFlowChange v) fun t => t.hef = v ∧ st t = if st s = 0 ∧ s.mod.bank.isSome ∧ v ≠ 0 then 1 else st s)
      ∧ (st s = 3 → 4800 < v → goes (.hekChange v) fun t => st t = 4 ∧ fcode t = 6 ∧ dock t = s.mod.bank.isSome ∧ ∀ d, d < 32 → (t.domain d).st = 0)
      ∧ (st s ≠ 3 ∨ v ≤ 4800 → goes (.hekChange v) fun t => st t = st s ∧ t.hek = v
        ∧ (st s = 1 → v ≤ 4400 → ⟨s.tide + 19200000000000, ⟨.cooldownTimer, {}⟩⟩ ∈ t.timed)))
    ∧ (∀ T, st s = 1 → s.mod.coolSince = some T → T + 19200000000000 ≤ s.tide → goes .cooldownTimer fun t => st t = 2
      ∧ ∀ d, d < 32 → (t.domain d).st = 1 ∧ ⟨s.tide + 65536, ⟨.rampEnd d, {}⟩⟩ ∈ t.timed)
    ∧ (st s = 2 →
      ((∃ d, d < 32 ∧ (s.domain d).ramped = false) → exec (.selfTestComplete true) s = .next (s.timedAt (s.tide + 4096) (.selfTestComplete true) s.fr))
      ∧ ((∀ d, d < 32 → (s.domain d).ramped = true) →
        (((List.range 1024).filter s.fr.capv.getLsbD).length ≤ 64 → 4800 < s.hek → goes (.selfTestComplete true) fun t => st t = 4 ∧ fcode t = 6)
        ∧ (((List.range 1024).filter s.fr.capv.getLsbD).length ≤ 64 → s.hek ≤ 4800 → goes (.selfTestComplete true) fun t => st t = 3 ∧ dock t = false
          ∧ ∀ c, c < 1024 → (t.core c).avail = ((s.core c).avail && !s.fr.capv.getLsbD c))
        ∧ (64 < ((List.range 1024).filter s.fr.capv.getLsbD).length → goes (.selfTestComplete true) fun t => st t = 4 ∧ fcode t = 4))
      ∧ (s.fr.t < 2 ^ 16 → goes (.selfTestComplete false) fun t => st t = 4 ∧ fcode t = s.fr.t)))
  ∧ (∀ (s : State) (d : Nat), d < 32 →
    let k := s.domain d
    let goes := fun (i : Instr) (P : State → Prop) => ∃ t, exec i s = .next t ∧ P t
    (k.st = 1 ∨ k.st = 2 ∨ k.st = 3 → (∀ e ∈ s.gangs, e.2.dock = false) → goes (.biasDomainFailure d) fun t =>
      (t.domain d).st = 4 ∧ (t.domain d).fails = k.fails + 1
      ∧ (∀ x ∈ s.coldOn (domainCores d), (t.ctx x).faulted = true ∧ (t.ctx x).regs = {})
      ∧ ∀ c ∈ domainCores d, (t.core c).flags = 0 ∧ ∀ a, a < 2 ^ 64 → t.mem.read ((Place.berth c).key a) = 0)
    ∧ (k.st = 0 ∨ k.st = 4 → exec (.biasDomainFailure d) s = .next s)
    ∧ (s.domainFree d = false → exec (.domainRecoveryStart d) s = .next s)
    ∧ (s.domainFree d = true → k.fails < 2 → goes (.domainRecoveryStart d) fun t =>
      (t.domain d).st = 1 ∧ (t.domain d).end_ = s.tide + 65536 ∧ ⟨s.tide + 65536, ⟨.rampEnd d, {}⟩⟩ ∈ t.timed)
    ∧ (s.domainFree d = true → 2 ≤ k.fails → goes (.domainRecoveryStart d) fun t =>
      (t.domain d).st = 0 ∧ ∀ c ∈ domainCores d, (t.core c).avail = false)
    ∧ (k.st = 1 → k.end_ ≤ s.tide → goes (.rampEnd d) fun t => (t.domain d).st = (if k.fails = 0 then 3 else 2) ∧ t.mem = s.mem)
    ∧ (k.st = 2 → goes (.domainSelfTestDone d true) fun t => (t.domain d).st = 3
      ∧ ∀ c ∈ domainCores d, (t.core c).avail = !((s.core c).defect || s.fr.capv.getLsbD c))
    ∧ (k.st = 2 → goes (.domainSelfTestDone d false) fun t => (t.domain d).st = 0 ∧ ∀ c ∈ domainCores d, (t.core c).avail = false))

/-! ### Caps and clock ratios (21 R353 to R360) -/

/-- 21 R355 to R357: a payload without the MAGIC, whose MAC fails, whose LEVEL is above 1 or whose SEQ is not new is dropped; any other one
sets its level's budget, and each rank's change comes no later than the rank's 0.25 ms allow, from rank 0 up when the budget falls and
from rank 7 down when it rises; a rank's partitions take no more than WCAP and CALL, and with a limit in force what the ranks below have
left to cut, down to a quarter of their demand, with the least ratio that it asks for; a partition at its own warm cap runs at a
lower ratio; a module limit holds until it is withdrawn.

Where the rules leave a point to reading it rests on log entries 7, 56 and 93. -/
def Obligations.CapsLimitPartitions : Prop :=
  ∀ (s : State), s.mod.caps.length = 2 →
    let D := fun (sp r : Nat) => ((s.partsOn.filter fun q => (s.part q).rank == r).map fun q => demand sp (s.part q)).sum
    (∀ v m, let lv := v / 2 ^ 32 % 2 ^ 8
      let seq := v / 2 ^ 64 % 2 ^ 64
      let last := (s.mod.caps.getD lv (0, 0, 0)).1
      let mac := m = capMac s.mod.fuses.hallKey v
      (v % 2 ^ 32 ≠ 0x524E4350 ∨ 1 < lv ∨ ¬ mac ∨ seq < last → exec (.capFrame v m) s = .next s)
      ∧ (v % 2 ^ 32 = 0x524E4350 → lv ≤ 1 → mac → last ≤ seq →
      ∃ t, exec (.capFrame v m) s = .next t ∧ t.mod.caps = s.mod.caps.set lv (seq + 1, v / 2 ^ 128 % 2 ^ 32 + 1, v / 2 ^ 160 % 2 ^ 32) ∧ t.ctxs = s.ctxs ∧ t.gangs = s.gangs
        ∧ (budgetOf s = none ∨ (∃ x y, budgetOf s = some x ∧ budgetOf t = some y ∧ y ≤ x) → ∀ r, r < 8 →
          ∃ T, s.tide < T ∧ T ≤ s.tide + 8000000 * (r + 1) ∧ ⟨T, ⟨.capRankApply, { slot := r }⟩⟩ ∈ t.timed)
        ∧ ((∃ x y, budgetOf s = some x ∧ budgetOf t = some y ∧ x < y) → ∀ r, r < 8 →
          ∃ T, s.tide < T ∧ T ≤ s.tide + 8000000 * (r + 1) ∧ ⟨T, ⟨.capRankApply, { slot := 7 - r }⟩⟩ ∈ t.timed)))
    ∧ (∀ l, leastLimit (limitsOf s) = some l → l ∈ limitsOf s ∧ ∀ m ∈ limitsOf s, l.2.1 ≤ m.2.1)
    ∧ (∃ t, exec .capRankApply s = .next t ∧ ∀ p, p < 16 →
      (s.partOn p = true → (s.part p).rank = s.fr.slot → (t.part p).allot ≤ (s.part p).call ∧ (t.part p).warm ≤ 1000 * (s.part p).wcap
        ∧ (limitsOf s = [] → s.hek ≤ 4500 → (t.part p).allot = (s.part p).call ∧ (t.part p).warm = 1000 * (s.part p).wcap)
        ∧ (∀ l, leastLimit (limitsOf s) = some l → demand l.2.2 (s.part p) ≠ 0 →
          let sp := l.2.2
          let d := D sp s.fr.slot
          -- in quarters of 1/16 mW: what the lower ranks leave to cut, and the cut, of which each partition takes its part
          let E := 4 * (((List.range 8).map (D sp)).sum - 16000 * l.2.1) - 3 * ((List.range s.fr.slot).map (D sp)).sum
          let keep := 4 * d - min E (3 * d)
          let ratio := if 4 * d ≤ keep then 0 else if 4 * d ≤ 2 * keep then 1 else 2
          (t.part p).warm = 1000 * (s.part p).wcap * keep / (4 * d)
          ∧ (t.part p).allot = (if 4500 < s.hek then (s.part p).call * keep / (4 * d) * (4800 - s.hek) / 300 else (s.part p).call * keep / (4 * d))
          ∧ ((s.part p).low = 0 → (s.part p).wcap ≠ 0 → (s.part p).ratio ≠ ratio → ⟨s.tide, ⟨.ratioChange p ratio, {}⟩⟩ ∈ t.timed)))
      ∧ (s.partOn p = false ∨ (s.part p).rank ≠ s.fr.slot → t.part p = s.part p))
    ∧ (s.mod.limits < 4 → ∀ warm, ∃ t, exec (.moduleLimitExceeded warm) s = .next t
      ∧ t.mod.limits.testBit (if warm then 0 else 1) = decide (s.fr.slot ≠ 1) ∧ t.mod.limits.testBit (if warm then 1 else 0) = s.mod.limits.testBit (if warm then 1 else 0))
    ∧ (∀ p, s.partOn p = true → s.fr.slot ≠ 1 → (s.part p).ratio < 2 → ∃ t r, exec (.partitionWarmCapReached p) s = .next t
      ∧ (t.part p).low = (s.part p).ratio + 1 ∧ (s.part p).ratio < r ∧ ⟨s.tide, ⟨.ratioChange p r, {}⟩⟩ ∈ t.timed
      ∧ (limitsOf s = [] → s.hek ≤ 4500 → (t.part p).cause = 32))
    ∧ (∀ p, s.partOn p = true → s.fr.slot = 1 → ∃ t, exec (.partitionWarmCapReached p) s = .next t ∧ (t.part p).low = 0)

/-- 21 R353, R359: a change of a partition's ratio asks its gangs to freeze, gives its clusters the new ratio at a multiple of 4,096
once each stands for it, and ends 1,280 cycles later with CHG one higher; a cluster at ratio 1/m runs in the periods of 4,096 cycles whose
index is a multiple of m, and a gang freezes where its cluster, or one of another module of it, stops; a write of a partition register that breaks the limits is
refused. -/
def Obligations.RatiosChangeByHandshake : Prop :=
  (∀ (s : State) (p r : Nat),
    let k := s.part p
    (s.fr.slot = 0 → k.shake = none → k.ratio ≠ r → ∃ t, exec (.ratioChange p r) s = .next t ∧ (t.part p).shake = some (r, 0) ∧ t.mem = s.mem
      ∧ t.clus = s.clus ∧ ∀ gi g, s.gangs = [(gi, g)] → g.live = true → g.part = p → g.dock = false → g.run = .running →
        (t.gang gi).reqs = g.reqs ++ [⟨g.reqPoint g.sch, .ratio⟩])
    ∧ (s.partsOn = [p] → k.shake = some (r, 0) →
      ((∃ e ∈ partGangs s p, e.2.run = .running ∨ ∃ q ∈ e.2.reqs, q.why = .ratio) → takeRatios s = s)
      ∧ ((∀ e ∈ partGangs s p, e.2.run ≠ .running ∧ ∀ q ∈ e.2.reqs, q.why ≠ .ratio) → let t := takeRatios s
        (t.part p).ratio = r ∧ t.mem = s.mem ∧ t.gangs = s.gangs
        ∧ (∀ c, c < 256 → s.partOf (4 * c) = some p → (t.clu c).ratio = r) ∧ (∀ c, s.partOf (4 * c) ≠ some p → t.clu c = s.clu c)
        ∧ ⟨s.tide + 1280, ⟨.ratioChange p r, { slot := 1 }⟩⟩ ∈ t.timed))
    ∧ (s.fr.slot = 1 → ∃ t, exec (.ratioChange p r) s = .next t ∧ (t.part p).shake = none ∧ (t.part p).chg = (k.chg + 1) % 2 ^ 16)
    ∧ (∀ gi g, s.fr.slot = 2 → fabricGang s s.fr.id = some (gi, g) → s.gang gi = g → s.fr.t ≠ s.modNum →
      ∃ t, exec (.ratioChange p r) s = .next t ∧ SMap.get 0 (t.gang gi).far s.fr.t = r ∧ t.ctxs = s.ctxs ∧ t.mem = s.mem))
  ∧ (∀ (s : State) (c : Nat),
    let runs := s.tide / 4096 % 2 ^ (s.clu c).ratio = 0
    ∃ t, exec (.clockRunPeriod c) s = .next t ∧ t.mem = s.mem ∧ t.ctxs = s.ctxs ∧ ((∀ e ∈ s.liveGangs, s.runsAt e.2 s.tide = true) → t.gangs = s.gangs)
      ∧ (s.fr.slot ≠ 1 → (t.clu c).stopped = decide (¬ runs)) ∧ (s.fr.slot = 1 → t.clus = s.clus)
      ∧ ∀ gi g, s.gangs = [(gi, g)] → g.live = true → g.dock = false → g.run = .running →
        (s.fr.slot ≠ 1 ∧ c ∈ g.clusters ∧ ¬ runs) ∨ (s.fr.slot = 1 ∧ ∃ e ∈ g.far, s.tide / 4096 % 2 ^ e.2 ≠ 0) →
        (t.gang gi).reqs = g.reqs ++ [⟨g.sch, .clock⟩])
  ∧ (∀ (s : State) (p r v : Nat), p < 16 → s.liveGangs = [] →
    let k := s.part p
    let w := BitVec.ofNat 64 v
    let new : Part := if r < 4 then { k with clu := k.clu.set r w } else if r = 4 then { k with pcfg := w &&& 0x00E007FFFFFFFF01 } else { k with pevq := w, evCount := 0 }
    (r < 6 → partsWell (s.setPart p new) = true → ∃ t, exec (.partitionConfigWrite p r v) s = .next t
      ∧ (t.part p).clu = new.clu ∧ (t.part p).pcfg = new.pcfg ∧ (t.part p).pevq = new.pevq)
    ∧ (r < 6 → partsWell (s.setPart p new) = false → ∃ t, exec (.partitionConfigWrite p r v) s = .next t
      ∧ (t.part p).clu = k.clu ∧ (t.part p).pcfg = k.pcfg ∧ (t.part p).pevq = k.pevq)
    ∧ (6 ≤ r → exec (.partitionConfigWrite p r v) s = .next s))

/-! ### Upkeep of the stores (08 R168, 10 R231, 17 R292, 18 R308 to R312) -/

/-- 17 R292, 18 R312, 08 R168: a correctable word that a scrubber or a read has found is written back 2 cycles after the scrubber's read (a
warm granule 32, a word that a read has met when its service port is idle): at the end of that cycle its mark goes, if no write has
taken it away; an uncorrectable one is marked. No byte changes.

18 R308, R310: of a channel's row groups those activated within 32 ms are skipped and the others refreshed, by the counters of its
stack, and no byte changes; a host write performs after the accesses of its cycle and changes exactly the bytes that it writes.

Where the rules leave a point to reading it rests on log entries 46, 58, 68 and 79. -/
def Obligations.UpkeepKeepsContents : Prop :=
  (∀ (s : State),
    let goes := fun (i : Instr) (P : State → Prop) => ∃ t, exec i s = .next t ∧ t.ctxs = s.ctxs ∧ t.mem = s.mem ∧ P t
    let counts := fun (t : State) (key : Nat) => SMap.get 0 t.mod.errs (State.errKey key) = min (SMap.get 0 s.mod.errs (State.errKey key) + 1) 0xFFFF
    let w := s.fr.t / 8
    let mark := SMap.get 0 s.ecc w
    (s.fr.id ≠ 1 → s.fr.id ≠ 2 → portBusy s (8 * w) = false →
      (max s.fr.slot mark = 0 → exec .berthScrub s = .next s)
      ∧ (max s.fr.slot mark = 1 → goes .berthScrub fun t => SMap.get 0 t.ecc w = 1 ∧ counts t (8 * w)
        ∧ ⟨s.tide + 2, ⟨.berthScrubWriteback (8 * w), {}⟩⟩ ∈ t.timed)
      ∧ (1 < max s.fr.slot mark → mark < 3 → goes .berthScrub fun t => SMap.get 0 t.ecc w = 2))
    ∧ (s.fr.id ≠ 1 → portBusy s (8 * w) = true → goes .berthScrub fun t => t.ecc = s.ecc ∧ ⟨s.tide + 1, ⟨.berthScrub, s.fr⟩⟩ ∈ t.timed)
    ∧ (s.fr.id = 1 → goes .berthScrub fun t => t.ecc = s.ecc ∧ ∀ e ∈ s.ecc, 8 * e.1 / 2 ^ 64 % 16 = 0 → 8 * e.1 % 2 ^ 64 / 128 = s.tide / 256 % 512 →
      ⟨.berthScrub, { t := 8 * e.1, slot := e.2, id := 2 }⟩ ∈ t.agenda)
    ∧ (∀ key, ∃ e, exec (.berthScrubWriteback key) s = .next { s with pend := s.pend ++ [e] } ∧ e.act = .writeBack key 8 ∧ e.wall = s.tide + 1)
    ∧ (∀ key, SMap.get 0 s.ecc (key / 8) ≠ 1 → exec (.correctedWriteBack key) s = .next s)
    ∧ (∀ key, SMap.get 0 s.ecc (key / 8) = 1 → portBusy s key = true → goes (.correctedWriteBack key) fun t =>
      ⟨s.tide + 1, ⟨.correctedWriteBack key, {}⟩⟩ ∈ t.timed)
    ∧ (∀ key, SMap.get 0 s.ecc (key / 8) = 1 → portBusy s key = false →
      ∃ e, exec (.correctedWriteBack key) s = .next { s with pend := s.pend ++ [e] } ∧ e.act = .writeBack key 8 ∧ e.wall = s.tide + 1)
    ∧ (s.fr.slot = 0 → exec .warmScrub s = .next s)
    ∧ (s.fr.slot = 1 → goes .warmScrub fun t => counts t (s.fr.t / 64 * 64)
      ∧ ⟨s.tide + 32, ⟨.warmScrubWriteback (s.fr.t / 64 * 64), {}⟩⟩ ∈ t.timed)
    ∧ (2 ≤ s.fr.slot → goes .warmScrub fun t => s.fr.t / 64 ∈ t.poison)
    ∧ (∀ key, ∃ e, exec (.warmScrubWriteback key) s = .next { s with pend := s.pend ++ [e] } ∧ e.act = .writeBack (key / 64 * 64) 64
      ∧ e.wall = s.tide + 1)
    ∧ (∀ fr due run pri wall k n, (s.ecc.map Prod.fst).Nodup → let t := s.perform ⟨fr, due, run, pri, .writeBack k n, wall⟩
      t.mem = s.mem ∧ t.poison = s.poison
      ∧ ∀ w, SMap.get 0 t.ecc w = if SMap.get 0 s.ecc w = 1 ∧ k ≤ 8 * w ∧ 8 * w < k + n then 0 else SMap.get 0 s.ecc w)
    ∧ (∀ fr due run pri wall w v, 8 * w / 2 ^ 64 ≠ Place.hbm.code →
      SMap.get 0 (s.perform ⟨fr, due, run, pri, .store (8 * w) 8 v (allBytes 8), wall⟩).ecc w = 0))
  ∧ ((∀ (s : State) (ch : Nat),
    let st := ch / 32
    let did := fun (n : Nat) => ∃ t, exec (.hbmRefresh ch) s = .next t ∧ t.mem = s.mem ∧ t.ctxs = s.ctxs
      ∧ SMap.get 0 t.mod.refreshed st = SMap.get 0 s.mod.refreshed st + (2 ^ 22 - n) ∧ SMap.get 0 t.mod.skipped st = SMap.get 0 s.mod.skipped st + n
    (s.mod.act = [] → did 0)
    ∧ ∀ g a, s.mod.act = [(g, a + 1)] →
      (g % 8192 / 16 = ch → s.tide ≤ a + 1024000000 → did 1)
      ∧ (g % 8192 / 16 ≠ ch ∨ a + 1056000000 ≤ s.tide → did 0))
  ∧ ∀ (s : State) (addr len data : Nat), (physKey addr = none → exec (.hostWrite addr len data) s = .next s)
    ∧ ∀ key, physKey addr = some key → ∃ e, exec (.hostWrite addr len data) s = .next { s with pend := s.pend ++ [e] } ∧ e.wall = s.tide + 1
      ∧ 2 ^ 20 < e.pri ∧ (s.Clean → let t := s.perform e
        t.ctxs = s.ctxs ∧ (∀ i, i < len → t.mem.read (key + i) = BitVec.ofNat 8 (data / 256 ^ i)) ∧ ∀ k, k < key ∨ key + len ≤ k → t.mem.read k = s.mem.read k))
end

