-- ==== Sys2Proof/Laws/Memory.lean ====
section
/-! SUPPORT. What sparse maps and byte memory do: a read after a write, and the canonical form that every write keeps. -/

namespace Sys2Proof.Machine

variable {α : Type} {d x : α} {m : SMap α} {n k : Nat}

/-! ### Sparse maps, canonical or not -/

@[simp] theorem SMap.get_nil : SMap.get d [] k = d := rfl

@[simp] theorem SMap.find_nil : SMap.find ([] : SMap α) k = none := rfl

theorem SMap.get_of_absent (h : ∀ e ∈ m, e.1 ≠ k) : SMap.get d m k = d := by
  induction m with
  | nil => rfl
  | cons e m ih => simp_all [SMap.get]

@[simp] theorem SMap.get_erase_self : SMap.get d (SMap.erase m n) n = d :=
  SMap.get_of_absent fun e he => by simpa [SMap.erase] using (List.mem_filter.1 he).2

theorem SMap.get_filter (p : Nat → Bool) : SMap.get d (m.filter fun e => p e.1) k = if p k then SMap.get d m k else d := by
  induction m with
  | nil => simp
  | cons e m ih =>
    obtain ⟨a, b⟩ := e
    by_cases ha : p a = true <;> by_cases hk : a = k <;> simp_all [List.filter_cons, SMap.get]

theorem SMap.get_erase_ne (h : k ≠ n) : SMap.get d (SMap.erase m n) k = SMap.get d m k := by
  rw [SMap.erase, SMap.get_filter (p := fun a => a != n)]; simp [h]

theorem SMap.get_insert_ne (h : k ≠ n) : SMap.get d (SMap.insert m n x) k = SMap.get d m k := by
  induction m with
  | nil => simp [SMap.insert, SMap.get, h.symm]
  | cons e m ih =>
    simp only [SMap.insert]
    split
    · simp [SMap.get, h.symm]
    · simp [SMap.get, ih]

theorem SMap.get_insert_self (h : ∀ e ∈ m, e.1 ≠ n) : SMap.get d (SMap.insert m n x) n = x := by
  induction m with
  | nil => simp [SMap.insert, SMap.get]
  | cons e m ih =>
    simp only [SMap.insert]
    split
    · simp [SMap.get]
    · simp only [List.mem_cons, forall_eq_or_imp] at h
      simp [SMap.get, h.1, ih h.2]

theorem SMap.absent_erase : ∀ e ∈ SMap.erase m n, e.1 ≠ n := fun e he => by
  simpa [SMap.erase] using (List.mem_filter.1 he).2

/-- A map holds what is put into it. -/
@[simp] theorem SMap.get_put_self [DecidableEq α] : SMap.get d (SMap.put d m n x) n = x := by
  unfold SMap.put
  split
  · next h => simp [h]
  · exact SMap.get_insert_self SMap.absent_erase

/-- Every other key keeps its value. -/
theorem SMap.get_put_ne [DecidableEq α] (h : k ≠ n) : SMap.get d (SMap.put d m n x) k = SMap.get d m k := by
  unfold SMap.put
  split
  · exact SMap.get_erase_ne h
  · rw [SMap.get_insert_ne h, SMap.get_erase_ne h]

theorem SMap.get_put [DecidableEq α] : SMap.get d (SMap.put d m n x) k = if k = n then x else SMap.get d m k := by
  split
  · next h => simp [h]
  · next h => exact SMap.get_put_ne h

/-! ### The canonical form -/

theorem SMap.wf_cons [DecidableEq α] {e : Nat × α} :
    SMap.wf d (e :: m) = true ↔ e.2 ≠ d ∧ (∀ f ∈ m, e.1 < f.1) ∧ SMap.wf d m = true := by
  obtain ⟨a, b⟩ := e
  simp [SMap.wf, and_assoc]

theorem SMap.wf_filter [DecidableEq α] (p : Nat × α → Bool) (h : SMap.wf d m = true) : SMap.wf d (m.filter p) = true := by
  induction m with
  | nil => rfl
  | cons e m ih =>
    obtain ⟨h1, h2, h3⟩ := SMap.wf_cons.1 h
    by_cases hp : p e = true
    · rw [List.filter_cons_of_pos hp]
      exact SMap.wf_cons.2 ⟨h1, fun f hf => h2 f (List.mem_filter.1 hf).1, ih h3⟩
    · rw [List.filter_cons_of_neg hp]; exact ih h3

theorem SMap.mem_insert {e : Nat × α} : e ∈ SMap.insert m n x ↔ e = (n, x) ∨ e ∈ m := by
  induction m with
  | nil => simp [SMap.insert]
  | cons f m ih =>
    simp only [SMap.insert]
    split
    · simp
    · simp [ih]; tauto

theorem SMap.wf_insert [DecidableEq α] (hx : x ≠ d) (h : SMap.wf d m = true) (ha : ∀ e ∈ m, e.1 ≠ n) :
    SMap.wf d (SMap.insert m n x) = true := by
  induction m with
  | nil => simp [SMap.insert, SMap.wf, hx]
  | cons e m ih =>
    obtain ⟨h1, h2, h3⟩ := SMap.wf_cons.1 h
    simp only [List.mem_cons, forall_eq_or_imp] at ha
    simp only [SMap.insert]
    split
    · next hlt =>
      exact SMap.wf_cons.2 ⟨hx, fun f hf => by
        rcases List.mem_cons.1 hf with rfl | hf
        · exact hlt
        · exact hlt.trans (h2 f hf), h⟩
    · next hge =>
      refine SMap.wf_cons.2 ⟨h1, fun f hf => ?_, ih h3 ha.2⟩
      rcases SMap.mem_insert.1 hf with rfl | hf
      · exact lt_of_le_of_ne (not_lt.1 hge) ha.1
      · exact h2 f hf

/-- Putting a value in keeps the canonical form. -/
theorem SMap.wf_put [DecidableEq α] (h : SMap.wf d m = true) : SMap.wf d (SMap.put d m n x) = true := by
  unfold SMap.put
  split
  · exact SMap.wf_filter _ h
  · next hx => exact SMap.wf_insert hx (SMap.wf_filter _ h) SMap.absent_erase

/-- Equal contents are equal data: canonical maps that agree at every key are the same list. -/
theorem SMap.wf_ext [DecidableEq α] {m' : SMap α} (h : SMap.wf d m = true) (h' : SMap.wf d m' = true)
    (e : ∀ k, SMap.get d m k = SMap.get d m' k) : m = m' := by
  induction m generalizing m' with
  | nil =>
    cases m' with
    | nil => rfl
    | cons f m' => exact absurd (e f.1).symm (by simpa [SMap.get] using (SMap.wf_cons.1 h').1)
  | cons a m ih =>
    cases m' with
    | nil => exact absurd (e a.1) (by simpa [SMap.get] using (SMap.wf_cons.1 h).1)
    | cons b m' =>
      obtain ⟨h1, h2, h3⟩ := SMap.wf_cons.1 h
      obtain ⟨g1, g2, g3⟩ := SMap.wf_cons.1 h'
      have hab : a.1 = b.1 := by
        rcases lt_trichotomy a.1 b.1 with hl | hl | hl
        · have := e a.1
          rw [SMap.get_of_absent (m := b :: m') (by
            intro f hf; rcases List.mem_cons.1 hf with rfl | hf
            · exact hl.ne'
            · exact (hl.trans (g2 f hf)).ne')] at this
          simp [SMap.get, h1] at this
        · exact hl
        · have := e b.1
          rw [SMap.get_of_absent (m := a :: m) (by
            intro f hf; rcases List.mem_cons.1 hf with rfl | hf
            · exact hl.ne'
            · exact (hl.trans (h2 f hf)).ne')] at this
          simp [SMap.get] at this; exact absurd this.symm g1
      have hv : a.2 = b.2 := by simpa [SMap.get, hab] using e a.1
      refine congrArg₂ List.cons (Prod.ext hab hv) (ih h3 g3 fun k => ?_)
      by_cases hk : a.1 = k
      · rw [SMap.get_of_absent fun f hf => (hk ▸ h2 f hf).ne', SMap.get_of_absent fun f hf => (hk ▸ hab ▸ g2 f hf).ne']
      · simpa [SMap.get, hk, hab ▸ hk] using e k

/-! ### Byte memory -/

@[simp] theorem Memory.read_write_self (m : Memory) (k : Nat) (b : BitVec 8) : (m.write k b).read k = b := SMap.get_put_self

theorem Memory.read_write_ne (m : Memory) {k j : Nat} (b : BitVec 8) (h : j ≠ k) : (m.write k b).read j = m.read j :=
  SMap.get_put_ne h

theorem Memory.wf_write {m : Memory} (h : m.wf = true) (k : Nat) (b : BitVec 8) : (m.write k b).wf = true := SMap.wf_put h

/-- A write of `n` bytes keeps the canonical form. -/
theorem Memory.wf_writeN (n : Nat) : ∀ {m : Memory} (k v mask : Nat), m.wf = true → (m.writeN k n v mask).wf = true := by
  induction n with
  | zero => intro m k v mask h; exact h
  | succ n ih =>
    intro m k v mask h
    unfold Memory.writeN
    refine ih _ _ _ ?_
    split
    · exact Memory.wf_write h _ _
    · exact h

theorem Memory.wf_filter {m : Memory} (p : Host.Cell → Bool) (h : m.wf = true) : Memory.wf (m.filter p) = true :=
  SMap.wf_filter p h

/-- A write of `n` bytes leaves every byte outside them. -/
theorem Memory.read_writeN_out (n : Nat) : ∀ (m : Memory) (k v mask j : Nat), j < k ∨ k + n ≤ j → (m.writeN k n v mask).read j = m.read j := by
  induction n with
  | zero => intros; rfl
  | succ n ih =>
    intro m k v mask j h
    unfold Memory.writeN
    rw [ih _ _ _ _ _ (by omega)]
    split
    · exact Memory.read_write_ne _ _ (by omega)
    · rfl

/-- A write of `n` bytes leaves its byte of `v` in each byte whose enable is 1, and the others as they were. -/
theorem Memory.read_writeN_in (n : Nat) : ∀ (m : Memory) (k v mask i : Nat), i < n →
    (m.writeN k n v mask).read (k + i) = if mask / 2 ^ i % 2 = 1 then BitVec.ofNat 8 (v / 256 ^ i) else m.read (k + i) := by
  induction n with
  | zero => intro m k v mask i h; omega
  | succ n ih =>
    intro m k v mask i h
    unfold Memory.writeN
    rcases i with _ | i
    · rw [Memory.read_writeN_out _ _ _ _ _ _ (by omega)]
      simp only [pow_zero, Nat.div_one, Nat.add_zero]
      split
      · simp
      · rfl
    · rw [show k + (i + 1) = k + 1 + i by omega, ih _ _ _ _ _ (by omega), Nat.div_div_eq_div_mul, Nat.div_div_eq_div_mul,
        ← pow_succ', ← pow_succ']
      split
      · rfl
      · split
        · exact Memory.read_write_ne _ _ (by omega)
        · rfl

/-- `n` bytes are a number below 256 ^ n. -/
theorem Memory.readN_lt (m : Memory) (n : Nat) : ∀ k, m.readN k n < 256 ^ n := by
  induction n with
  | zero => intro k; simp [Memory.readN]
  | succ n ih =>
    intro k
    have := ih (k + 1)
    have hb := (m.read k).isLt
    simp only [Memory.readN, pow_succ]
    omega

/-- Byte `i` of a number of `n` bytes is the memory's byte. -/
theorem Memory.readN_byte (m : Memory) (n : Nat) : ∀ k i, i < n → m.readN k n / 256 ^ i % 256 = (m.read (k + i)).toNat := by
  induction n with
  | zero => intro k i h; omega
  | succ n ih =>
    intro k i h
    have hb := (m.read k).isLt
    rcases i with _ | i
    · simp [Memory.readN]; omega
    · simp only [Memory.readN]
      rw [pow_succ', ← Nat.div_div_eq_div_mul, show ((m.read k).toNat + 256 * m.readN (k + 1) n) / 256 = m.readN (k + 1) n by omega,
        ih _ _ (by omega), show k + 1 + i = k + (i + 1) by omega]

/-- Two memories that agree on `n` bytes read the same number there. -/
theorem Memory.readN_congr {m m' : Memory} (n : Nat) : ∀ k, (∀ i, i < n → m.read (k + i) = m'.read (k + i)) → m.readN k n = m'.readN k n := by
  induction n with
  | zero => intros; rfl
  | succ n ih =>
    intro k h
    simp only [Memory.readN]
    rw [show m.read k = m'.read k from h 0 (by omega), ih (k + 1) fun i hi => by
      have := h (i + 1) (by omega); rwa [show k + (i + 1) = k + 1 + i by omega] at this]

/-- All `n` bytes written read back. -/
theorem Memory.readN_writeN (n : Nat) : ∀ (m : Memory) (k v : Nat), (m.writeN k n v (allBytes n)).readN k n = v % 256 ^ n := by
  induction n with
  | zero => intro m k v; simp [Memory.readN, Nat.mod_one]
  | succ n ih =>
    intro m k v
    have hp : 1 ≤ 2 ^ n := Nat.one_le_two_pow
    have h1 : allBytes (n + 1) % 2 = 1 := by simp only [allBytes, pow_succ]; omega
    have h2 : allBytes (n + 1) / 2 = allBytes n := by simp only [allBytes, pow_succ]; omega
    simp only [Memory.writeN, Memory.readN, h1, h2, if_true]
    rw [ih, Memory.read_writeN_out _ _ _ _ _ _ (by omega), Memory.read_write_self, BitVec.toNat_ofNat, show 2 ^ 8 = 256 from rfl, pow_succ', Nat.mod_mul]

/-- A number of bytes that misses the bytes written reads as before. -/
theorem Memory.readN_writeN_out (m : Memory) (k n v mask j l : Nat) (h : j + l ≤ k ∨ k + n ≤ j) :
    (m.writeN k n v mask).readN j l = m.readN j l :=
  Memory.readN_congr _ _ fun i hi => Memory.read_writeN_out _ _ _ _ _ _ (by omega)

end Sys2Proof.Machine
end

