-- ==== Sys2Proof/Laws/State.lean ====
section
/-! SUPPORT. What each update of the state keeps, field by field, and what it leaves in the field that it changes. -/

namespace Sys2Proof.Machine

variable (s : State)

/-! ### `setCtx` -/

@[simp] theorem State.setCtx_tide (x : Nat) (c : Ctx) : (s.setCtx x c).tide = s.tide := rfl
@[simp] theorem State.setCtx_phase (x : Nat) (c : Ctx) : (s.setCtx x c).phase = s.phase := rfl
@[simp] theorem State.setCtx_agenda (x : Nat) (c : Ctx) : (s.setCtx x c).agenda = s.agenda := rfl
@[simp] theorem State.setCtx_staged (x : Nat) (c : Ctx) : (s.setCtx x c).staged = s.staged := rfl
@[simp] theorem State.setCtx_fr (x : Nat) (c : Ctx) : (s.setCtx x c).fr = s.fr := rfl
@[simp] theorem State.setCtx_flight (x : Nat) (c : Ctx) : (s.setCtx x c).flight = s.flight := rfl
@[simp] theorem State.setCtx_timed (x : Nat) (c : Ctx) : (s.setCtx x c).timed = s.timed := rfl
@[simp] theorem State.setCtx_pend (x : Nat) (c : Ctx) : (s.setCtx x c).pend = s.pend := rfl
@[simp] theorem State.setCtx_landed (x : Nat) (c : Ctx) : (s.setCtx x c).landed = s.landed := rfl
@[simp] theorem State.setCtx_undo (x : Nat) (c : Ctx) : (s.setCtx x c).undo = s.undo := rfl
@[simp] theorem State.setCtx_faults (x : Nat) (c : Ctx) : (s.setCtx x c).faults = s.faults := rfl
@[simp] theorem State.setCtx_mem (x : Nat) (c : Ctx) : (s.setCtx x c).mem = s.mem := rfl
@[simp] theorem State.setCtx_poison (x : Nat) (c : Ctx) : (s.setCtx x c).poison = s.poison := rfl
@[simp] theorem State.setCtx_ecc (x : Nat) (c : Ctx) : (s.setCtx x c).ecc = s.ecc := rfl
@[simp] theorem State.setCtx_soft (x : Nat) (c : Ctx) : (s.setCtx x c).soft = s.soft := rfl
@[simp] theorem State.setCtx_cores (x : Nat) (c : Ctx) : (s.setCtx x c).cores = s.cores := rfl
@[simp] theorem State.setCtx_clus (x : Nat) (c : Ctx) : (s.setCtx x c).clus = s.clus := rfl
@[simp] theorem State.setCtx_gangs (x : Nat) (c : Ctx) : (s.setCtx x c).gangs = s.gangs := rfl
@[simp] theorem State.setCtx_tiles (x : Nat) (c : Ctx) : (s.setCtx x c).tiles = s.tiles := rfl
@[simp] theorem State.setCtx_mod (x : Nat) (c : Ctx) : (s.setCtx x c).mod = s.mod := rfl
@[simp] theorem State.setCtx_nextId (x : Nat) (c : Ctx) : (s.setCtx x c).nextId = s.nextId := rfl
@[simp] theorem State.setCtx_free (x : Nat) (c : Ctx) : (s.setCtx x c).free = s.free := rfl
@[simp] theorem State.setCtx_inputs (x : Nat) (c : Ctx) : (s.setCtx x c).inputs = s.inputs := rfl

/-! ### `updCtx` -/

@[simp] theorem State.updCtx_tide (x : Nat) (f : Ctx → Ctx) : (s.updCtx x f).tide = s.tide := rfl
@[simp] theorem State.updCtx_phase (x : Nat) (f : Ctx → Ctx) : (s.updCtx x f).phase = s.phase := rfl
@[simp] theorem State.updCtx_agenda (x : Nat) (f : Ctx → Ctx) : (s.updCtx x f).agenda = s.agenda := rfl
@[simp] theorem State.updCtx_staged (x : Nat) (f : Ctx → Ctx) : (s.updCtx x f).staged = s.staged := rfl
@[simp] theorem State.updCtx_fr (x : Nat) (f : Ctx → Ctx) : (s.updCtx x f).fr = s.fr := rfl
@[simp] theorem State.updCtx_flight (x : Nat) (f : Ctx → Ctx) : (s.updCtx x f).flight = s.flight := rfl
@[simp] theorem State.updCtx_timed (x : Nat) (f : Ctx → Ctx) : (s.updCtx x f).timed = s.timed := rfl
@[simp] theorem State.updCtx_pend (x : Nat) (f : Ctx → Ctx) : (s.updCtx x f).pend = s.pend := rfl
@[simp] theorem State.updCtx_landed (x : Nat) (f : Ctx → Ctx) : (s.updCtx x f).landed = s.landed := rfl
@[simp] theorem State.updCtx_undo (x : Nat) (f : Ctx → Ctx) : (s.updCtx x f).undo = s.undo := rfl
@[simp] theorem State.updCtx_faults (x : Nat) (f : Ctx → Ctx) : (s.updCtx x f).faults = s.faults := rfl
@[simp] theorem State.updCtx_mem (x : Nat) (f : Ctx → Ctx) : (s.updCtx x f).mem = s.mem := rfl
@[simp] theorem State.updCtx_poison (x : Nat) (f : Ctx → Ctx) : (s.updCtx x f).poison = s.poison := rfl
@[simp] theorem State.updCtx_ecc (x : Nat) (f : Ctx → Ctx) : (s.updCtx x f).ecc = s.ecc := rfl
@[simp] theorem State.updCtx_soft (x : Nat) (f : Ctx → Ctx) : (s.updCtx x f).soft = s.soft := rfl
@[simp] theorem State.updCtx_cores (x : Nat) (f : Ctx → Ctx) : (s.updCtx x f).cores = s.cores := rfl
@[simp] theorem State.updCtx_clus (x : Nat) (f : Ctx → Ctx) : (s.updCtx x f).clus = s.clus := rfl
@[simp] theorem State.updCtx_gangs (x : Nat) (f : Ctx → Ctx) : (s.updCtx x f).gangs = s.gangs := rfl
@[simp] theorem State.updCtx_tiles (x : Nat) (f : Ctx → Ctx) : (s.updCtx x f).tiles = s.tiles := rfl
@[simp] theorem State.updCtx_mod (x : Nat) (f : Ctx → Ctx) : (s.updCtx x f).mod = s.mod := rfl
@[simp] theorem State.updCtx_nextId (x : Nat) (f : Ctx → Ctx) : (s.updCtx x f).nextId = s.nextId := rfl
@[simp] theorem State.updCtx_free (x : Nat) (f : Ctx → Ctx) : (s.updCtx x f).free = s.free := rfl
@[simp] theorem State.updCtx_inputs (x : Nat) (f : Ctx → Ctx) : (s.updCtx x f).inputs = s.inputs := rfl

/-! ### `setCore` -/

@[simp] theorem State.setCore_tide (x : Nat) (k : Core) : (s.setCore x k).tide = s.tide := rfl
@[simp] theorem State.setCore_phase (x : Nat) (k : Core) : (s.setCore x k).phase = s.phase := rfl
@[simp] theorem State.setCore_agenda (x : Nat) (k : Core) : (s.setCore x k).agenda = s.agenda := rfl
@[simp] theorem State.setCore_staged (x : Nat) (k : Core) : (s.setCore x k).staged = s.staged := rfl
@[simp] theorem State.setCore_fr (x : Nat) (k : Core) : (s.setCore x k).fr = s.fr := rfl
@[simp] theorem State.setCore_flight (x : Nat) (k : Core) : (s.setCore x k).flight = s.flight := rfl
@[simp] theorem State.setCore_timed (x : Nat) (k : Core) : (s.setCore x k).timed = s.timed := rfl
@[simp] theorem State.setCore_pend (x : Nat) (k : Core) : (s.setCore x k).pend = s.pend := rfl
@[simp] theorem State.setCore_landed (x : Nat) (k : Core) : (s.setCore x k).landed = s.landed := rfl
@[simp] theorem State.setCore_undo (x : Nat) (k : Core) : (s.setCore x k).undo = s.undo := rfl
@[simp] theorem State.setCore_faults (x : Nat) (k : Core) : (s.setCore x k).faults = s.faults := rfl
@[simp] theorem State.setCore_mem (x : Nat) (k : Core) : (s.setCore x k).mem = s.mem := rfl
@[simp] theorem State.setCore_poison (x : Nat) (k : Core) : (s.setCore x k).poison = s.poison := rfl
@[simp] theorem State.setCore_ecc (x : Nat) (k : Core) : (s.setCore x k).ecc = s.ecc := rfl
@[simp] theorem State.setCore_soft (x : Nat) (k : Core) : (s.setCore x k).soft = s.soft := rfl
@[simp] theorem State.setCore_ctxs (x : Nat) (k : Core) : (s.setCore x k).ctxs = s.ctxs := rfl
@[simp] theorem State.setCore_clus (x : Nat) (k : Core) : (s.setCore x k).clus = s.clus := rfl
@[simp] theorem State.setCore_gangs (x : Nat) (k : Core) : (s.setCore x k).gangs = s.gangs := rfl
@[simp] theorem State.setCore_tiles (x : Nat) (k : Core) : (s.setCore x k).tiles = s.tiles := rfl
@[simp] theorem State.setCore_mod (x : Nat) (k : Core) : (s.setCore x k).mod = s.mod := rfl
@[simp] theorem State.setCore_nextId (x : Nat) (k : Core) : (s.setCore x k).nextId = s.nextId := rfl
@[simp] theorem State.setCore_free (x : Nat) (k : Core) : (s.setCore x k).free = s.free := rfl
@[simp] theorem State.setCore_inputs (x : Nat) (k : Core) : (s.setCore x k).inputs = s.inputs := rfl

/-! ### `setClu` -/

@[simp] theorem State.setClu_tide (x : Nat) (k : Cluster) : (s.setClu x k).tide = s.tide := rfl
@[simp] theorem State.setClu_phase (x : Nat) (k : Cluster) : (s.setClu x k).phase = s.phase := rfl
@[simp] theorem State.setClu_agenda (x : Nat) (k : Cluster) : (s.setClu x k).agenda = s.agenda := rfl
@[simp] theorem State.setClu_staged (x : Nat) (k : Cluster) : (s.setClu x k).staged = s.staged := rfl
@[simp] theorem State.setClu_fr (x : Nat) (k : Cluster) : (s.setClu x k).fr = s.fr := rfl
@[simp] theorem State.setClu_flight (x : Nat) (k : Cluster) : (s.setClu x k).flight = s.flight := rfl
@[simp] theorem State.setClu_timed (x : Nat) (k : Cluster) : (s.setClu x k).timed = s.timed := rfl
@[simp] theorem State.setClu_pend (x : Nat) (k : Cluster) : (s.setClu x k).pend = s.pend := rfl
@[simp] theorem State.setClu_landed (x : Nat) (k : Cluster) : (s.setClu x k).landed = s.landed := rfl
@[simp] theorem State.setClu_undo (x : Nat) (k : Cluster) : (s.setClu x k).undo = s.undo := rfl
@[simp] theorem State.setClu_faults (x : Nat) (k : Cluster) : (s.setClu x k).faults = s.faults := rfl
@[simp] theorem State.setClu_mem (x : Nat) (k : Cluster) : (s.setClu x k).mem = s.mem := rfl
@[simp] theorem State.setClu_poison (x : Nat) (k : Cluster) : (s.setClu x k).poison = s.poison := rfl
@[simp] theorem State.setClu_ecc (x : Nat) (k : Cluster) : (s.setClu x k).ecc = s.ecc := rfl
@[simp] theorem State.setClu_soft (x : Nat) (k : Cluster) : (s.setClu x k).soft = s.soft := rfl
@[simp] theorem State.setClu_ctxs (x : Nat) (k : Cluster) : (s.setClu x k).ctxs = s.ctxs := rfl
@[simp] theorem State.setClu_cores (x : Nat) (k : Cluster) : (s.setClu x k).cores = s.cores := rfl
@[simp] theorem State.setClu_gangs (x : Nat) (k : Cluster) : (s.setClu x k).gangs = s.gangs := rfl
@[simp] theorem State.setClu_tiles (x : Nat) (k : Cluster) : (s.setClu x k).tiles = s.tiles := rfl
@[simp] theorem State.setClu_mod (x : Nat) (k : Cluster) : (s.setClu x k).mod = s.mod := rfl
@[simp] theorem State.setClu_nextId (x : Nat) (k : Cluster) : (s.setClu x k).nextId = s.nextId := rfl
@[simp] theorem State.setClu_free (x : Nat) (k : Cluster) : (s.setClu x k).free = s.free := rfl
@[simp] theorem State.setClu_inputs (x : Nat) (k : Cluster) : (s.setClu x k).inputs = s.inputs := rfl

/-! ### `setGang` -/

@[simp] theorem State.setGang_tide (x : Nat) (k : Gang) : (s.setGang x k).tide = s.tide := rfl
@[simp] theorem State.setGang_phase (x : Nat) (k : Gang) : (s.setGang x k).phase = s.phase := rfl
@[simp] theorem State.setGang_agenda (x : Nat) (k : Gang) : (s.setGang x k).agenda = s.agenda := rfl
@[simp] theorem State.setGang_staged (x : Nat) (k : Gang) : (s.setGang x k).staged = s.staged := rfl
@[simp] theorem State.setGang_fr (x : Nat) (k : Gang) : (s.setGang x k).fr = s.fr := rfl
@[simp] theorem State.setGang_flight (x : Nat) (k : Gang) : (s.setGang x k).flight = s.flight := rfl
@[simp] theorem State.setGang_timed (x : Nat) (k : Gang) : (s.setGang x k).timed = s.timed := rfl
@[simp] theorem State.setGang_pend (x : Nat) (k : Gang) : (s.setGang x k).pend = s.pend := rfl
@[simp] theorem State.setGang_landed (x : Nat) (k : Gang) : (s.setGang x k).landed = s.landed := rfl
@[simp] theorem State.setGang_undo (x : Nat) (k : Gang) : (s.setGang x k).undo = s.undo := rfl
@[simp] theorem State.setGang_faults (x : Nat) (k : Gang) : (s.setGang x k).faults = s.faults := rfl
@[simp] theorem State.setGang_mem (x : Nat) (k : Gang) : (s.setGang x k).mem = s.mem := rfl
@[simp] theorem State.setGang_poison (x : Nat) (k : Gang) : (s.setGang x k).poison = s.poison := rfl
@[simp] theorem State.setGang_ecc (x : Nat) (k : Gang) : (s.setGang x k).ecc = s.ecc := rfl
@[simp] theorem State.setGang_soft (x : Nat) (k : Gang) : (s.setGang x k).soft = s.soft := rfl
@[simp] theorem State.setGang_ctxs (x : Nat) (k : Gang) : (s.setGang x k).ctxs = s.ctxs := rfl
@[simp] theorem State.setGang_cores (x : Nat) (k : Gang) : (s.setGang x k).cores = s.cores := rfl
@[simp] theorem State.setGang_clus (x : Nat) (k : Gang) : (s.setGang x k).clus = s.clus := rfl
@[simp] theorem State.setGang_tiles (x : Nat) (k : Gang) : (s.setGang x k).tiles = s.tiles := rfl
@[simp] theorem State.setGang_mod (x : Nat) (k : Gang) : (s.setGang x k).mod = s.mod := rfl
@[simp] theorem State.setGang_nextId (x : Nat) (k : Gang) : (s.setGang x k).nextId = s.nextId := rfl
@[simp] theorem State.setGang_free (x : Nat) (k : Gang) : (s.setGang x k).free = s.free := rfl
@[simp] theorem State.setGang_inputs (x : Nat) (k : Gang) : (s.setGang x k).inputs = s.inputs := rfl

/-! ### `updGang` -/

@[simp] theorem State.updGang_tide (x : Nat) (f : Gang → Gang) : (s.updGang x f).tide = s.tide := rfl
@[simp] theorem State.updGang_phase (x : Nat) (f : Gang → Gang) : (s.updGang x f).phase = s.phase := rfl
@[simp] theorem State.updGang_agenda (x : Nat) (f : Gang → Gang) : (s.updGang x f).agenda = s.agenda := rfl
@[simp] theorem State.updGang_staged (x : Nat) (f : Gang → Gang) : (s.updGang x f).staged = s.staged := rfl
@[simp] theorem State.updGang_fr (x : Nat) (f : Gang → Gang) : (s.updGang x f).fr = s.fr := rfl
@[simp] theorem State.updGang_flight (x : Nat) (f : Gang → Gang) : (s.updGang x f).flight = s.flight := rfl
@[simp] theorem State.updGang_timed (x : Nat) (f : Gang → Gang) : (s.updGang x f).timed = s.timed := rfl
@[simp] theorem State.updGang_pend (x : Nat) (f : Gang → Gang) : (s.updGang x f).pend = s.pend := rfl
@[simp] theorem State.updGang_landed (x : Nat) (f : Gang → Gang) : (s.updGang x f).landed = s.landed := rfl
@[simp] theorem State.updGang_undo (x : Nat) (f : Gang → Gang) : (s.updGang x f).undo = s.undo := rfl
@[simp] theorem State.updGang_faults (x : Nat) (f : Gang → Gang) : (s.updGang x f).faults = s.faults := rfl
@[simp] theorem State.updGang_mem (x : Nat) (f : Gang → Gang) : (s.updGang x f).mem = s.mem := rfl
@[simp] theorem State.updGang_poison (x : Nat) (f : Gang → Gang) : (s.updGang x f).poison = s.poison := rfl
@[simp] theorem State.updGang_ecc (x : Nat) (f : Gang → Gang) : (s.updGang x f).ecc = s.ecc := rfl
@[simp] theorem State.updGang_soft (x : Nat) (f : Gang → Gang) : (s.updGang x f).soft = s.soft := rfl
@[simp] theorem State.updGang_ctxs (x : Nat) (f : Gang → Gang) : (s.updGang x f).ctxs = s.ctxs := rfl
@[simp] theorem State.updGang_cores (x : Nat) (f : Gang → Gang) : (s.updGang x f).cores = s.cores := rfl
@[simp] theorem State.updGang_clus (x : Nat) (f : Gang → Gang) : (s.updGang x f).clus = s.clus := rfl
@[simp] theorem State.updGang_tiles (x : Nat) (f : Gang → Gang) : (s.updGang x f).tiles = s.tiles := rfl
@[simp] theorem State.updGang_mod (x : Nat) (f : Gang → Gang) : (s.updGang x f).mod = s.mod := rfl
@[simp] theorem State.updGang_nextId (x : Nat) (f : Gang → Gang) : (s.updGang x f).nextId = s.nextId := rfl
@[simp] theorem State.updGang_free (x : Nat) (f : Gang → Gang) : (s.updGang x f).free = s.free := rfl
@[simp] theorem State.updGang_inputs (x : Nat) (f : Gang → Gang) : (s.updGang x f).inputs = s.inputs := rfl

/-! ### `updMod` -/

@[simp] theorem State.updMod_tide (f : Module → Module) : (s.updMod f).tide = s.tide := rfl
@[simp] theorem State.updMod_phase (f : Module → Module) : (s.updMod f).phase = s.phase := rfl
@[simp] theorem State.updMod_agenda (f : Module → Module) : (s.updMod f).agenda = s.agenda := rfl
@[simp] theorem State.updMod_staged (f : Module → Module) : (s.updMod f).staged = s.staged := rfl
@[simp] theorem State.updMod_fr (f : Module → Module) : (s.updMod f).fr = s.fr := rfl
@[simp] theorem State.updMod_flight (f : Module → Module) : (s.updMod f).flight = s.flight := rfl
@[simp] theorem State.updMod_timed (f : Module → Module) : (s.updMod f).timed = s.timed := rfl
@[simp] theorem State.updMod_pend (f : Module → Module) : (s.updMod f).pend = s.pend := rfl
@[simp] theorem State.updMod_landed (f : Module → Module) : (s.updMod f).landed = s.landed := rfl
@[simp] theorem State.updMod_undo (f : Module → Module) : (s.updMod f).undo = s.undo := rfl
@[simp] theorem State.updMod_faults (f : Module → Module) : (s.updMod f).faults = s.faults := rfl
@[simp] theorem State.updMod_mem (f : Module → Module) : (s.updMod f).mem = s.mem := rfl
@[simp] theorem State.updMod_poison (f : Module → Module) : (s.updMod f).poison = s.poison := rfl
@[simp] theorem State.updMod_ecc (f : Module → Module) : (s.updMod f).ecc = s.ecc := rfl
@[simp] theorem State.updMod_soft (f : Module → Module) : (s.updMod f).soft = s.soft := rfl
@[simp] theorem State.updMod_ctxs (f : Module → Module) : (s.updMod f).ctxs = s.ctxs := rfl
@[simp] theorem State.updMod_cores (f : Module → Module) : (s.updMod f).cores = s.cores := rfl
@[simp] theorem State.updMod_clus (f : Module → Module) : (s.updMod f).clus = s.clus := rfl
@[simp] theorem State.updMod_gangs (f : Module → Module) : (s.updMod f).gangs = s.gangs := rfl
@[simp] theorem State.updMod_tiles (f : Module → Module) : (s.updMod f).tiles = s.tiles := rfl
@[simp] theorem State.updMod_nextId (f : Module → Module) : (s.updMod f).nextId = s.nextId := rfl
@[simp] theorem State.updMod_free (f : Module → Module) : (s.updMod f).free = s.free := rfl
@[simp] theorem State.updMod_inputs (f : Module → Module) : (s.updMod f).inputs = s.inputs := rfl

/-! ### `request` -/

@[simp] theorem State.request_tide (x F : Nat) (w : Why) : (s.request x F w).tide = s.tide := rfl
@[simp] theorem State.request_phase (x F : Nat) (w : Why) : (s.request x F w).phase = s.phase := rfl
@[simp] theorem State.request_agenda (x F : Nat) (w : Why) : (s.request x F w).agenda = s.agenda := rfl
@[simp] theorem State.request_staged (x F : Nat) (w : Why) : (s.request x F w).staged = s.staged := rfl
@[simp] theorem State.request_fr (x F : Nat) (w : Why) : (s.request x F w).fr = s.fr := rfl
@[simp] theorem State.request_flight (x F : Nat) (w : Why) : (s.request x F w).flight = s.flight := rfl
@[simp] theorem State.request_timed (x F : Nat) (w : Why) : (s.request x F w).timed = s.timed := rfl
@[simp] theorem State.request_pend (x F : Nat) (w : Why) : (s.request x F w).pend = s.pend := rfl
@[simp] theorem State.request_landed (x F : Nat) (w : Why) : (s.request x F w).landed = s.landed := rfl
@[simp] theorem State.request_undo (x F : Nat) (w : Why) : (s.request x F w).undo = s.undo := rfl
@[simp] theorem State.request_faults (x F : Nat) (w : Why) : (s.request x F w).faults = s.faults := rfl
@[simp] theorem State.request_mem (x F : Nat) (w : Why) : (s.request x F w).mem = s.mem := rfl
@[simp] theorem State.request_poison (x F : Nat) (w : Why) : (s.request x F w).poison = s.poison := rfl
@[simp] theorem State.request_ecc (x F : Nat) (w : Why) : (s.request x F w).ecc = s.ecc := rfl
@[simp] theorem State.request_soft (x F : Nat) (w : Why) : (s.request x F w).soft = s.soft := rfl
@[simp] theorem State.request_ctxs (x F : Nat) (w : Why) : (s.request x F w).ctxs = s.ctxs := rfl
@[simp] theorem State.request_cores (x F : Nat) (w : Why) : (s.request x F w).cores = s.cores := rfl
@[simp] theorem State.request_clus (x F : Nat) (w : Why) : (s.request x F w).clus = s.clus := rfl
@[simp] theorem State.request_tiles (x F : Nat) (w : Why) : (s.request x F w).tiles = s.tiles := rfl
@[simp] theorem State.request_mod (x F : Nat) (w : Why) : (s.request x F w).mod = s.mod := rfl
@[simp] theorem State.request_nextId (x F : Nat) (w : Why) : (s.request x F w).nextId = s.nextId := rfl
@[simp] theorem State.request_free (x F : Nat) (w : Why) : (s.request x F w).free = s.free := rfl
@[simp] theorem State.request_inputs (x F : Nat) (w : Why) : (s.request x F w).inputs = s.inputs := rfl

/-! ### `push` -/

@[simp] theorem State.push_tide (due : Nat) (e : Effect) (p r : Nat) : (s.push due e p r).tide = s.tide := rfl
@[simp] theorem State.push_phase (due : Nat) (e : Effect) (p r : Nat) : (s.push due e p r).phase = s.phase := rfl
@[simp] theorem State.push_agenda (due : Nat) (e : Effect) (p r : Nat) : (s.push due e p r).agenda = s.agenda := rfl
@[simp] theorem State.push_staged (due : Nat) (e : Effect) (p r : Nat) : (s.push due e p r).staged = s.staged := rfl
@[simp] theorem State.push_fr (due : Nat) (e : Effect) (p r : Nat) : (s.push due e p r).fr = s.fr := rfl
@[simp] theorem State.push_flight (due : Nat) (e : Effect) (p r : Nat) : (s.push due e p r).flight = s.flight := rfl
@[simp] theorem State.push_timed (due : Nat) (e : Effect) (p r : Nat) : (s.push due e p r).timed = s.timed := rfl
@[simp] theorem State.push_landed (due : Nat) (e : Effect) (p r : Nat) : (s.push due e p r).landed = s.landed := rfl
@[simp] theorem State.push_undo (due : Nat) (e : Effect) (p r : Nat) : (s.push due e p r).undo = s.undo := rfl
@[simp] theorem State.push_faults (due : Nat) (e : Effect) (p r : Nat) : (s.push due e p r).faults = s.faults := rfl
@[simp] theorem State.push_mem (due : Nat) (e : Effect) (p r : Nat) : (s.push due e p r).mem = s.mem := rfl
@[simp] theorem State.push_poison (due : Nat) (e : Effect) (p r : Nat) : (s.push due e p r).poison = s.poison := rfl
@[simp] theorem State.push_ecc (due : Nat) (e : Effect) (p r : Nat) : (s.push due e p r).ecc = s.ecc := rfl
@[simp] theorem State.push_soft (due : Nat) (e : Effect) (p r : Nat) : (s.push due e p r).soft = s.soft := rfl
@[simp] theorem State.push_ctxs (due : Nat) (e : Effect) (p r : Nat) : (s.push due e p r).ctxs = s.ctxs := rfl
@[simp] theorem State.push_cores (due : Nat) (e : Effect) (p r : Nat) : (s.push due e p r).cores = s.cores := rfl
@[simp] theorem State.push_clus (due : Nat) (e : Effect) (p r : Nat) : (s.push due e p r).clus = s.clus := rfl
@[simp] theorem State.push_gangs (due : Nat) (e : Effect) (p r : Nat) : (s.push due e p r).gangs = s.gangs := rfl
@[simp] theorem State.push_tiles (due : Nat) (e : Effect) (p r : Nat) : (s.push due e p r).tiles = s.tiles := rfl
@[simp] theorem State.push_mod (due : Nat) (e : Effect) (p r : Nat) : (s.push due e p r).mod = s.mod := rfl
@[simp] theorem State.push_nextId (due : Nat) (e : Effect) (p r : Nat) : (s.push due e p r).nextId = s.nextId := rfl
@[simp] theorem State.push_free (due : Nat) (e : Effect) (p r : Nat) : (s.push due e p r).free = s.free := rfl
@[simp] theorem State.push_inputs (due : Nat) (e : Effect) (p r : Nat) : (s.push due e p r).inputs = s.inputs := rfl

/-! ### `fly` -/

@[simp] theorem State.fly_tide (due : Nat) (i : Instr) (fr : Frame) : (s.fly due i fr).tide = s.tide := rfl
@[simp] theorem State.fly_phase (due : Nat) (i : Instr) (fr : Frame) : (s.fly due i fr).phase = s.phase := rfl
@[simp] theorem State.fly_agenda (due : Nat) (i : Instr) (fr : Frame) : (s.fly due i fr).agenda = s.agenda := rfl
@[simp] theorem State.fly_staged (due : Nat) (i : Instr) (fr : Frame) : (s.fly due i fr).staged = s.staged := rfl
@[simp] theorem State.fly_fr (due : Nat) (i : Instr) (fr : Frame) : (s.fly due i fr).fr = s.fr := rfl
@[simp] theorem State.fly_timed (due : Nat) (i : Instr) (fr : Frame) : (s.fly due i fr).timed = s.timed := rfl
@[simp] theorem State.fly_pend (due : Nat) (i : Instr) (fr : Frame) : (s.fly due i fr).pend = s.pend := rfl
@[simp] theorem State.fly_landed (due : Nat) (i : Instr) (fr : Frame) : (s.fly due i fr).landed = s.landed := rfl
@[simp] theorem State.fly_undo (due : Nat) (i : Instr) (fr : Frame) : (s.fly due i fr).undo = s.undo := rfl
@[simp] theorem State.fly_faults (due : Nat) (i : Instr) (fr : Frame) : (s.fly due i fr).faults = s.faults := rfl
@[simp] theorem State.fly_mem (due : Nat) (i : Instr) (fr : Frame) : (s.fly due i fr).mem = s.mem := rfl
@[simp] theorem State.fly_poison (due : Nat) (i : Instr) (fr : Frame) : (s.fly due i fr).poison = s.poison := rfl
@[simp] theorem State.fly_ecc (due : Nat) (i : Instr) (fr : Frame) : (s.fly due i fr).ecc = s.ecc := rfl
@[simp] theorem State.fly_soft (due : Nat) (i : Instr) (fr : Frame) : (s.fly due i fr).soft = s.soft := rfl
@[simp] theorem State.fly_ctxs (due : Nat) (i : Instr) (fr : Frame) : (s.fly due i fr).ctxs = s.ctxs := rfl
@[simp] theorem State.fly_cores (due : Nat) (i : Instr) (fr : Frame) : (s.fly due i fr).cores = s.cores := rfl
@[simp] theorem State.fly_clus (due : Nat) (i : Instr) (fr : Frame) : (s.fly due i fr).clus = s.clus := rfl
@[simp] theorem State.fly_gangs (due : Nat) (i : Instr) (fr : Frame) : (s.fly due i fr).gangs = s.gangs := rfl
@[simp] theorem State.fly_tiles (due : Nat) (i : Instr) (fr : Frame) : (s.fly due i fr).tiles = s.tiles := rfl
@[simp] theorem State.fly_mod (due : Nat) (i : Instr) (fr : Frame) : (s.fly due i fr).mod = s.mod := rfl
@[simp] theorem State.fly_nextId (due : Nat) (i : Instr) (fr : Frame) : (s.fly due i fr).nextId = s.nextId := rfl
@[simp] theorem State.fly_free (due : Nat) (i : Instr) (fr : Frame) : (s.fly due i fr).free = s.free := rfl
@[simp] theorem State.fly_inputs (due : Nat) (i : Instr) (fr : Frame) : (s.fly due i fr).inputs = s.inputs := rfl

/-! ### `timedAt` -/

@[simp] theorem State.timedAt_tide (T : Nat) (i : Instr) (fr : Frame) : (s.timedAt T i fr).tide = s.tide := rfl
@[simp] theorem State.timedAt_phase (T : Nat) (i : Instr) (fr : Frame) : (s.timedAt T i fr).phase = s.phase := rfl
@[simp] theorem State.timedAt_agenda (T : Nat) (i : Instr) (fr : Frame) : (s.timedAt T i fr).agenda = s.agenda := rfl
@[simp] theorem State.timedAt_staged (T : Nat) (i : Instr) (fr : Frame) : (s.timedAt T i fr).staged = s.staged := rfl
@[simp] theorem State.timedAt_fr (T : Nat) (i : Instr) (fr : Frame) : (s.timedAt T i fr).fr = s.fr := rfl
@[simp] theorem State.timedAt_flight (T : Nat) (i : Instr) (fr : Frame) : (s.timedAt T i fr).flight = s.flight := rfl
@[simp] theorem State.timedAt_pend (T : Nat) (i : Instr) (fr : Frame) : (s.timedAt T i fr).pend = s.pend := rfl
@[simp] theorem State.timedAt_landed (T : Nat) (i : Instr) (fr : Frame) : (s.timedAt T i fr).landed = s.landed := rfl
@[simp] theorem State.timedAt_undo (T : Nat) (i : Instr) (fr : Frame) : (s.timedAt T i fr).undo = s.undo := rfl
@[simp] theorem State.timedAt_faults (T : Nat) (i : Instr) (fr : Frame) : (s.timedAt T i fr).faults = s.faults := rfl
@[simp] theorem State.timedAt_mem (T : Nat) (i : Instr) (fr : Frame) : (s.timedAt T i fr).mem = s.mem := rfl
@[simp] theorem State.timedAt_poison (T : Nat) (i : Instr) (fr : Frame) : (s.timedAt T i fr).poison = s.poison := rfl
@[simp] theorem State.timedAt_ecc (T : Nat) (i : Instr) (fr : Frame) : (s.timedAt T i fr).ecc = s.ecc := rfl
@[simp] theorem State.timedAt_soft (T : Nat) (i : Instr) (fr : Frame) : (s.timedAt T i fr).soft = s.soft := rfl
@[simp] theorem State.timedAt_ctxs (T : Nat) (i : Instr) (fr : Frame) : (s.timedAt T i fr).ctxs = s.ctxs := rfl
@[simp] theorem State.timedAt_cores (T : Nat) (i : Instr) (fr : Frame) : (s.timedAt T i fr).cores = s.cores := rfl
@[simp] theorem State.timedAt_clus (T : Nat) (i : Instr) (fr : Frame) : (s.timedAt T i fr).clus = s.clus := rfl
@[simp] theorem State.timedAt_gangs (T : Nat) (i : Instr) (fr : Frame) : (s.timedAt T i fr).gangs = s.gangs := rfl
@[simp] theorem State.timedAt_tiles (T : Nat) (i : Instr) (fr : Frame) : (s.timedAt T i fr).tiles = s.tiles := rfl
@[simp] theorem State.timedAt_mod (T : Nat) (i : Instr) (fr : Frame) : (s.timedAt T i fr).mod = s.mod := rfl
@[simp] theorem State.timedAt_nextId (T : Nat) (i : Instr) (fr : Frame) : (s.timedAt T i fr).nextId = s.nextId := rfl
@[simp] theorem State.timedAt_free (T : Nat) (i : Instr) (fr : Frame) : (s.timedAt T i fr).free = s.free := rfl
@[simp] theorem State.timedAt_inputs (T : Nat) (i : Instr) (fr : Frame) : (s.timedAt T i fr).inputs = s.inputs := rfl

/-! ### `landS` -/

@[simp] theorem State.landS_tide (r : Nat) (v : Word) (due : Nat) : (s.landS r v due).tide = s.tide := rfl
@[simp] theorem State.landS_phase (r : Nat) (v : Word) (due : Nat) : (s.landS r v due).phase = s.phase := rfl
@[simp] theorem State.landS_agenda (r : Nat) (v : Word) (due : Nat) : (s.landS r v due).agenda = s.agenda := rfl
@[simp] theorem State.landS_staged (r : Nat) (v : Word) (due : Nat) : (s.landS r v due).staged = s.staged := rfl
@[simp] theorem State.landS_fr (r : Nat) (v : Word) (due : Nat) : (s.landS r v due).fr = s.fr := rfl
@[simp] theorem State.landS_flight (r : Nat) (v : Word) (due : Nat) : (s.landS r v due).flight = s.flight := rfl
@[simp] theorem State.landS_timed (r : Nat) (v : Word) (due : Nat) : (s.landS r v due).timed = s.timed := rfl
@[simp] theorem State.landS_landed (r : Nat) (v : Word) (due : Nat) : (s.landS r v due).landed = s.landed := rfl
@[simp] theorem State.landS_undo (r : Nat) (v : Word) (due : Nat) : (s.landS r v due).undo = s.undo := rfl
@[simp] theorem State.landS_faults (r : Nat) (v : Word) (due : Nat) : (s.landS r v due).faults = s.faults := rfl
@[simp] theorem State.landS_mem (r : Nat) (v : Word) (due : Nat) : (s.landS r v due).mem = s.mem := rfl
@[simp] theorem State.landS_poison (r : Nat) (v : Word) (due : Nat) : (s.landS r v due).poison = s.poison := rfl
@[simp] theorem State.landS_ecc (r : Nat) (v : Word) (due : Nat) : (s.landS r v due).ecc = s.ecc := rfl
@[simp] theorem State.landS_soft (r : Nat) (v : Word) (due : Nat) : (s.landS r v due).soft = s.soft := rfl
@[simp] theorem State.landS_ctxs (r : Nat) (v : Word) (due : Nat) : (s.landS r v due).ctxs = s.ctxs := rfl
@[simp] theorem State.landS_cores (r : Nat) (v : Word) (due : Nat) : (s.landS r v due).cores = s.cores := rfl
@[simp] theorem State.landS_clus (r : Nat) (v : Word) (due : Nat) : (s.landS r v due).clus = s.clus := rfl
@[simp] theorem State.landS_gangs (r : Nat) (v : Word) (due : Nat) : (s.landS r v due).gangs = s.gangs := rfl
@[simp] theorem State.landS_tiles (r : Nat) (v : Word) (due : Nat) : (s.landS r v due).tiles = s.tiles := rfl
@[simp] theorem State.landS_mod (r : Nat) (v : Word) (due : Nat) : (s.landS r v due).mod = s.mod := rfl
@[simp] theorem State.landS_nextId (r : Nat) (v : Word) (due : Nat) : (s.landS r v due).nextId = s.nextId := rfl
@[simp] theorem State.landS_free (r : Nat) (v : Word) (due : Nat) : (s.landS r v due).free = s.free := rfl
@[simp] theorem State.landS_inputs (r : Nat) (v : Word) (due : Nat) : (s.landS r v due).inputs = s.inputs := rfl

/-! ### `landV` -/

@[simp] theorem State.landV_tide (r k : Nat) (v m : Gran) (due : Nat) : (s.landV r k v m due).tide = s.tide := rfl
@[simp] theorem State.landV_phase (r k : Nat) (v m : Gran) (due : Nat) : (s.landV r k v m due).phase = s.phase := rfl
@[simp] theorem State.landV_agenda (r k : Nat) (v m : Gran) (due : Nat) : (s.landV r k v m due).agenda = s.agenda := rfl
@[simp] theorem State.landV_staged (r k : Nat) (v m : Gran) (due : Nat) : (s.landV r k v m due).staged = s.staged := rfl
@[simp] theorem State.landV_fr (r k : Nat) (v m : Gran) (due : Nat) : (s.landV r k v m due).fr = s.fr := rfl
@[simp] theorem State.landV_flight (r k : Nat) (v m : Gran) (due : Nat) : (s.landV r k v m due).flight = s.flight := rfl
@[simp] theorem State.landV_timed (r k : Nat) (v m : Gran) (due : Nat) : (s.landV r k v m due).timed = s.timed := rfl
@[simp] theorem State.landV_landed (r k : Nat) (v m : Gran) (due : Nat) : (s.landV r k v m due).landed = s.landed := rfl
@[simp] theorem State.landV_undo (r k : Nat) (v m : Gran) (due : Nat) : (s.landV r k v m due).undo = s.undo := rfl
@[simp] theorem State.landV_faults (r k : Nat) (v m : Gran) (due : Nat) : (s.landV r k v m due).faults = s.faults := rfl
@[simp] theorem State.landV_mem (r k : Nat) (v m : Gran) (due : Nat) : (s.landV r k v m due).mem = s.mem := rfl
@[simp] theorem State.landV_poison (r k : Nat) (v m : Gran) (due : Nat) : (s.landV r k v m due).poison = s.poison := rfl
@[simp] theorem State.landV_ecc (r k : Nat) (v m : Gran) (due : Nat) : (s.landV r k v m due).ecc = s.ecc := rfl
@[simp] theorem State.landV_soft (r k : Nat) (v m : Gran) (due : Nat) : (s.landV r k v m due).soft = s.soft := rfl
@[simp] theorem State.landV_ctxs (r k : Nat) (v m : Gran) (due : Nat) : (s.landV r k v m due).ctxs = s.ctxs := rfl
@[simp] theorem State.landV_cores (r k : Nat) (v m : Gran) (due : Nat) : (s.landV r k v m due).cores = s.cores := rfl
@[simp] theorem State.landV_clus (r k : Nat) (v m : Gran) (due : Nat) : (s.landV r k v m due).clus = s.clus := rfl
@[simp] theorem State.landV_gangs (r k : Nat) (v m : Gran) (due : Nat) : (s.landV r k v m due).gangs = s.gangs := rfl
@[simp] theorem State.landV_tiles (r k : Nat) (v m : Gran) (due : Nat) : (s.landV r k v m due).tiles = s.tiles := rfl
@[simp] theorem State.landV_mod (r k : Nat) (v m : Gran) (due : Nat) : (s.landV r k v m due).mod = s.mod := rfl
@[simp] theorem State.landV_nextId (r k : Nat) (v m : Gran) (due : Nat) : (s.landV r k v m due).nextId = s.nextId := rfl
@[simp] theorem State.landV_free (r k : Nat) (v m : Gran) (due : Nat) : (s.landV r k v m due).free = s.free := rfl
@[simp] theorem State.landV_inputs (r k : Nat) (v m : Gran) (due : Nat) : (s.landV r k v m due).inputs = s.inputs := rfl

/-! ### `landP` -/

@[simp] theorem State.landP_tide (p k : Nat) (v m : LaneMask) (due : Nat) : (s.landP p k v m due).tide = s.tide := rfl
@[simp] theorem State.landP_phase (p k : Nat) (v m : LaneMask) (due : Nat) : (s.landP p k v m due).phase = s.phase := rfl
@[simp] theorem State.landP_agenda (p k : Nat) (v m : LaneMask) (due : Nat) : (s.landP p k v m due).agenda = s.agenda := rfl
@[simp] theorem State.landP_staged (p k : Nat) (v m : LaneMask) (due : Nat) : (s.landP p k v m due).staged = s.staged := rfl
@[simp] theorem State.landP_fr (p k : Nat) (v m : LaneMask) (due : Nat) : (s.landP p k v m due).fr = s.fr := rfl
@[simp] theorem State.landP_flight (p k : Nat) (v m : LaneMask) (due : Nat) : (s.landP p k v m due).flight = s.flight := rfl
@[simp] theorem State.landP_timed (p k : Nat) (v m : LaneMask) (due : Nat) : (s.landP p k v m due).timed = s.timed := rfl
@[simp] theorem State.landP_landed (p k : Nat) (v m : LaneMask) (due : Nat) : (s.landP p k v m due).landed = s.landed := rfl
@[simp] theorem State.landP_undo (p k : Nat) (v m : LaneMask) (due : Nat) : (s.landP p k v m due).undo = s.undo := rfl
@[simp] theorem State.landP_faults (p k : Nat) (v m : LaneMask) (due : Nat) : (s.landP p k v m due).faults = s.faults := rfl
@[simp] theorem State.landP_mem (p k : Nat) (v m : LaneMask) (due : Nat) : (s.landP p k v m due).mem = s.mem := rfl
@[simp] theorem State.landP_poison (p k : Nat) (v m : LaneMask) (due : Nat) : (s.landP p k v m due).poison = s.poison := rfl
@[simp] theorem State.landP_ecc (p k : Nat) (v m : LaneMask) (due : Nat) : (s.landP p k v m due).ecc = s.ecc := rfl
@[simp] theorem State.landP_soft (p k : Nat) (v m : LaneMask) (due : Nat) : (s.landP p k v m due).soft = s.soft := rfl
@[simp] theorem State.landP_ctxs (p k : Nat) (v m : LaneMask) (due : Nat) : (s.landP p k v m due).ctxs = s.ctxs := rfl
@[simp] theorem State.landP_cores (p k : Nat) (v m : LaneMask) (due : Nat) : (s.landP p k v m due).cores = s.cores := rfl
@[simp] theorem State.landP_clus (p k : Nat) (v m : LaneMask) (due : Nat) : (s.landP p k v m due).clus = s.clus := rfl
@[simp] theorem State.landP_gangs (p k : Nat) (v m : LaneMask) (due : Nat) : (s.landP p k v m due).gangs = s.gangs := rfl
@[simp] theorem State.landP_tiles (p k : Nat) (v m : LaneMask) (due : Nat) : (s.landP p k v m due).tiles = s.tiles := rfl
@[simp] theorem State.landP_mod (p k : Nat) (v m : LaneMask) (due : Nat) : (s.landP p k v m due).mod = s.mod := rfl
@[simp] theorem State.landP_nextId (p k : Nat) (v m : LaneMask) (due : Nat) : (s.landP p k v m due).nextId = s.nextId := rfl
@[simp] theorem State.landP_free (p k : Nat) (v m : LaneMask) (due : Nat) : (s.landP p k v m due).free = s.free := rfl
@[simp] theorem State.landP_inputs (p k : Nat) (v m : LaneMask) (due : Nat) : (s.landP p k v m due).inputs = s.inputs := rfl

/-! ### `raise` -/

@[simp] theorem State.raise_tide (c : Nat) (i b : Word) (n : Nat) (z : Bool) : (s.raise c i b n z).tide = s.tide := rfl
@[simp] theorem State.raise_phase (c : Nat) (i b : Word) (n : Nat) (z : Bool) : (s.raise c i b n z).phase = s.phase := rfl
@[simp] theorem State.raise_agenda (c : Nat) (i b : Word) (n : Nat) (z : Bool) : (s.raise c i b n z).agenda = s.agenda := rfl
@[simp] theorem State.raise_staged (c : Nat) (i b : Word) (n : Nat) (z : Bool) : (s.raise c i b n z).staged = s.staged := rfl
@[simp] theorem State.raise_fr (c : Nat) (i b : Word) (n : Nat) (z : Bool) : (s.raise c i b n z).fr = s.fr := rfl
@[simp] theorem State.raise_flight (c : Nat) (i b : Word) (n : Nat) (z : Bool) : (s.raise c i b n z).flight = s.flight := rfl
@[simp] theorem State.raise_timed (c : Nat) (i b : Word) (n : Nat) (z : Bool) : (s.raise c i b n z).timed = s.timed := rfl
@[simp] theorem State.raise_pend (c : Nat) (i b : Word) (n : Nat) (z : Bool) : (s.raise c i b n z).pend = s.pend := rfl
@[simp] theorem State.raise_landed (c : Nat) (i b : Word) (n : Nat) (z : Bool) : (s.raise c i b n z).landed = s.landed := rfl
@[simp] theorem State.raise_undo (c : Nat) (i b : Word) (n : Nat) (z : Bool) : (s.raise c i b n z).undo = s.undo := rfl
@[simp] theorem State.raise_mem (c : Nat) (i b : Word) (n : Nat) (z : Bool) : (s.raise c i b n z).mem = s.mem := rfl
@[simp] theorem State.raise_poison (c : Nat) (i b : Word) (n : Nat) (z : Bool) : (s.raise c i b n z).poison = s.poison := rfl
@[simp] theorem State.raise_ecc (c : Nat) (i b : Word) (n : Nat) (z : Bool) : (s.raise c i b n z).ecc = s.ecc := rfl
@[simp] theorem State.raise_soft (c : Nat) (i b : Word) (n : Nat) (z : Bool) : (s.raise c i b n z).soft = s.soft := rfl
@[simp] theorem State.raise_ctxs (c : Nat) (i b : Word) (n : Nat) (z : Bool) : (s.raise c i b n z).ctxs = s.ctxs := rfl
@[simp] theorem State.raise_cores (c : Nat) (i b : Word) (n : Nat) (z : Bool) : (s.raise c i b n z).cores = s.cores := rfl
@[simp] theorem State.raise_clus (c : Nat) (i b : Word) (n : Nat) (z : Bool) : (s.raise c i b n z).clus = s.clus := rfl
@[simp] theorem State.raise_gangs (c : Nat) (i b : Word) (n : Nat) (z : Bool) : (s.raise c i b n z).gangs = s.gangs := rfl
@[simp] theorem State.raise_tiles (c : Nat) (i b : Word) (n : Nat) (z : Bool) : (s.raise c i b n z).tiles = s.tiles := rfl
@[simp] theorem State.raise_mod (c : Nat) (i b : Word) (n : Nat) (z : Bool) : (s.raise c i b n z).mod = s.mod := rfl
@[simp] theorem State.raise_nextId (c : Nat) (i b : Word) (n : Nat) (z : Bool) : (s.raise c i b n z).nextId = s.nextId := rfl
@[simp] theorem State.raise_free (c : Nat) (i b : Word) (n : Nat) (z : Bool) : (s.raise c i b n z).free = s.free := rfl
@[simp] theorem State.raise_inputs (c : Nat) (i b : Word) (n : Nat) (z : Bool) : (s.raise c i b n z).inputs = s.inputs := rfl

/-! ### `raiseIssue` -/

@[simp] theorem State.raiseIssue_tide (c : Nat) (i b : Word) : (s.raiseIssue c i b).tide = s.tide := rfl
@[simp] theorem State.raiseIssue_phase (c : Nat) (i b : Word) : (s.raiseIssue c i b).phase = s.phase := rfl
@[simp] theorem State.raiseIssue_agenda (c : Nat) (i b : Word) : (s.raiseIssue c i b).agenda = s.agenda := rfl
@[simp] theorem State.raiseIssue_fr (c : Nat) (i b : Word) : (s.raiseIssue c i b).fr = s.fr := rfl
@[simp] theorem State.raiseIssue_flight (c : Nat) (i b : Word) : (s.raiseIssue c i b).flight = s.flight := rfl
@[simp] theorem State.raiseIssue_timed (c : Nat) (i b : Word) : (s.raiseIssue c i b).timed = s.timed := rfl
@[simp] theorem State.raiseIssue_pend (c : Nat) (i b : Word) : (s.raiseIssue c i b).pend = s.pend := rfl
@[simp] theorem State.raiseIssue_landed (c : Nat) (i b : Word) : (s.raiseIssue c i b).landed = s.landed := rfl
@[simp] theorem State.raiseIssue_undo (c : Nat) (i b : Word) : (s.raiseIssue c i b).undo = s.undo := rfl
@[simp] theorem State.raiseIssue_mem (c : Nat) (i b : Word) : (s.raiseIssue c i b).mem = s.mem := rfl
@[simp] theorem State.raiseIssue_poison (c : Nat) (i b : Word) : (s.raiseIssue c i b).poison = s.poison := rfl
@[simp] theorem State.raiseIssue_ecc (c : Nat) (i b : Word) : (s.raiseIssue c i b).ecc = s.ecc := rfl
@[simp] theorem State.raiseIssue_soft (c : Nat) (i b : Word) : (s.raiseIssue c i b).soft = s.soft := rfl
@[simp] theorem State.raiseIssue_ctxs (c : Nat) (i b : Word) : (s.raiseIssue c i b).ctxs = s.ctxs := rfl
@[simp] theorem State.raiseIssue_cores (c : Nat) (i b : Word) : (s.raiseIssue c i b).cores = s.cores := rfl
@[simp] theorem State.raiseIssue_clus (c : Nat) (i b : Word) : (s.raiseIssue c i b).clus = s.clus := rfl
@[simp] theorem State.raiseIssue_gangs (c : Nat) (i b : Word) : (s.raiseIssue c i b).gangs = s.gangs := rfl
@[simp] theorem State.raiseIssue_tiles (c : Nat) (i b : Word) : (s.raiseIssue c i b).tiles = s.tiles := rfl
@[simp] theorem State.raiseIssue_mod (c : Nat) (i b : Word) : (s.raiseIssue c i b).mod = s.mod := rfl
@[simp] theorem State.raiseIssue_nextId (c : Nat) (i b : Word) : (s.raiseIssue c i b).nextId = s.nextId := rfl
@[simp] theorem State.raiseIssue_free (c : Nat) (i b : Word) : (s.raiseIssue c i b).free = s.free := rfl
@[simp] theorem State.raiseIssue_inputs (c : Nat) (i b : Word) : (s.raiseIssue c i b).inputs = s.inputs := rfl

/-! ### `privilege` -/

@[simp] theorem State.privilege_tide (r : Nat) : (s.privilege r).tide = s.tide := rfl
@[simp] theorem State.privilege_phase (r : Nat) : (s.privilege r).phase = s.phase := rfl
@[simp] theorem State.privilege_agenda (r : Nat) : (s.privilege r).agenda = s.agenda := rfl
@[simp] theorem State.privilege_fr (r : Nat) : (s.privilege r).fr = s.fr := rfl
@[simp] theorem State.privilege_flight (r : Nat) : (s.privilege r).flight = s.flight := rfl
@[simp] theorem State.privilege_timed (r : Nat) : (s.privilege r).timed = s.timed := rfl
@[simp] theorem State.privilege_pend (r : Nat) : (s.privilege r).pend = s.pend := rfl
@[simp] theorem State.privilege_landed (r : Nat) : (s.privilege r).landed = s.landed := rfl
@[simp] theorem State.privilege_undo (r : Nat) : (s.privilege r).undo = s.undo := rfl
@[simp] theorem State.privilege_mem (r : Nat) : (s.privilege r).mem = s.mem := rfl
@[simp] theorem State.privilege_poison (r : Nat) : (s.privilege r).poison = s.poison := rfl
@[simp] theorem State.privilege_ecc (r : Nat) : (s.privilege r).ecc = s.ecc := rfl
@[simp] theorem State.privilege_soft (r : Nat) : (s.privilege r).soft = s.soft := rfl
@[simp] theorem State.privilege_ctxs (r : Nat) : (s.privilege r).ctxs = s.ctxs := rfl
@[simp] theorem State.privilege_cores (r : Nat) : (s.privilege r).cores = s.cores := rfl
@[simp] theorem State.privilege_clus (r : Nat) : (s.privilege r).clus = s.clus := rfl
@[simp] theorem State.privilege_gangs (r : Nat) : (s.privilege r).gangs = s.gangs := rfl
@[simp] theorem State.privilege_tiles (r : Nat) : (s.privilege r).tiles = s.tiles := rfl
@[simp] theorem State.privilege_mod (r : Nat) : (s.privilege r).mod = s.mod := rfl
@[simp] theorem State.privilege_nextId (r : Nat) : (s.privilege r).nextId = s.nextId := rfl
@[simp] theorem State.privilege_free (r : Nat) : (s.privilege r).free = s.free := rfl
@[simp] theorem State.privilege_inputs (r : Nat) : (s.privilege r).inputs = s.inputs := rfl

/-! ### `notePerf` -/

@[simp] theorem State.notePerf_tide (n : Nat) : (s.notePerf n).tide = s.tide := rfl
@[simp] theorem State.notePerf_phase (n : Nat) : (s.notePerf n).phase = s.phase := rfl
@[simp] theorem State.notePerf_agenda (n : Nat) : (s.notePerf n).agenda = s.agenda := rfl
@[simp] theorem State.notePerf_staged (n : Nat) : (s.notePerf n).staged = s.staged := rfl
@[simp] theorem State.notePerf_fr (n : Nat) : (s.notePerf n).fr = s.fr := rfl
@[simp] theorem State.notePerf_flight (n : Nat) : (s.notePerf n).flight = s.flight := rfl
@[simp] theorem State.notePerf_timed (n : Nat) : (s.notePerf n).timed = s.timed := rfl
@[simp] theorem State.notePerf_pend (n : Nat) : (s.notePerf n).pend = s.pend := rfl
@[simp] theorem State.notePerf_landed (n : Nat) : (s.notePerf n).landed = s.landed := rfl
@[simp] theorem State.notePerf_undo (n : Nat) : (s.notePerf n).undo = s.undo := rfl
@[simp] theorem State.notePerf_faults (n : Nat) : (s.notePerf n).faults = s.faults := rfl
@[simp] theorem State.notePerf_mem (n : Nat) : (s.notePerf n).mem = s.mem := rfl
@[simp] theorem State.notePerf_poison (n : Nat) : (s.notePerf n).poison = s.poison := rfl
@[simp] theorem State.notePerf_ecc (n : Nat) : (s.notePerf n).ecc = s.ecc := rfl
@[simp] theorem State.notePerf_soft (n : Nat) : (s.notePerf n).soft = s.soft := rfl
@[simp] theorem State.notePerf_cores (n : Nat) : (s.notePerf n).cores = s.cores := rfl
@[simp] theorem State.notePerf_clus (n : Nat) : (s.notePerf n).clus = s.clus := rfl
@[simp] theorem State.notePerf_gangs (n : Nat) : (s.notePerf n).gangs = s.gangs := rfl
@[simp] theorem State.notePerf_tiles (n : Nat) : (s.notePerf n).tiles = s.tiles := rfl
@[simp] theorem State.notePerf_mod (n : Nat) : (s.notePerf n).mod = s.mod := rfl
@[simp] theorem State.notePerf_nextId (n : Nat) : (s.notePerf n).nextId = s.nextId := rfl
@[simp] theorem State.notePerf_free (n : Nat) : (s.notePerf n).free = s.free := rfl
@[simp] theorem State.notePerf_inputs (n : Nat) : (s.notePerf n).inputs = s.inputs := rfl

/-! ### `noteEff` -/

@[simp] theorem State.noteEff_tide (n : Nat) : (s.noteEff n).tide = s.tide := rfl
@[simp] theorem State.noteEff_phase (n : Nat) : (s.noteEff n).phase = s.phase := rfl
@[simp] theorem State.noteEff_agenda (n : Nat) : (s.noteEff n).agenda = s.agenda := rfl
@[simp] theorem State.noteEff_staged (n : Nat) : (s.noteEff n).staged = s.staged := rfl
@[simp] theorem State.noteEff_fr (n : Nat) : (s.noteEff n).fr = s.fr := rfl
@[simp] theorem State.noteEff_flight (n : Nat) : (s.noteEff n).flight = s.flight := rfl
@[simp] theorem State.noteEff_timed (n : Nat) : (s.noteEff n).timed = s.timed := rfl
@[simp] theorem State.noteEff_pend (n : Nat) : (s.noteEff n).pend = s.pend := rfl
@[simp] theorem State.noteEff_landed (n : Nat) : (s.noteEff n).landed = s.landed := rfl
@[simp] theorem State.noteEff_undo (n : Nat) : (s.noteEff n).undo = s.undo := rfl
@[simp] theorem State.noteEff_faults (n : Nat) : (s.noteEff n).faults = s.faults := rfl
@[simp] theorem State.noteEff_mem (n : Nat) : (s.noteEff n).mem = s.mem := rfl
@[simp] theorem State.noteEff_poison (n : Nat) : (s.noteEff n).poison = s.poison := rfl
@[simp] theorem State.noteEff_ecc (n : Nat) : (s.noteEff n).ecc = s.ecc := rfl
@[simp] theorem State.noteEff_soft (n : Nat) : (s.noteEff n).soft = s.soft := rfl
@[simp] theorem State.noteEff_cores (n : Nat) : (s.noteEff n).cores = s.cores := rfl
@[simp] theorem State.noteEff_clus (n : Nat) : (s.noteEff n).clus = s.clus := rfl
@[simp] theorem State.noteEff_gangs (n : Nat) : (s.noteEff n).gangs = s.gangs := rfl
@[simp] theorem State.noteEff_tiles (n : Nat) : (s.noteEff n).tiles = s.tiles := rfl
@[simp] theorem State.noteEff_mod (n : Nat) : (s.noteEff n).mod = s.mod := rfl
@[simp] theorem State.noteEff_nextId (n : Nat) : (s.noteEff n).nextId = s.nextId := rfl
@[simp] theorem State.noteEff_free (n : Nat) : (s.noteEff n).free = s.free := rfl
@[simp] theorem State.noteEff_inputs (n : Nat) : (s.noteEff n).inputs = s.inputs := rfl

/-! ### `setLink` -/

@[simp] theorem State.setLink_tide (l : Nat) (k : Link) : (s.setLink l k).tide = s.tide := rfl
@[simp] theorem State.setLink_phase (l : Nat) (k : Link) : (s.setLink l k).phase = s.phase := rfl
@[simp] theorem State.setLink_agenda (l : Nat) (k : Link) : (s.setLink l k).agenda = s.agenda := rfl
@[simp] theorem State.setLink_staged (l : Nat) (k : Link) : (s.setLink l k).staged = s.staged := rfl
@[simp] theorem State.setLink_fr (l : Nat) (k : Link) : (s.setLink l k).fr = s.fr := rfl
@[simp] theorem State.setLink_flight (l : Nat) (k : Link) : (s.setLink l k).flight = s.flight := rfl
@[simp] theorem State.setLink_timed (l : Nat) (k : Link) : (s.setLink l k).timed = s.timed := rfl
@[simp] theorem State.setLink_pend (l : Nat) (k : Link) : (s.setLink l k).pend = s.pend := rfl
@[simp] theorem State.setLink_landed (l : Nat) (k : Link) : (s.setLink l k).landed = s.landed := rfl
@[simp] theorem State.setLink_undo (l : Nat) (k : Link) : (s.setLink l k).undo = s.undo := rfl
@[simp] theorem State.setLink_faults (l : Nat) (k : Link) : (s.setLink l k).faults = s.faults := rfl
@[simp] theorem State.setLink_mem (l : Nat) (k : Link) : (s.setLink l k).mem = s.mem := rfl
@[simp] theorem State.setLink_poison (l : Nat) (k : Link) : (s.setLink l k).poison = s.poison := rfl
@[simp] theorem State.setLink_ecc (l : Nat) (k : Link) : (s.setLink l k).ecc = s.ecc := rfl
@[simp] theorem State.setLink_soft (l : Nat) (k : Link) : (s.setLink l k).soft = s.soft := rfl
@[simp] theorem State.setLink_ctxs (l : Nat) (k : Link) : (s.setLink l k).ctxs = s.ctxs := rfl
@[simp] theorem State.setLink_cores (l : Nat) (k : Link) : (s.setLink l k).cores = s.cores := rfl
@[simp] theorem State.setLink_clus (l : Nat) (k : Link) : (s.setLink l k).clus = s.clus := rfl
@[simp] theorem State.setLink_gangs (l : Nat) (k : Link) : (s.setLink l k).gangs = s.gangs := rfl
@[simp] theorem State.setLink_tiles (l : Nat) (k : Link) : (s.setLink l k).tiles = s.tiles := rfl
@[simp] theorem State.setLink_nextId (l : Nat) (k : Link) : (s.setLink l k).nextId = s.nextId := rfl
@[simp] theorem State.setLink_free (l : Nat) (k : Link) : (s.setLink l k).free = s.free := rfl
@[simp] theorem State.setLink_inputs (l : Nat) (k : Link) : (s.setLink l k).inputs = s.inputs := rfl

/-! ### `setPart` -/

@[simp] theorem State.setPart_tide (p : Nat) (k : Part) : (s.setPart p k).tide = s.tide := rfl
@[simp] theorem State.setPart_phase (p : Nat) (k : Part) : (s.setPart p k).phase = s.phase := rfl
@[simp] theorem State.setPart_agenda (p : Nat) (k : Part) : (s.setPart p k).agenda = s.agenda := rfl
@[simp] theorem State.setPart_staged (p : Nat) (k : Part) : (s.setPart p k).staged = s.staged := rfl
@[simp] theorem State.setPart_fr (p : Nat) (k : Part) : (s.setPart p k).fr = s.fr := rfl
@[simp] theorem State.setPart_flight (p : Nat) (k : Part) : (s.setPart p k).flight = s.flight := rfl
@[simp] theorem State.setPart_timed (p : Nat) (k : Part) : (s.setPart p k).timed = s.timed := rfl
@[simp] theorem State.setPart_pend (p : Nat) (k : Part) : (s.setPart p k).pend = s.pend := rfl
@[simp] theorem State.setPart_landed (p : Nat) (k : Part) : (s.setPart p k).landed = s.landed := rfl
@[simp] theorem State.setPart_undo (p : Nat) (k : Part) : (s.setPart p k).undo = s.undo := rfl
@[simp] theorem State.setPart_faults (p : Nat) (k : Part) : (s.setPart p k).faults = s.faults := rfl
@[simp] theorem State.setPart_mem (p : Nat) (k : Part) : (s.setPart p k).mem = s.mem := rfl
@[simp] theorem State.setPart_poison (p : Nat) (k : Part) : (s.setPart p k).poison = s.poison := rfl
@[simp] theorem State.setPart_ecc (p : Nat) (k : Part) : (s.setPart p k).ecc = s.ecc := rfl
@[simp] theorem State.setPart_soft (p : Nat) (k : Part) : (s.setPart p k).soft = s.soft := rfl
@[simp] theorem State.setPart_ctxs (p : Nat) (k : Part) : (s.setPart p k).ctxs = s.ctxs := rfl
@[simp] theorem State.setPart_cores (p : Nat) (k : Part) : (s.setPart p k).cores = s.cores := rfl
@[simp] theorem State.setPart_clus (p : Nat) (k : Part) : (s.setPart p k).clus = s.clus := rfl
@[simp] theorem State.setPart_gangs (p : Nat) (k : Part) : (s.setPart p k).gangs = s.gangs := rfl
@[simp] theorem State.setPart_tiles (p : Nat) (k : Part) : (s.setPart p k).tiles = s.tiles := rfl
@[simp] theorem State.setPart_nextId (p : Nat) (k : Part) : (s.setPart p k).nextId = s.nextId := rfl
@[simp] theorem State.setPart_free (p : Nat) (k : Part) : (s.setPart p k).free = s.free := rfl
@[simp] theorem State.setPart_inputs (p : Nat) (k : Part) : (s.setPart p k).inputs = s.inputs := rfl

/-! ### `setDomain` -/

@[simp] theorem State.setDomain_tide (d : Nat) (k : Domain) : (s.setDomain d k).tide = s.tide := rfl
@[simp] theorem State.setDomain_phase (d : Nat) (k : Domain) : (s.setDomain d k).phase = s.phase := rfl
@[simp] theorem State.setDomain_agenda (d : Nat) (k : Domain) : (s.setDomain d k).agenda = s.agenda := rfl
@[simp] theorem State.setDomain_staged (d : Nat) (k : Domain) : (s.setDomain d k).staged = s.staged := rfl
@[simp] theorem State.setDomain_fr (d : Nat) (k : Domain) : (s.setDomain d k).fr = s.fr := rfl
@[simp] theorem State.setDomain_flight (d : Nat) (k : Domain) : (s.setDomain d k).flight = s.flight := rfl
@[simp] theorem State.setDomain_timed (d : Nat) (k : Domain) : (s.setDomain d k).timed = s.timed := rfl
@[simp] theorem State.setDomain_pend (d : Nat) (k : Domain) : (s.setDomain d k).pend = s.pend := rfl
@[simp] theorem State.setDomain_landed (d : Nat) (k : Domain) : (s.setDomain d k).landed = s.landed := rfl
@[simp] theorem State.setDomain_undo (d : Nat) (k : Domain) : (s.setDomain d k).undo = s.undo := rfl
@[simp] theorem State.setDomain_faults (d : Nat) (k : Domain) : (s.setDomain d k).faults = s.faults := rfl
@[simp] theorem State.setDomain_mem (d : Nat) (k : Domain) : (s.setDomain d k).mem = s.mem := rfl
@[simp] theorem State.setDomain_poison (d : Nat) (k : Domain) : (s.setDomain d k).poison = s.poison := rfl
@[simp] theorem State.setDomain_ecc (d : Nat) (k : Domain) : (s.setDomain d k).ecc = s.ecc := rfl
@[simp] theorem State.setDomain_soft (d : Nat) (k : Domain) : (s.setDomain d k).soft = s.soft := rfl
@[simp] theorem State.setDomain_ctxs (d : Nat) (k : Domain) : (s.setDomain d k).ctxs = s.ctxs := rfl
@[simp] theorem State.setDomain_cores (d : Nat) (k : Domain) : (s.setDomain d k).cores = s.cores := rfl
@[simp] theorem State.setDomain_clus (d : Nat) (k : Domain) : (s.setDomain d k).clus = s.clus := rfl
@[simp] theorem State.setDomain_gangs (d : Nat) (k : Domain) : (s.setDomain d k).gangs = s.gangs := rfl
@[simp] theorem State.setDomain_tiles (d : Nat) (k : Domain) : (s.setDomain d k).tiles = s.tiles := rfl
@[simp] theorem State.setDomain_nextId (d : Nat) (k : Domain) : (s.setDomain d k).nextId = s.nextId := rfl
@[simp] theorem State.setDomain_free (d : Nat) (k : Domain) : (s.setDomain d k).free = s.free := rfl
@[simp] theorem State.setDomain_inputs (d : Nat) (k : Domain) : (s.setDomain d k).inputs = s.inputs := rfl

/-! ### `setQueue` -/

@[simp] theorem State.setQueue_tide (q : Nat) (k : Queue) : (s.setQueue q k).tide = s.tide := rfl
@[simp] theorem State.setQueue_phase (q : Nat) (k : Queue) : (s.setQueue q k).phase = s.phase := rfl
@[simp] theorem State.setQueue_agenda (q : Nat) (k : Queue) : (s.setQueue q k).agenda = s.agenda := rfl
@[simp] theorem State.setQueue_staged (q : Nat) (k : Queue) : (s.setQueue q k).staged = s.staged := rfl
@[simp] theorem State.setQueue_fr (q : Nat) (k : Queue) : (s.setQueue q k).fr = s.fr := rfl
@[simp] theorem State.setQueue_flight (q : Nat) (k : Queue) : (s.setQueue q k).flight = s.flight := rfl
@[simp] theorem State.setQueue_timed (q : Nat) (k : Queue) : (s.setQueue q k).timed = s.timed := rfl
@[simp] theorem State.setQueue_pend (q : Nat) (k : Queue) : (s.setQueue q k).pend = s.pend := rfl
@[simp] theorem State.setQueue_landed (q : Nat) (k : Queue) : (s.setQueue q k).landed = s.landed := rfl
@[simp] theorem State.setQueue_undo (q : Nat) (k : Queue) : (s.setQueue q k).undo = s.undo := rfl
@[simp] theorem State.setQueue_faults (q : Nat) (k : Queue) : (s.setQueue q k).faults = s.faults := rfl
@[simp] theorem State.setQueue_mem (q : Nat) (k : Queue) : (s.setQueue q k).mem = s.mem := rfl
@[simp] theorem State.setQueue_poison (q : Nat) (k : Queue) : (s.setQueue q k).poison = s.poison := rfl
@[simp] theorem State.setQueue_ecc (q : Nat) (k : Queue) : (s.setQueue q k).ecc = s.ecc := rfl
@[simp] theorem State.setQueue_soft (q : Nat) (k : Queue) : (s.setQueue q k).soft = s.soft := rfl
@[simp] theorem State.setQueue_ctxs (q : Nat) (k : Queue) : (s.setQueue q k).ctxs = s.ctxs := rfl
@[simp] theorem State.setQueue_cores (q : Nat) (k : Queue) : (s.setQueue q k).cores = s.cores := rfl
@[simp] theorem State.setQueue_clus (q : Nat) (k : Queue) : (s.setQueue q k).clus = s.clus := rfl
@[simp] theorem State.setQueue_gangs (q : Nat) (k : Queue) : (s.setQueue q k).gangs = s.gangs := rfl
@[simp] theorem State.setQueue_tiles (q : Nat) (k : Queue) : (s.setQueue q k).tiles = s.tiles := rfl
@[simp] theorem State.setQueue_nextId (q : Nat) (k : Queue) : (s.setQueue q k).nextId = s.nextId := rfl
@[simp] theorem State.setQueue_free (q : Nat) (k : Queue) : (s.setQueue q k).free = s.free := rfl
@[simp] theorem State.setQueue_inputs (q : Nat) (k : Queue) : (s.setQueue q k).inputs = s.inputs := rfl

/-! ### `setSlack` -/

@[simp] theorem State.setSlack_tide (j : Nat) (k : Slack) : (s.setSlack j k).tide = s.tide := rfl
@[simp] theorem State.setSlack_phase (j : Nat) (k : Slack) : (s.setSlack j k).phase = s.phase := rfl
@[simp] theorem State.setSlack_agenda (j : Nat) (k : Slack) : (s.setSlack j k).agenda = s.agenda := rfl
@[simp] theorem State.setSlack_staged (j : Nat) (k : Slack) : (s.setSlack j k).staged = s.staged := rfl
@[simp] theorem State.setSlack_fr (j : Nat) (k : Slack) : (s.setSlack j k).fr = s.fr := rfl
@[simp] theorem State.setSlack_flight (j : Nat) (k : Slack) : (s.setSlack j k).flight = s.flight := rfl
@[simp] theorem State.setSlack_timed (j : Nat) (k : Slack) : (s.setSlack j k).timed = s.timed := rfl
@[simp] theorem State.setSlack_pend (j : Nat) (k : Slack) : (s.setSlack j k).pend = s.pend := rfl
@[simp] theorem State.setSlack_landed (j : Nat) (k : Slack) : (s.setSlack j k).landed = s.landed := rfl
@[simp] theorem State.setSlack_undo (j : Nat) (k : Slack) : (s.setSlack j k).undo = s.undo := rfl
@[simp] theorem State.setSlack_faults (j : Nat) (k : Slack) : (s.setSlack j k).faults = s.faults := rfl
@[simp] theorem State.setSlack_mem (j : Nat) (k : Slack) : (s.setSlack j k).mem = s.mem := rfl
@[simp] theorem State.setSlack_poison (j : Nat) (k : Slack) : (s.setSlack j k).poison = s.poison := rfl
@[simp] theorem State.setSlack_ecc (j : Nat) (k : Slack) : (s.setSlack j k).ecc = s.ecc := rfl
@[simp] theorem State.setSlack_soft (j : Nat) (k : Slack) : (s.setSlack j k).soft = s.soft := rfl
@[simp] theorem State.setSlack_ctxs (j : Nat) (k : Slack) : (s.setSlack j k).ctxs = s.ctxs := rfl
@[simp] theorem State.setSlack_cores (j : Nat) (k : Slack) : (s.setSlack j k).cores = s.cores := rfl
@[simp] theorem State.setSlack_clus (j : Nat) (k : Slack) : (s.setSlack j k).clus = s.clus := rfl
@[simp] theorem State.setSlack_gangs (j : Nat) (k : Slack) : (s.setSlack j k).gangs = s.gangs := rfl
@[simp] theorem State.setSlack_tiles (j : Nat) (k : Slack) : (s.setSlack j k).tiles = s.tiles := rfl
@[simp] theorem State.setSlack_nextId (j : Nat) (k : Slack) : (s.setSlack j k).nextId = s.nextId := rfl
@[simp] theorem State.setSlack_free (j : Nat) (k : Slack) : (s.setSlack j k).free = s.free := rfl
@[simp] theorem State.setSlack_inputs (j : Nat) (k : Slack) : (s.setSlack j k).inputs = s.inputs := rfl

/-! ### `send` -/

@[simp] theorem State.send_tide (m : Msg) : (s.send m).tide = s.tide := rfl
@[simp] theorem State.send_phase (m : Msg) : (s.send m).phase = s.phase := rfl
@[simp] theorem State.send_agenda (m : Msg) : (s.send m).agenda = s.agenda := rfl
@[simp] theorem State.send_staged (m : Msg) : (s.send m).staged = s.staged := rfl
@[simp] theorem State.send_fr (m : Msg) : (s.send m).fr = s.fr := rfl
@[simp] theorem State.send_flight (m : Msg) : (s.send m).flight = s.flight := rfl
@[simp] theorem State.send_timed (m : Msg) : (s.send m).timed = s.timed := rfl
@[simp] theorem State.send_pend (m : Msg) : (s.send m).pend = s.pend := rfl
@[simp] theorem State.send_landed (m : Msg) : (s.send m).landed = s.landed := rfl
@[simp] theorem State.send_undo (m : Msg) : (s.send m).undo = s.undo := rfl
@[simp] theorem State.send_faults (m : Msg) : (s.send m).faults = s.faults := rfl
@[simp] theorem State.send_mem (m : Msg) : (s.send m).mem = s.mem := rfl
@[simp] theorem State.send_poison (m : Msg) : (s.send m).poison = s.poison := rfl
@[simp] theorem State.send_ecc (m : Msg) : (s.send m).ecc = s.ecc := rfl
@[simp] theorem State.send_soft (m : Msg) : (s.send m).soft = s.soft := rfl
@[simp] theorem State.send_ctxs (m : Msg) : (s.send m).ctxs = s.ctxs := rfl
@[simp] theorem State.send_cores (m : Msg) : (s.send m).cores = s.cores := rfl
@[simp] theorem State.send_clus (m : Msg) : (s.send m).clus = s.clus := rfl
@[simp] theorem State.send_gangs (m : Msg) : (s.send m).gangs = s.gangs := rfl
@[simp] theorem State.send_tiles (m : Msg) : (s.send m).tiles = s.tiles := rfl
@[simp] theorem State.send_nextId (m : Msg) : (s.send m).nextId = s.nextId := rfl
@[simp] theorem State.send_free (m : Msg) : (s.send m).free = s.free := rfl
@[simp] theorem State.send_inputs (m : Msg) : (s.send m).inputs = s.inputs := rfl

/-! ### `nextSlice` -/

@[simp] theorem State.nextSlice_tide (i : Instr) (fr : Frame) : (s.nextSlice i fr).tide = s.tide := by unfold State.nextSlice; split <;> rfl
@[simp] theorem State.nextSlice_phase (i : Instr) (fr : Frame) : (s.nextSlice i fr).phase = s.phase := by unfold State.nextSlice; split <;> rfl
@[simp] theorem State.nextSlice_agenda (i : Instr) (fr : Frame) : (s.nextSlice i fr).agenda = s.agenda := by unfold State.nextSlice; split <;> rfl
@[simp] theorem State.nextSlice_staged (i : Instr) (fr : Frame) : (s.nextSlice i fr).staged = s.staged := by unfold State.nextSlice; split <;> rfl
@[simp] theorem State.nextSlice_fr (i : Instr) (fr : Frame) : (s.nextSlice i fr).fr = s.fr := by unfold State.nextSlice; split <;> rfl
@[simp] theorem State.nextSlice_timed (i : Instr) (fr : Frame) : (s.nextSlice i fr).timed = s.timed := by unfold State.nextSlice; split <;> rfl
@[simp] theorem State.nextSlice_pend (i : Instr) (fr : Frame) : (s.nextSlice i fr).pend = s.pend := by unfold State.nextSlice; split <;> rfl
@[simp] theorem State.nextSlice_landed (i : Instr) (fr : Frame) : (s.nextSlice i fr).landed = s.landed := by unfold State.nextSlice; split <;> rfl
@[simp] theorem State.nextSlice_undo (i : Instr) (fr : Frame) : (s.nextSlice i fr).undo = s.undo := by unfold State.nextSlice; split <;> rfl
@[simp] theorem State.nextSlice_faults (i : Instr) (fr : Frame) : (s.nextSlice i fr).faults = s.faults := by unfold State.nextSlice; split <;> rfl
@[simp] theorem State.nextSlice_mem (i : Instr) (fr : Frame) : (s.nextSlice i fr).mem = s.mem := by unfold State.nextSlice; split <;> rfl
@[simp] theorem State.nextSlice_poison (i : Instr) (fr : Frame) : (s.nextSlice i fr).poison = s.poison := by unfold State.nextSlice; split <;> rfl
@[simp] theorem State.nextSlice_ecc (i : Instr) (fr : Frame) : (s.nextSlice i fr).ecc = s.ecc := by unfold State.nextSlice; split <;> rfl
@[simp] theorem State.nextSlice_soft (i : Instr) (fr : Frame) : (s.nextSlice i fr).soft = s.soft := by unfold State.nextSlice; split <;> rfl
@[simp] theorem State.nextSlice_ctxs (i : Instr) (fr : Frame) : (s.nextSlice i fr).ctxs = s.ctxs := by unfold State.nextSlice; split <;> rfl
@[simp] theorem State.nextSlice_cores (i : Instr) (fr : Frame) : (s.nextSlice i fr).cores = s.cores := by unfold State.nextSlice; split <;> rfl
@[simp] theorem State.nextSlice_clus (i : Instr) (fr : Frame) : (s.nextSlice i fr).clus = s.clus := by unfold State.nextSlice; split <;> rfl
@[simp] theorem State.nextSlice_gangs (i : Instr) (fr : Frame) : (s.nextSlice i fr).gangs = s.gangs := by unfold State.nextSlice; split <;> rfl
@[simp] theorem State.nextSlice_tiles (i : Instr) (fr : Frame) : (s.nextSlice i fr).tiles = s.tiles := by unfold State.nextSlice; split <;> rfl
@[simp] theorem State.nextSlice_mod (i : Instr) (fr : Frame) : (s.nextSlice i fr).mod = s.mod := by unfold State.nextSlice; split <;> rfl
@[simp] theorem State.nextSlice_nextId (i : Instr) (fr : Frame) : (s.nextSlice i fr).nextId = s.nextId := by unfold State.nextSlice; split <;> rfl
@[simp] theorem State.nextSlice_free (i : Instr) (fr : Frame) : (s.nextSlice i fr).free = s.free := by unfold State.nextSlice; split <;> rfl
@[simp] theorem State.nextSlice_inputs (i : Instr) (fr : Frame) : (s.nextSlice i fr).inputs = s.inputs := by unfold State.nextSlice; split <;> rfl

/-! ### `pushClk` -/

@[simp] theorem State.pushClk_tide (at_ : Nat) (e : Effect) (p : Nat) : (s.pushClk at_ e p).tide = s.tide := by unfold State.pushClk; split <;> rfl
@[simp] theorem State.pushClk_phase (at_ : Nat) (e : Effect) (p : Nat) : (s.pushClk at_ e p).phase = s.phase := by unfold State.pushClk; split <;> rfl
@[simp] theorem State.pushClk_agenda (at_ : Nat) (e : Effect) (p : Nat) : (s.pushClk at_ e p).agenda = s.agenda := by unfold State.pushClk; split <;> rfl
@[simp] theorem State.pushClk_staged (at_ : Nat) (e : Effect) (p : Nat) : (s.pushClk at_ e p).staged = s.staged := by unfold State.pushClk; split <;> rfl
@[simp] theorem State.pushClk_fr (at_ : Nat) (e : Effect) (p : Nat) : (s.pushClk at_ e p).fr = s.fr := by unfold State.pushClk; split <;> rfl
@[simp] theorem State.pushClk_flight (at_ : Nat) (e : Effect) (p : Nat) : (s.pushClk at_ e p).flight = s.flight := by unfold State.pushClk; split <;> rfl
@[simp] theorem State.pushClk_timed (at_ : Nat) (e : Effect) (p : Nat) : (s.pushClk at_ e p).timed = s.timed := by unfold State.pushClk; split <;> rfl
@[simp] theorem State.pushClk_landed (at_ : Nat) (e : Effect) (p : Nat) : (s.pushClk at_ e p).landed = s.landed := by unfold State.pushClk; split <;> rfl
@[simp] theorem State.pushClk_undo (at_ : Nat) (e : Effect) (p : Nat) : (s.pushClk at_ e p).undo = s.undo := by unfold State.pushClk; split <;> rfl
@[simp] theorem State.pushClk_faults (at_ : Nat) (e : Effect) (p : Nat) : (s.pushClk at_ e p).faults = s.faults := by unfold State.pushClk; split <;> rfl
@[simp] theorem State.pushClk_mem (at_ : Nat) (e : Effect) (p : Nat) : (s.pushClk at_ e p).mem = s.mem := by unfold State.pushClk; split <;> rfl
@[simp] theorem State.pushClk_poison (at_ : Nat) (e : Effect) (p : Nat) : (s.pushClk at_ e p).poison = s.poison := by unfold State.pushClk; split <;> rfl
@[simp] theorem State.pushClk_ecc (at_ : Nat) (e : Effect) (p : Nat) : (s.pushClk at_ e p).ecc = s.ecc := by unfold State.pushClk; split <;> rfl
@[simp] theorem State.pushClk_soft (at_ : Nat) (e : Effect) (p : Nat) : (s.pushClk at_ e p).soft = s.soft := by unfold State.pushClk; split <;> rfl
@[simp] theorem State.pushClk_ctxs (at_ : Nat) (e : Effect) (p : Nat) : (s.pushClk at_ e p).ctxs = s.ctxs := by unfold State.pushClk; split <;> rfl
@[simp] theorem State.pushClk_cores (at_ : Nat) (e : Effect) (p : Nat) : (s.pushClk at_ e p).cores = s.cores := by unfold State.pushClk; split <;> rfl
@[simp] theorem State.pushClk_clus (at_ : Nat) (e : Effect) (p : Nat) : (s.pushClk at_ e p).clus = s.clus := by unfold State.pushClk; split <;> rfl
@[simp] theorem State.pushClk_gangs (at_ : Nat) (e : Effect) (p : Nat) : (s.pushClk at_ e p).gangs = s.gangs := by unfold State.pushClk; split <;> rfl
@[simp] theorem State.pushClk_tiles (at_ : Nat) (e : Effect) (p : Nat) : (s.pushClk at_ e p).tiles = s.tiles := by unfold State.pushClk; split <;> rfl
@[simp] theorem State.pushClk_mod (at_ : Nat) (e : Effect) (p : Nat) : (s.pushClk at_ e p).mod = s.mod := by unfold State.pushClk; split <;> rfl
@[simp] theorem State.pushClk_nextId (at_ : Nat) (e : Effect) (p : Nat) : (s.pushClk at_ e p).nextId = s.nextId := by unfold State.pushClk; split <;> rfl
@[simp] theorem State.pushClk_free (at_ : Nat) (e : Effect) (p : Nat) : (s.pushClk at_ e p).free = s.free := by unfold State.pushClk; split <;> rfl
@[simp] theorem State.pushClk_inputs (at_ : Nat) (e : Effect) (p : Nat) : (s.pushClk at_ e p).inputs = s.inputs := by unfold State.pushClk; split <;> rfl

/-! ### `flyClk` -/

@[simp] theorem State.flyClk_tide (at_ : Nat) (i : Instr) (fr : Frame) : (s.flyClk at_ i fr).tide = s.tide := by unfold State.flyClk; split <;> rfl
@[simp] theorem State.flyClk_phase (at_ : Nat) (i : Instr) (fr : Frame) : (s.flyClk at_ i fr).phase = s.phase := by unfold State.flyClk; split <;> rfl
@[simp] theorem State.flyClk_agenda (at_ : Nat) (i : Instr) (fr : Frame) : (s.flyClk at_ i fr).agenda = s.agenda := by unfold State.flyClk; split <;> rfl
@[simp] theorem State.flyClk_staged (at_ : Nat) (i : Instr) (fr : Frame) : (s.flyClk at_ i fr).staged = s.staged := by unfold State.flyClk; split <;> rfl
@[simp] theorem State.flyClk_fr (at_ : Nat) (i : Instr) (fr : Frame) : (s.flyClk at_ i fr).fr = s.fr := by unfold State.flyClk; split <;> rfl
@[simp] theorem State.flyClk_timed (at_ : Nat) (i : Instr) (fr : Frame) : (s.flyClk at_ i fr).timed = s.timed := by unfold State.flyClk; split <;> rfl
@[simp] theorem State.flyClk_pend (at_ : Nat) (i : Instr) (fr : Frame) : (s.flyClk at_ i fr).pend = s.pend := by unfold State.flyClk; split <;> rfl
@[simp] theorem State.flyClk_landed (at_ : Nat) (i : Instr) (fr : Frame) : (s.flyClk at_ i fr).landed = s.landed := by unfold State.flyClk; split <;> rfl
@[simp] theorem State.flyClk_undo (at_ : Nat) (i : Instr) (fr : Frame) : (s.flyClk at_ i fr).undo = s.undo := by unfold State.flyClk; split <;> rfl
@[simp] theorem State.flyClk_faults (at_ : Nat) (i : Instr) (fr : Frame) : (s.flyClk at_ i fr).faults = s.faults := by unfold State.flyClk; split <;> rfl
@[simp] theorem State.flyClk_mem (at_ : Nat) (i : Instr) (fr : Frame) : (s.flyClk at_ i fr).mem = s.mem := by unfold State.flyClk; split <;> rfl
@[simp] theorem State.flyClk_poison (at_ : Nat) (i : Instr) (fr : Frame) : (s.flyClk at_ i fr).poison = s.poison := by unfold State.flyClk; split <;> rfl
@[simp] theorem State.flyClk_ecc (at_ : Nat) (i : Instr) (fr : Frame) : (s.flyClk at_ i fr).ecc = s.ecc := by unfold State.flyClk; split <;> rfl
@[simp] theorem State.flyClk_soft (at_ : Nat) (i : Instr) (fr : Frame) : (s.flyClk at_ i fr).soft = s.soft := by unfold State.flyClk; split <;> rfl
@[simp] theorem State.flyClk_ctxs (at_ : Nat) (i : Instr) (fr : Frame) : (s.flyClk at_ i fr).ctxs = s.ctxs := by unfold State.flyClk; split <;> rfl
@[simp] theorem State.flyClk_cores (at_ : Nat) (i : Instr) (fr : Frame) : (s.flyClk at_ i fr).cores = s.cores := by unfold State.flyClk; split <;> rfl
@[simp] theorem State.flyClk_clus (at_ : Nat) (i : Instr) (fr : Frame) : (s.flyClk at_ i fr).clus = s.clus := by unfold State.flyClk; split <;> rfl
@[simp] theorem State.flyClk_gangs (at_ : Nat) (i : Instr) (fr : Frame) : (s.flyClk at_ i fr).gangs = s.gangs := by unfold State.flyClk; split <;> rfl
@[simp] theorem State.flyClk_tiles (at_ : Nat) (i : Instr) (fr : Frame) : (s.flyClk at_ i fr).tiles = s.tiles := by unfold State.flyClk; split <;> rfl
@[simp] theorem State.flyClk_mod (at_ : Nat) (i : Instr) (fr : Frame) : (s.flyClk at_ i fr).mod = s.mod := by unfold State.flyClk; split <;> rfl
@[simp] theorem State.flyClk_nextId (at_ : Nat) (i : Instr) (fr : Frame) : (s.flyClk at_ i fr).nextId = s.nextId := by unfold State.flyClk; split <;> rfl
@[simp] theorem State.flyClk_free (at_ : Nat) (i : Instr) (fr : Frame) : (s.flyClk at_ i fr).free = s.free := by unfold State.flyClk; split <;> rfl
@[simp] theorem State.flyClk_inputs (at_ : Nat) (i : Instr) (fr : Frame) : (s.flyClk at_ i fr).inputs = s.inputs := by unfold State.flyClk; split <;> rfl

/-! ### `setFlag` -/

@[simp] theorem State.setFlag_tide (f : FlagFile) (n : Nat) (v : Bool) : (s.setFlag f n v).tide = s.tide := by cases f <;> rfl
@[simp] theorem State.setFlag_phase (f : FlagFile) (n : Nat) (v : Bool) : (s.setFlag f n v).phase = s.phase := by cases f <;> rfl
@[simp] theorem State.setFlag_agenda (f : FlagFile) (n : Nat) (v : Bool) : (s.setFlag f n v).agenda = s.agenda := by cases f <;> rfl
@[simp] theorem State.setFlag_staged (f : FlagFile) (n : Nat) (v : Bool) : (s.setFlag f n v).staged = s.staged := by cases f <;> rfl
@[simp] theorem State.setFlag_fr (f : FlagFile) (n : Nat) (v : Bool) : (s.setFlag f n v).fr = s.fr := by cases f <;> rfl
@[simp] theorem State.setFlag_flight (f : FlagFile) (n : Nat) (v : Bool) : (s.setFlag f n v).flight = s.flight := by cases f <;> rfl
@[simp] theorem State.setFlag_timed (f : FlagFile) (n : Nat) (v : Bool) : (s.setFlag f n v).timed = s.timed := by cases f <;> rfl
@[simp] theorem State.setFlag_pend (f : FlagFile) (n : Nat) (v : Bool) : (s.setFlag f n v).pend = s.pend := by cases f <;> rfl
@[simp] theorem State.setFlag_landed (f : FlagFile) (n : Nat) (v : Bool) : (s.setFlag f n v).landed = s.landed := by cases f <;> rfl
@[simp] theorem State.setFlag_undo (f : FlagFile) (n : Nat) (v : Bool) : (s.setFlag f n v).undo = s.undo := by cases f <;> rfl
@[simp] theorem State.setFlag_faults (f : FlagFile) (n : Nat) (v : Bool) : (s.setFlag f n v).faults = s.faults := by cases f <;> rfl
@[simp] theorem State.setFlag_mem (f : FlagFile) (n : Nat) (v : Bool) : (s.setFlag f n v).mem = s.mem := by cases f <;> rfl
@[simp] theorem State.setFlag_poison (f : FlagFile) (n : Nat) (v : Bool) : (s.setFlag f n v).poison = s.poison := by cases f <;> rfl
@[simp] theorem State.setFlag_ecc (f : FlagFile) (n : Nat) (v : Bool) : (s.setFlag f n v).ecc = s.ecc := by cases f <;> rfl
@[simp] theorem State.setFlag_soft (f : FlagFile) (n : Nat) (v : Bool) : (s.setFlag f n v).soft = s.soft := by cases f <;> rfl
@[simp] theorem State.setFlag_ctxs (f : FlagFile) (n : Nat) (v : Bool) : (s.setFlag f n v).ctxs = s.ctxs := by cases f <;> rfl
@[simp] theorem State.setFlag_gangs (f : FlagFile) (n : Nat) (v : Bool) : (s.setFlag f n v).gangs = s.gangs := by cases f <;> rfl
@[simp] theorem State.setFlag_tiles (f : FlagFile) (n : Nat) (v : Bool) : (s.setFlag f n v).tiles = s.tiles := by cases f <;> rfl
@[simp] theorem State.setFlag_nextId (f : FlagFile) (n : Nat) (v : Bool) : (s.setFlag f n v).nextId = s.nextId := by cases f <;> rfl
@[simp] theorem State.setFlag_free (f : FlagFile) (n : Nat) (v : Bool) : (s.setFlag f n v).free = s.free := by cases f <;> rfl
@[simp] theorem State.setFlag_inputs (f : FlagFile) (n : Nat) (v : Bool) : (s.setFlag f n v).inputs = s.inputs := by cases f <;> rfl

/-! ### What an update leaves in the field that it changes -/

@[simp] theorem State.ctx_setCtx_self (x : Nat) (c : Ctx) : (s.setCtx x c).ctx x = c := SMap.get_put_self
theorem State.ctx_setCtx_ne {x y : Nat} (c : Ctx) (h : y ≠ x) : (s.setCtx x c).ctx y = s.ctx y := SMap.get_put_ne h
@[simp] theorem State.ctx_updCtx_self (x : Nat) (f : Ctx → Ctx) : (s.updCtx x f).ctx x = f (s.ctx x) := SMap.get_put_self
theorem State.ctx_updCtx_ne {x y : Nat} (f : Ctx → Ctx) (h : y ≠ x) : (s.updCtx x f).ctx y = s.ctx y := SMap.get_put_ne h
@[simp] theorem State.core_setCore_self (x : Nat) (k : Core) : (s.setCore x k).core x = k := SMap.get_put_self
theorem State.core_setCore_ne {x y : Nat} (k : Core) (h : y ≠ x) : (s.setCore x k).core y = s.core y := SMap.get_put_ne h
@[simp] theorem State.clu_setClu_self (x : Nat) (k : Cluster) : (s.setClu x k).clu x = k := SMap.get_put_self
theorem State.clu_setClu_ne {x y : Nat} (k : Cluster) (h : y ≠ x) : (s.setClu x k).clu y = s.clu y := SMap.get_put_ne h
@[simp] theorem State.gang_setGang_self (x : Nat) (k : Gang) : (s.setGang x k).gang x = k := SMap.get_put_self
theorem State.gang_setGang_ne {x y : Nat} (k : Gang) (h : y ≠ x) : (s.setGang x k).gang y = s.gang y := SMap.get_put_ne h
@[simp] theorem State.gang_updGang_self (x : Nat) (f : Gang → Gang) : (s.updGang x f).gang x = f (s.gang x) := SMap.get_put_self
theorem State.gang_updGang_ne {x y : Nat} (f : Gang → Gang) (h : y ≠ x) : (s.updGang x f).gang y = s.gang y := SMap.get_put_ne h
@[simp] theorem State.updMod_mod (f : Module → Module) : (s.updMod f).mod = f s.mod := rfl
@[simp] theorem State.link_setLink_self (l : Nat) (k : Link) : (s.setLink l k).link l = k := SMap.get_put_self
theorem State.link_setLink_ne {l j : Nat} (k : Link) (h : j ≠ l) : (s.setLink l k).link j = s.link j := SMap.get_put_ne h
@[simp] theorem State.part_setPart_self (p : Nat) (k : Part) : (s.setPart p k).part p = k := SMap.get_put_self
theorem State.part_setPart_ne {p j : Nat} (k : Part) (h : j ≠ p) : (s.setPart p k).part j = s.part j := SMap.get_put_ne h
@[simp] theorem State.domain_setDomain_self (d : Nat) (k : Domain) : (s.setDomain d k).domain d = k := SMap.get_put_self
theorem State.domain_setDomain_ne {d j : Nat} (k : Domain) (h : j ≠ d) : (s.setDomain d k).domain j = s.domain j := SMap.get_put_ne h
@[simp] theorem State.queue_setQueue_self (q : Nat) (k : Queue) : (s.setQueue q k).queue q = k := SMap.get_put_self
theorem State.queue_setQueue_ne {q j : Nat} (k : Queue) (h : j ≠ q) : (s.setQueue q k).queue j = s.queue j := SMap.get_put_ne h
@[simp] theorem State.slackOf_setSlack_self (j : Nat) (k : Slack) : (s.setSlack j k).slackOf j = k := SMap.get_put_self
theorem State.slackOf_setSlack_ne {j i : Nat} (k : Slack) (h : i ≠ j) : (s.setSlack j k).slackOf i = s.slackOf i := SMap.get_put_ne h
@[simp] theorem State.push_pend (due : Nat) (e : Effect) (p r : Nat) :
    (s.push due e p r).pend = s.pend ++ [⟨{ s.fr with cap := 0, capv := 0, gt := 0 }, due, r, p, e, 0⟩] := rfl
@[simp] theorem State.timedAt_timed (T : Nat) (i : Instr) (fr : Frame) : (s.timedAt T i fr).timed = s.timed ++ [⟨T, ⟨i, fr⟩⟩] := rfl
@[simp] theorem State.fly_flight (due : Nat) (i : Instr) (fr : Frame) :
    (s.fly due i fr).flight = s.flight ++ [⟨fr.x, fr.hnd, due, 0, ⟨i, fr⟩⟩] := rfl

/-- The state of a slot that reads its guard once keeps what both of its outcomes keep. -/
theorem once_of (P : State → Prop) (g : Guard) (t : State) (hs : P s) (ht : P t) : P (once g s t) := by
  unfold once; split
  · exact ht
  · exact hs

end Sys2Proof.Machine
end

