-- ==== Sys2Proof/Laws/Ops.lean ====
section
/-! SUPPORT. What the shared operations do: elements of a slice, faults added, lists in order, parity, writes over clean stores. -/

namespace Sys2Proof.Machine

/-! ### Elements of a slice -/

theorem packE_lt (w : Nat) (l : List Nat) : packE w l < 2 ^ (w * l.length) := by
  induction l with
  | nil => simp [packE]
  | cons x l ih =>
    have hx := Nat.mod_lt x (Nat.two_pow_pos w)
    simp only [packE, List.length_cons, Nat.mul_add, Nat.mul_one, pow_add]
    nlinarith [Nat.two_pow_pos w]

/-- Element `j` of packed elements is the `j`-th of them. -/
theorem packE_elem (w : Nat) : ∀ (l : List Nat) (j : Nat), packE w l / 2 ^ (w * j) % 2 ^ w = l.getD j 0 % 2 ^ w := by
  intro l
  induction l with
  | nil => intro j; simp [packE]
  | cons x l ih =>
    intro j
    have hx := Nat.mod_lt x (Nat.two_pow_pos w)
    rcases j with _ | j
    · simp [packE]
    · rw [Nat.mul_succ, Nat.add_comm, pow_add, ← Nat.div_div_eq_div_mul]
      rw [show packE w (x :: l) / 2 ^ w = packE w l by
        simp only [packE]; rw [Nat.add_mul_div_left _ _ (Nat.two_pow_pos w), Nat.div_eq_of_lt hx, Nat.zero_add]]
      rw [ih j]; rfl

/-- Element `j` of a slice made from the elements `l`. -/
theorem elemOf_eGran (w : Nat) (l : List Nat) (j : Nat) (hl : w * l.length ≤ 512) : elemOf w (eGran w l) j = l.getD j 0 % 2 ^ w := by
  have hlt := (packE_lt w l).trans_le (Nat.pow_le_pow_right (by norm_num) hl)
  simp only [elemOf, eGran, BitVec.toNat_ofNat, Nat.mod_eq_of_lt hlt]
  exact packE_elem w l j

theorem elems_getD (w : Nat) : ∀ n v j, j < n → (elems w n v).getD j 0 = v / 2 ^ (w * j) % 2 ^ w := by
  intro n
  induction n with
  | zero => intro v j h; omega
  | succ n ih =>
    intro v j h
    rcases j with _ | j
    · simp [elems]
    · rw [show 2 ^ (w * (j + 1)) = 2 ^ w * 2 ^ (w * j) by rw [Nat.mul_succ, Nat.add_comm, pow_add], ← Nat.div_div_eq_div_mul]
      exact ih _ j (Nat.lt_of_succ_lt_succ h)

@[simp] theorem elems_length (w : Nat) : ∀ n v, (elems w n v).length = n := by
  intro n
  induction n with
  | zero => intro v; rfl
  | succ n ih => intro v; simp [elems, ih]

/-- The elements of a slice are those that `elemOf` names. -/
theorem granE_getD (w : Nat) (v : Gran) (j : Nat) (hj : j < 512 / w) : (granE w v).getD j 0 = elemOf w v j :=
  elems_getD w _ _ _ hj

@[simp] theorem granE_length (w : Nat) (v : Gran) : (granE w v).length = 512 / w := elems_length w _ _

theorem elemOf_lt (w : Nat) (v : Gran) (j : Nat) : elemOf w v j < 2 ^ w := Nat.mod_lt _ (Nat.two_pow_pos w)

/-- Merged bits: the new value's under the mask, the old value's elsewhere. -/
theorem mergeBits_getLsbD (old val mask : Gran) (i : Nat) :
    (mergeBits old val mask).getLsbD i = if mask.getLsbD i then val.getLsbD i else old.getLsbD i := by
  by_cases hi : i < 512
  · by_cases hm : mask.getLsbD i = true <;> simp_all [mergeBits]
  · simp [mergeBits, BitVec.getLsbD_of_ge _ _ (not_lt.1 hi)]

/-! ### Guards -/

theorem once_true {g : Guard} {s : State} (t : State) (h : s.onceGuard g = true) : once g s t = t := by simp [once, h]

theorem once_false {g : Guard} {s : State} (t : State) (h : s.onceGuard g = false) : once g s t = s := by simp [once, h]

/-- A slot that reads its guard once acts when the guard is true, and has no effect otherwise. -/
theorem onceSlot_eq (g : Guard) (s : State) (f : State → State) : onceSlot g s f = .next (once g s (f s)) := rfl

/-! ### Faults -/

@[simp] theorem State.raise_faults (s : State) (c : Nat) (i b : Word) (F : Nat) (z : Bool) :
    (s.raise c i b F z).faults
      = addFault ⟨s.fr.x, s.fr.hnd, F, s.fr.t, s.fr.re, s.fr.slot, s.fr.addr, c, i, b, z, s.fr.rbv, s.fr.rbp⟩ s.faults := rfl

/-- With no fault pending, a fault raised is the only one. -/
@[simp] theorem addFault_nil (f : PendFault) : addFault f [] = [f] := rfl

/-- Adding a fault leaves faults of other contexts as they are. -/
theorem mem_addFault_other {f e : PendFault} (h : e.x ≠ f.x) : ∀ l, e ∈ addFault f l ↔ e ∈ l := by
  intro l
  have he : e ≠ f := fun c => h (c ▸ rfl)
  induction l with
  | nil => simp [he]
  | cons a l ih =>
    simp only [addFault]
    by_cases hs : (f.sameSlot a && !f.bnd) = true
    · have hx : a.x = f.x := by simp [PendFault.sameSlot] at hs; exact hs.1.1.1.1.1.1.symm
      have hea : e ≠ a := fun c => h (c ▸ hx)
      have hev : ∀ v, e ≠ { a with finfo := v } := fun v c => h (c ▸ hx)
      rw [if_pos hs]
      split
      · simp [hev]
      · split <;> simp [he, hea]
    · rw [if_neg hs]; simp [ih]

/-! ### Lists in order -/

theorem mem_insertBy {α : Type} (le : α → α → Bool) (x a : α) : ∀ l, a ∈ insertBy le x l ↔ a = x ∨ a ∈ l := by
  intro l
  induction l with
  | nil => simp [insertBy]
  | cons y l ih =>
    simp only [insertBy]
    split
    · simp
    · simp [ih]; tauto

/-- A list in order holds the same entries. -/
theorem mem_sortBy {α : Type} (le : α → α → Bool) (a : α) : ∀ l, a ∈ sortBy le l ↔ a ∈ l := by
  intro l
  induction l with
  | nil => simp [sortBy]
  | cons y l ih => simp only [sortBy, List.foldr_cons, mem_insertBy, List.mem_cons]; exact or_congr_right ih

@[simp] theorem sortBy_nil {α : Type} (le : α → α → Bool) : sortBy le [] = [] := rfl

@[simp] theorem sortBy_singleton {α : Type} (le : α → α → Bool) (a : α) : sortBy le [a] = [a] := rfl

/-! ### Parity -/

/-- Where no parity has failed an act is run as it means. -/
@[simp] theorem runChecked_clean (run : Instr → State → Result) (i : Instr) {s : State} (h : s.soft = []) : runChecked run i s = run i s := by
  simp [runChecked, h]

/-- A place whose parity is set afresh has no failed parity left, and every other place keeps what it has. -/
theorem State.failed_freshen (s : State) (hit : Spot → Bool) (p : Spot) :
    (s.freshen hit).failed p = if hit p then none else s.failed p := by
  have h : s.soft.isEmpty = true → s.soft = [] := List.isEmpty_iff.1
  unfold State.freshen State.failed
  by_cases he : s.soft.isEmpty = true
  · simp [h he]
  · simp only [he, Bool.false_eq_true, if_false]
    clear h he
    induction s.soft with
    | nil => simp
    | cons a l ih =>
      cases hm : (!a.corr && decide (a.at_ ≤ s.tide) && a.spot == p) <;> cases hk : (decide (a.at_ ≤ s.tide) && hit a.spot) <;>
        simp only [List.filter_cons, List.find?_cons, hm, hk, ih, Bool.not_false, Bool.not_true, Bool.false_eq_true, if_true, if_false] <;>
        simp_all

/-! ### Writes at once -/

/-- Over clean stores bytes written at once change those bytes of memory and nothing else. -/
theorem State.poke_clean {s : State} (h : s.Clean) (key n val : Nat) :
    s.poke key n val = { s with mem := s.mem.writeN key n val (allBytes n) } := by
  obtain ⟨h1, h2, h3⟩ := h
  simp [State.poke, State.openBytes, State.clearMarks, State.freshen, h1, h2, h3]

/-- Bytes written at once keep the canonical form of memory. -/
theorem State.poke_canonical {s : State} (h : s.Canonical) (key n val : Nat) : (s.poke key n val).Canonical := by
  have := Memory.wf_writeN n key val (s.openBytes key n (allBytes n)) h
  unfold State.Canonical State.poke State.clearMarks State.freshen
  split <;> exact this

/-- A pilot's write leaves memory as it is until it performs. -/
@[simp] theorem State.pilotWrite_mem (s : State) (key n val : Nat) (rep : Option (Nat × Nat)) : (s.pilotWrite key n val rep).mem = s.mem := rfl

/-- A fold of steps that leave memory leaves memory. -/
theorem State.foldl_mem {α : Type} (f : State → α → State) (h : ∀ s a, (f s a).mem = s.mem) (l : List α) : ∀ s : State, (l.foldl f s).mem = s.mem := by
  induction l with
  | nil => exact fun _ => rfl
  | cons a l ih => exact fun s => (ih (f s a)).trans (h s a)

@[simp] theorem State.eventRec_mem (s : State) (p type d0 d1 d2 : Nat) : (s.eventRec p type d0 d1 d2).mem = s.mem := by
  unfold State.eventRec
  dsimp only
  split
  · rfl
  · split <;> rfl

@[simp] theorem State.errorRec_mem (s : State) (p a st c x w n port : Nat) : (s.errorRec p a st c x w n port).mem = s.mem := State.eventRec_mem ..

@[simp] theorem State.errorPlace_mem (s : State) (key w : Nat) : (s.errorPlace key w).mem = s.mem := by
  unfold State.errorPlace
  split
  · split
    · exact State.errorRec_mem ..
    · rfl
  · exact State.foldl_mem _ (fun _ _ => State.errorRec_mem ..) _ _

/-- Counting a correctable error leaves memory. -/
@[simp] theorem State.countError_mem (s : State) (key : Nat) : (s.countError key).mem = s.mem := by
  unfold State.countError
  dsimp only
  split
  · exact State.errorPlace_mem ..
  · rfl

@[simp] theorem State.activate_mem (s : State) (key : Nat) : (s.activate key).mem = s.mem := by
  unfold State.activate; split <;> rfl

/-- A pilot's access leaves memory as it is until it performs. -/
@[simp] theorem State.touch_mem (s : State) (key n : Nat) (read : Bool) : (s.touch key n read).mem = s.mem := by
  unfold State.touch
  split
  · rfl
  · refine State.foldl_mem _ (fun s i => ?_) _ _
    dsimp only
    split <;> simp

@[simp] theorem State.touchWalk_mem (s : State) (proc va : Nat) : (s.touchWalk proc va).mem = s.mem := by
  unfold State.touchWalk
  split
  · rfl
  · split
    · rfl
    · exact State.foldl_mem _ (fun _ _ => State.touch_mem ..) _ _

@[simp] theorem State.pokeVirt_mem (s : State) (proc va n val : Nat) (rep : Option (Nat × Nat)) : (s.pokeVirt proc va n val rep).mem = s.mem := by
  unfold State.pokeVirt
  split
  · exact State.touchWalk_mem ..
  · rfl

/-- Bytes that a slot writes keep the canonical form, and what they replace goes into the undo log. -/
theorem State.writeMem_canonical {s : State} (h : s.Canonical) (x : Nat) (hnd : Bool) (ord key n val mask : Nat) :
    (s.writeMem x hnd ord key n val mask).Canonical := Memory.wf_writeN n key val mask h

/-- A register written changes its context's registers, the shadow with them, and the undo log. -/
theorem State.writeRegAt_keeps (s : State) (x : Nat) (hnd : Bool) (ord y : Nat) (l : Loc) (val mask : Gran) :
    let t := s.writeRegAt x hnd ord y l val mask
    (t.ctx y).regs = (s.ctx y).regs.write l val mask ∧ (∀ z, z ≠ y → t.ctx z = s.ctx z)
      ∧ t.mem = s.mem ∧ t.pend = s.pend ∧ t.faults = s.faults ∧ t.gangs = s.gangs ∧ t.mod = s.mod := by
  refine ⟨by simp [State.writeRegAt, State.ctx, State.setCtx, Ctx.withRegs], fun z hz => ?_, rfl, rfl, rfl, rfl, rfl⟩
  exact State.ctx_setCtx_ne s _ hz

end Sys2Proof.Machine
end

