-- ==== Sys2Proof/Tests/Slice0.lean ====
section
/-! SUPPORT. Tests. Expected results come from the spec's worked examples and tables, or are worked out by hand from the
rules; none comes from a run. The theorems named test_wit_… show states and operands that meet the hypotheses of the
statement they name, clause by clause. -/

namespace Sys2Proof.Tests

open Sys2Proof Sys2Proof.Machine

set_option Elab.async false

/-! ### Helpers -/

/-- The guard p0. -/
def g0 : Guard := ⟨false, 0⟩

/-- The guard p1, false in every lane. -/
def gNo : Guard := ⟨false, 1⟩

/-- An allotment of every chart, latch and lock rotation, bundles 0 to 2,047, the whole berth of 16 granule blocks, all quay
registers and latch tiles (07 R145). -/
def fullAllot : Word :=
  BitVec.ofNat 64 (15 * 2 ^ 60 + 255 * 2 ^ 52 + 15 * 2 ^ 48 + 31 * 2 ^ 38 + 15 * 2 ^ 30 + 95 * 2 ^ 16 + 27 * 2 ^ 6)

/-- One gang of one context, context 0 of core 0, that runs at schedule count 10. -/
def one : State :=
  { (((State.reset.setGang 1 { live := true, run := .running, members := [0], sch := 10, cyc := 10 }).setCtx 0
      { resident := true, gang := 1, allot := fullAllot }).setCore 0 { holder := some 0 }) with fr := { x := 0, t := 10, addr := 3 } }

/-- The same with slot `k` of a bundle, slice `k` of a per-lane instruction, or a changed frame. -/
def atSlice (s : State) (k : Nat) : State := { s with fr := { s.fr with slice := k } }

def sreg (s : State) (r v : Nat) : State := s.updCtx 0 fun c => { c with regs := c.regs.put (.s r) (BitVec.ofNat 512 v) }
def vreg (s : State) (r k v : Nat) : State := s.updCtx 0 fun c => { c with regs := c.regs.put (.v r k) (BitVec.ofNat 512 v) }
def preg (s : State) (r k v : Nat) : State := s.updCtx 0 fun c => { c with regs := c.regs.put (.p r k) (BitVec.ofNat 512 v) }
def withCtx (s : State) (f : Ctx → Ctx) : State := s.updCtx 0 f
def withGang (s : State) (f : Gang → Gang) : State := s.setGang 1 (f (s.gang 1))

/-- The outcome is a next state of which `p` holds. -/
def nextIs (r : Result) (p : State → Bool) : Bool := match r with
  | .next t => p t
  | _ => false

/-- The pending register landings: count, register and value. -/
def lands (t : State) : List (Nat × Loc × Nat) := t.pend.filterMap fun e => match e.act with
  | .reg l v _ => some (e.due, l, v.toNat)
  | _ => none

/-- The pending stores: count, key, bytes, value and byte mask. -/
def stores (t : State) : List (Nat × Nat × Nat × Nat) := t.pend.filterMap fun e => match e.act with
  | .store k n v _ => some (e.due, k, n, v)
  | _ => none

/-- The detected faults: code, count, FINFO. -/
def raised (t : State) : List (Nat × Nat × Nat) := t.faults.map fun f => (f.code, f.F, f.finfo.toNat)

/-- Element `j` of the value that lands first. -/
def firstElem (w : Nat) (t : State) (j : Nat) : Nat := match lands t with
  | (_, _, v) :: _ => v / 2 ^ (w * j) % 2 ^ w
  | _ => 0

/-- `one` with PSW.PRIV set. -/
def privOne : State := withCtx one fun c => { c with psw := 0x800 }

/-! ### Well-formedness: each check refuses a term that breaks it alone (02 R25, R28, R35, R36, R44) -/

theorem test_wf_guard : (Instr.add ⟨true, 0⟩ 1 2 3).wf = false ∧ (Instr.add ⟨true, 1⟩ 1 2 3).wf = true
    ∧ (Instr.endl ⟨false, 16⟩).wf = false ∧ (Instr.endl ⟨false, 15⟩).wf = true := by decide
theorem test_wf_registers : (Instr.add g0 32 0 0).wf = false ∧ (Instr.sub g0 0 32 0).wf = false ∧ (Instr.fma g0 .f32 .rn 0 0 0 32).wf = false
    ∧ (Instr.fma g0 .f32 .rn 31 31 31 31).wf = true := by decide
theorem test_wf_immediates : (Instr.addi g0 1 1 131072).wf = false ∧ (Instr.addi g0 1 1 (-131073)).wf = false
    ∧ (Instr.li g0 1 4194304).wf = false ∧ (Instr.lih g0 1 65536).wf = false ∧ (Instr.vld g0 1 1 65536).wf = false
    ∧ (Instr.addi g0 1 1 (-131072)).wf = true ∧ (Instr.li g0 1 (-4194304)).wf = true := by decide
theorem test_wf_targets : (Instr.br g0 2048).wf = false ∧ (Instr.trap g0 2048).wf = false ∧ (Instr.br g0 2047).wf = true := by decide
theorem test_wf_small_fields : (Instr.xin g0 0 4096 0).wf = false ∧ (Instr.xina g0 8 0).wf = false ∧ (Instr.mset g0 8 0).wf = false
    ∧ (Instr.vcmp g0 .i32 .lt 8 0 0).wf = false ∧ (Instr.dtz g0 4).wf = false ∧ (Instr.ctxs g0 4).wf = false
    ∧ (Instr.ceLd g0 0 0 16384).wf = false ∧ (Instr.sys g0 0 128 0).wf = false ∧ (Instr.vred g0 .i32 false .sum 8 0).wf = false := by decide
theorem test_wf_router : (Instr.rld 8 0 0).wf = false ∧ (Instr.rflg 64).wf = false ∧ (Instr.rthr .t3 0 0 0).wf = false
    ∧ (Instr.rpsh 16 0 0).wf = false ∧ (Instr.rld 7 255 4095).wf = true := by decide
theorem test_wf_tile : (Instr.tadd ⟨8, 1, 1, 3, false, false, false, false, 0, 0, 1, 1, 1, ⟨0, 0, 0⟩, ⟨0, 0, 0⟩, ⟨0, 0, 0⟩⟩).wf = false
    ∧ (Instr.tadd ⟨2, 1, 1, 3, false, false, false, false, 0, 0, 1, 1, 1, ⟨0, 0, 2 ^ 40⟩, ⟨0, 0, 0⟩, ⟨0, 0, 0⟩⟩).wf = false
    ∧ (Instr.tadd ⟨2, 1, 1, 3, false, false, false, false, 0, 0, 1, 1, 1, ⟨0, 0, 0⟩, ⟨0, 0, 0⟩, ⟨0, 0, 0⟩⟩).wf = true := by decide
theorem test_wf_loop : (Instr.loop g0 0 0).wf = false ∧ (Instr.loop g0 6 1).wf = false ∧ (Instr.loop g0 6 0).wf = true := by decide
theorem test_wf_flags : (Instr.wait g0 .core 16).wf = false ∧ (Instr.setf g0 .lane 0).wf = false ∧ (Instr.tstf g0 0 .clu 1).wf = false
    ∧ (Instr.fence g0 .slc).wf = false ∧ (Instr.wait g0 .clu 63).wf = true := by decide
theorem test_wf_control_registers : (Instr.get g0 1 7).wf = false ∧ (Instr.set g0 1 1).wf = false ∧ (Instr.get g0 1 28).wf = true := by decide
theorem test_wf_types : (Instr.vadd g0 .f32 false 1 2 3).wf = false ∧ (Instr.vmul g0 .i64 false 1 2 3).wf = false
    ∧ (Instr.vdot4 g0 .i16 false 1 2 3).wf = false ∧ (Instr.vabs g0 .n8 false 1 2).wf = false ∧ (Instr.vneg g0 .n8 true 1 2).wf = false
    ∧ (Instr.vred g0 .i8 true .max 1 2).wf = false ∧ (Instr.frcp g0 .f64 .rn 1 2).wf = false ∧ (Instr.fred g0 .f32 .rs .sum 1 2).wf = false
    ∧ (Instr.vcmp g0 .f32 .lt 1 2 3).wf = false ∧ (Instr.fcmp g0 .f32 .ltn 1 2 3).wf = false ∧ (Instr.atom g0 .max .f32 1 2 3).wf = false := by decide
theorem test_wf_predicates : (Instr.pand g0 1 2 3).wf = false ∧ (Instr.pnot g0 16 2).wf = false ∧ (Instr.pcnt g0 1 16).wf = false
    ∧ (Instr.vcmp g0 .i32 .lt 0 1 2).wf = false := by decide
theorem test_wf_groups : (Instr.zip2 g0 .w8 15 1 2).wf = false ∧ (Instr.zip4 g0 .w8 29 0).wf = false ∧ (Instr.zip3 g0 .w8 13 16).wf = true := by decide
theorem test_wf_limits : (Instr.pack g0 2 2 1 2).wf = false ∧ (Instr.perm g0 .w4 1 2 3).wf = false ∧ (Instr.slide g0 1 2 128).wf = false
    ∧ (Instr.xin g0 1 2 7).wf = false ∧ (Instr.xinm g0 .clu 1 2 0).wf = false ∧ (Instr.pack g0 2 1 1 2).wf = true := by decide

/-! ### Decoding: words as the spec's own examples write them (02 to 15), each with the instruction named there -/

theorem test_dec_scalar : decodeTableWord 32 0x01032140 = some (.add g0 3 4 5) ∧ decodeTableWord 32 0x01450025 = some (.li g0 5 0x25)
    ∧ decodeTableWord 32 0x0165000F = some (.lih g0 5 0xF) ∧ decodeTableWord 32 0x01242040 = some (.addi g0 4 4 64) := by decide +kernel
theorem test_dec_control : decodeTableWord 32 0x00200040 = some (.br g0 0x40) ∧ decodeTableWord 32 0x00220028 = some (.call g0 40)
    ∧ decodeTableWord 32 0x00243000 = some (.loop g0 6 0) ∧ decodeTableWord 32 0x00240008 = some (.loop g0 0 8)
    ∧ decodeTableWord 32 0x00250000 = some (.endl g0) ∧ decodeTableWord 32 0x00270000 = some (.endTask g0) := by decide +kernel
theorem test_dec_system : decodeTableWord 32 0x00290209 = some (.wait g0 .clu 9) ∧ decodeTableWord 32 0x002D0005 = some (.trap g0 5)
    ∧ decodeTableWord 32 0x00350005 = some (.mark g0 5) ∧ decodeTableWord 32 0x07C10001 = some (.ctxs g0 1)
    ∧ decodeTableWord 32 0x07C20001 = some (.ctxr g0 1) := by decide +kernel
theorem test_dec_vector : decodeTableWord 32 0x02E329C7 = some (.vred g0 .i32 false .sum 3 5)
    ∧ decodeTableWord 32 0x04042223 = some (.vcmp g0 .i32 .lt 1 1 2) ∧ decodeTableWord 32 0x05492080 = some (.xcp g0 9 0 4) := by decide +kernel
theorem test_dec_transducer : decodeTableWord 32 0x05A12802 = some (.dtld g0 1 5 2) ∧ decodeTableWord 32 0x05840890 = some (.dtx g0 1 4 1 2)
    ∧ decodeTableWord 32 0x0588001A = some (.dtq g0 1 8) := by decide +kernel
theorem test_dec_berth : decodeTableWord 32 0x06032002 = some (.vld g0 3 4 2) ∧ decodeTableWord 32 0x06271808 = some (.lds g0 7 3 8)
    ∧ decodeTableWord 32 0x06425018 = some (.rset g0 2 10) ∧ decodeTableWord 32 0x06491028 = some (.rinfo g0 9 2)
    ∧ decodeTableWord 32 0x06621900 = some (.atom g0 .add .i32 2 3 4) := by decide +kernel
theorem test_dec_lock : decodeTableWord 32 0x06941430 = some (.xin g0 20 40 3) ∧ decodeTableWord 32 0x06851438 = some (.xout g0 5 40 3)
    ∧ decodeTableWord 32 0x06AC9678 = some (.xinm g0 .clu 12 300 15) ∧ decodeTableWord 32 0x06C23230 = some (.xinr g0 2 100 3)
    ∧ decodeTableWord 32 0x06E30A00 = some (.xina g0 3 10) ∧ decodeTableWord 32 0x06E50002 = some (.xcal g0 5) := by decide +kernel
theorem test_dec_matrix : decodeTableWord 32 0x070D8000 = some (.mzero g0 3) ∧ decodeTableWord 32 0x07110103 = some (.mpop g0 8 2 3)
    ∧ decodeTableWord 32 0x07148040 = some (.mpsh g0 2 1 0) ∧ decodeTableWord 32 0x07011800 = some (.mcall g0 70)
    ∧ decodeTableWord 32 0x07216000 = some (.sld g0 1 12 0) ∧ decodeTableWord 32 0x07602080 = some (.trn g0 4 2)
    ∧ decodeTableWord 32 0x07690081 = some (.trno g0 9 2) := by decide +kernel
theorem test_dec_engine : decodeTableWord 32 0x078042A8 = some (.ceLd g0 4 5 40) ∧ decodeTableWord 32 0x079242A8 = some (.bxSend g0 4 5 40)
    ∧ decodeTableWord 32 0x07944283 = some (.bxPost g0 4 5 3) := by decide +kernel
theorem test_dec_tier : decodeTableWord 32 0x07A80292 = some (.ceCxlToQuay g0 512 20 9) := by decide +kernel
/-- The decoder reads these three operations, CTL and TGT from a router word. -/
def routerIs (w : Nat) (a b c : Instr) (k t : Nat) : Bool := match decodeRouterWord w with
  | some (a', b', c', k', t') => decide (a' = a) && decide (b' = b) && decide (c' = c) && k' == k && t' == t
  | none => false

theorem test_dec_router : routerIs 0x00200000100000000000000000000000 (.rldc 0 0 1 0) .rnop .rnop 0 0 = true
    ∧ routerIs 0x000000000000480A0000000000000000 .rnop (.radd .t2 4 0 1) .rnop 0 0 = true
    ∧ routerIs 0x0100000000000000000000C180F01010 .rnop .rnop (.rstc 15 6 1 16) 1 0 = true := by decide +kernel

/-! ### Scalar instructions (08 R164, R165) and control registers (07 R143) -/

/-- `one` with s1 = a and s2 = b. -/
def ab (a b : Nat) : State := sreg (sreg one 1 a) 2 b

/-- The instruction's one register landing. -/
def landsOne (r : Result) (n : Nat) (l : Loc) (v : Nat) : Bool := nextIs r fun t => lands t == [(n, l, v)]

theorem test_add_wraps : landsOne (exec (.add g0 3 1 2) (ab (2 ^ 64 - 1) 2)) 11 (.s 3) 1 = true := by decide +kernel
theorem test_sub_borrows : landsOne (exec (.sub g0 3 1 2) (ab 0 1)) 11 (.s 3) (2 ^ 64 - 1) = true := by decide +kernel
theorem test_mul_low : landsOne (exec (.mul g0 3 1 2) (ab (2 ^ 64 - 1) (2 ^ 64 - 1))) 13 (.s 3) 1 = true := by decide +kernel
theorem test_mulh_signs : landsOne (exec (.mulh g0 false 3 1 2) (ab (2 ^ 64 - 1) 2)) 13 (.s 3) (2 ^ 64 - 1) = true
    ∧ landsOne (exec (.mulh g0 true 3 1 2) (ab (2 ^ 64 - 1) 2)) 13 (.s 3) 1 = true := by decide +kernel
theorem test_andn_order : landsOne (exec (.andn g0 3 1 2) (ab 6 3)) 11 (.s 3) 4 = true := by decide +kernel
theorem test_shl_by_the_width : landsOne (exec (.shl g0 3 1 2) (ab 1 64)) 11 (.s 3) 0 = true
    ∧ landsOne (exec (.shl g0 3 1 2) (ab 1 63)) 11 (.s 3) (2 ^ 63) = true := by decide +kernel
theorem test_shr_by_the_width : landsOne (exec (.shr g0 3 1 2) (ab (2 ^ 64 - 1) 64)) 11 (.s 3) 0 = true := by decide +kernel
theorem test_sra_copies_the_sign : landsOne (exec (.sra g0 3 1 2) (ab (2 ^ 63) 200)) 11 (.s 3) (2 ^ 64 - 1) = true := by decide +kernel
theorem test_min_signs : landsOne (exec (.min g0 false 3 1 2) (ab (2 ^ 64 - 1) 1)) 11 (.s 3) (2 ^ 64 - 1) = true
    ∧ landsOne (exec (.min g0 true 3 1 2) (ab (2 ^ 64 - 1) 1)) 11 (.s 3) 1 = true := by decide +kernel
theorem test_max_signs : landsOne (exec (.max g0 false 3 1 2) (ab (2 ^ 64 - 1) 1)) 11 (.s 3) 1 = true := by decide +kernel
theorem test_clz_of_zero : landsOne (exec (.clz g0 3 1) (ab 0 0)) 11 (.s 3) 64 = true
    ∧ landsOne (exec (.clz g0 3 1) (ab 1 0)) 11 (.s 3) 63 = true := by decide +kernel
theorem test_popc : landsOne (exec (.popc g0 3 1) (ab 0xF0F 0)) 11 (.s 3) 8 = true := by decide +kernel
theorem test_addi_negative : landsOne (exec (.addi g0 3 1 (-1)) (ab 0 0)) 11 (.s 3) (2 ^ 64 - 1) = true := by decide +kernel
theorem test_li_lih : landsOne (exec (.li g0 5 (-1)) one) 11 (.s 5) (2 ^ 64 - 1) = true
    ∧ landsOne (exec (.lih g0 5 0xF) (sreg one 5 0x25)) 11 (.s 5) 0x25000F = true := by decide +kernel
theorem test_sel_by_sc : landsOne (exec (.sel g0 3 1 2 4) (ab 7 9)) 11 (.s 3) 9 = true
    ∧ landsOne (exec (.sel g0 3 1 2 1) (ab 7 9)) 11 (.s 3) 7 = true := by decide +kernel
theorem test_cmp_signs : landsOne (exec (.cmp g0 .lt 3 1 2) (ab (2 ^ 64 - 1) 1)) 11 (.s 3) 1 = true
    ∧ landsOne (exec (.cmp g0 .ltn 3 1 2) (ab (2 ^ 64 - 1) 1)) 11 (.s 3) 0 = true := by decide +kernel
theorem test_bitwise : landsOne (exec (.and g0 3 1 2) (ab 6 3)) 11 (.s 3) 2 = true ∧ landsOne (exec (.or g0 3 1 2) (ab 6 3)) 11 (.s 3) 7 = true
    ∧ landsOne (exec (.xor g0 3 1 2) (ab 6 3)) 11 (.s 3) 5 = true ∧ landsOne (exec (.mov g0 3 1) (ab 6 3)) 11 (.s 3) 6 = true := by decide +kernel
theorem test_false_guard : nextIs (exec (.add gNo 3 1 2) (ab 1 2)) (fun t => lands t == []) = true := by decide +kernel
theorem test_s0_reads_zero : landsOne (exec (.add g0 3 0 0) (sreg one 0 5)) 11 (.s 3) 0 = true := by decide +kernel
theorem test_get_sch_and_tide : landsOne (exec (.get g0 3 1) one) 11 (.s 3) 10 = true
    ∧ landsOne (exec (.get g0 3 3) { one with tide := 77 }) 11 (.s 3) 77 = true := by decide +kernel
theorem test_set_needs_priv : nextIs (exec (.set g0 1 24) one) (fun t => raised t == [(3, 10, 0)]) = true
    ∧ nextIs (exec (.set g0 1 17) one) (fun t => raised t == [] && t.pend.length == 1) = true := by decide +kernel

/-! ### Vector instructions (05): element 0 of slice `k`, with v1 and v2 holding `a` and `b` there and vd holding `d` in v3 -/

def vab (k d a b : Nat) : State := atSlice (vreg (vreg (vreg one 3 k d) 1 k a) 2 k b) k

/-- The count at which v3's slice `k` lands and its element 0. -/
def elem0 (r : Result) (w n k v : Nat) : Bool :=
  nextIs r fun t => (lands t).head?.any (fun e => e.1 == n && decide (e.2.1 = .v 3 k)) && firstElem w t 0 == v

theorem test_vadd_saturates : elem0 (exec (.vadd g0 .i8 true 3 1 2) (vab 3 0 0x7F 1)) 8 15 3 0x7F = true
    ∧ elem0 (exec (.vadd g0 .i8 false 3 1 2) (vab 3 0 0x7F 1)) 8 15 3 0x80 = true := by decide +kernel
theorem test_vsub_unsigned_saturates : elem0 (exec (.vsub g0 .n16 true 3 1 2) (vab 0 0 1 2)) 16 12 0 0 = true := by decide +kernel
theorem test_vmul_low : elem0 (exec (.vmul g0 .i16 false 3 1 2) (vab 0 0 0x8000 3)) 16 14 0 0x8000 = true := by decide +kernel
theorem test_vmulh_signed : elem0 (exec (.vmulh g0 .i16 3 1 2) (vab 0 0 0x8000 0x8000)) 16 14 0 0x4000 = true
    ∧ elem0 (exec (.vmulh g0 .i16 3 1 2) (vab 0 0 0xFFFF 1)) 16 14 0 0xFFFF = true := by decide +kernel
theorem test_vmad_addend : elem0 (exec (.vmad g0 .i32 false 3 1 2) (vab 0 5 0xFFFFFFFF 7)) 32 14 0 0xFFFFFFFE = true := by decide +kernel
theorem test_vdot4_of_the_spec : elem0 (exec (.vdot4 g0 .i8 false 3 1 2) (vab 0 100 0x7F05FE03 0x02FF0704)) 32 14 0 0x15B = true
    ∧ elem0 (exec (.vdot4 g0 .i8 false 3 1 2) (vab 0 0x7FFFFFF0 0x7F05FE03 0x02FF0704)) 32 14 0 0x800000E7 = true
    ∧ elem0 (exec (.vdot4 g0 .i8 true 3 1 2) (vab 0 0x7FFFFFF0 0x7F05FE03 0x02FF0704)) 32 14 0 0x7FFFFFFF = true := by decide +kernel
theorem test_vmin_vmax_signs : elem0 (exec (.vmin g0 .i8 3 1 2) (vab 0 0 0xFF 1)) 8 12 0 0xFF = true
    ∧ elem0 (exec (.vmax g0 .n8 3 1 2) (vab 0 0 0xFF 1)) 8 12 0 0xFF = true := by decide +kernel
theorem test_vector_bitwise : elem0 (exec (.vandn g0 3 1 2) (vab 0 0 6 3)) 8 12 0 4 = true ∧ elem0 (exec (.vand g0 3 1 2) (vab 0 0 6 3)) 8 12 0 2 = true
    ∧ elem0 (exec (.vor g0 3 1 2) (vab 0 0 6 3)) 8 12 0 7 = true ∧ elem0 (exec (.vxor g0 3 1 2) (vab 0 0 6 3)) 8 12 0 5 = true
    ∧ elem0 (exec (.vmov g0 3 1) (vab 0 0 6 3)) 8 12 0 6 = true := by decide +kernel
theorem test_vshl_past_the_width : elem0 (exec (.vshl g0 .i8 false 3 1 2) (vab 0 0 0xFF 8)) 8 12 0 0 = true
    ∧ elem0 (exec (.vshl g0 .i8 true 3 1 2) (vab 0 0 0xFF 9)) 8 12 0 0x80 = true := by decide +kernel
theorem test_vshr_vsra : elem0 (exec (.vshr g0 .i16 3 1 2) (vab 0 0 0x8000 15)) 16 12 0 1 = true
    ∧ elem0 (exec (.vsra g0 .n16 3 1 2) (vab 0 0 0x8000 16)) 16 12 0 0xFFFF = true := by decide +kernel
theorem test_vabs_of_the_least : elem0 (exec (.vabs g0 .i8 false 3 1) (vab 0 0 0x80 0)) 8 12 0 0x80 = true
    ∧ elem0 (exec (.vabs g0 .i8 true 3 1) (vab 0 0 0x80 0)) 8 12 0 0x7F = true := by decide +kernel
theorem test_vneg : elem0 (exec (.vneg g0 .n8 false 3 1) (vab 0 0 1 0)) 8 12 0 0xFF = true := by decide +kernel
theorem test_vclz_vpopc : elem0 (exec (.vclz g0 .i16 3 1) (vab 0 0 1 0)) 16 12 0 15 = true
    ∧ elem0 (exec (.vpopc g0 .i4 3 1) (vab 0 0 0xF 0)) 4 12 0 4 = true := by decide +kernel
theorem test_viota_wraps : elem0 (exec (.viota g0 .n8 3) (vab 5 0 0 0)) 8 17 5 64 = true
    ∧ elem0 (exec (.viota g0 .i16 3) (vab 2 0 0 0)) 16 14 2 64 = true := by decide +kernel
theorem test_vbc_low_bits : elem0 (exec (.vbc g0 .i8 3 1) (sreg one 1 0x1FF)) 8 12 0 0xFF = true := by decide +kernel
theorem test_vsel : elem0 (exec (.vsel g0 3 1 2 1) (vab 0 0 6 3)) 8 12 0 3 = true := by decide +kernel
theorem test_vred_lands_at_40 : nextIs (exec (.vred g0 .i32 false .sum 3 1) (vab 7 0 5 0)) (fun t => (lands t).length == 8
    && (lands t).all fun e => e.1 == 50 && e.2.2 % 2 ^ 32 == 5) = true := by decide +kernel
theorem test_vcmp_pair : nextIs (exec (.vcmp g0 .i32 .lt 1 1 2) (vab 0 0 0xFFFFFFFF 1)) (fun t =>
    lands t == [(13, .p 2 0, 1), (13, .p 3 0, 0xFFFE)]) = true := by decide +kernel
theorem test_predicate_logic : landsOne (exec (.pand g0 2 3 4) (preg (preg one 3 0 6) 4 0 3)) 12 (.p 2 0) 2 = true
    ∧ landsOne (exec (.por g0 2 3 4) (preg (preg one 3 0 6) 4 0 3)) 12 (.p 2 0) 7 = true
    ∧ landsOne (exec (.pxor g0 2 3 4) (preg (preg one 3 0 6) 4 0 3)) 12 (.p 2 0) 5 = true
    ∧ landsOne (exec (.pnot g0 2 3) (preg one 3 0 6)) 12 (.p 2 0) 0xFFF9 = true
    ∧ landsOne (exec (.pmov g0 2 3) (preg one 3 0 6)) 12 (.p 2 0) 6 = true := by decide +kernel
theorem test_pcnt : elem0 (exec (.pcnt g0 3 3) (preg one 3 0 7)) 32 12 0 3 = true := by decide +kernel

/-! ### Floating point and conversions (03, 05 R99 to R113): flags NX 1, UF 2, OF 4, DZ 8, NV 16 -/

/-- Element 0 of the slice, and the flags that the slot merges. -/
def felem0 (r : Result) (w n v fl : Nat) : Bool := nextIs r fun t =>
  (lands t).head?.any (fun e => e.1 == n) && firstElem w t 0 == v
    && t.pend.foldl (fun (m : Nat) e => match e.act with
      | .flagsOr b => m ||| b
      | _ => m) 0 == fl

theorem test_fadd_ties_to_even : felem0 (exec (.fadd g0 .f32 .rn 3 1 2) (vab 0 0 0x3F800000 0x33800000)) 32 16 0x3F800000 1 = true
    ∧ felem0 (exec (.fadd g0 .f32 .ru 3 1 2) (vab 0 0 0x3F800000 0x33800000)) 32 16 0x3F800001 1 = true := by decide +kernel
theorem test_fsub_infinities : felem0 (exec (.fsub g0 .f32 .rn 3 1 2) (vab 0 0 0x7F800000 0x7F800000)) 32 16 0x7FC00000 16 = true := by decide +kernel
theorem test_fmul_overflows : felem0 (exec (.fmul g0 .bf16 .rn 3 1 2) (vab 0 0 0x7F00 0x4080)) 16 16 0x7F80 5 = true
    ∧ felem0 (exec (.fmul g0 .f64 .rn 3 1 2) (vab 0 0 0x4000000000000000 0x4008000000000000)) 64 22 0x4018000000000000 0 = true := by decide +kernel
theorem test_fma_rounds_once : felem0 (exec (.fma g0 .f32 .rn 3 1 1 2) (vab 0 0 0x3F800001 0xBF800002)) 32 16 0x28800000 0 = true := by decide +kernel
theorem test_fms_fnma_signs : felem0 (exec (.fms g0 .f32 .rn 3 1 1 2) (vab 0 0 0x40000000 0x3F800000)) 32 16 0x40400000 0 = true
    ∧ felem0 (exec (.fnma g0 .f32 .rn 3 1 1 2) (vab 0 0 0x40000000 0x3F800000)) 32 16 0xC0400000 0 = true := by decide +kernel
theorem test_fmin_of_zeros : felem0 (exec (.fmin g0 .f32 3 1 2) (vab 0 0 0 0x80000000)) 32 12 0x80000000 0 = true
    ∧ felem0 (exec (.fmax g0 .f32 3 1 2) (vab 0 0 0x80000000 0)) 32 12 0 0 = true
    ∧ felem0 (exec (.fmax g0 .f32 3 1 2) (vab 0 0 0x7FC00000 0x3F800000)) 32 12 0x3F800000 0 = true := by decide +kernel
theorem test_sign_operations : felem0 (exec (.fabs g0 .f16 3 1) (vab 0 0 0xBC00 0)) 16 12 0x3C00 0 = true
    ∧ felem0 (exec (.fneg g0 .f16 3 1) (vab 0 0 0x3C00 0)) 16 12 0xBC00 0 = true
    ∧ felem0 (exec (.fcps g0 .f16 3 1 2) (vab 0 0 0x3C00 0x8000)) 16 12 0xBC00 0 = true := by decide +kernel
theorem test_fcls : felem0 (exec (.fcls g0 .f32 3 1) (vab 0 0 0x80000001 0)) 32 12 0x10 0 = true
    ∧ felem0 (exec (.fcls g0 .f32 3 1) (vab 0 0 0x7F800001 0)) 32 12 1 0 = true := by decide +kernel
theorem test_functions : felem0 (exec (.frcp g0 .bf16 .rn 3 1) (vreg one 1 0 (0x4000 + 0x3F80 * (2 ^ 512 - 2 ^ 16) / (2 ^ 16 - 1) % 2 ^ 512))) 16 20 0x3F00 0 = true
    := by decide +kernel
theorem test_fred_max : nextIs (exec (.fred g0 .f32 .rn .max 3 1) (vab 7 0 0x3F800000 0)) (fun t => (lands t).length == 8
    && (lands t).all fun e => e.1 == 74 && e.2.2 % 2 ^ 32 == 0x3F800000) = true := by decide +kernel
theorem test_fcmp_of_a_nan : nextIs (exec (.fcmp g0 .f32 .lt 1 1 2) (vab 0 0 0x7FC00000 0)) (fun t =>
    lands t == [(13, .p 2 0, 0), (13, .p 3 0, 0xFFFF)] && t.pend.any fun e => decide (e.act = .flagsOr 16)) = true := by decide +kernel
theorem test_cvt_of_the_spec : felem0 (exec (.cvt g0 .e4m3 .f32 .rn 3 1) (vab 0 0 0xC0000000 0)) 32 14 0xC0 0 = true
    ∧ felem0 (exec (.cvt g0 .e4m3 .f32 .rn 3 1) (vab 0 0 0x43E00000 0)) 32 14 0x7E 0 = true
    ∧ nextIs (exec (.cvt g0 .e4m3 .f32 .rn 3 1) (vab 0 0 0x43E00000 0)) (fun t => t.pend.any fun e =>
        e.due == 21 && decide (e.act = .amax 0x43E00000 false)) = true := by decide +kernel
theorem test_cvt_to_integer_clamps : felem0 (exec (.cvt g0 .i8 .f32 .rn 3 1) (vab 0 0 0x43960000 0)) 32 14 0x7F 16 = true
    ∧ felem0 (exec (.cvt g0 .i32 .f32 .rn 3 1) (vab 0 0 0x40200000 0)) 32 14 2 1 = true := by decide +kernel
theorem test_cvtSat_integers : felem0 (exec (.cvtSat g0 .i8 .i16 .rn 3 1) (vab 0 0 0x0180 0)) 16 14 0x7F 0 = true
    ∧ felem0 (exec (.cvt g0 .i8 .i16 .rn 3 1) (vab 0 0 0x0180 0)) 16 14 0x80 0 = true := by decide +kernel
theorem test_cvtg_of_the_spec : felem0 (exec (.cvtg g0 3 1) (vreg (vreg one 1 0 13) 1 2 (0x3DCD + 8 * 2 ^ 16))) 16 14 0x3F00 1 = true := by decide +kernel
theorem test_cvtb_decodes : felem0 (exec (.cvtb g0 false false true .rn 3 1) (vreg (vreg one 1 0 0x20) 1 7 127)) 32 14 0x3F800000 0 = true := by decide +kernel
theorem test_pack_unpk : elem0 (exec (.pack g0 1 1 3 1) (vab 0 0x11223344 0x555555AA 0)) 32 12 0 0x1122AA44 = true
    ∧ elem0 (exec (.unpk g0 1 1 3 1) (vab 0 0 0x11223344 0)) 32 12 0 0x33 = true := by decide +kernel
theorem test_amaxr_clears : nextIs (exec (.amaxr g0 3) (withCtx one fun c => { c with amax := 0x12345678 })) (fun t =>
    (t.ctx 0).amax == 0 && firstElem 64 t 0 == 0x12345678) = true := by decide +kernel
theorem test_seed_of_zero : nextIs (exec (.seedFromVector g0 1) (vab 0 0 0 0)) (fun t => t.pend.any fun e => match e.act with
    | .seedGen 0 v _ => v.toNat % 2 ^ 32 == 0x6D2B79F5
    | _ => false) = true := by decide +kernel

/-! ### Rearrangement, streams and digit transducers (05 R114 to R117, 06) -/

theorem test_zip_uzp : nextIs (exec (.zip2 g0 .w32 10 1 2) (vab 0 0 5 7)) (fun t => (lands t).map (fun e => (e.1, e.2.1, e.2.2 % 2 ^ 64))
      == [(13, .v 10 0, 7 * 2 ^ 32 + 5), (13, .v 11 0, 0)]) = true
    ∧ nextIs (exec (.uzp2 g0 .w32 10 1 2) (vab 0 0 (7 * 2 ^ 32 + 5) 0)) (fun t => (lands t).map (fun e => e.2.2 % 2 ^ 64) == [5, 7]) = true := by decide +kernel
theorem test_zip3_and_4 : nextIs (exec (.zip3 g0 .w32 10 1) (vab 0 9 5 7)) (fun t => (lands t).map (fun e => e.2.2 % 2 ^ 96)
      == [9 * 2 ^ 64 + 7 * 2 ^ 32 + 5, 0, 0]) = true
    ∧ nextIs (exec (.zip4 g0 .w32 10 0) (vab 0 9 5 7)) (fun t => (lands t).map (fun e => e.2.2 % 2 ^ 128)
      == [9 * 2 ^ 96 + 7 * 2 ^ 64 + 5 * 2 ^ 32, 0, 0, 0]) = true
    ∧ nextIs (exec (.uzp3 g0 .w32 10 1) (vab 0 0 (9 * 2 ^ 64 + 7 * 2 ^ 32 + 5) 0)) (fun t => (lands t).map (fun e => e.2.2 % 2 ^ 32) == [5, 7, 9]) = true
    ∧ nextIs (exec (.uzp4 g0 .w32 10 1) (vab 0 0 (8 * 2 ^ 96 + 9 * 2 ^ 64 + 7 * 2 ^ 32 + 5) 0)) (fun t =>
        (lands t).map (fun e => e.2.2 % 2 ^ 32) == [5, 7, 9, 8]) = true := by decide +kernel
theorem test_perm_zero_and_mod : elem0 (exec (.perm g0 .w32 3 1 2) (vab 0 0 (7 * 2 ^ 32 + 5) 0x11)) 32 13 0 7 = true
    ∧ elem0 (exec (.perm g0 .w32 3 1 2) (vab 0 0 (7 * 2 ^ 32 + 5) 0x80)) 32 13 0 0 = true := by decide +kernel
theorem test_slide_of_the_spec : landsOne (exec (.slide g0 3 2 20) { one with fr := { one.fr with slice := 1, capv := 9, gt := 0xFFFF } })
    16 (.v 3 1) (9 * 2 ^ 128) = true ∧ landsOne (exec (.slide g0 3 2 20) (vreg one 2 0 9)) 15 (.v 3 0) 0 = true := by decide +kernel
theorem test_tap_at_the_row_edge : elem0 (exec (.tap g0 3 0) (vab 0 0 0 0)) 32 12 0 0 = true := by decide +kernel
theorem test_xcp_drives_eastward : nextIs (exec (.xcp g0 3 0 1) (vab 0 0 9 0)) (fun t => (lands t).any fun e => e.1 == 11 && decide (e.2.1 = .strm 0) && e.2.2 == 9) = true
    ∧ nextIs (exec (.drv g0 0 1) (vab 7 0 9 0)) (fun t => lands t == []) = true := by decide +kernel

/-- A chart copy in slot k1 of slice 0: attribute word, transition entries and final entries. -/
def chart (s : State) (attr : Nat) (es fs : List (Nat × Nat)) : State :=
  let k := chartKey 0 0 1
  let m := es.foldl (fun (m : Memory) e => m.writeN (k + 2 * e.1) 2 e.2 3) s.mem
  let m := fs.foldl (fun (m : Memory) e => m.writeN (k + 516 + 2 * e.1) 2 e.2 3) m
  { s with mem := m.writeN (k + 512) 4 attr 15 }

/-- The balanced-ternary adder of 06: index 16 s + 4 a + b. -/
def ternary (s : State) : State :=
  let val := fun (d : Nat) => if d == 1 then (1 : Int) else if d == 0 then 0 else -1
  let st := fun (c : Nat) => if c == 0 then (0 : Int) else if c == 1 then 1 else -1
  let word := fun (x : Int) => [0x9000, 0x9100, 0x8300, 0x8000, 0x8100, 0x8B00, 0x8800].getD (x + 3).toNat 0
  chart s 0x0302 ([0, 1, 2].flatMap fun c => [0, 1, 3].flatMap fun a => [0, 1, 3].map fun b => (16 * c + 4 * a + b, word (st c + val a + val b)))
    [(0, 0x8000), (1, 0x8100), (2, 0x8300)]

theorem test_dtx_of_the_spec : nextIs (exec (.dtx g0 1 3 1 2) (ternary (vab 0 0 0x1F 0x1D))) (fun t => (lands t).any fun e =>
        e.1 == 18 && decide (e.2.1 = .v 3 0) && e.2.2 == 0x14) = true := by decide +kernel
theorem test_dtx_fault_of_the_spec : nextIs (exec (.dtx g0 1 3 1 2) { ternary (vab 0 0 0x1F 0x19) with fr := { one.fr with slot := 1 } }) (fun t =>
    lands t == [] && t.faults.map (fun f => (f.code, f.finfo.toNat)) == [(8, 0x000400008041C000)]) = true := by decide +kernel
theorem test_dtc_sign_of_the_spec : nextIs (exec (.dtc g0 1 2 1 0) (chart (vab 0 0 0x1F 0) 0x0082 [(0, 0x8000), (1, 0x8800), (3, 0x9010), (8, 0x8800), (9, 0x8800),
    (11, 0x8800), (16, 0x9010), (17, 0x9010), (19, 0x9010)] [])) (fun t => (lands t).any fun e => e.1 == 18 && decide (e.2.1 = .p 4 0) && e.2.2 % 2 == 0) = true := by decide +kernel
theorem test_dtz_dtq : nextIs (exec (.dtz g0 1) (chart one 0x3301 [] [])) (fun t => lands t == [(12, .dsr 0, 0x3333333333333333)]) = true
    ∧ nextIs (exec (.dtq g0 1 3) (ternary one)) (fun t => (lands t).any fun e => e.1 == 14 && decide (e.2.1 = .v 3 0) && e.2.2 == 0) = true := by decide +kernel
theorem test_dts_exchanges : nextIs (exec (.dts g0 3 1) (vab 0 0 5 0)) (fun t => lands t == [(12, .dsr 0, 5), (12, .v 3 0, 0)]) = true := by decide +kernel
theorem test_dtld_misaligned : nextIs (exec (.dtld g0 1 1 0) (sreg one 1 32)) (fun t => (raised t).map (·.1) == [4]) = true := by decide +kernel

/-! ### Berth, rings, the lock and the matrix class (08, 09) -/

/-- Memory bytes placed at a key. -/
def withMem (s : State) (key n v : Nat) : State := { s with mem := s.mem.writeN key n v (2 ^ n - 1) }

/-- A byte address of the own berth of core 0 as a memory key. -/
def berth0 (a : Nat) : Nat := (Place.berth 0).key a

theorem test_vld_lands_by_slices : nextIs (exec (.vld g0 3 1 1) (sreg one 1 64)) (fun t =>
    (t.pend.map fun e => e.due) == [16, 17, 18, 19, 20, 21, 22, 23]
    && t.pend.any fun e => decide (e.act = .load (.v 3 2) [(berth0 256, 64, 0)] allBits)) = true := by decide +kernel
theorem test_lds_lands_what_it_reads : nextIs (exec (.lds g0 3 1 1) (withMem (sreg one 1 0) (berth0 8) 8 0x1122334455667788)) (fun t =>
    ((withGang t fun g => { g with sch := 16, cyc := 16 }).landings.ctx 0).regs.read (.s 3) == 0x1122334455667788) = true := by decide +kernel
theorem test_lds_misaligned : nextIs (exec (.lds g0 3 1 0) (sreg one 1 4)) (fun t => t.pend == [] && t.faults.map (fun f => (f.code, f.F)) == [(4, 10)]) = true := by decide +kernel
theorem test_sts_performs : nextIs (exec (.sts g0 3 1 0) (sreg (sreg one 1 16) 3 0xAB)) (fun t => stores t == [(12, berth0 16, 8, 0xAB)]) = true := by decide +kernel
theorem test_vst_by_slices : nextIs (exec (.vst g0 3 1 0) (vreg one 3 0 7)) (fun t => stores t == [(12, berth0 0, 64, 7)]) = true := by decide +kernel
theorem test_vlds_stride : nextIs (exec (.vlds g0 3 1 2) (ab 8 4)) (fun t => t.pend.any fun e => match e.act with
    | .load (.v 3 1) srcs _ => srcs.head? == some (berth0 72, 4, 0)
    | _ => false) = true := by decide +kernel
theorem test_vldx_indexes : nextIs (exec (.vldx g0 3 1 2) (vreg (sreg one 1 8) 2 0 (20 * 2 ^ 32))) (fun t => t.pend.any fun e => match e.act with
    | .load (.v 3 0) srcs _ => srcs.take 2 == [(berth0 8, 4, 0), (berth0 28, 4, 4)]
    | _ => false) = true := by decide +kernel
theorem test_vstx_last_lane : nextIs (exec (.vstx g0 3 1 2) (vreg (sreg one 1 8) 3 0 (5 * 2 ^ 480 + 6))) (fun t =>
    (stores t).length == 16 && (stores t).getLast? == some (12, berth0 8, 4, 5)) = true := by decide +kernel
theorem test_rset_outside : nextIs (exec (.rset g0 2 1) (sreg one 1 0)) (fun t => t.faults == [] && t.pend.any fun e => decide (e.act = .rset 2 0)) = true := by decide +kernel
theorem test_rinfo : landsOne (exec (.rinfo g0 3 2) (withCtx one fun c => c.setRing 2 { base := 5 })) 11 (.s 3) (({ base := 5 } : Ring).word).toNat = true := by decide +kernel
theorem test_atom_old_value : nextIs (exec (.atom g0 .add .i32 3 1 2) (ab 8 3)) (fun t => t.pend.any fun e => match e.act with
    | .atom .add .i32 k b _ 3 land => k == berth0 8 && b == 3 && land == 18 && e.due == 14
    | _ => false) = true
    ∧ (one.perform ⟨one.fr, 14, 0, 1, .atom .add .i32 (berth0 8) 3 0 3 18, 0⟩).mem.readN (berth0 8) 4 = 3 := by decide +kernel

/-- The gang of the worked example of 08: core 37, LK 0b1111, balance 5,000 wb, at count `n`. -/
def at37 (n : Nat) : State :=
  { ((State.reset.setGang 1 { live := true, run := .running, members := [148], sch := n, cyc := n, bal := 5000, depth := 5000 }).setCtx 148
      { resident := true, gang := 1, allot := fullAllot }) with tide := n, fr := { x := 148, t := n } }

theorem test_xin_slots_of_the_spec : nextIs (exec (.xin g0 2 40 4) (at37 43)) (fun t => ((t.ctx 148).crossings.map fun k => k.slots) == [[40, 104]]) = true := by decide +kernel
theorem test_xin_lands_of_the_spec : nextIs (exec (.xin g0 2 40 4) (at37 43)) (fun t => nextIs (exec (.lockSlot 148 0) t) fun u =>
    (lands u).map (fun e => (e.1, e.2.1)) == [(232, .v 2 0)]) = true := by decide +kernel
theorem test_xout_of_the_spec : nextIs (exec (.xout g0 2 41 3) (at37 44)) (fun t => ((t.ctx 148).crossings.map fun k => k.slots) == [[40]]
    && (stores t).map (fun e => (e.1, e.2.2.1)) == [(200, 64)]) = true := by decide +kernel
theorem test_xin_outside_the_allotment : nextIs (exec (.xin g0 2 4000 4) (at37 43)) (fun t => (raised t).map (·.1) == [5] && (t.ctx 148).crossings == []) = true := by decide +kernel
theorem test_xina_moves_a_tile : nextIs (exec (.xina g0 3 10) (at37 43)) (fun t => (t.ctx 148).crossings.map (fun k => (k.bytes, k.slots.length)) == [(4096, 64)]) = true
    ∧ nextIs (exec (.xouta g0 3 10) (at37 43)) (fun t => (t.ctx 148).crossings.map (fun k => (k.out, k.slots.take 2)) == [(true, [40, 296])]) = true := by decide +kernel
theorem test_xinm_targets : nextIs (exec (.xinm g0 .clu 12 30 1) (at37 43)) (fun t => (raised t).map (·.1) == [3]) = true
    ∧ nextIs (exec (.xinm g0 .clu 12 30 2) (at37 43)) (fun t => (t.ctx 148).crossings.length == 1) = true := by decide +kernel
theorem test_xinr_full_ring : nextIs (exec (.xinr g0 2 30 3) ((at37 43).updCtx 148 fun c => c.setRing 2 { count := 1 })) (fun t => (raised t).map (·.1) == [14]) = true
    ∧ nextIs (exec (.xinr g0 2 30 3) (at37 43)) (fun t => ((t.ctx 148).ring 2).claims.length == 1) = true := by decide +kernel
theorem test_xcal_phase : landsOne (exec (.xcal g0 5) (at37 43)) 44 (.s 5) (37 * 2 ^ 32 + 15 * 2 ^ 16 + 3 * 2 ^ 8 + 3) = true := by decide +kernel

theorem test_mset_mget : landsOne (exec (.mset g0 1 1) (sreg one 1 5)) 11 (.m 1) 5 = true
    ∧ landsOne (exec (.mget g0 1 3) (withCtx one fun c => { c with regs := c.regs.put (.m 1) 9 })) 11 (.s 3) 9 = true := by decide +kernel
theorem test_mzero_and_latch_mask : nextIs (exec (.mzero g0 3) one) (fun t => t.pend.map (fun e => e.due) == [12] && t.faults == []) = true
    ∧ nextIs (exec (.mzero g0 3) (withCtx one fun c => { c with allot := 0 })) (fun t => raised t == [(3, 10, 2)]) = true := by decide +kernel
theorem test_mpop_mpsh_counts : nextIs (exec (.mpop g0 8 0 0) (withMem one ((Place.latch 0).key 0) 4 0x42800000)) (fun t =>
    lands t == [(18, .v 8 0, 0x42800000)]) = true
    ∧ nextIs (exec (.mpsh g0 2 1 0) one) (fun t => t.pend.map (fun e => e.due) == [14]) = true := by decide +kernel
theorem test_mload_needs_priv_below_64 : nextIs (exec (.mload g0 63 1) one) (fun t => raised t == [(3, 10, 0)]) = true
    ∧ nextIs (exec (.mload g0 64 1) one) (fun t => t.pend.map (fun e => e.due) == [12]) = true := by decide +kernel
theorem test_sld_reads_two_later : nextIs (exec (.sld g0 1 1 64) one) (fun t => t.pend.map (fun e => (e.due, e.act)) == [(12, .sld 1 (berth0 64))]) = true := by decide +kernel
theorem test_trn_trno : nextIs (exec (.trn g0 4 2) one) (fun t => t.pend.map (fun e => e.due) == [20]) = true
    ∧ nextIs (exec (.trno g0 9 2) (withMem one ((Place.trans 0).key (128 + 32)) 4 7)) (fun t =>
        lands t == [(12, .v 9 0, 7 * 2 ^ 32)]) = true := by decide +kernel
/-- A call of context 0 with id 3: its start and the count at which its input is free. -/
def callAt (start free : Nat) : Call := { id := 3, fr := {}, y := 0, rout := 0, start := start, free := free }
theorem test_mcall_third_call : nextIs (exec (.mcall g0 0) one) (fun t => (t.core 0).calls.map (fun c => c.start) == [11]) = true
    ∧ nextIs (exec (.mcall g0 0) (one.setCore 0 { calls := [callAt 76 108] })) (fun t => (raised t).map (·.1) == [7]) = true
    ∧ nextIs (exec (.mcall g0 0) (one.setCore 0 { calls := [callAt 11 76] })) (fun t => (t.core 0).calls.map (fun c => c.start) == [11, 76]) = true := by decide +kernel

/-! ### Sequencing, flags, faults, engines (08 R158 to R187, 10, 15) -/

theorem test_br_after_two_delay_bundles : nextIs (exec (.br g0 0x40) one) (fun t => (t.ctx 0).xfers == [(13, 0x40)]) = true
    ∧ nextIs (exec (.bri g0 1) (sreg one 1 2048)) (fun t => raised t == [(3, 10, 3)]) = true := by decide +kernel
theorem test_call_ret_of_the_spec : landsOne (exec (.call g0 40) { one with fr := { one.fr with addr := 20 } }) 11 (.s 31) 23 = true
    ∧ nextIs (exec (.ret g0) (sreg one 31 23)) (fun t => (t.ctx 0).xfers == [(13, 23)]) = true := by decide +kernel
theorem test_loop_counts_zero_as_one : nextIs (exec (.loop g0 6 0) one) (fun t => t.pend.map (fun e => (e.due, e.act)) == [(11, .lpush 4 1)]) = true
    ∧ nextIs (exec (.loop g0 0 8) (withCtx one fun c => { c with lstk := List.replicate 6 (0, 1) })) (fun t => raised t == [(12, 10, 0)]) = true := by decide +kernel
theorem test_endl_rotates : nextIs (exec (.endl g0) (withCtx one fun c => { c with lstk := [(18, 2)] })) (fun t => (t.ctx 0).pc == 18
      && t.pend.map (fun e => e.act) == [.creg 4 15, .creg 5 7, .creg 8 (18 * 2 ^ 32 + 1)]) = true
    ∧ nextIs (exec (.endl g0) (withCtx one fun c => { c with lstk := [(18, 1)], rbv := 15, rbp := 7 })) (fun t =>
        t.pend.map (fun e => e.act) == [.creg 4 14, .creg 5 6, .lpop]) = true := by decide +kernel
theorem test_leave_on_an_empty_stack : nextIs (exec (.leave g0) one) (fun t => raised t == [(12, 10, 1)]) = true := by decide +kernel
theorem test_end_completes_64_later : nextIs (exec (.endTask g0) one) (fun t => (t.ctx 0).ended == some 74) = true := by decide +kernel
theorem test_setf_after_its_stores : nextIs (exec (.setf g0 .core 3) (withCtx one fun c => { c with perfP := 40 })) (fun t => t.pend.map (fun e => e.due) == [41]) = true
    ∧ nextIs (exec (.clrf g0 .clu 3) one) (fun t => t.pend.map (fun e => e.due) == [18]) = true := by decide +kernel
theorem test_tstf_pair : nextIs (exec (.tstf g0 1 .core 3) (one.setFlag (.core 0) 3 true)) (fun t =>
    (lands t).take 2 == [(13, .p 2 0, 0xFFFF), (13, .p 3 0, 0)]) = true := by decide +kernel
theorem test_wait_of_one_core : nextIs (exec (.wait g0 .clu 9) one) (fun t => ((t.gang 1).reqs.map fun r => r.F) == [11]) = true := by decide +kernel
theorem test_wait_of_a_wider_gang : nextIs (exec (.wait g0 .clu 9) (withGang one fun g => { g with members := [0, 4], skb := 64 })) (fun t =>
    ((t.gang 1).reqs.map fun r => r.F) == [74] && (t.ctx 0).nullTo == 74) = true := by decide +kernel
theorem test_yield_fence : nextIs (exec (.yield g0) one) (fun t => ((t.gang 1).reqs.map fun r => r.why) == [.yield true]) = true
    ∧ nextIs (exec (.yield g0) (withCtx one fun c => { c with ydl := 9 })) (fun t => ((t.gang 1).reqs.map fun r => r.why) == [.yield false]) = true
    ∧ nextIs (exec (.fence g0 .mod) one) (fun t => (t.gang 1).reqs == []) = true
    ∧ nextIs (exec (.fence g0 .mod) (withCtx one fun c => { c with nonstatic := [4] })) (fun t => ((t.gang 1).reqs.map fun r => r.why) == [.fence 0 [4]]) = true := by decide +kernel
theorem test_trap_boundary : nextIs (exec (.trap g0 5) one) (fun t => t.faults.map (fun f => (f.code, f.F, f.finfo, f.bnd)) == [(15, 11, 5, true)]) = true := by decide +kernel
theorem test_rte_needs_th : nextIs (exec (.rte g0) one) (fun t => raised t == [(3, 10, 4)]) = true := by decide +kernel
theorem test_slack_bkpt_mark : nextIs (exec (.slack g0 5) one) (fun t => t.pend.map (fun e => (e.act, e.wall)) == [(.trig 19 5 0 false, 1)]) = true
    ∧ nextIs (exec (.bkpt g0 5) one) (fun t => (t.gang 1).reqs.map (fun r => (r.F, r.why)) == [(11, .slack)]) = true
    ∧ nextIs (exec (.mark g0 5) { one with tide := 90 }) (fun t => t.pend.map (fun e => e.act) == [.record 0 1 5 90 0]) = true
    ∧ ((one.perform ⟨one.fr, 10, 0, 9, .trig 19 5 0 false, 1⟩).ctx 0).wave.map (fun f => f.code) = some 19 := by decide +kernel
theorem test_records_misaligned : nextIs (exec (.launch g0 1) (sreg one 1 32)) (fun t => (raised t).map (·.1) == [4]) = true
    ∧ nextIs (exec (.tiss g0 1) (sreg one 1 32)) (fun t => t.pend.map (fun e => (e.due, e.act)) == [(12, .tissRead (berth0 32))]) = true
    ∧ nextIs (exec (.sys g0 1 1 3) (withCtx one fun c => { c with allot := 0 })) (fun t => (raised t).map (·.1) == [7]) = true := by decide +kernel
theorem test_ctxs_needs_priv : nextIs (exec (.ctxs g0 1) one) (fun t => raised t == [(3, 10, 0)]) = true
    ∧ nextIs (exec (.ctxr g0 1) privOne) (fun t => raised t == [(3, 10, 6)]) = true := by decide +kernel

/-- The gang of the worked example of 15: module core 9, LK 0b1111, at count `n`, s5 as given there. -/
def at9 (n : Nat) : State :=
  { ((State.reset.setGang 1 { live := true, run := .running, members := [36], sch := n, cyc := n }).setCtx 36
      { resident := true, gang := 1, allot := fullAllot, regs := ({} : Regs).put (.s 5) 0x0640000004000000 }) with tide := n, fr := { x := 36, t := n } }

theorem test_engine_slots_of_the_spec : nextIs (exec (.ceLd g0 4 5 40) (at9 10)) (fun t => ((t.ctx 36).commands.map fun k => (k.start, k.slots)) == [(40, [80, 144])]) = true := by decide +kernel
theorem test_engine_late_of_the_spec : nextIs (exec (.ceLd g0 4 5 40) (at9 30)) (fun t => raised t == [(7, 30, 0x0000001E00000028)]) = true := by decide +kernel
theorem test_engine_access_counts_of_the_spec : accessCount [] 80 80 64 = 80 ∧ accessCount [] 80 80 0 = 1040 ∧ accessCount [] 144 144 64 = 1104 := by decide +kernel
theorem test_router_operations : nextIs (exec (.radd .t2 4 0 1) ((at9 10).updRouter 2 fun r => { r with w := SMap.put 0 (SMap.put 0 r.w 0 0x3F800000) 1 0x40000000 })) (fun t =>
      t.pend.any fun e => match e.act with
        | .wreg 4 v _ => e.due == 14 && v.toNat % 2 ^ 32 == 0x40400000
        | _ => false) = true
    ∧ nextIs (exec (.rldi 3 0xFFFF) (at9 10)) (fun t => t.pend.any fun e => match e.act with
        | .wreg 3 v _ => e.due == 11 && v.toNat % 2 ^ 32 == 0xFFFFFFFF
        | _ => false) = true := by decide +kernel

/-! ### Steps -/

theorem test_step_runs_the_first_instruction : nextIs (step (State.reset.withFetchWord 32 0x01450025)) (fun t => (lands t).map (fun e => (e.2.1, e.2.2)) == [(.s 5, 0x25)]) = true
    ∧ nextIs (step (State.reset.withFetchWord 32 0x002D0005)) (fun t => (raised t).map (fun f => (f.1, f.2.2)) == [(15, 5)]) = true := by decide +kernel
theorem test_step_of_the_reset_state : nextIs (step State.reset) (fun t => t.mem == [] && t.pend == []) = true := by decide +kernel

/-! ### The worked example of 10: an overflow fault in slot 1 -/

theorem test_fmul_fault_of_the_spec : nextIs (exec (.fmul g0 .f32 .rn 5 6 7) { vreg (vreg one 6 0 0x71800000) 7 0 0x71800000 with
    fr := { one.fr with t := 30, slot := 1, fmask := 4 } }) (fun t => raised t == [(10, 44, 4)]) = true := by decide +kernel
theorem test_fault_taken_of_the_spec : nextIs (exec (.faultTaken 0) { withGang (withCtx one fun c => { c with hent := some 100 }) (fun g => { g with sch := 44, cyc := 44 }) with
    faults := [⟨0, false, 44, 30, false, 1, 3, 10, 4, 0, false, 0, 0⟩] }) (fun t => (t.ctx 0).fcause.toNat == 3 * 2 ^ 53 + 2 ^ 51 + 10 * 2 ^ 32 + 30 && (t.ctx 0).finfo == 4
      && (t.ctx 0).psw.toNat == 9 && (t.ctx 0).pc == 100 && decide ((t.gang 1).run = .frozen) && (t.gang 1).F == 44) = true := by decide +kernel

/-! ### Witnesses: scalar, vector and transducer statements -/




theorem test_wit_ScalarResults : (0xFFFF : Nat) < 2 ^ 16 := by decide
theorem test_wit_GetReadsControlRegisters : one.pend = [] ∧ (5 : Nat) < 6 ∧ one.fr.pre = false ∧ ({ one with fr := { one.fr with pre := true } } : State).fr.pre = true := by decide +kernel
theorem test_wit_SetWritesItsRegister : ¬ ((22 : Nat) = 21 ∨ (22 : Nat) = 23 ∨ (22 : Nat) = 24 ∨ (22 : Nat) = 25)
    ∧ (privOne.ctx privOne.fr.x).psw.getLsbD 11 = true ∧ (one.ctx one.fr.x).psw.getLsbD 11 = false ∧ one.onceGuard g0 = true
    ∧ (13 : Nat) = 8 + 5 ∧ (5 : Nat) < 6 := by decide +kernel

/-- A landing of s4 issued at count `t`, due at count `due`. -/
def toS4 (t due : Nat) (v : Word) : Eff := ⟨{ x := 0, t := t }, due, 0, 1, .reg (.s 4) (v.setWidth 512) allBits, 0⟩

theorem test_wit_LandingsWriteInOrder_due : ({ one with pend := [toS4 9 10 7] } : State).pend = [toS4 9 10 7] ∧ (toS4 9 10 7).act.performs = false
    ∧ (toS4 9 10 7).run = 0 ∧ (toS4 9 10 7).due ≤ one.now 0 false ∧ one.now 0 false < (toS4 9 11 7).due := by decide +kernel
theorem test_wit_LandingsWriteInOrder_clock : (toS4 9 10 7).wall = 0 ∧ one.clockRuns 0 false = true ∧ (withGang one fun g => { g with run := .frozen }).clockRuns 0 false = false := by decide +kernel
theorem test_wit_LandingsWriteInOrder_order : (10 : Nat) ≤ one.now 0 false ∧ (toS4 8 10 7).fr.ord < (toS4 9 10 8).fr.ord
    ∧ (({ one with pend := [toS4 9 10 8, toS4 8 10 7] } : State).landings.ctx 0).regs.read (.s 4) = 8 := by decide +kernel
theorem test_wit_VectorIntegerResults : (15 : Nat) < 512 / ElemTy.i32.width ∧ (0 : Nat) < 4 ∧ (255 : Nat) < 2 ^ 8 := by decide
theorem test_wit_EnabledFlagsFault : (1 : Nat) ≠ 0 ∧ (1 &&& one.fr.fmask &&& 0x1F) = 0
    ∧ (1 &&& ({ one with fr := { one.fr with fmask := 1 } } : State).fr.fmask &&& 0x1F) ≠ 0 := by decide +kernel
theorem test_wit_EnabledFlagsFault_undone : ⟨0, false, 78, .creg 0 7, 0⟩ ∈ ({ one with undo := [⟨0, false, 78, .creg 0 7, 0⟩] } : State).undo := by decide +kernel
theorem test_wit_RoundingPicksANeighbour : roundInt .rn 0 false 5 (-1) 0 false = (2, false) ∧ roundInt .ru 0 true 5 (-1) 0 false = (2, false)
    ∧ roundInt .rd 0 true 5 (-1) 0 false = (3, false) ∧ roundInt .rz 0 false 4 (-1) 0 false = (2, true) := by decide +kernel
theorem test_wit_ComparesAndPredicates : (elemFmt .f32).isSome = true ∧ (elemFmt .i32).isSome = false ∧ (15 : Nat) < 16 := by decide +kernel

/-- `one` whose gang runs on dock cores (21 R351). -/
def dockOne : State := withGang one fun g => { g with dock := true }

theorem test_wit_BlockConversions : (true && (dockOne.gangOf dockOne.fr.x).dock && dockOne.allGuards g0 != 0) = true
    ∧ (true && (one.gangOf one.fr.x).dock && one.allGuards g0 != 0) = false ∧ (0 : Nat) < 4096 / 32 / 64 := by decide +kernel
theorem test_wit_PackUnpackAndSeed : packWidth 2 * (1 + 1) ≤ 32 ∧ packWidth 0 * (7 + 1) ≤ 32 ∧ one.fr.slice = 0 ∧ one.onceGuard g0 = true := by decide +kernel

theorem test_wit_WalksLandDigitsAndStates_dtx : one.laneGuard gNo 0 = 0 ∧ one.laneGuard g0 0 ≠ 0 ∧ (one.ctx 0).chartIn 1 = true
    ∧ attrBad (chartAttr (ternary one) 0 0 1) = false ∧ attrAr (chartAttr (ternary one) 0 0 1) = true
    ∧ (∀ l, l < 16 → ((walk (chartEntry (ternary (vab 0 0 0x1F 0x1D)) 0 0 1) true 2 (elemAt (ternary (vab 0 0 0x1F 0x1D)) 32 1 0 l)
        (elemAt (ternary (vab 0 0 0x1F 0x1D)) 32 2 0 l) (walkOrder false (digits 2)) 0 0 false).isLeft) = true)
    ∧ (walk (chartEntry (ternary (vab 0 0 0x1F 0x19)) 0 0 1) true 2 0x1F 0x19 (walkOrder false (digits 2)) 0 0 false).isLeft = false := by decide +kernel
theorem test_wit_WalksLandDigitsAndStates_one_input : attrBad (chartAttr (chart one 0x0082 [(0, 0x8000)] []) 0 0 1) = false
    ∧ attrAr (chartAttr (chart one 0x0082 [(0, 0x8000)] []) 0 0 1) = false
    ∧ (walk (chartEntry (chart one 0x0082 [(0, 0x8000)] []) 0 0 1) false 2 0 0 (walkOrder true (digits 2)) 0 0 false).isLeft = true := by decide +kernel

theorem test_wit_WalksLandDigitsAndStates_kinds : ((one.ctx 0).asIssued one.fr).chartIn 1 = true ∧ (((withCtx one fun c => { c with allot := 0 }).ctx 0).asIssued one.fr).chartIn 1 = false
    ∧ ((one.ctx 0).asIssued { one.fr with allot := some 0 }).chartIn 1 = false ∧ attrBad (chartAttr one 0 0 1) = true
    ∧ attrAr (chartAttr (ternary one) 0 0 1) = true ∧ attrAr (chartAttr (chart one 0x0082 [] []) 0 0 1) = false
    ∧ (walk (chartEntry (chart one 0x0082 [] []) 0 0 1) false 2 0 0 (walkOrder true (digits 2)) 0 0 false).isLeft = false := by decide +kernel
theorem test_wit_ExchangeFinalsAndChartLoads_finals : one.laneGuard g0 0 ≠ 0 ∧ (one.ctx 0).chartIn 1 = true ∧ attrBad (chartAttr (ternary one) 0 0 1) = false
    ∧ (chartFinal (ternary one) 0 0 1 0).testBit 15 = true ∧ (chartFinal (chart one 0x0302 [] []) 0 0 1 0).testBit 15 = false := by decide +kernel
theorem test_wit_ExchangeFinalsAndChartLoads_dtld : one.onceGuard g0 = true ∧ (0 : Nat) % 64 = 0 ∧ ownOnly (one.ctx 0) 0 576 = none ∧ (32 : Nat) % 64 ≠ 0
    ∧ ownOnly (one.ctx 0) 65024 576 = some 1 ∧ ownOnly (one.ctx 0) (2 ^ 30) 576 = some 4
    ∧ ((withCtx one fun c => { c with allot := 0 }).ctx 0).chartIn 1 = false
    ∧ ownOnly ((withCtx one fun c => { c with allot := BitVec.ofNat 64 (15 * 2 ^ 30) }).ctx 0) 0 576 = none
    ∧ ((withCtx one fun c => { c with allot := BitVec.ofNat 64 (15 * 2 ^ 30) }).ctx 0).chartIn 1 = false ∧ one.ecc = [] ∧ one.poison = [] ∧ one.soft = [] := by decide +kernel

/-! ### Witnesses: berth accesses and rings -/

theorem test_wit_LoadsReadTheBerth : one.allGuards g0 ≠ 0 ∧ one.allGuards gNo = 0 ∧ (vecAccess one 65024).isLeft = true
    ∧ (vecAccess one (2 ^ 30 - 1)).isRight = true ∧ (vecAccess one 65088).isRight = true ∧ (scalarAccess one 65528 8).isLeft = true
    ∧ (scalarAccess one 65532 8).isRight = true ∧ laneFault (one.ctx 0) (laneAddrs (one.allGuards g0) fun l => 4 * l) = none
    ∧ laneFault (one.ctx 0) (laneAddrs (one.allGuards g0) fun l => 2 * l) = some (1, 2, 0) ∧ one.ci = false := by decide +kernel
theorem test_wit_LoadsReadTheBerth_places : (64 : Nat) % 64 = 0 ∧ ownOnly (one.ctx 0) 65024 512 = none ∧ ownOnly (one.ctx 0) 65528 8 = none
    ∧ (coldPlace 0 (2 ^ 30)).land = 14 ∧ (coldPlace 0 (2 ^ 30)).read = (coldPlace 0 (2 ^ 30)).land ∧ (coldPlace 0 (2 ^ 31 + 2 ^ 22)).land ≠ 6
    ∧ (coldPlace 0 (2 ^ 31 + 2 ^ 22)).read ≠ (coldPlace 0 (2 ^ 31 + 2 ^ 22)).land ∧ (2 ^ 31 + 2 ^ 22) / 2 ^ 30 = 2 ∧ (2 ^ 30 - 1) / 2 ^ 30 = 0
    ∧ (withCtx one fun c => { c with psw := 0x400 }).ci = true ∧ one.fr.hnd = false ∧ (coldPlace 0 0).land = 6 ∧ (0x8000 : LaneMask).getLsbD 15 = true := by decide +kernel
theorem test_wit_StoresPerformTheirBytes : (vecAccess one 0).isLeft = true ∧ (scalarAccess one 0 8).isLeft = true ∧ (scalarAccess one 4 8).isRight = true
    ∧ laneFault (one.ctx 0) (laneAddrs (one.allGuards g0) fun l => 65536 - 4 * (l + 1)) = none ∧ laneAddrs (one.allGuards g0) (fun _ => 0) ≠ []
    ∧ one.ecc = [] ∧ one.poison = [] ∧ one.soft = [] ∧ (atSlice one 7).fr.slice ≠ 0 ∧ one.fr.slice = 0
    ∧ laneFault (one.ctx 0) (laneAddrs (one.allGuards g0) fun l => 65536 - 2 * (l + 1)) ≠ none ∧ one.allGuards gNo = 0 ∧ one.allGuards g0 ≠ 0
    ∧ berth0 65535 / 2 ^ 64 ≠ Place.hbm.code := by decide +kernel
theorem test_wit_RingsAndAtomics : ownBound (one.ctx 0) 0 (8 * 4 * 64) = none ∧ ownBound (one.ctx 0) 65472 128 = some 1
    ∧ (scalarAccess one 65532 (atomBytes .i32)).isLeft = true ∧ (scalarAccess one 2 (atomBytes .i32)).isRight = true ∧ one.ecc = [] ∧ one.poison = [] ∧ one.soft = []
    ∧ (AtomOp.max ≠ .add ∨ AtomW.i64 ≠ .f32) := by decide +kernel

/-! ### Witnesses: the lock, sequencing, the pilot, the matrix class -/

/-- The context without an allotment: bundles 0 to 63, no latches, no lock rotations. -/
def bare : State := withCtx one fun c => { c with allot := 0 }

theorem test_wit_SlotsAreOfHeldRotations : pickSlots 15 false [] 8 2 40 = [40, 104] ∧ pickSlots 2 true [] 8 1 0 = [256] ∧ pickEngine 9 15 [] 8 2 80 = [80, 144] := by decide +kernel

/-- `one` with the first of its inbound slots held by a crossing, at count 40 of TIDE 40, and an engine slot held by a command. -/
def heldOne : State := { withCtx one fun c => { c with
    crossings := [⟨5, false, 0, {}, .xin 2, false, 0, 0, 64, [64], 0, []⟩]
    commands := [{ id := 5, hnd := false, ord := 0, fr := {}, op := 0, warm := 0, desc := 0, start := 40, slots := [64] }] } with
  tide := 40, fr := { one.fr with t := 40 } }
theorem test_wit_SlotsAreOfHeldRotations_take : (one.ctx 0).lk % 16 ≠ 0 ∧ (one.ctx 0).lk ≠ 0
    ∧ (let s := withGang heldOne fun g => { g with sch := 40, cyc := 40 }
      takeSlots s 15 false 2 = [128, 192] ∧ takeSlots s 2 false 1 = [128] ∧ engineSlots s 40 2 = [128, 192] ∧ engineSlots s 129 1 = [192]) := by decide +kernel
theorem test_wit_CrossingsEnterTheLock_quay : (one.ctx 0).quayIn 3071 = true ∧ (one.ctx 0).quayIn 3072 = false ∧ (one.ctx 0).lk ≠ 0 ∧ one.fr.slice = 0
    ∧ one.onceGuard g0 = true ∧ (xinmTargets 0 .clu 1).all (fun y => sameGang one 0 y) = true ∧ (xinmTargets 0 .clu 2).all (fun y => sameGang one 0 y) = false
    ∧ (bare.ctx 0).quayIn 31 = true ∧ (bare.ctx 0).lk = 0 := by decide +kernel
theorem test_wit_CrossingsEnterTheLock_ring : one.fr.re = false ∧ 2 ^ (3 + 3) ≤ 64 * (((one.ctx 0).ring 0).size + 1)
    ∧ ((one.ctx 0).ring 0).count + ((one.ctx 0).ring 0).claims.length < ((one.ctx 0).ring 0).depth + 1
    ∧ 64 * (((one.ctx 0).ring 0).size + 1) < 2 ^ (4 + 3) := by decide +kernel
/-- A replay of slot 0 of the bundle at address 3, with the claim of tile 0 that it keeps. -/
def replayed : State := { withCtx one (fun c => c.setRing 0 { count := 0, claims := [(0, 9, false)], kept := [⟨12, 0, 9, 8, 200⟩] }) with fr := { one.fr with re := true } }
theorem test_wit_CrossingsEnterTheLock_claims : keptClaim replayed 0 = some (0, 9) ∧ keptClaim one 0 = none
    ∧ (({ count := 1 } : Ring).count + ({ count := 1 } : Ring).claims.length = ({ count := 1 } : Ring).depth + 1) ∧ one.onceGuard gNo = false
    ∧ (bare.ctx 0).quayIn 32 = false ∧ (xinmTargets 0 .die 1).all (fun y => sameGang one 0 y) = false
    ∧ (nextIs (exec (.xout g0 2 40 4) one) fun t => (t.crossing 0 one.nextId).isSome) = true ∧ (atSlice one 1).fr.slice ≠ 0
    ∧ ((withCtx one fun c => { c with allot := BitVec.ofNat 64 (255 * 2 ^ 52) }).ctx 0).latchIn 7 = true ∧ ((withCtx one fun c => { c with allot := BitVec.ofNat 64 (255 * 2 ^ 52) }).ctx 0).tileIn 223 = false := by decide +kernel
theorem test_wit_CrossingsEnterTheLock_latch : (one.ctx 0).latchIn 7 = true ∧ (one.ctx 0).tileIn 223 = true ∧ (bare.ctx 0).latchIn 7 = false := by decide +kernel

/-- `one` with a crossing of kind `k` of two slots, the first at 8, next slot `j`. -/
def crossing (k : CrossKind) (j : Nat) : State := withCtx one fun c => { c with crossings := [⟨5, false, 0, {}, k, false, 0, 0, 128, [8, 72], j, []⟩] }

theorem test_wit_LockSlotMovesAGranule : (((crossing (.xin 2) 0).crossing 0 5).map fun k => k.kind) = some (.xin 2)
    ∧ (((crossing (.xina 2) 0).crossing 0 5).map fun k => k.kind) = some (.xina 2) ∧ (((crossing (.xouta 2) 1).crossing 0 5).map fun k => k.kind) = some (.xouta 2)
    ∧ (((crossing (.xinr 2 0 1) 0).crossing 0 5).map fun k => (k.kind, decide (k.next + 1 < k.slots.length))) = some (.xinr 2 0 1, true)
    ∧ (((crossing (.xinr 2 0 1) 1).crossing 0 5).map fun k => (k.kind, decide (k.next + 1 = k.slots.length))) = some (.xinr 2 0 1, true)
    ∧ (crossing (.xin 2) 0).poisoned 0 = false ∧ ({ crossing (.xin 2) 0 with poison := [0] } : State).poisoned 0 = true
    ∧ (crossing (.xouta 2) 1).soft = [] := by decide +kernel
/-- An inbound crossing from quay register 0, with a word of the granule in error or a byte of the latch that has failed. -/
def marred (m : Nat) : State := { crossing (.xina 2) 0 with ecc := SMap.put 0 [] 0 m }
/-- A bundle of count 0 that reads quay register 0 in the cycle in which an arrival held over a freeze performs there (log 86). -/
def releasing : State := { crossing (.xin 2) 0 with pend := [⟨{ id := 2 }, 0, 0, 0, .arrive 8, 1⟩] } |>.updMod fun m =>
  { m with cxl := [{ id := 8, x := 0, gid := 1, dir := false, tier := 0, key := 0, sent := some 0, done := true, data := 5, cmd := 4 }] }
theorem test_wit_LockSlotMovesAGranule_reads : (crossing (.xin 2) 0).released ⟨5, false, 0, {}, .xin 2, false, 0, 0, 128, [8, 72], 0, []⟩ 0 = none
    ∧ (crossing (.xin 2) 0).granuleEcc 0 = 0 ∧ (marred 2).granuleEcc 0 = 2 ∧ (marred 1).granuleEcc 0 = 1 ∧ (crossing (.xouta 2) 1).failedByte 64 64 = none
    ∧ ({ crossing (.xouta 2) 1 with soft := [{ at_ := 0, spot := .mem 127 }] } : State).failedByte 64 64 = some 63
    ∧ ((withGang releasing fun g => { g with sch := 0, cyc := 0 }).released ⟨5, false, 0, {}, .xin 2, false, 0, 0, 128, [8, 72], 0, []⟩ 0).map (fun r => (r.data, r.poison, r.bad)) = some (5, false, false) := by
  decide +kernel
theorem test_wit_TransfersAfterTwoDelayBundles : (one.ctx 0).bundleIn 2047 = true ∧ (bare.ctx 0).bundleIn 63 = true ∧ (bare.ctx 0).bundleIn 64 = false
    ∧ ((sreg one 1 2047).sget 1).toNat < 2 ^ 11 ∧ 2 ^ 11 ≤ ((sreg one 1 2048).sget 1).toNat ∧ ((sreg one 31 2047).sget 31).toNat < 2 ^ 11
    ∧ 2 ^ 11 ≤ ((sreg one 31 2048).sget 31).toNat := by decide +kernel
theorem test_wit_LoopsCountAndRotate : (one.ctx 0).lstk.length < 6 ∧ (one.ctx 0).lstk = []
    ∧ 6 ≤ ((withCtx one fun c => { c with lstk := List.replicate 6 (3, 1) }).ctx 0).lstk.length
    ∧ ((withCtx one fun c => { c with lstk := List.replicate 5 (3, 1) }).ctx 0).lstk.length < 6
    ∧ ((withCtx one fun c => { c with lstk := [(3, 2)] }).ctx 0).lstk.getLast? = some (3, 2) ∧ (1 : Nat) < 2
    ∧ ((withCtx one fun c => { c with lstk := [(3, 1)] }).ctx 0).lstk.getLast? = some (3, 1) ∧ (1 : Nat) ≤ 1
    ∧ ((withCtx one fun c => { c with lstk := [(3, 1)] }).ctx 0).lstk ≠ [] := by decide +kernel

theorem test_wit_LoopsCountAndRotate_reentry : ({ one with fr := { one.fr with re := true } } : State).fr.re = true ∧ one.fr.re = false := by decide
theorem test_wit_EndAndFlags : flagFile one.fr.x .core = some (.core 0) ∧ flagFile one.fr.x .clu = some (.clu 0) ∧ flagFile one.fr.x .mod = some .mod
    ∧ (15 : Nat) < 16 ∧ (63 : Nat) < 64 := by decide +kernel

/-- A set of flag 3 that has come to its count while a command or a TISS of the same context before it has accesses to come. -/
theorem test_wit_EndAndFlags_older : let fr : Frame := { x := 0, t := 12 }
    (withCtx one fun c => { c with commands := [{ id := 5, hnd := false, ord := 0, fr := { x := 0, t := 8 }, op := 0, warm := 0, desc := 0, start := 40, slots := [80] }] }).olderOpen fr = true
    ∧ ({ one with pend := [⟨{ x := 0, t := 11 }, 13, 0, 0, .tissRead 0, 0⟩] } : State).olderOpen fr = true ∧ one.olderOpen fr = false
    ∧ SMap.get 0 one.mod.setters (flagKey (.core 0) 3) = 0
    ∧ (let s := one.updMod fun m => { m with setters := SMap.put 0 [] (flagKey (.core 0) 3) 1 }
      SMap.get 0 s.mod.setters (flagKey (.core 0) 3) ≠ 0 ∧ (SMap.get 0 s.mod.setters (flagKey (.core 0) 3) - 1) / 2 ^ 12 % 16 < 2) := by decide +kernel
theorem test_wit_WaitsAskForAFreeze : flagFile one.fr.x .clu = some (.clu 0) ∧ one.fr.hnd = false ∧ (one.ctx 0).nonstatic = []
    ∧ ((withCtx one fun c => { c with nonstatic := [4] }).ctx 0).nonstatic ≠ [] ∧ ({ one with fr := { one.fr with hnd := true } } : State).fr.hnd = true
    ∧ (one.gangOf 0).oneCore = true ∧ ((withGang one fun g => { g with members := [0, 4] }).gangOf 0).oneCore = false := by decide +kernel
theorem test_wit_WaitsAskForAFreeze_fence : let s := fun (l : List Nat) => withCtx (withGang one fun g => { g with reqs := [⟨10, .fence 0 [4]⟩] }) fun c => { c with nonstatic := l }
    ((s []).gang 1).reqs = [⟨10, .fence 0 [4]⟩] ∧ 10 ≤ ((s []).gang 1).sch ∧ (∀ i ∈ [4], i ∉ ((s [5]).ctx 0).nonstatic) ∧ (∃ i ∈ [4], i ∈ ((s [4]).ctx 0).nonstatic) := by decide +kernel
theorem test_wit_TrapsReturnsAndMarks : (one.ctx 0).psw.getLsbD 3 = false ∧ ((withCtx one fun c => { c with psw := 8 }).ctx 0).psw.getLsbD 3 = true
    ∧ (one.gangOf 0).oneCore = true ∧ one.fr.hnd = false := by decide +kernel

theorem test_wit_TrapsReturnsAndMarks_commits : one.lowerOpen = false ∧ ({ one with fr := { one.fr with slot := 2 }, flight := [⟨0, false, 11, 0, ⟨.vadd g0 .i32 false 1 2 3, { one.fr with slot := 1 }⟩⟩] } : State).lowerOpen = true
    ∧ ((withGang one fun g => { g with members := [0, 4] }).gangOf 0).oneCore = false := by decide +kernel
theorem test_wit_RequestsToThePilot : (65472 : Nat) % 64 = 0 ∧ ownOnly (one.ctx 0) 65472 64 = none ∧ (one.ctx 0).lk ≠ 0 ∧ (65504 : Nat) % 32 = 0
    ∧ ownOnly (one.ctx 0) 65504 32 = none ∧ (one.gangOf 0).dock = false ∧ (bare.ctx 0).lk = 0 ∧ ownOnly (bare.ctx 0) 0 64 = none
    ∧ (32 : Nat) % 64 ≠ 0 ∧ (16 : Nat) % 32 ≠ 0 := by decide +kernel

/-- `dockOne` or `one` where the own berth's word at 0 is a tile word `w`. -/
def worded (s : State) (w : Nat) : State := withMem s (berth0 0) 32 w
theorem test_wit_RequestsToThePilot_words : foreseen (worded one (9 + 4 * 2 ^ 4)) (berth0 0) 32 = 9 + 4 * 2 ^ 4 ∧ fld (9 + 4 * 2 ^ 4) 6 4 = 4 ∧ fld (9 + 5 * 2 ^ 4) 6 4 < 6
    ∧ ¬ fld (9 + 6 * 2 ^ 4) 6 4 < 6 ∧ fld (9 + 4 * 2 ^ 4) 3 0 < 10 ∧ (one.ctx 0).lk ≠ 0 ∧ (dockOne.gangOf 0).dock = true
    ∧ dockTile ((worded dockOne (17 * 2 ^ 7)).mem.readN (berth0 0) 32) = true ∧ dockTile ((worded dockOne 9).mem.readN (berth0 0) 32) = false := by decide +kernel

/-- A privileged context 0 and a context 1 of the same core with a gang of its own. -/
def two (c : Ctx) : State := (privOne.setGang 2 { live := true, run := .running, members := [1], sch := 10, cyc := 10 }).setCtx 1 c

def ctx1 : Ctx := { resident := true, gang := 2, allot := fullAllot }

theorem test_wit_ContextSwitches_save : one.onceGuard g0 = true ∧ one.priv = false ∧ (two ctx1).priv = true ∧ ((two ctx1).ctx 1).resident = true
    ∧ ((two ctx1).ctx 1).handler = none ∧ ((two ctx1).ctx 1).saved = false ∧ ((two ctx1).ctx 1).saving = false ∧ ((two ctx1).gangOf 1).run = .running
    ∧ ((two {}).ctx 1).resident = false ∧ (two ctx1).fr.hnd = false := by decide +kernel
theorem test_wit_ContextSwitches_restore : ((two { ctx1 with saved := true }).ctx 1).saved = true
    ∧ ((two { ctx1 with saved := true, allot := 0 }).ctx 1).allot.toNat = (two { ctx1 with saved := true, allot := 0 }).mem.readN (saveKey 1 (8 * 37)) 8
    ∧ ((two { ctx1 with saved := true, allot := 0 }).ctx 1).wdog.getLsbD 63 = false
    ∧ ((two { ctx1 with saved := true }).ctx 1).allot.toNat ≠ (two { ctx1 with saved := true }).mem.readN (saveKey 1 (8 * 37)) 8 := by decide +kernel
theorem test_wit_ContextSwitches_start : let s := (two { ctx1 with saving := true }).updGang 2 fun g => { g with run := .frozen, bal := 2 ^ 40, depth := 2 ^ 40 }
    (s.ctx 1).saving = true ∧ (s.ctx 1).saved = false ∧ (s.gangOf 1).run ≠ .running ∧ (s.ctx 1).bulkOn = false ∧ crossingsLanded s 1 = true
      ∧ (s.gangOf 1).admits (s.ctx 1).hlmthr.toNat (32 * saveBytes s 1) = true := by decide +kernel
theorem test_wit_ContextSwitches_stands : (((two ctx1).updGang 2 fun g => { g with run := .frozen }).gangOf 1).run = .frozen
    ∧ (((two ctx1).updGang 2 fun g => { g with run := .waiting }).gangOf 1).run = .waiting
    ∧ ((two { ctx1 with crossings := [⟨5, false, 0, {}, .bulk, true, 0, 0, 64, [8], 0, []⟩] }).ctx 1).bulkOn = true
    ∧ crossingsLanded (two { ctx1 with crossings := [⟨5, false, 0, {}, .xin 2, false, 0, 0, 64, [8], 1, []⟩] }) 1 = false
    ∧ (({ debt := 1 } : Gang).admits 0 (32 * saveBytes (two ctx1) 1)) = false := by decide +kernel

/-- Context 0, whose gang has frozen or runs on, has asked for context 1, which is saved. -/
def restoring (run : RunState) : State := withGang { two { ctx1 with saved := true, saving := true, savedFor := some (0, false, 84) } with
  fr := { one.fr with slice := 1 } } fun g => { g with run := run }
theorem test_wit_ContextSwitches_enters : (restoring .frozen).fr.slice = 1 ∧ (restoring .running).askerRuns 1 = true ∧ (restoring .frozen).askerRuns 1 = false
    ∧ saveBytes (restoring .frozen) 1 / 64 ≤ ((restoring .frozen).bulkSlots 1 false (saveBytes (restoring .frozen) 1 / 64)).length
    ∧ (let s := ((restoring .frozen).setGang 3 { live := true, run := .running, members := [2] }).setCtx 2 { resident := true, gang := 3, allot := fullAllot }
      let bare1 := s.updCtx 1 fun c => { c with allot := 0 }
      (bare1.bulkSlots 1 false (saveBytes bare1 1 / 64)).length < saveBytes bare1 1 / 64)
    ∧ (let s := (two { ctx1 with saving := true }).updGang 2 fun g => { g with run := .frozen, bal := 2 ^ 40, depth := 2 ^ 40 }
      let m := ((imageOf s 1).2 + 63) / 64 + 64 * ((List.range 8).filter (s.ctx 1).latchIn).length
      m ≤ (s.bulkSlots 1 true m).length ∧ s.askerRuns 1 = false) := by decide +kernel
theorem test_wit_MatrixClassMoves : (one.ctx 0).latchIn 7 = true ∧ (bare.ctx 0).latchIn 0 = false ∧ one.fr.slice = 0 ∧ one.onceGuard g0 = true
    ∧ (atSlice one 7).fr.slice ≠ 0 ∧ one.fr.old = false ∧ (64 : Nat) ≤ 64 ∧ privOne.priv = true ∧ ownOnly (one.ctx 0) 65472 64 = none ∧ (63 : Nat) < 64 ∧ one.priv = false
    ∧ ownOnly (one.ctx 0) 65408 128 = none ∧ (one.ctx 0).allotF 59 52 ≠ 0 ∧ (bare.ctx 0).allotF 59 52 = 0 ∧ bare.allGuards g0 ≠ 0 := by decide +kernel

/-- Core 0 with a call that has id 3, in hand; its routine's one microword reads the first descriptor of a latch, which clears it or not. -/
def called (dead clear : Bool) : State := { one.setCore 0 { calls := [{ callAt 76 108 with
    dead := dead, code := [BitVec.ofNat 64 (2 ^ 63 + 2 ^ 7), BitVec.ofNat 64 (2 ^ 60), 0], m := [if clear then 2 else 10] }] } with fr := { one.fr with id := 3 } }
/-- A gang on a dock core whose routine 5 has DX elements, and one whose routine 5 is empty. -/
def dockRoutine (w : Nat) : State := withMem dockOne ((Place.routine 0).key (64 * 5)) 8 w

theorem test_wit_MatrixCallsStartAndRetire_issue : prevCall one 0 0 false = none ∧ (prevCall (called false true) 0 0 false).map (fun p => p.start) = some 76
    ∧ ((({ called false true with fr := { one.fr with t := 75 } } : State).fr.t + 1) = 76) ∧ (10 : Nat) + 1 < 76 ∧ dockRefuses one 0 = false
    ∧ prevCall (dockRoutine (17 * 2 ^ 16)) 0 0 false = none ∧ dockRefuses (dockRoutine (17 * 2 ^ 16)) 5 = true ∧ dockRefuses (dockRoutine 0) 5 = false := by decide +kernel
theorem test_wit_MatrixCallsStartAndRetire_start : ((called false true).callOf 0 3).map (fun c => (c.dead, c.tile, callLats c)) = some (false, none, [2])
    ∧ ((called true true).callOf 0 3).map (fun c => c.dead) = some true ∧ (called false true).soft = []
    ∧ ((called false true).callOf 0 3).map (fun c => desc c.m (((usedDescs c.code 1).find? fun i => desc c.m i 2 0 == 2).getD 0) 3 3) = some 0
    ∧ ((called false false).callOf 0 3).map (fun c => desc c.m (((usedDescs c.code 1).find? fun i => desc c.m i 2 0 == 2).getD 0) 3 3) = some 1
    ∧ (∀ e ∈ ((called false false).core 0).calls, e.id < 3 → 2 ∉ callLats e) := by decide +kernel

/-! ### Witnesses: engines and the router -/

theorem test_wit_StartCountIsUnique : (16383 : Nat) < 16384 ∧ one.fr.hnd = false ∧ startCount one 8202 = 8202 ∧ startCount one 8203 = -8181 := by decide +kernel

/-- A descriptor of one row of two granules at quay register 100, one with a reserved bit, and one at a register outside the allotment. -/
def descOk : Word := 0x0640000004000000
def descBad : Word := 0x0641000004000000
def descOut : Word := 0xC000000004000000

theorem test_wit_EngineCommandsMoveGranules_enter : (List.range 6).all (fun op => ((xferOf op descOk).map fun d => (xferBound (one.ctx 0) op d).isNone) == some true) = true
    ∧ (one.fr.t : Int) + 24 ≤ startCount one 34 ∧ startCount one 33 < one.fr.t + 24 ∧ (one.ctx 0).lk ≠ 0 ∧ openCommands one 0 < 16
    ∧ 16 ≤ openCommands (withCtx one fun c => { c with commands := List.replicate 16 { id := 5, hnd := false, ord := 0, fr := {}, op := 0, warm := 0, desc := descOk, start := 40, slots := [80] } }) 0
    ∧ (List.range 6).all (fun op => (xferOf op descBad).isNone) = true ∧ ((xferOf 0 descOut).bind (xferBound (one.ctx 0) 0)).isSome = true := by decide +kernel
theorem test_wit_EngineCommandsMoveGranules_send : (xferOf 9 descOk).isSome = true ∧ ((xferOf 9 descOk).map fun d => xferBound (one.ctx 0) 9 d) = some none
    ∧ (3 * 2 ^ 48 : Nat) / 2 ^ 46 % 4 = 0 ∧ cellsOf one 0 3 = [] ∧ (2 ^ 46 : Nat) / 2 ^ 46 % 4 ≠ 0
    ∧ cellsOf (one.updMod fun m => { m with links := SMap.put {} m.links 3 { grants := SMap.put 0 [] 7 0x8000 } }) 0 (3 * 2 ^ 48 / 2 ^ 48 % 16) ≠ [] := by decide +kernel

/-- A command of context 0 whose granules go to or come from HBM page 16. -/
def commandIn (op : Nat) : State := withGang (withCtx one fun c => { c with commands := [{ id := 5, hnd := false, ord := 0, fr := {}, op := op, warm := 0x100000, desc := descOk, start := 40, slots := [80, 144] }] })
  fun g => { g with window := [{ va := 16, len := 1, pa := 16, w := true }], sch := 80, cyc := 80 }

theorem test_wit_EngineCommandsMoveGranules_slots : [0, 1].all (fun op => ((commandIn op).command 0 5).map (fun k => k.op) == some op
      && ((xferOf op descOk).bind fun d => windowPhys (commandIn op) 0 (xferVa op d 0x100000 [] 0)) == some 0x100000) = true
    ∧ (commandIn 0).fr.slice ≠ 1 ∧ (commandIn 0).fr.x = 0 ∧ (physKey 0x100000).isSome = true ∧ opWrites 0 = false ∧ opWrites 1 = true
    ∧ (commandIn 0).poisoned ((physKey 0x100000).getD 0) = false ∧ (commandIn 1).fr.gt = 0 := by decide +kernel
theorem test_wit_EngineCommandsMoveGranules_access : (commandIn 0).clk 0 false = 80 ∧ accessCount [] 64 80 0x100000 ≤ 2000
    ∧ accessCount [] 80 80 64 ≤ 80 ∧ 80 < accessCount [] 80 80 0 ∧ (commandIn 0).ci = false := by decide +kernel

theorem test_wit_EngineCommandsMoveGranules_check : [0, 1, 2, 3, 5, 9, 10].all (fun op => ((commandIn op).command 0 5).map (fun k => (k.op, (xferOf k.op k.desc).isSome)) == some (op, true)) = true
    ∧ ((xferOf 0 descOk).map fun d => firstBad (commandWindow (commandIn 0) 0 0 0x100000) false false 0 (checkAddrs 0 d 0x100000)) = some none
    ∧ ((xferOf 0 descOk).map fun d => firstBad (commandWindow (commandIn 0) 0 0 0x10FFC0) false false 0 (checkAddrs 0 d 0x10FFC0)) = some (some (1, 0x110000, 0))
    ∧ (commandIn 0).ecc = [] ∧ ({ commandIn 0 with poison := [(physKey 0x100000).getD 0 / 64] } : State).poisoned ((physKey 0x100000).getD 0) = true
    ∧ ({ commandIn 1 with fr := { one.fr with gt := 1 } } : State).fr.gt ≠ 0
    ∧ accessCount (heldAccess (commandIn 0) 0 false) ((commandIn 0).cal 0 false) ((commandIn 0).cal 0 false) (64 * ((commandIn 0).cal 0 false / 64 % 16)) ≤ (commandIn 0).cal 0 false + 64
    ∧ (commandIn 0).cal 0 false < accessCount (heldAccess (commandIn 0) 0 false) ((commandIn 0).cal 0 false) ((commandIn 0).cal 0 false) (64 * (((commandIn 0).cal 0 false / 64 + 1) % 16)) := by decide +kernel
theorem test_wit_PostsAndTierCopiesRun_post : one.onceGuard g0 = true ∧ one.fr.hnd = false ∧ (0 : Nat) / 2 ^ 48 % 16 = 0 ∧ (0 : Nat).testBit 46 = false
    ∧ (xferOf 10 (BitVec.ofNat 64 (100 * 2 ^ 52))).isSome = true ∧ ((xferOf 10 (BitVec.ofNat 64 (100 * 2 ^ 52))).bind fun d => xferBound (one.ctx 0) 10 d) = none
    ∧ (one.ctx 0).lk ≠ 0 ∧ openCommands one 0 < 16 ∧ one.fr.slice ≠ 1 ∧ (2 ^ 48 : Nat) / 2 ^ 48 % 16 ≠ 0 ∧ (2 ^ 46 : Nat).testBit 46 = true ∧ (one.clu 0).posts < 64 ∧ ((one.setClu 0 { posts := 63 }).clu 0).posts < 64
    ∧ 64 ≤ ((one.setClu 0 { posts := 64 }).clu 0).posts := by decide +kernel
theorem test_wit_PostsAndTierCopiesRun_tier : (one.ctx 0).quayIn 3071 = true ∧ (one.ctx 0).quayIn 3072 = false ∧ ((one.setClu 0 { cxl := 255 }).clu 0).cxl < 256
    ∧ 256 ≤ ((one.setClu 0 { cxl := 256 }).clu 0).cxl ∧ (bare.ctx 0).lk = 0 ∧ (bare.ctx 0).quayIn 31 = true ∧ (atSlice one 1).fr.slice = 1 ∧ ((atSlice one 1).clu 0).cxl < 256 := by decide +kernel

/-- 256 commands outstanding on cluster 0, the last of one of them held by the freeze of the gang of `one` at which a stopped CE.CXL comes again. -/
def again (held : Bool) : State := { one.setClu 0 { cxl := 256 } with fr := { one.fr with slice := 1 } } |>.updMod fun m =>
  { m with cxl := [{ id := 5, x := 0, gid := 1, dir := false, tier := 0, key := 0, done := held, cmd := 7, flag := (0, 3) }] }
theorem test_wit_PostsAndTierCopiesRun_again : ((again true).clu 0).cxl < 256 + (again true).arrivedOn ((again true).ctx 0).gang 0
    ∧ ¬ ((again false).clu 0).cxl < 256 + (again false).arrivedOn ((again false).ctx 0).gang 0 := by decide +kernel

/-- A sent request of context 0 in direction `dir`, its command's last; `done` once it has ended. -/
def request (dir done : Bool) : State := (withGang one fun g => { g with window := [{ va := 16, len := 1, pa := 2 ^ 32 + 16, w := true }] }).updMod fun m =>
  { m with cxl := [{ id := 5, x := 0, gid := 1, dir := dir, tier := 0x100000, key := (Place.quay 0).key 0, sent := some 9, done := done, cmd := 7, flag := (0, 3) }] }

theorem test_wit_PostsAndTierCopiesRun_requests : ((request false false).cxlReq 5).map (fun r => (r.sent, r.done, cxlHeld (request false false) r)) = some (some 9, false, false)
    ∧ ((request true false).cxlReq 5).map (fun r => r.dir) = some true ∧ ((request false true).cxlReq 5).map (fun r => r.done) = some true
    ∧ ((withGang (request false false) fun g => { g with run := .frozen }).cxlReq 5).map (cxlHeld (withGang (request false false) fun g => { g with run := .frozen })) = some true
    ∧ ((windowPhys (request false false) 0 0x100000).bind physKey).isSome = true ∧ (request false false).partsOn = []
    ∧ (request false false).poisoned (((windowPhys (request false false) 0 0x100000).bind physKey).getD 0) = false
    ∧ (request false false).ecc = [] ∧ (request false false).poison = [] ∧ (request false false).soft = [] := by decide +kernel
theorem test_wit_PostsAndTierCopiesRun_arrive : ((request true true).cxlReq 5).map (fun r => (r.bad, r.poison, r.dir, (windowPhys (request true true) r.x r.tier).bind physKey)) = some (false, false, true, physKey (2 ^ 48 + 0x100000))
    ∧ ((one.updMod fun m => { m with cxl := [{ id := 5, x := 0, gid := 1, dir := true, tier := 0x200000, key := 0, done := true }] }).cxlReq 5).map (fun r => (windowPhys one r.x r.tier).bind physKey) = some none
    ∧ ((one.updMod fun m => { m with cxl := [{ id := 5, x := 0, gid := 1, dir := false, tier := 0, key := 0, bad := true }] }).cxlReq 5).map (fun r => (r.bad, r.dir)) = some (true, false)
    ∧ ((request false true).mod.cxl.filter fun e => e.id != 5).all (fun e => e.cmd != 7) = true ∧ (3 : Nat) < 64
    ∧ (((request false true).updMod fun m => { m with cxl := m.cxl ++ m.cxl.map fun r => { r with id := 6 } }).mod.cxl.filter fun e => e.id != 5).all (fun e => e.cmd != 7) = false := by decide +kernel

theorem test_wit_RouterCommands_holder : one.onceGuard g0 = true ∧ privOne.priv = true ∧ ((one.setClu 0 { holding := some 1 }).clu 0).holding = some ((one.setClu 0 { holding := some 1 }).ctx 0).gang
    ∧ ¬ (one.priv = true ∨ (one.clu 0).holding = some (one.ctx 0).gang) := by decide +kernel
theorem test_wit_RouterCommands_operands : (64 * 2 ^ 6 + 63 : Nat) < 2 ^ 13 ∧ (64 * 2 ^ 6 + 63) / 2 ^ 6 % 2 ^ 7 = 64 ∧ (2 ^ 30 : Nat) % 16 = 0 ∧ (2 ^ 30 : Nat) / 2 ^ 30 = 1
    ∧ (∀ j, j < 64 → inUnion (withCtx (one.setClu 0 { holding := some 1 }) fun c => { c with cbLen := 1024 }) 1 0 ((2 ^ 30 % 2 ^ 18 + 16 * j) / 64) = true)
    ∧ inUnion (one.setClu 0 { holding := some 1 }) 1 0 0 = false ∧ (2 ^ 30 : Nat) / 2 ^ 18 % 2 ^ 12 = 0 ∧ (one.fr.t : Int) + 4 ≤ startCount one 14
    ∧ startCount one 13 < one.fr.t + 4 ∧ (63 : Nat) < 2 ^ 6 ∧ 2 ^ 6 ≤ (64 : Nat) ∧ 2 ^ 13 ≤ (8192 : Nat) ∧ programAt privOne privOne.myClu 14 11 false = false
    ∧ privOne.tiles = [] ∧ (0 / 2 ^ 6 % 2 ^ 7 = 0) ∧ 64 < 65 * 2 ^ 6 / 2 ^ 6 % 2 ^ 7 := by decide +kernel

/-- Cluster 0's router active, with word `w` at its entry. -/
def routing (w : Nat) : State := one.setClu 0 { router := { active := true, x := 0, buf := SMap.put 0 [] 0 w, rcnt := 1 } }

theorem test_wit_RouterCommands_words : (one.clu 0).router.active = false ∧ ((routing 0).clu 0).router.active = true
    ∧ routerIs (SMap.get 0 ((routing 0).clu 0).router.buf 0) .rnop .rnop .rnop 0 0 = true ∧ routerIs (2 ^ 120) .rnop .rnop .rnop 1 0 = true
    ∧ wordFault (routing 0) 0 0 [.rnop, .rnop, .rnop] = none ∧ (decodeRouterWord (SMap.get 0 ((routing (2 ^ 121)).clu 0).router.buf 0)).isNone = true
    ∧ (routing 0).soft = [] ∧ (routing (2 ^ 121)).soft = [] := by decide +kernel
theorem test_wit_RouterOperations : (3 : Nat) < 4 ∧ ((one.ctx 12).ring 0).gran = 0
    ∧ ((one.ctx 12).ring 0).count + ((one.ctx 12).ring 0).claims.length < ((one.ctx 12).ring 0).depth + 1 ∧ ((one.ctx 12).ring 0).size = 0 := by decide +kernel

/-! ### Witnesses: steps, faults, gangs, tile words -/

/-- A bundle of ADD s1,s2,s3 (0x01021 0C0) in slot 0 that context 0 of `one` fetches at address 0. -/
def fetching : State := { withMem one ((Place.bundles 0).key 0) 16 0x010110C0 with agenda := [⟨.bundleIssue 0, {}⟩] }

/-- `fetching` with another bundle there, and a meter of `bal` wb. -/
def fetchingOf (b bal : Nat) : State := withGang { withMem one ((Place.bundles 0).key 0) 16 b with agenda := [⟨.bundleIssue 0, {}⟩] } fun g => { g with bal := bal, depth := 100000 }

theorem test_wit_StepRunsTheDecodedInstruction_idle : State.reset.agenda = [] ∧ fetching.agenda = [⟨.bundleIssue 0, {}⟩]
    ∧ nextIs (exec (.bundleIssue 0) { fetching with agenda := [], staged := [], fr := {} }) (fun t => t.staged.length == 1) = true := by decide +kernel
theorem test_wit_StepRunsTheDecodedInstruction_act : let s : State := { one with agenda := [⟨.moduleReset, {}⟩] }
    s.agenda = .cons ⟨.moduleReset, {}⟩ [] ∧ s.soft = [] ∧ nextIs (exec .moduleReset { s with agenda := [], staged := [], fr := {} }) (fun t => t.staged == []) = true := by decide +kernel
theorem test_wit_StepRunsTheDecodedInstruction_fetches : fetching.issues 0 = true ∧ (fetching.ctx 0).handler = none ∧ (fetching.ctx 0).reent = none
    ∧ issuedAtF fetching 0 = false ∧ (fetching.ctx 0).nullTo ≤ fetching.now 0 false ∧ (fetching.ctx 0).skip = 0 ∧ (fetching.ctx 0).lb = false
    ∧ (fetching.ctx 0).psw.getLsbD 10 = false ∧ fetchPc (fetching.ctx 0) (fetching.now 0 false) = 0 := by decide +kernel
theorem test_wit_StepRunsTheDecodedInstruction_admits : (fetching.ctx 0).bundleIn 0 = true ∧ hitBreak (fetching.ctx 0) 0 = none
    ∧ fetching.bundleAt (coreOf 0) 0 = 0x010110C0 ∧ resourceOver 0x010110C0 = 0
    ∧ (fetching.gangOf 0).admits (fetching.ctx 0).hlmthr.toNat (fetching.bundleCharge 0 0 0x010110C0) = true
    ∧ bundleSlot 0x010110C0 0 = 0x010110C0 ∧ nullSlot 0x010110C0 = false ∧ isHeader 0x010110C0 = false
    ∧ (∀ m, m < 4 → m ≠ 0 → nullSlot (bundleSlot 0x010110C0 m) = true) ∧ decodeSlot 0x010110C0 0 false = some (.add g0 1 2 3)
    ∧ slotExt 0x010110C0 0 = 0 ∧ slotLent 0x010110C0 0 = false ∧ (Instr.add g0 1 2 3).legal = true := by decide +kernel
/-- `one` where byte 1 of s2 of context 0, or of lane 4 of slice 0 of v2, has a failed parity, with a slot word in hand. -/
def spoiled (w : Nat) : State := { one with
  soft := [{ at_ := 0, spot := .reg 0 (.s 2) 1 }, { at_ := 0, spot := .reg 0 (.v 2 0) 17 }], fr := { one.fr with bits := w } }
/-- 10 R231: file 4, register 2, in lane and slice 0, with F one count after D, which is the landing count. -/
theorem test_failed_scalar_faults : nextIs (runChecked exec (.add g0 3 1 2) (spoiled 0b00000_001000_00011_00001_00010_000000))
    (fun t => raised t == [(20, 12, 2 * 2 ^ 7 + 4 * 2 ^ 12)] && t.pend == []) = true := by decide +kernel
/-- 10 R231: file 0, register 2, lane 4, slice 0; a slot that does not read the byte lands as ever. -/
theorem test_failed_lane_faults : nextIs (runChecked exec (.vadd g0 .i32 false 1 2 3) (spoiled 0b00000_010000_00001_00010_00011_0_0011_0))
    (fun t => (raised t).map (fun e => (e.1, e.2.2)) == [(20, 4 * 8 + 2 * 2 ^ 7)] && t.pend == []) = true
    ∧ nextIs (runChecked exec (.vadd g0 .i32 false 1 3 3) (spoiled 0b00000_010000_00001_00011_00011_0_0011_0))
    (fun t => raised t == [] && t.pend.length == 1) = true := by decide +kernel
/-- 04 R85: a landing sets the parity of the bytes that it writes afresh. -/
theorem test_landing_renews_parity : ((spoiled 0).land ⟨{}, 0, 0, 1, .reg (.s 2) 5 allBits, 0⟩).soft = [{ at_ := 0, spot := .reg 0 (.v 2 0) 17 }] := by
  decide +kernel
theorem test_wit_StepRunsTheDecodedInstruction_parity : fetching.soft = [] ∧ (Instr.add g0 3 1 2).slotWord ≠ none ∧ State.routerUses (.add g0 3 1 2) = []
    ∧ (spoiled 0b00000_001000_00011_00001_00010_000000).soft ≠ []
    ∧ ((spoiled 0b00000_001000_00011_00001_00010_000000).softRead (.add g0 3 1 2)).isSome = true ∧ (Instr.vadd g0 .i32 false 1 2 3).slotWord ≠ none
    ∧ nextIs (exec (.bundleIssue 0) { fetching with agenda := [], staged := [], fr := {} }) (fun t => t.soft == []) = true := by decide +kernel
theorem test_wit_EveryEncodingDecodesBack : (Instr.add g0 31 2 3).wf = true ∧ (Instr.add g0 31 2 3).slotWord = some (0x011F10C0, 0)
    ∧ (Instr.rldi 7 65535).wf = true ∧ (Instr.rldi 7 65535).routerOp.isSome = true
    ∧ (Instr.tfen ⟨2, 1, 1, 3, false, false, false, false, 0, 0, 1, 1, 1, ⟨0, 0, 0⟩, ⟨0, 0, 0⟩, ⟨0, 0, 0⟩⟩).wf = true
    ∧ (Instr.tfen ⟨2, 1, 1, 3, false, false, false, false, 0, 0, 1, 1, 1, ⟨0, 0, 0⟩, ⟨0, 0, 0⟩, ⟨0, 0, 0⟩⟩).tileBits.isSome = true := by decide +kernel
/-- A bundle of XIN v20, q40, 64 alone: 512 wb. -/
def xinBundle : Nat := 0x06941430
theorem test_wit_BundlesIssue_admits : (fetchingOf xinBundle 512).bundleCharge 0 0 xinBundle = 512 ∧ ((fetchingOf xinBundle 512).gangOf 0).dock = false
    ∧ ((fetchingOf xinBundle 512).gangOf 0).admits 0 512 = true ∧ ((fetchingOf xinBundle 511).gangOf 0).admits 0 512 = false
    ∧ ((fetchingOf xinBundle 511).gangOf 0).oneCore = true ∧ (fetchingOf xinBundle 512).bundleAt 0 0 = xinBundle ∧ resourceOver xinBundle = 0
    ∧ (fetchingOf xinBundle 512).mod.traces = [] := by decide +kernel
theorem test_wit_BundlesIssue_refused : ((withCtx bare fun c => { c with pc := 64 }).ctx 0).bundleIn 64 = false
    ∧ (withCtx bare fun c => { c with pc := 64 }).issues 0 = true ∧ fetchPc ((withCtx bare fun c => { c with pc := 64 }).ctx 0) 10 = 64
    ∧ (fetchingOf (xinBundle + xinBundle * 2 ^ 32) 5000).bundleAt 0 0 = xinBundle + xinBundle * 2 ^ 32 ∧ resourceOver (xinBundle + xinBundle * 2 ^ 32) ≠ 0
    ∧ (fetchingOf (xinBundle + xinBundle * 2 ^ 32) 5000).issues 0 = true := by decide +kernel
theorem test_wit_StepKeepsMemoryCanonical : State.reset.mem.wf = true ∧ (withMem one 5 3 0x010203).mem.wf = true
    ∧ nextIs (step (withMem one 5 3 0x010203)) (fun t => t.mem.wf) = true := by decide +kernel

/-- A fault of context 0 that is due. -/
def anyFault (hnd bnd : Bool) : PendFault := ⟨0, hnd, if hnd then 2 else 10, if hnd then 1 else 9, false, 2, 3, 4, 7, 9, bnd, 0, 0⟩
def faulty (c : Ctx → Ctx) (hnd bnd : Bool) : State := { withCtx one c with faults := [anyFault hnd bnd] }

theorem test_wit_FaultsAreTaken_handler : let s := faulty (fun c => { c with hent := some 100 }) false false
    s.dueFault 0 = some (anyFault false false) ∧ handlerTakes s (anyFault false false) = true := by decide +kernel
theorem test_wit_FaultsAreTaken_slack : let s := faulty id false true
    s.dueFault 0 = some (anyFault false true) ∧ handlerTakes s (anyFault false true) = false ∧ (s.gangOf 0).oneCore = true ∧ (s.ctx 0).wave = none := by decide +kernel
theorem test_wit_FaultsAreTaken_nested : let s := faulty (fun c => { c with handler := some { cnt := 2, start := 0 } }) true false
    s.dueFault 0 = some (anyFault true false) ∧ (s.ctx 0).wave = none ∧ (anyFault true false).hnd = true := by decide +kernel
theorem test_wit_FaultsAreTaken_wider : let s := (faulty id false false).setGang 1 { one.gang 1 with members := [0, 4], skb := 64 }
    s.dueFault 0 = some (anyFault false false) ∧ (anyFault false false).hnd = false ∧ (s.gangOf 0).oneCore = false
    ∧ (anyFault false false).addr < 2048 ∧ (anyFault false false).slot < 4 ∧ (anyFault false false).code < 256 := by decide +kernel
theorem test_wit_FaultsCancelTheirSlots_more : let u := fun (v : Saved) => ({ one with undo := [⟨0, false, 78, v, 0⟩] } : State)
    (anyFault false false).cancels 0 false 78 = true ∧ (u (.mem 5 2 7 (allBytes 2))).undo = [⟨0, false, 78, .mem 5 2 7 (allBytes 2), 0⟩]
    ∧ (u (.asked 1 11 (.yield true))).undo = [⟨0, false, 78, .asked 1 11 (.yield true), 0⟩] ∧ (anyFault false false).x < 4096
    ∧ (⟨{ rt := true }, 11, 0, 0, .rtStop, 0⟩ : Eff).fr.rt = true
    ∧ ((withCtx (withGang one fun g => { g with run := .frozen }) fun c => { c with saving := true }).ctx 0).wave = none
    ∧ ((withCtx (withGang one fun g => { g with run := .frozen }) fun c => { c with saving := true }).gangOf 0).run = .frozen := by decide +kernel
theorem test_wit_FaultsCancelTheirSlots : (anyFault false true).bnd = true ∧ (anyFault false false).cancels 0 false (9 * 8 + 4 + 2) = true
    ∧ (anyFault false false).cancels 0 false (9 * 8 + 4 + 1) = false ∧ (one.ctx 0).saving = false ∧ ((withCtx one fun c => { c with saving := true }).ctx 0).saving = true
    ∧ ({ one with undo := [⟨0, false, 78, .reg 0 (.v 1 2) 5 allBits, 0⟩] } : State).undo = [⟨0, false, 78, .reg 0 (.v 1 2) 5 allBits, 0⟩] := by decide +kernel

theorem test_wit_FaultsCancelTheirSlots_draw : ({ one with undo := [⟨0, false, 78, .draw 1 2 allBits, 0⟩] } : State).undo = [⟨0, false, 78, .draw 1 2 allBits, 0⟩]
    ∧ (anyFault false false).cancels 0 false 78 = true := by decide +kernel

/-- The gang of `one` in hand. -/
def ganged (slot addr : Nat) (f : Gang → Gang) : State := { withGang one f with fr := { id := 1, slot := slot, addr := addr } }

theorem test_wit_GangsFreezeAndResume_freeze : (ganged 0 0 fun g => { g with reqs := [⟨10, .yield true⟩] }).fr.slot ≠ 1
    ∧ ((ganged 0 0 fun g => { g with reqs := [⟨10, .yield true⟩, ⟨11, .slack⟩] }).gang 1).reqs.any (fun r => decide (r.F ≤ 10)) = true
    ∧ ((ganged 0 0 fun g => { g with reqs := [⟨10, .wait (.clu 0) 9 0 3 9 0 false⟩] }).gang 1).run = .running
    ∧ ((ganged 0 0 fun g => { g with reqs := [⟨11, .yield true⟩] }).gang 1).reqs.all (fun r => decide (10 < r.F)) = true ∧ ((ganged 0 0 id).gang 1).heir ≠ some 1 := by decide +kernel

theorem test_wit_GangsFreezeAndResume_untraced : (ganged 0 0 id).mod.traces = [] ∧ ((ganged 0 0 id).gang 1).heir ≠ some 1 := by decide +kernel
theorem test_wit_GangsFreezeAndResume_switch : let s := (ganged 1 2 fun g => { g with heir := some 2 }).setGang 2 { live := true, run := .frozen, G := some 1 }
    s.fr.slot = 1 ∧ (s.gang 1).run = .running ∧ (s.gang 1).heir = some s.fr.addr ∧ s.fr.addr ≠ 1 ∧ (s.gang 1).dock = false ∧ (s.gang 2).G = some (s.tide + 1) := by decide +kernel
theorem test_wit_GangsFreezeAndResume_resume : let s := { ganged 0 0 (fun g => { g with run := .frozen, G := some 4096 }) with tide := 4096 }
    (s.gang 1).run = .frozen ∧ (s.gang 1).G = some 4096 ∧ 4096 ≤ s.tide ∧ ({ s with tide := 4095 } : State).tide < 4096 ∧ ((ganged 0 0 id).gang 1).G = none ∧ 0 < (1 : Nat) := by decide +kernel

theorem test_wit_GangsFreezeAndResume_stands : (∃ n ∈ [4], n ∈ ((withCtx one fun c => { c with nonstatic := [4] }).ctx 0).nonstatic)
    ∧ ({ ganged 0 0 id with phase := .land } : State).phase ≠ .perform ∧ ({ ganged 0 0 id with phase := .perform } : State).phase = .perform
    ∧ (∀ n ∈ ({ ganged 0 0 id with phase := .perform, landed := [⟨toS4 9 10 7, 0, 0, {}⟩] } : State).landed, n.eff.fr.x ∈ ((ganged 0 0 id).gang 1).members)
    ∧ (((ganged 1 2 fun g => { g with heir := some 2, run := .frozen }).gang 1).run = .frozen) := by decide +kernel

/-- A TFEN of level 2 in hand, by itself. -/
def tileOf (failed : Option Nat) : TileJob :=
  { id := 3, op := 9, w := ⟨2, 1, 1, 3, false, false, false, false, 0, 0, 1, 1, 1, ⟨0, 0, 0⟩, ⟨0, 0, 0⟩, ⟨0, 0, 0⟩⟩, lvl := 2, core := 0, y := 0, fr := {}, run := true, failed := failed }
def tiled (failed : Option Nat) : State := { one with tiles := [tileOf failed], nextId := 4, fr := { one.fr with id := 3 } }

theorem test_wit_TileWordsAreAccepted : (∀ e ∈ (tiled none).tiles, e.id < (tiled none).nextId) ∧ (tiled none).tileJob 3 = some (tileOf none)
    ∧ (tileOf none).done = none ∧ (tileOf none).parent = none ∧ (tileOf none).failed = none ∧ (tiled (some 4)).tileJob 3 = some (tileOf (some 4))
    ∧ (tileOf (some 4)).failed ≠ none ∧ samePort (tileOf none) (tileOf none) = true
    ∧ (tiled none).ecc = [] ∧ (tiled none).poison = [] ∧ (tiled none).soft = [] := by decide +kernel
/-- An empty copy of level 3, and one of level 2 with elements; the first starts at once on an idle port. -/
def copies : TileWord × TileWord := ({ (tileOf none).w with lvl := 3, tm := 0 }, { (tileOf none).w with tm := 16, tn := 16, tk := 1 })
theorem test_wit_TileWordsAreAccepted_starts : copies.1.lvl = 3 ∧ copies.2.lvl < 4 ∧ one.fr.slice = 0 ∧ copies.1.tm = 0 ∧ copies.2.tk ≠ 0
    ∧ (∀ e ∈ one.tiles, e.id < one.nextId) ∧ (∀ e ∈ one.tiles, e.done ≠ none)
    ∧ nextIs (exec (.tcpy copies.1) one) (fun t => (t.tileJob one.nextId).map (fun j => j.run) == some true && t.flight.length == 1) = true
    ∧ nextIs (exec (.tcpy copies.2) (tiled none)) (fun t => (t.tileJob 4).map (fun j => (j.run, j.start)) == some (false, 14)) = true := by decide +kernel

/-! ### Witnesses: queues and launches -/

/-- Queue 0 in hand with a released packet `p` of process 0. -/
def queued (s : State) (p : Nat) : State :=
  { s with mod := { s.mod with queues := SMap.put {} s.mod.queues 0 { qcfg := 0x108, items := [{ seq := 7, data := p }] } }, fr := { id := 0 } }

/-- Process 0 maps its first 32 MiB on themselves, through tables at 0x10000; partition 0 holds cluster 0; domain 0 is ON. -/
def hosted : State :=
  let m := ((Sys2Proof.Machine.Memory.writeN [] (Place.hbm.key 0x10000) 8 0x11001 255).writeN (Place.hbm.key 0x11000) 8 0x12001 255).writeN (Place.hbm.key 0x12000) 8 11 255
  { State.reset with mem := m, mod := { State.reset.mod with
      procs := SMap.put 0 [] 0 0x10001, parts := SMap.put {} [] 0 { pcfg := 1, clu := [1, 0, 0, 0] }, domains := SMap.put {} [] 0 { st := 3 } } }

/-- An image at 0x20000 of one bundle, with one block for every context: one granule block of 4 KiB, one bundle block, LK 15. -/
def imaged : State :=
  let w := fun (m : Memory) (va n v : Nat) => m.writeN (Place.hbm.key va) n v (2 ^ n - 1)
  let d := 1 + 0x100 * 2 ^ 128 + 0x200 * 2 ^ 192 + 0x300 * 2 ^ 256 + 0x400 * 2 ^ 320
  { hosted with mem := w (w hosted.mem 0x20040 64 d) 0x20400 12 (2 ^ 8 + 2 ^ 24 + 2 ^ 40 + 2 ^ 56 + 0xF * 2 ^ 72) }

/-- A LAUNCH packet of that image on core 0, job 5, SHARE 1, handler entry 9. -/
def launchP (core : Nat) : Nat := 1 + 5 * 2 ^ 32 + 0x20000 * 2 ^ 64 + core * 2 ^ 128 + 2 ^ (128 + 24) + (9 + 2 ^ 11) * 2 ^ 256

theorem test_wit_GangsLaunchAndComplete_launch : (takeUp (queued imaged (launchP 0)) 0).isSome = true
    ∧ (match takeUp (queued imaged (launchP 0)) 0 with
      | some (it, p, u) => it.tbl.isNone && (match checkLaunch u 0 (some it.owner) p with
        | .inr pl => decide (pl.l.nmod = 0) && decide (pl.places.length = 1)
        | .inl _ => false)
      | none => false) = true
    ∧ (match takeUp (queued imaged (launchP 512)) 0 with
      | some (it, p, u) => (checkLaunch u 0 (some it.owner) p).isLeft
      | none => false) = true := by decide +kernel
theorem test_launch_of_one_core : nextIs (exec .launchPacket (queued imaged (launchP 0))) (fun t => (t.gang ((t.ctx 0).gang)).job == 5
    && decide ((t.gang ((t.ctx 0).gang)).run = .waiting) && (t.ctx 0).resident && (t.ctx 0).hent == some 9 && (t.ctx 0).lk == 15 && !(t.ctx 4).resident) = true := by decide +kernel
theorem test_wit_PacketsAreServed_qtail : let s := queued State.reset 0
    (2 ^ 8 : Nat) < 2 ^ 32 ∧ ((s.queue 0).qcfg.getLsbD 8 = true ∧ ((s.queue 0).qtail + 2 ^ 32 - (s.queue 0).qhead) % 2 ^ 32 ≤ (2 ^ 8 + 2 ^ 32 - (s.queue 0).qhead) % 2 ^ 32
      ∧ (2 ^ 8 + 2 ^ 32 - (s.queue 0).qhead) % 2 ^ 32 ≤ 2 ^ ((s.queue 0).qcfg.toNat % 16))
    ∧ ¬ ((2 ^ 8 + 1 + 2 ^ 32 - (s.queue 0).qhead) % 2 ^ 32 ≤ 2 ^ ((s.queue 0).qcfg.toNat % 16)) := by decide +kernel
theorem test_wit_PacketsAreServed_launch : ((one.updMod fun m => { m with msgs := [{ id := 3, kind := .launch }] }).mod.msgs.find? fun e => e.id == 3 && e.kind == .launch).isSome = true := by decide +kernel
/-- A TFEN word of level 2. -/
def tfen : Nat := 9 + 2 * 2 ^ 4
/-- A packet of TYPE 3 with that tile word for context 0 of job 0. -/
def tileP : Nat := 3 + tfen * 2 ^ 64
theorem test_wit_PacketsAreServed_packets : (takeUp (queued one tileP) 0).isSome = true ∧ (queued one tileP).fr.slot ≠ 1 ∧ tileP / 2 ^ 9 % 2 ^ 7 = 0
    ∧ ((queued one tileP).ctx 0).resident = true ∧ ((queued one tileP).gangOf 0).job = tileP / 2 ^ 32 % 2 ^ 32 ∧ tileP / 2 ^ 320 % 2 ^ 16 = 0
    ∧ 2 ≤ tileP / 2 ^ 64 % 2 ^ 256 / 2 ^ 4 % 8 ∧ (decodeTile (tileP / 2 ^ 64 % 2 ^ 256)).isSome = true
    ∧ ownsGang (queued one tileP) 0 ((queued one tileP).gangOf 0) = true ∧ ownsGang (queued (withGang one fun g => { g with process := 1 }) tileP) 0 ((queued (withGang one fun g => { g with process := 1 }) tileP).gangOf 0) = false
    ∧ packetWord (queued (one.setClu 0 { holding := some 1 }) tileP) 0 (tileP / 2 ^ 64 % 2 ^ 256) = true ∧ packetWord (queued one tileP) 0 (tileP / 2 ^ 64 % 2 ^ 256) = false
    ∧ (9 + 1 * 2 ^ 4) / 2 ^ 4 % 8 < 2 ∧ (queued one tileP).fr.slot ≠ 2 ∧ (takeUp (queued one 4) 0).isSome = true ∧ 4 / 2 ^ 9 % 2 ^ 7 = 0
    ∧ (queued one 4).phase = .manage ∧ ({ queued one 4 with phase := .land } : State).phase ≠ .manage := by decide +kernel
theorem test_wit_PacketsAreServed_table : let p := 2 + 0x20000 * 2 ^ 64
    (takeUp (queued hosted p) 0).isSome = true ∧ p / 2 ^ 9 % 2 ^ 7 = 0 ∧ p / 2 ^ 64 % 2 ^ 64 % 16 = 0 ∧ hosted.mapped (hosted.owner 0) 0x20000 = true := by decide +kernel
theorem test_wit_PacketsAreServed_record : (0x20000 : Nat) ≠ 0 ∧ hosted.virtKey 0 0x20000 = some (Place.hbm.key 0x20000) ∧ hosted.ecc = [] ∧ hosted.poison = [] ∧ hosted.soft = []
    ∧ hosted.tide < 2 ^ 64 ∧ hosted.clock < 2 ^ 64 ∧ (ganged 1 7 id).fr.slot = 1 ∧ (ganged 1 7 id).fr.id < 256 := by decide +kernel
theorem test_wit_GangsLaunchAndComplete_start : let s := { ganged 0 0 (fun g => { g with run := .waiting, staged := true }) with phase := .land }
    s.phase = .land ∧ s.fr.slot ≠ 1 ∧ (s.gang 1).live = true ∧ (s.gang 1).run = .waiting ∧ (s.gang 1).staged = true ∧ (s.gang 1).dock = false ∧ (s.slackOf (s.gang 1).job).st = 0 ∧ s.holds 1 .ratio = true
    ∧ s.runsAt (s.gang 1) s.tide = true ∧ s.slotsFree 1 = true ∧ (((s.setGang 2 { live := true }).setCtx 1 { resident := true, gang := 2 }).setCore 0 { holder := some 1 }).slotsFree 1 = false
    ∧ (s.gang 1).reqs.all (fun r => decide (0 < r.F)) = true := by decide +kernel
theorem test_wit_GangsLaunchAndComplete_launch_more : let u := imaged.setGang 3 { live := true, queue := 0, start := some 5 }
    let wide := imaged.updMod fun m => { m with fjt := SMap.put 0 (SMap.put 0 [] 0 (BitVec.ofNat 64 (5 * 2 ^ 32 + 512))) 1 1 }
    (∀ e ∈ u.gangs, e.2.live = true → e.2.queue = 0 → e.2.start.isSome = true) ∧ (launchOf (launchP 0 + 2 ^ (128 + 44))).nmod ≠ 0
    ∧ (match takeUp (queued wide (launchP 0 + 2 ^ (128 + 44))) 0 with
      | some (it, p, u) => (match checkLaunch u 0 (some it.owner) p with
        | .inr pl => decide (pl.l.nmod ≠ 0)
        | .inl _ => false)
      | none => false) = true := by decide +kernel
theorem test_wit_GangsLaunchAndComplete_end : let s := { ganged 0 0 id with ctxs := (withCtx one fun c => { c with ended := some 5 }).ctxs }
    s.taskDone 1 = true ∧ s.fr.slot ≠ 1 ∧ (s.gang 1).pages = [] ∧ ([(32, 16, false)] : List (Nat × Nat × Bool)).all (fun e => !e.2.2) = true ∧ s.ecc = [] ∧ s.poison = [] ∧ s.soft = []
    ∧ (physKey (2 ^ 16)).isSome = true ∧ (physKey (2 ^ 32 * 2 ^ 16)).isSome = true := by decide +kernel
/-- The gang of `one`, frozen, in slot 1, with its context changed. -/
def stuck (f : Ctx → Ctx) : State := { withCtx (withGang one fun g => { g with run := .frozen }) f with fr := { id := 1, slot := 1 } }
theorem test_wit_GangsLaunchAndComplete_stuck : (stuck id).fr.slot = 1 ∧ ((stuck id).gang 1).live = true ∧ ((stuck id).gang 1).run ≠ .running
    ∧ (∃ x ∈ ((stuck fun c => { c with wdog := BitVec.ofNat 64 (2 ^ 63) }).gang 1).members, ((stuck fun c => { c with wdog := BitVec.ofNat 64 (2 ^ 63) }).ctx x).wdog.getLsbD 63 = true)
    ∧ (∀ x ∈ ((stuck fun c => { c with faulted := true }).gang 1).members, ((stuck fun c => { c with faulted := true }).ctx x).wdog.getLsbD 63 = false)
    ∧ ((stuck fun c => { c with faulted := true }).gang 1).members = [0] ∧ ((stuck fun c => { c with faulted := true }).ctx 0).faulted = true := by decide +kernel

/-- The gang of `stuck` that is to end, with the copy of a request on its way or not. -/
def ending (run : RunState) (out : Bool) : State := { withGang one fun g => { g with run := run, ending := some (3, 18, 10) } with fr := { id := 1, slot := 2 } } |>.updMod fun m =>
  { m with cxl := if out then [{ id := 5, x := 0, gid := 1, dir := false, tier := 0, key := 0, cmd := 7 }] else [] }
theorem test_wit_GangsLaunchAndComplete_ending : ((stuck id).gang 1).ending = none ∧ (ganged 0 0 id).fr.slot ≠ 2 ∧ (ending .frozen false).fr.slot = 2
    ∧ ((ending .frozen false).gang 1).ending = some (3, 18, 10) ∧ ((ending .frozen false).gang 1).run ≠ .running ∧ (ending .frozen false).accessesOpen 1 = false
    ∧ (ending .frozen true).accessesOpen 1 = true ∧ ((ending .running false).gang 1).run = .running := by decide +kernel
/-- A LEASE packet of the gang of `one`: rate, duration. -/
def leaseP (rate dur : Nat) : Nat := 5 + rate * 2 ^ 128 + dur * 2 ^ 192
theorem test_wit_LeasesAndServices_lease : (takeUp (queued one (leaseP 0 100000)) 0).isSome = true ∧ gangOfJob (queued one (leaseP 0 100000)) 0 0 = some 1
    ∧ (leaseP 0 100000) / 2 ^ 192 % 2 ^ 32 ≤ 100000 ∧ 1 ≤ (leaseP 0 100000) / 2 ^ 192 % 2 ^ 32 ∧ bathCovers one 0 = true ∧ bathCovers one 1 = false
    ∧ ¬ (leaseP 0 100001) / 2 ^ 192 % 2 ^ 32 ≤ 100000
    ∧ ownsGang (queued one (leaseP 0 100000)) 0 ((queued one (leaseP 0 100000)).gang 1) = true ∧ ownsGang one 0 { process := 1 } = false ∧ ownsGang one 0 { part := 1 } = false
    ∧ (leaseP 0 100000) / 2 ^ 9 % 2 ^ 7 = 0 ∧ (leaseP 0 100001) / 2 ^ 9 % 2 ^ 7 = 0 := by decide +kernel
/-- A request of service `n` whose reply stands at `c`. -/
def asked (c : Nat) : State := one.updMod fun m => { m with msgs := [{ id := 3, kind := .sys, c := c }] }
theorem test_wit_LeasesAndServices_services : (sysMsg (asked 0) 3).map (fun m => m.c) = some 0 ∧ (sysMsg (asked 1) 3).map (fun m => m.c) = some 1
    ∧ ((asked 1).ctx 0).resident = true ∧ (asked 1).phase = .manage ∧ ({ asked 1 with phase := .land } : State).phase ≠ .manage ∧ (asked 1).ecc = [] ∧ (asked 1).poison = [] ∧ (asked 1).soft = [] ∧ ((ganged 0 0 fun g => { g with leases := [(1, 5, false)] }).gang 1).leases ≠ [] := by decide +kernel

theorem test_wit_LeasesAndServices_saved : ((((asked 1).updCtx 0 fun c => { c with saved := true }).ctx 0).saved || (((asked 1).updCtx 0 fun c => { c with saved := true }).ctx 0).saving) = true
    ∧ (((asked 1).ctx 0).saved || ((asked 1).ctx 0).saving) = false ∧ (1 : Nat) ≠ 0 := by decide +kernel
theorem test_wit_LeasesAndServices_revoked : let s := { ganged 0 0 (fun g => { g with leases := [(1, 5, false), (2, 9, true)] }) with tide := 6 }
    (s.gang 1).leases ≠ [] ∧ ¬ (∀ l ∈ (s.gang 1).leases, s.tide < l.2.1 → l.2.2 = false) ∧ (∀ l ∈ ((ganged 0 0 fun g => { g with leases := [(1, 5, false)] }).gang 1).leases, 0 < l.2.1 → l.2.2 = false) := by decide +kernel
/-- Queue 0 in a stream at 0x20000 of process 0, whose command is `w`. -/
def streaming (w : Nat) (loops : List (Nat × Nat)) (wait : Option Nat) (flags : BitVec 64) : State :=
  { hosted with mem := hosted.mem.writeN (Place.hbm.key 0x20000) 16 w (2 ^ 16 - 1), fr := { id := 0 }, mod := { hosted.mod with
      flags := flags, queues := SMap.put {} [] 0 { qcfg := 0x308, cspos := some (true, 0x20000), csloop := loops, cswait := wait } } }
theorem test_wit_CommandStreamsRun : let s := streaming (4 + 0x20000 * 2 ^ 16 + 5 * 2 ^ 64) [] none 0
    streamPos s 0 = some (true, 0x20000) ∧ streamCommand s 0 (true, 0x20000) = some (4 + 0x20000 * 2 ^ 16 + 5 * 2 ^ 64) ∧ (4 + 0x20000 * 2 ^ 16 + 5 * 2 ^ 64) / 2 ^ 9 % 2 ^ 7 = 0
    ∧ (s.queue 0).csloop.length < 4 ∧ (s.queue 0).csloop = [] ∧ 4 ≤ ((streaming 6 [(0, 1), (0, 1), (0, 1), (0, 1)] none 0).queue 0).csloop.length
    ∧ ((streaming 6 [(0, 2)] none 0).queue 0).csloop = [] ++ [(0, 2)] ∧ (1 : Nat) < 2 ∧ s.mod.flags.getLsbD 5 = false ∧ (streaming 7 [] (some 5) 0x20).mod.flags.getLsbD 5 = true
    ∧ ((streaming 7 [] (some 5) 0x20).queue 0).cswait = some 5 ∧ s.readVirt (s.owner 0) 0 4 = 0 ∧ 1024 < (streaming (4 + 0x20008 * 2 ^ 16 + 1025 * 2 ^ 64) [] none 0).readVirt 0 0x20008 4
    ∧ (streaming (4 + 0x20008 * 2 ^ 16 + 1024 * 2 ^ 64) [] none 0).readVirt 0 0x20008 4 = 1024 := by decide +kernel

theorem test_wit_CommandStreamsRun_words : let s := streaming (4 + 0x20000 * 2 ^ 16 + 5 * 2 ^ 64) [] none 0
    let word := fun (s : State) (p : Bool × Nat) (A : Nat) => let u := touchCommand (noteEntry s 0 p) 0 p
      ((u.touchVirt (u.owner 0) 5 64).readVirt (u.owner 0) A 4, u.readVirt (u.owner 0) A 4)
    word s (true, 0x20000) 0 = (0, 0) ∧ 1024 < (word (streaming (4 + 0x20008 * 2 ^ 16 + 1025 * 2 ^ 64) [] none 0) (true, 0x20000) 0x20008).1
    ∧ (word (streaming (4 + 0x20008 * 2 ^ 16 + 1024 * 2 ^ 64) [] none 0) (true, 0x20000) 0x20008) = (1024, 1024) := by decide +kernel

/-! ### Witnesses: shares, the fabric, slack, debugging -/

theorem test_wit_SharesAndMeters : let s := { withGang one (fun g => { g with start := some 0, share := 1, frac := 31999, refill := 1, bal := 99, depth := 100 }) with tide := 5 }
    (s.gangs.map Prod.fst).Nodup ∧ s.gangs = [(1, s.gang 1)] ∧ (s.gang 1).live = true ∧ s.shares (s.gang 1) = true ∧ (s.gang 1).members.Nodup ∧ isWaiter s (s.gang 1) = false
    ∧ (s.gang 1).dock = false ∧ (s.gang 1).run ≠ .frozen ∧ (s.gang 1).debt = 0 ∧ (s.gang 1).bal ≤ (s.gang 1).depth ∧ (s.gang 1).part = 0 := by decide +kernel
theorem test_wit_SharesAndMeters_decision : (ganged 1 0 id).fr.slot = 1 ∧ (ganged 0 0 id).fr.slot ≠ 1 ∧ (one.gang 1).run ≠ .frozen
    ∧ (∃ w ∈ [Why.clock], w ≠ .slot ∧ w ≠ .yield true ∧ w ≠ .yield false) ∧ (∀ x C, Why.meter x C ∉ [Why.slot]) := by
  exact ⟨by decide, by decide, by decide +kernel, by decide, fun x C h => by cases h; contradiction⟩

/-- Gang 2 of context 1 waits for the slot of core 0, which the gang of `one` holds. -/
def waiting2 (def1 def2 : Int) : State := { (withGang one fun g => { g with start := some 0, share := 1, deficit := def1, grace := 2 }).setGang 2
    { live := true, run := .frozen, members := [1], start := some 0, deficit := def2, left := [.slot], skb := 64, share := 1 } with tide := 5 }.setCtx 1 ctx1
theorem test_wit_SharesAndMeters_switch : let s := waiting2 4096 4096
    let g := s.gang 2
    (2, g) ∈ s.liveGangs ∧ 0 ∈ g.cores ∧ (∀ e ∈ s.liveGangs, ∀ k ∈ e.2.cores, k = 0) ∧ (s.ctx 1).resident = true ∧ (s.ctx 1).gang = 2 ∧ s.shares g = true ∧ g.run = .frozen
    ∧ g.G = none ∧ g.left = [.slot] ∧ slotTaken s 2 = false ∧ rivals s 2 = [1]
    ∧ (∀ h ∈ rivals s 2, s.shares (s.gang h) = true ∧ (s.gang h).run = .running ∧ (s.gang h).heir = none ∧ (s.gang h).deficit ≤ 4096 ∧ 4096 ≤ g.deficit)
    ∧ (∀ i, i < 4 → (s.ctx i).resident = true → (s.ctx i).gang = 2 ∨ isWaiter s (s.gang (s.ctx i).gang) = false)
    ∧ nextIs (exec .shareDecision s) (fun t => (t.gang 2).G == some 4096 && (t.gang 1).heir == some 2) = true := by decide +kernel
theorem test_wit_SharesAndMeters_saved : ((withCtx one fun c => { c with saved := true }).ctx 0).saved = true ∧ (one.ctx 0).saved = false
    ∧ (∀ x C, Why.meter x C ∉ ((withGang one fun g => { g with run := .frozen, served := [.slot] }).gang 1).served) :=
  ⟨by decide +kernel, by decide +kernel, fun x C h => by simp [withGang, State.gang, State.setGang, one] at h⟩
theorem test_wit_SharesAndMeters_meter : let g : Gang := { bal := 100, debt := 0 }
    g.dock = false ∧ (100 : Nat) ≤ g.bal ∧ g.bal ≤ 100 ∧ (0 : Nat) < 1 ∧ ({ g with debt := 1 } : Gang).debt = 1 ∧ g.threshold 0 + 100 ≤ g.bal ∧ (64000 : Nat) / 32000 ≤ 2
    ∧ ({ g with dock := true } : Gang).dock = true := by decide +kernel

/-- `one` whose gang's window maps va page 16 to HBM page 16, writable or not, over modules `nmod` + 1. -/
def winged (w : Bool) (nmod : Nat) : State := withGang one fun g => { g with window := [{ va := 16, len := 1, pa := 16, w := w }], nmod := nmod }

theorem test_wit_FabricArrivalsAndLaunches_arrivals : ((winged true 0).gang 1).members.head? = some 0 ∧ ((coverOf ((winged true 0).gang 1).window 0x10FFC0).map fun e => e.phys 0x10FFC0).bind physKey = some (Place.hbm.key 0x10FFC0)
    ∧ (winged true 0).fr.slot ≠ 1 ∧ jobHeld (winged true 0) 0 = false ∧ (coverOf (jobWindow (winged true 0) 0) 0x10FFC0).map (fun e => e.w) = some true
    ∧ (coverOf (jobWindow (winged false 0) 0) 0x10FFC0).map (fun e => e.w) = some false ∧ coverOf (jobWindow (winged true 0) 0) 0x110000 = none
    ∧ (winged true 0).ecc = [] ∧ (winged true 0).poison = [] ∧ (winged true 0).soft = [] ∧ (5 : Nat) + 1 < ({ winged true 0 with tide := 7 } : State).tide ∧ ({ winged true 0 with tide := 6 } : State).tide ≤ 5 + 1
    ∧ (winged true 0).phase = .manage ∧ ({ winged true 0 with phase := .land } : State).phase ≠ .manage ∧ (2 ^ 512 - 1 : Nat) < 2 ^ 512 := by decide +kernel

theorem test_wit_FabricArrivalsAndLaunches_rejected : (winged true 0).mod.rejected.contains ((winged true 0).fr.id, (winged true 0).fr.x, (winged true 0).fr.t) = false
    ∧ (winged true 0).fr.re = false ∧ ({ winged true 0 with fr := { one.fr with re := true } } : State).fr.re = true
    ∧ ((winged true 0).updMod fun m => { m with rejected := [(0, 0, 10)] }).mod.rejected.contains ((winged true 0).fr.id, (winged true 0).fr.x, (winged true 0).fr.t) = true := by decide +kernel
theorem test_wit_FabricArrivalsAndLaunches_ack : let s := (withCtx one fun c => { c with nonstatic := [3] }).updMod fun m => { m with msgs := [{ id := 3, kind := .posted, b := 0, a := 5 }] }
    ((s.mod.msgs.find? fun e => e.id == 3 && e.kind == .posted).map fun m => m.x) = some 0 ∧ (s.ctx 0).nonstatic.contains 3 = true := by decide +kernel
theorem test_wit_FabricArrivalsAndLaunches_gang : let s := { winged true 1 with fr := { id := 0 } }
    (fabricGang s 0).map (fun e => e.1) = some 1 ∧ (s.gang 1).job = 0 / 256 ∧ (1 : Nat) ≠ s.modNum ∧ s.mod.reports = [] ∧ isRoot s 0 = true ∧ (s.gang 1).start = none
    ∧ ((s.mod.reports ++ [(0, 1, [])]).filter fun (r : Nat × Nat × List Nat) => r.1 == 0).length = 1 ∧ (s.queue (s.gang 1).queue).lastS = 0 ∧ s.fr.id = 0 ∧ ((s.setGang 1 { s.gang 1 with start := some 5 }).gang 1).start ≠ none
    ∧ (((s.updMod fun m => { m with reports := [(0, 2, [])] }).mod.reports ++ [(0, 1, [])]).filter fun (r : Nat × Nat × List Nat) => r.1 == 0).length = (s.gang 1).nmod + 1 := by decide +kernel

theorem test_wit_FabricArrivalsAndLaunches_timers : let s := { winged true 1 with fr := { id := 0, t := 700 } }
    let timed := s.updMod fun m => { m with firsts := [(0, 700)] }
    s.fr.t ≠ 0 ∧ (s.fr.id, s.fr.t) ∉ s.mod.firsts ∧ (0, timed.fr.t) ∈ timed.mod.firsts ∧ timed.fr.t ≠ 0 ∧ (∀ r ∈ s.mod.reports, r.1 ≠ 0) ∧ (∀ r ∈ s.mod.firsts, r.1 ≠ 0)
    ∧ ((winged true 1).queue ((winged true 1).gang 1).queue).lastS % 4096 = 0
    ∧ (((winged true 1).setQueue 0 { lastS := 8192 }).queue ((winged true 1).gang 1).queue).lastS = 8192 ∧ ({ winged true 1 with fr := {} } : State).fr.t = 0 := by decide +kernel
/-- A link 3 in state `st` after `n` silent slots, the frame's slot `k`. -/
def linked (st n k : Nat) : State := { State.reset with mod := { State.reset.mod with links := SMap.put {} [] 3 { st := st, silent := n } }, fr := { slot := k, t := 2 ^ 15 - 1 } }
theorem test_wit_LinksAndRegisters : (linked 2 0 0).fr.t < 2 ^ 15 ∧ ((linked 2 0 0).link 3).st = 2 ∧ (linked 2 0 0).fr.slot ≠ 2 ∧ (linked 2 4095 2).fr.slot = 2
    ∧ ((linked 2 4094 2).link 3).silent < 4095 ∧ ¬ ((linked 2 4095 2).link 3).silent < 4095 ∧ ((linked 3 0 0).link 3).st ≠ 2 ∧ (∀ l, l < 16 → (State.reset.link l).st ≠ 2)
    ∧ (∃ l, l < 16 ∧ ((linked 2 0 0).link l).st = 2) ∧ (4095 : Nat) < 4096 ∧ (511 : Nat) % 2 ^ 32 < 512 ∧ 512 ≤ (512 : Nat) % 2 ^ 32 ∧ (512 : Nat) / 2 ^ 68 % 2 ^ 5 = 0 ∧ (15 : Nat) < 16 ∧ (95 : Nat) < 96 ∧ (255 : Nat) < 256 := by decide +kernel

/-- A post of context 0 on its way to module 7. -/
def posting : Msg := { id := 3, kind := .posted, data := 7 * 2 ^ 52 }
theorem test_wit_LinksAndRegisters_post : let s := (withCtx one fun c => { c with nonstatic := [3] }).updMod fun m => { m with msgs := [posting], links := SMap.put {} [] 3 { st := 2, nbr := 7 } }
    s.mod.msgs = [posting] ∧ posting.data / 2 ^ 52 % 2 ^ 12 = (s.link 3).nbr ∧ (s.ctx posting.x).nonstatic.contains posting.id = true
    ∧ (∀ m ∈ s.mod.msgs, m.kind = .posted → m.data / 2 ^ 52 % 2 ^ 12 ≠ (s.link 4).nbr) := by decide +kernel
theorem test_wit_LinksAndRegisters_tide : let s := { linked 2 0 1 with fr := { slot := 1, id := 3, addr := 4, t := 100 } }
    s.fr.slot = 1 ∧ (s.link s.fr.id).st = 2 ∧ s.fr.id < 16 ∧ Nat.min s.mod.num (Nat.min s.mod.root s.fr.addr) = s.mod.num
    ∧ (let u := s.updMod fun m => { m with num := 9 }
      nextIs (exec .tideExchange u) (fun t => t.mod.root == 4 && decide (t.mod.trim = trimFor u 3 100)) = true) := by decide +kernel

/-- The job of `one` with slack state `k`, at TIDE 5,000. -/
def slacked (k : Slack) (slot cap : Nat) (f : Gang → Gang) : State :=
  { (withGang one f).updMod fun m => { m with jobs := SMap.put {} m.jobs 0 k } with tide := 5000, fr := { id := 0, slot := slot, t := 5000, cap := BitVec.ofNat 64 cap } }
theorem test_wit_SlackWavesFreezeAndResume_arrivals : (slacked {} 0 0 id).fr.slot ≠ 1 ∧ ((slacked {} 0 0 id).slackOf 0).st = 0 ∧ ((slacked {} 0 0 id).slackOf 0).wave = false
    ∧ ((slacked {} 0 0 id).slackOf 0).seen = [] ∧ ((slacked { st := 1 } 0 0 id).slackOf 0).st = 1 ∧ ((slacked { st := 2 } 0 0 id).slackOf 0).st = 2
    ∧ ((slacked { wave := true, Ts := 100, seen := [(100, 0, 0, 0)] } 0 0 id).slackOf 0).wave = true
    ∧ (triggerOf 0 0 99).before { wave := true, Ts := 100, seen := [(100, 0, 0, 0)] } = true ∧ (triggerOf 0 0 101).before { wave := true, Ts := 100, seen := [(100, 0, 0, 0)] } = false
    ∧ (99, 0, 0, 0) ∉ [((100 : Nat), (0 : Nat), (0 : Nat), (0 : Nat))] ∧ (slacked {} 1 0 id).fr.slot = 1 ∧ (slacked {} 1 0 id).mod.traces = [] := by decide +kernel
theorem test_wit_SlackWavesFreezeAndResume_freeze : let s := slacked { wave := true, Ts := 3976 } 0 0 id
    s.gangs = [(1, s.gang 1)] ∧ (s.gang 1).live = true ∧ (s.gang 1).job = s.fr.id ∧ (s.gang 1).dock = false ∧ (s.slackOf 0).wave = true ∧ (s.slackOf 0).Ts + s.waveSkb 0 ≤ s.tide
    ∧ (s.gang 1).run = .running ∧ (s.gang 1).reqs = [] ∧ s.tide < ((slacked { wave := true, Ts := 3977 } 0 0 id).slackOf 0).Ts + s.waveSkb 0 := by decide +kernel
theorem test_wit_SlackWavesFreezeAndResume_resume : let s := slacked { st := 1 } 0 0 fun g => { g with run := .frozen, left := [.slack], TF := 904 }
    s.fr.slot ≠ 1 ∧ (s.slackOf 0).st = 1 ∧ (s.slackOf 0).G = none ∧ (s.gang 1).run = .frozen ∧ (s.gang 1).left = [.slack] ∧ s.fr.cap = 0 ∧ (slacked { st := 1 } 1 7 id).fr.cap ≠ 0
    ∧ (slacked { st := 1 } 1 7 id).fr.slot = 1 := by decide +kernel
theorem test_wit_SlackWavesFreezeAndResume_step : let s := slacked { st := 3, wave := true, code := 17, Ts := 3976 } 0 0 fun g => { g with run := .frozen }
    (s.slackOf 0).wave = true ∧ (s.slackOf 0).st = 3 ∧ (s.slackOf 0).code = 17 ∧ (s.slackOf 0).Ts + s.waveSkb 0 ≤ s.tide ∧ (s.gang 1).run = .frozen ∧ (s.gang 1).reqs = []
    ∧ (let u := slacked { st := 3, wave := true, code := 17, Ts := 3976 } 0 0 fun g => { g with reqs := [⟨10, .slack⟩] }
      (u.gang 1).run = .running ∧ ∃ r ∈ (u.gang 1).reqs, r.why = .slack ∧ r.F ≤ (u.gang 1).sch) := by decide +kernel

theorem test_wit_SlackWavesFreezeAndResume_late : (slacked { st := 1, Ts := 100 } 0 0 id).fr.slot ≠ 2 ∧ ((slacked { st := 1, Ts := 100 } 0 0 id).slackOf 0).Ts + (slacked { st := 1, Ts := 100 } 0 0 id).waveSkb 0 ≤ 100 + 1024
    ∧ 101 < ((slacked { st := 2, Ts := 100 } 0 0 id).slackOf 0).Ts + (slacked { st := 2, Ts := 100 } 0 0 id).waveSkb 0 ∧ ((slacked { st := 1, Ts := 100 } 0 0 id).slackOf 0).seen = []
    ∧ ((slacked { st := 1 } 0 0 fun g => { g with run := .frozen, left := [.slack] }).gang 1).ending = none
    ∧ (let s := slacked { st := 3, wave := true, code := 17, Ts := 3976, n := 4, from_ := [(1, 6)] } 0 0 id
      (s.slackOf 0).from_ = [(1, 6)] ∧ (s.gang 1).run = .running ∧ (s.ctx 0).wave = none
      ∧ ((withCtx s fun c => { c with wave := some (anyFault false true) }).ctx 0).wave.isSome = true) := by decide +kernel

/-- A DEBUG packet for context 0 of job 0: words 1, 3 and 4. -/
def debugP (w1 w3 w4 : Nat) : Nat := 4 + w1 * 2 ^ 64 + 0x20000 * 2 ^ 128 + w3 * 2 ^ 192 + w4 * 2 ^ 256
/-- Its queue and the job of `one` in slack state `st`, with process 0's tables. -/
def debugged (st p : Nat) (f : Gang → Gang) : State :=
  queued { (withGang one f).updMod fun m => { m with jobs := SMap.put {} m.jobs 0 { st := st }, procs := hosted.mod.procs } with mem := hosted.mem } p
theorem test_wit_DebugPacketsAct_stop : let s := debugged 0 (debugP 0 0 0) id
    (takeUp s 0).isSome = true ∧ s.fr.slot ≠ 1 ∧ debugWell (debugP 0 0 0) = true ∧ (s.ctx 0).owner = s.owner 0 ∧ (∀ x ∈ jobMembers s 0, (s.ctx x).owner = s.owner 0 ∧ ownsGang s 0 (s.gangOf x) = true)
    ∧ jobGangs s 0 ≠ [] ∧ (s.slackOf 0).st = 0 ∧ (s.slackOf 0).wave = false ∧ (s.slackOf 0).seen = [] ∧ (s.gangs.map Prod.fst).Nodup := by decide +kernel
theorem test_wit_DebugPacketsAct_resume : let s := debugged 1 (debugP 0 0 1) id
    (s.slackOf 0).st = 1 ∧ (s.slackOf 0).G = none ∧ isRoot s 0 = true ∧ 0 < (debugOf (debugP 0 0 1)).arg ∧ (debugOf (debugP 0 0 1)).arg < 2 ^ 32 ∧ (debugOf (debugP 0 0 1)).idx < 4
    ∧ (s.ctx 0).resident = true ∧ (s.gangOf 0).job = 0 := by decide +kernel
theorem test_wit_DebugPacketsAct_trace : let d := debugOf (debugP 0 20 7)
    4 ≤ d.off % 2 ^ 5 ∧ d.off % 2 ^ 5 ≤ 20 ∧ d.arg.testBit 3 = false ∧ (debugOf (debugP 0 0 0)).off % 2 ^ 5 = 0 ∧ (debugOf (debugP 0 0 0)).arg = 0 ∧ (debugOf (debugP 0 0 0)).len % 64 = 0 := by decide +kernel
theorem test_wit_DebugPacketsAct_bytes : let p := debugP (2 ^ 16) (64 * 2 ^ 32) 0
    let s := debugged 1 p fun g => { g with run := .frozen }
    debugWell p = true ∧ (debugOf p).len = 64 ∧ (debugOf p).sel = 1 ∧ debugStill s (debugOf p) = true ∧ debugOut s (debugOf p) false = false ∧ debugOut s (debugOf p) true = false
    ∧ s.ecc = [] ∧ s.poison = [] ∧ s.soft = [] ∧ word p 6 = 0 ∧ (s.virtKey (s.owner 0) (debugOf p).buf).isSome = true := by decide +kernel

/-- The job of `one`, whose context is frozen in a wait for cluster flag 9, with one edge that has closed two waits. -/
def graphed : State := { debugged 0 (debugP 0 (64 * 2 ^ 32) 0) fun g => { g with run := .frozen, served := [.wait (.clu 0) 9 0 3 9 0 false], left := [.wait (.clu 0) 9 0 3 9 0 false] } with
  fr := { id := 0 } } |>.updMod fun m => { m with edges := [(0, 4, 1, 2)] }
theorem test_wit_DebugPacketsAct_graph : (takeUp graphed 0).isSome = true ∧ debugWell (debugP 0 (64 * 2 ^ 32) 0) = true ∧ (debugOf (debugP 0 (64 * 2 ^ 32) 0)).len % 64 = 0
    ∧ (debugOf (debugP 0 (64 * 2 ^ 32) 0)).len = 64 ∧ openWaits graphed 0 ≠ [] ∧ (∀ w ∈ openWaits graphed 0, w.2.2 = 0) ∧ (0 : Nat) / 4096 = 0
    ∧ (graphOf graphed 0).map (fun e => (e.testBit 34, e / 2 ^ 92)) = [(false, 2), (true, 0)] ∧ (graphed.virtKey (graphed.owner 0) (0x20000 + 16)).isSome = true := by decide +kernel

/-! ### Witnesses: the module, power, upkeep -/

/-- The module in state `st`, with a firmware bank or not, and domain 0 in `d`. -/
def moduled (st : Nat) (bank : Option Nat) (d : Domain) : State :=
  { State.reset with mod := { State.reset.mod with mstat := BitVec.ofNat 64 st, bank := bank, domains := SMap.put {} [] 0 d, coolSince := some 0 }, tide := 19200000000000 }
theorem test_wit_ModuleStatesAndDomains_module : let st := fun (s : State) => fld s.mod.mstat.toNat 3 0
    st (moduled 0 none {}) = 0 ∧ (moduled 0 none {}).mod.bank = none ∧ st (moduled 3 (some 0) {}) = 3 ∧ (4800 : Nat) < 4801 ∧ (4801 : Nat) < 2 ^ 16 ∧ st (moduled 1 (some 0) {}) ≠ 3 ∧ (4400 : Nat) ≤ 4800
    ∧ st (moduled 1 (some 0) {}) = 1 ∧ (moduled 1 (some 0) {}).mod.coolSince = some 0 ∧ 0 + 19200000000000 ≤ (moduled 1 (some 0) {}).tide ∧ st (moduled 2 (some 0) {}) = 2
    ∧ (∀ d, d < 32 → ((moduled 2 (some 0) {}).domain d).st ≠ 1) ∧ (moduled 2 (some 0) {}).fr.t < 2 ^ 16 := by decide +kernel

/-- A module in WARM whose bank 1 is signed for other keys. -/
def banked : State := State.reset.updMod fun m => { m with banks := [{ image := 1, version := 3 }, { rsaHash := 5 }], fuses := { rollback := 3 } }
theorem test_wit_ModuleStatesAndDomains_banks : banked.mod.verifies 0 true = true ∧ banked.mod.verifies 0 false = false ∧ banked.mod.verifies 1 true = false
    ∧ (banked.updMod fun m => { m with banks := m.banks.reverse }).mod.verifies 0 true = false ∧ (banked.updMod fun m => { m with banks := m.banks.reverse }).mod.verifies 1 true = true
    ∧ (banked.updMod fun m => { m with fuses := { rollback := 4 } }).mod.verifies 0 true = false ∧ banked.partsOn = [] ∧ banked.pend = [] := by decide +kernel
/-- A module in SELFTEST whose domains have all come through RAMP, or whose domain 0 has not, at `hek` mK. -/
def tested (all : Bool) (hek : Nat) : State := State.reset.updMod fun m => { m with
  mstat := BitVec.ofNat 64 (2 + hek * 2 ^ 32), bank := some 0, domains := (List.range 32).map fun d => (d, { st := 3, ramped := all || d != 0 }) }
theorem test_wit_ModuleStatesAndDomains_ramped : fld (tested true 4000).mod.mstat.toNat 3 0 = 2 ∧ (∀ d, d < 32 → ((tested true 4000).domain d).ramped = true) ∧ ((tested false 4000).domain 0).ramped = false
    ∧ (tested true 4000).hek ≤ 4800 ∧ 4800 < (tested true 4801).hek ∧ ((List.range 1024).filter (tested true 4000).fr.capv.getLsbD).length ≤ 64 := by decide +kernel
theorem test_wit_ModuleStatesAndDomains_defects : ((List.range 1024).filter (BitVec.ofNat 4096 (2 ^ 64 - 1)).getLsbD).length = 64
    ∧ ((List.range 1024).filter (BitVec.ofNat 4096 (2 ^ 65 - 1)).getLsbD).length = 65 ∧ (∀ d, d < 32 → ((moduled 2 (some 0) {}).domain d).st ≠ 1) ∧ ((moduled 3 (some 0) { st := 2 }).domain 0).st = 2 := by decide +kernel
theorem test_wit_ModuleStatesAndDomains_domain : ((moduled 3 (some 0) { st := 1 }).domain 0).st = 1 ∧ ((moduled 3 (some 0) { st := 3 }).domain 0).st = 3 ∧ (moduled 3 (some 0) { st := 3 }).gangs = []
    ∧ (moduled 3 (some 0) { st := 3 }).partsOn = [] ∧ ((moduled 3 (some 0) {}).domain 0).st = 0 ∧ ((moduled 3 (some 0) { st := 4 }).domain 0).st = 4 ∧ (moduled 3 (some 0) { st := 3 }).domainFree 0 = false
    ∧ (moduled 3 (some 0) { st := 4, fails := 1 }).domainFree 0 = true ∧ ((moduled 3 (some 0) { st := 4, fails := 1 }).domain 0).fails < 2
    ∧ (moduled 3 (some 0) { st := 4, fails := 2 }).domainFree 0 = true ∧ 2 ≤ ((moduled 3 (some 0) { st := 4, fails := 2 }).domain 0).fails
    ∧ ((moduled 3 (some 0) { st := 1 }).domain 0).end_ ≤ (moduled 3 (some 0) { st := 1 }).tide ∧ ((moduled 3 (some 0) { st := 2 }).domain 0).st = 2 ∧ (31 : Nat) < 32 := by decide +kernel

/-- The three partitions of the worked example of 21: RANK, WCAP and CALL, at a HALL budget of 6,550 W and SP 4,800; the rank in hand is `r`. -/
def capped (r : Nat) : State :=
  let cfg := fun (rank wcap call : Nat) => BitVec.ofNat 64 (1 + call * 2 ^ 16 + wcap * 2 ^ 32 + rank * 2 ^ 53)
  { State.reset with fr := { slot := r }, mod := { State.reset.mod with
      caps := [(1, 6551, 4800), (0, 0, 0)], parts := SMap.put {} (SMap.put {} (SMap.put {} [] 0 { pcfg := cfg 0 600 8000, allot := 8000, warm := 600000, base := 8000 }) 1 { pcfg := cfg 3 800 16000, allot := 16000, warm := 800000, base := 16000 })
        2 { pcfg := cfg 7 600 8000, allot := 8000, warm := 600000, base := 8000 } } }
theorem test_cap_of_the_spec : nextIs (exec .capRankApply (capped 0)) (fun t => (t.part 0).warm == 150000 && (t.part 0).allot == 2000) = true
    ∧ nextIs (exec .capRankApply (capped 3)) (fun t => (t.part 1).warm == 400000 && (t.part 1).allot == 8000) = true
    ∧ nextIs (exec .capRankApply (capped 7)) (fun t => (t.part 2).warm == 600000 && (t.part 2).allot == 8000) = true := by decide +kernel
/-- A reset module whose frame has these fields. -/
def framed (slot : Nat) (re : Bool) : State := { State.reset with fr := { slot := slot, re := re } }
/-- Bytes 0 to 31 of a cap payload: MAGIC, LEVEL 0, SEQ 5, BUDGET 6,550 W, SP 4,800. -/
def payload : Nat := 0x524E4350 + 5 * 2 ^ 64 + 6550 * 2 ^ 128 + 4800 * 2 ^ 160
/-- HMAC-SHA-256 of them under a key of zeros (FIPS 198-1), its first 16 bytes. -/
theorem test_mac_of_a_cap_payload : capMac 0 payload = 5982458535642984902074790643414215028 := by decide +kernel
theorem test_wit_CapsLimitPartitions_frames : (framed 0 false).mod.caps.length = 2 ∧ State.reset.mod.fuses.hallKey = 0 ∧ payload % 2 ^ 32 = 0x524E4350 ∧ payload / 2 ^ 32 % 2 ^ 8 = 0
    ∧ 5982458535642984902074790643414215028 = capMac 0 payload ∧ 1 ≠ capMac 0 payload
    ∧ payload / 2 ^ 64 % 2 ^ 64 = 5 ∧ ((framed 0 false).mod.caps.getD 0 (0, 0, 0)).1 ≤ 5 ∧ (0 : Nat) % 2 ^ 32 ≠ 0x524E4350 ∧ 1 < (2 : Nat) ∧ 4 < ((State.reset.updMod fun m => { m with caps := [(5, 1, 1), (0, 0, 0)] }).mod.caps.getD 0 (0, 0, 0)).1
    ∧ budgetOf (framed 0 false) = none ∧ budgetOf (capped 0) = some 6550 ∧ (0 : Nat) < 8 := by decide +kernel
theorem test_wit_CapsLimitPartitions_parts : (capped 0).partOn 0 = true ∧ ((capped 0).part 0).rank = 0 ∧ ((capped 0).part 1).rank ≠ 0 ∧ (capped 0).partOn 15 = false ∧ (framed 0 false).mod.limits < 4
    ∧ limitsOf (framed 0 false) = [] ∧ (framed 0 false).hek ≤ 4500 ∧ ((capped 0).part 0).ratio < 2 ∧ (capped 1).fr.slot = 1 := by decide +kernel

theorem test_wit_CapsLimitPartitions_cut : leastLimit (limitsOf (capped 3)) = some (0, 6550, 4800) ∧ demand 4800 ((capped 3).part 1) ≠ 0 ∧ ((capped 3).part 1).low = 0 ∧ ((capped 3).part 1).wcap ≠ 0
    ∧ ((capped 3).part 1).ratio ≠ 1 ∧ (capped 3).partOn 1 = true ∧ ((capped 3).part 1).rank = (capped 3).fr.slot ∧ nextIs (exec .capRankApply (capped 3)) (fun t =>
      t.timed.any fun e => decide (e.act.i = .ratioChange 1 1)) = true := by decide +kernel
theorem test_wit_RatiosChangeByHandshake_change : (framed 0 false).fr.slot = 0 ∧ ((framed 0 false).part 3).shake = none ∧ ((framed 0 false).part 3).ratio ≠ 2 ∧ one.gangs = [(1, one.gang 1)]
    ∧ (one.gang 1).live = true ∧ (one.gang 1).part = 0 ∧ (one.gang 1).dock = false ∧ (one.gang 1).run = .running ∧ (framed 1 false).fr.slot = 1
    ∧ (partGangs one 0).any (fun e => decide (e.2.run = .running)) = true ∧ partGangs (framed 1 false) 0 = [] ∧ (framed 2 false).fr.slot = 2 := by decide +kernel

/-- Partition 0 holds cluster 0 and is to change to ratio 1, its gang in state `run` with the requests `l`. -/
def shaking (run : RunState) (l : List FreezeReq) : State := { (withGang one fun g => { g with run := run, reqs := l }).updMod fun m =>
  { m with parts := SMap.put {} [] 0 { pcfg := 1, clu := [1, 0, 0, 0], shake := some (1, 0) } } with tide := 4096 }
theorem test_wit_RatiosChangeByHandshake_takes : (shaking .frozen []).partsOn = [0] ∧ ((shaking .frozen []).part 0).shake = some (1, 0)
    ∧ (∃ e ∈ partGangs (shaking .running []) 0, e.2.run = .running) ∧ (∃ e ∈ partGangs (shaking .frozen [⟨11, .ratio⟩]) 0, ∃ q ∈ e.2.reqs, q.why = .ratio)
    ∧ (∀ e ∈ partGangs (shaking .frozen []) 0, e.2.run ≠ .running ∧ ∀ q ∈ e.2.reqs, q.why ≠ .ratio) ∧ (shaking .frozen []).partOf 0 = some 0 ∧ (shaking .frozen []).partOf 4 ≠ some 0 := by decide +kernel
theorem test_wit_RatiosChangeByHandshake_far : let s := { winged true 1 with fr := { id := 0, slot := 2, t := 9 } }
    (fabricGang s 0).map (fun e => e.1) = some 1 ∧ s.fr.t ≠ s.modNum ∧ s.fr.slot = 2
    ∧ (let u := { withGang one (fun g => { g with far := [(9, 1)] }) with tide := 4096, fr := { slot := 1 } }
      ∃ e ∈ (u.gang 1).far, u.tide / 4096 % 2 ^ e.2 ≠ 0) := by decide +kernel
theorem test_wit_RatiosChangeByHandshake_periods : let s := { one.setClu 0 { ratio := 2 } with tide := 4096 }
    ¬ s.tide / 4096 % 2 ^ (s.clu 0).ratio = 0 ∧ (one.tide / 4096 % 2 ^ (one.clu 0).ratio = 0) ∧ 0 ∈ (s.gang 1).clusters := by decide +kernel
theorem test_wit_RatiosChangeByHandshake_partitions : (15 : Nat) < 16 ∧ hosted.liveGangs = [] ∧ (5 : Nat) < 6 ∧ 6 ≤ (6 : Nat)
    ∧ partsWell (hosted.setPart 1 { hosted.part 1 with pcfg := 1 }) = true ∧ partsWell (hosted.setPart 1 { pcfg := 1, clu := [1, 0, 0, 0] }) = false := by decide +kernel

/-- A berth word of core 0 in hand with error mark `m`, the frame's slot `k`. -/
def scrubbed (k m : Nat) : State := { State.reset with fr := { slot := k }, ecc := SMap.put 0 [] 0 m }
theorem test_wit_UpkeepKeepsContents_scrub : max (scrubbed 0 0).fr.slot (SMap.get 0 (scrubbed 0 0).ecc 0) = 0 ∧ max (scrubbed 1 0).fr.slot (SMap.get 0 (scrubbed 1 0).ecc 0) = 1
    ∧ max (scrubbed 0 1).fr.slot (SMap.get 0 (scrubbed 0 1).ecc 0) = 1 ∧ 1 < max (scrubbed 1 2).fr.slot (SMap.get 0 (scrubbed 1 2).ecc 0) ∧ SMap.get 0 (scrubbed 1 2).ecc 0 < 3
    ∧ (scrubbed 0 0).fr.id ≠ 1 ∧ (scrubbed 0 0).fr.id ≠ 2 ∧ portBusy (scrubbed 0 1) 0 = false ∧ SMap.get 0 (scrubbed 0 2).ecc 0 ≠ 1 ∧ SMap.get 0 (scrubbed 0 1).ecc 0 = 1
    ∧ (scrubbed 0 0).fr.slot = 0 ∧ (scrubbed 1 0).fr.slot = 1 ∧ 2 ≤ (scrubbed 2 0).fr.slot ∧ ((scrubbed 0 1).ecc.map Prod.fst).Nodup
    ∧ 8 * 0 / 2 ^ 64 ≠ Place.hbm.code := by decide +kernel
/-- A load of another core from the berth of core 0 that is due keeps its service port busy; the patrol's line 0 comes at TIDE 0 to 255. -/
theorem test_wit_UpkeepKeepsContents_port : portBusy { one with pend := [⟨{ x := 16 }, 0, 0, 0, .load (.s 1) [(0, 8, 0)] allBits, 1⟩] } 0 = true
    ∧ (8 * 15 / 2 ^ 64 % 16 = 0 ∧ 8 * 15 % 2 ^ 64 / 128 = (255 : Nat) / 256 % 512) := by decide +kernel

theorem test_wit_UpkeepKeepsContents_uses : portBusy { one with pend := [⟨{ x := 16 }, 0, 0, 0, .regAt 0 (.v 2 0) 0 allBits, 1⟩] } 0 = true
    ∧ portBusy { one with pend := [⟨{ x := 0 }, 0, 0, 0, .load (.s 1) [(0, 8, 0)] allBits, 1⟩] } 0 = false ∧ (0 : Nat) ≠ 1 := by decide +kernel
/-- Row group 0, last activated at TIDE 4. -/
def activated (T : Nat) : State := { State.reset with mod := { State.reset.mod with act := SMap.put 0 [] 0 5 }, tide := T }
theorem test_wit_UpkeepKeepsContents_refresh : SMap.get 0 State.reset.mod.act 0 = 0 ∧ SMap.get 0 (activated 0).mod.act 0 = 5 ∧ State.reset.mod.act = [] ∧ (activated 0).mod.act = [(0, 4 + 1)] ∧ (0 : Nat) % 8192 / 16 = 0 ∧ (8191 : Nat) % 8192 / 16 ≠ 0 ∧ 5 - 1 + 1056000000 ≤ (activated 1056000004).tide
    ∧ (activated 1024000004).tide ≤ 5 - 1 + 1024000000 ∧ physKey (2 ^ 40) = none ∧ physKey (2 ^ 40 - 1) = some (Place.hbm.key (2 ^ 40 - 1)) ∧ State.reset.ecc = [] ∧ State.reset.poison = [] ∧ State.reset.soft = [] := by decide +kernel
theorem test_host_memory_at_tail_write :
    let k := (Place.host).key 0
    let s := { State.reset with mem := (Memory.write [] k 7), mod := { hostLog := [⟨k, 1, 5, 1⟩] } }
    (s.hostMem 1).readN k 1 = 5 ∧ (s.hostMem 2).readN k 1 = 7 ∧ ((s.hostCover k 1).hostMem 1).readN k 1 = 7 := by decide

theorem test_host_write : nextIs (exec (.hostWrite 0x100 4 0xAABBCCDD) State.reset) (fun t => t.mem == [] && t.pend.length == 1
    && (t.pend.foldl State.perform t).mem.readN (Place.hbm.key 0x100) 4 == 0xAABBCCDD) = true := by decide +kernel

end Sys2Proof.Tests
end

/-! SUPPORT. A step, the slots that it runs, and the issue of a bundle (00 R7, 02 R21, R22, 08 R158); a slot that reads a failed
parity (10 R231); the reset state (07 R140 to R144). -/

namespace Sys2Proof.Machine

/-! ### Running the slots that an act stages -/

theorem runSlots_of_staged_nil (run : Instr → State → Result) (n : Nat) {s : State} (h : s.staged = []) : runSlots run n s = .next s := by
  cases n <;> simp [runSlots, h]

/-- Where no parity has failed the slot staged first runs as it means, and the others after it. -/
theorem runSlots_of_staged_cons (run : Instr → State → Result) (n : Nat) {s u : State} {a : Act} {r : List Staged}
    (h : s.staged = .run a :: r) (hsoft : s.soft = []) (hu : run a.i { s with staged := r, fr := a.fr } = .next u) :
    runSlots run (n + 1) s = runSlots run n u := by
  have hrun := (runChecked_clean run a.i (s := { s with staged := r, fr := a.fr }) hsoft).trans hu
  simp [runSlots, h, hrun]

theorem step_of_agenda_nil {s : State} (h : s.agenda = []) : step s = .next s.nextPhase := by
  simp [step, stepWith, h]

/-- Where no parity has failed a step runs the act in front as it means, and then the slots that the act has staged. -/
theorem step_of_agenda_cons {s t : State} {a : Act} {r : List Act} (h : s.agenda = a :: r) (hsoft : s.soft = [])
    (ht : exec a.i { s with agenda := r, staged := [], fr := a.fr } = .next t) : step s = runSlots exec 4 t := by
  have hrun := (runChecked_clean exec a.i (s := { s with agenda := r, staged := [], fr := a.fr }) hsoft).trans ht
  simp [step, stepWith, h, hrun]

/-! ### The issue of a bundle that passes its checks (08 R158) -/

/-- The charge of a slot does not depend on the frame in hand. -/
theorem slotCharge_fr (s : State) (fr : Frame) : slotCharge { s with fr := fr } = slotCharge s := by
  funext a; cases a <;> rfl

theorem State.Fetches.running {s : State} {x pc : Nat} (h : s.Fetches x pc) : (s.gang (s.ctx x).gang).run = .running := by
  obtain ⟨hi, hh, -⟩ := h
  have hr : s.ready x = true := by
    simp only [State.issues, Bool.and_eq_true] at hi
    obtain ⟨⟨⟨hr, -⟩, -⟩, -⟩ := hi
    exact hr
  simp only [State.ready, hh, Bool.and_eq_true, beq_iff_eq] at hr
  obtain ⟨-, -, hrun⟩ := hr
  exact hrun

/-- A bundle in the allotment that no breakpoint meets is fetched and goes through its checks (08 R158). -/
theorem execBundleIssue_of_fetches {s : State} {x pc : Nat} (hf : s.Fetches x pc) (hin : (s.ctx x).bundleIn pc = true)
    (hbr : hitBreak (s.ctx x) pc = none) :
    execBundleIssue x s = .next (issueBundle { s with fr := s.bundleFrame x pc } (s.bundleAt (coreOf x) pc)) := by
  have hrun : (s.gangOf x).run = .running := hf.running
  obtain ⟨hi, hh, hre, hat, hnull, -, -, -, hpc⟩ := hf
  have hat' (fr : Frame) : issuedAtF { s with fr := fr } x = false := hat
  simp [execBundleIssue, hrun, hh, hre, hi, hat', Nat.not_lt.2 hnull, hpc, hin, hbr, State.bundleFrame, State.bundleAt]

/-- With its mode bit off the interlock holds no bundle (10 R232). -/
theorem ciHolds_of_mode_off {c : Ctx} (h : c.psw.getLsbD 10 = false) (hnd : Bool) (u k : Nat) (l : List Staged) : ciHolds c hnd u k l = false := by
  rw [ciHolds, h, Bool.false_and]

/-- A bundle within the resource limits, outside the interlock, that the meter admits issues all of its slots (02 R38, 07 R152). -/
theorem issueBundle_of_admitted {s : State} {b : Nat} (hskip : (s.ctx s.fr.x).skip = 0) (hci : (s.ctx s.fr.x).psw.getLsbD 10 = false)
    (hover : resourceOver b = 0) (hadm : (s.gangOf s.fr.x).admits (s.ctx s.fr.x).hlmthr.toNat
      (if (s.gangOf s.fr.x).dock then 0 else ((stageSlots s.fr b 0).map (slotCharge s)).foldl (· + ·) 0) = true) :
    issueBundle s b = issueSlots s (stageSlots s.fr b 0) := by
  simp [issueBundle, hskip, hover, ciHolds_of_mode_off hci, meterIssue, hadm]

theorem execBundleIssue_of_admits {s : State} {x pc b : Nat} (hf : s.Fetches x pc) (ha : s.Admits x pc b) :
    execBundleIssue x s = .next (issueSlots { s with fr := s.bundleFrame x pc } (stageSlots (s.bundleFrame x pc) b 0)) := by
  obtain ⟨hin, hbr, hb, hover, hadm⟩ := ha
  rw [execBundleIssue_of_fetches hf hin hbr, hb]
  obtain ⟨-, -, -, -, -, hskip, -, hci, -⟩ := hf
  refine congrArg _ (issueBundle_of_admitted hskip hci hover ?_)
  rw [slotCharge_fr]
  exact hadm

theorem staged_of_admits {s t : State} {x pc b : Nat} (hf : s.Fetches x pc) (ha : s.Admits x pc b) (ht : exec (.bundleIssue x) s = .next t) :
    t.staged = stageSlots (s.bundleFrame x pc) b 0 := by
  have hs : execBundleIssue x s = .next t := ht
  rw [execBundleIssue_of_admits hf ha] at hs
  cases hs
  rfl

/-- A bundle with one slot that decodes to a legal instruction, beside null slots and a header, stages that slot alone. -/
theorem stageSlots_single {base : Frame} {b n w : Nat} {i : Instr} (hn : n < 4) (hw : bundleSlot b n = w) (hnull : nullSlot w = false)
    (hhead : n = 0 → isHeader w = false)
    (hrest : ∀ m, m < 4 → m ≠ n → nullSlot (bundleSlot b m) = true
      ∨ (m = 0 ∧ isHeader (bundleSlot b m) = true ∧ fld (bundleSlot b m) 31 27 = 0))
    (hi : decodeSlot w (slotExt b n) (slotLent b n) = some i) (hl : i.legal = true) :
    stageSlots base b 0 = [.run ⟨i, { base with slot := n, bits := w }⟩] := by
  have hsome : stageSlot base b n = some (.run ⟨i, { base with slot := n, bits := w }⟩) := by
    subst hw
    have hs : (n == 0 && isHeader (bundleSlot b n)) = false := by
      by_cases h0 : n = 0
      · rw [hhead h0, Bool.and_false]
      · simp [h0]
    simp [stageSlot, hnull, hs, hi, hl]
  have hnone : ∀ m, m < 4 → m ≠ n → stageSlot base b m = none := by
    intro m hm hne
    rcases hrest m hm hne with h | ⟨rfl, h1, h2⟩
    · simp [stageSlot, h]
    · simp [stageSlot, h1, h2]
  have hslots : stageSlots base b 0 = [0, 1, 2, 3].filterMap (stageSlot base b) := by simp [stageSlots]
  rw [hslots]
  interval_cases n <;> simp [hsome, hnone]

/-! ### A slot that reads a failed parity (04 R85, 10 R231) -/

/-- A write of the pilot pending from a cycle on, as its event records are. -/
def Eff.PilotPoke (e : Eff) : Prop := e.wall ≠ 0 ∧ ∃ k n v r, e.act = .poke k n v r

theorem State.mem_pilotWrite_pend {s : State} {key n val : Nat} {rep : Option (Nat × Nat)} {e : Eff}
    (he : e ∈ (s.pilotWrite key n val rep).pend) : e ∈ s.pend ∨ e.PilotPoke := by
  rcases List.mem_append.1 he with he | he
  · exact .inl he
  · rw [List.mem_singleton.1 he]
    exact .inr ⟨Nat.succ_ne_zero _, key, n, val, rep, rfl⟩

@[simp] theorem State.eventRec_faults (s : State) (p type d0 d1 d2 : Nat) : (s.eventRec p type d0 d1 d2).faults = s.faults := by
  unfold State.eventRec
  dsimp only
  split
  · rfl
  · split <;> rfl

/-- An event record leaves nothing more pending than the pilot's writes of it. -/
theorem State.mem_eventRec_pend {s : State} {p type d0 d1 d2 : Nat} {e : Eff} (he : e ∈ (s.eventRec p type d0 d1 d2).pend) :
    e ∈ s.pend ∨ e.PilotPoke := by
  unfold State.eventRec at he
  dsimp only at he
  split at he
  · exact .inl he
  split at he
  · exact .inl he
  · rcases State.mem_pilotWrite_pend he with he | he
    · exact State.mem_pilotWrite_pend he
    · exact .inr he

theorem State.mem_errorSlot_pend {s : State} {store w : Nat} {e : Eff} (he : e ∈ (s.errorSlot store w).pend) : e ∈ s.pend ∨ e.PilotPoke :=
  State.mem_eventRec_pend he

/-- The cold-soft-error fault names the file (7 for the snapshot buffer), the register, the lane and the slice, and freezes after D. -/
theorem State.softFault_faults (s : State) (file num lane slice : Nat) (snap : Bool) (D : Nat) :
    (s.softFault file num lane slice snap D).faults = addFault ⟨s.fr.x, s.fr.hnd, D + 1, s.fr.t, s.fr.re, s.fr.slot, s.fr.addr, 20,
      BitVec.ofNat 64 (slice + lane * 8 + num % 32 * 2 ^ 7 + (if snap then 7 else file) * 2 ^ 12), 0, false, s.fr.rbv, s.fr.rbp⟩ s.faults :=
  State.eventRec_faults ..

theorem State.mem_softFault_pend {s : State} {file num lane slice : Nat} {snap : Bool} {D : Nat} {e : Eff}
    (he : e ∈ (s.softFault file num lane slice snap D).pend) : e ∈ s.pend ∨ e.PilotPoke := by
  have hrec := State.mem_errorSlot_pend he
  exact hrec

/-- A slot that lands nothing keeps of what it has pushed its sticky flags and its AMAX merge (05 R91). -/
theorem State.mem_noLanding_pend {n : Nat} {t : State} {e : Eff} (he : e ∈ (t.noLanding n).pend) :
    e ∈ t.pend ∧ (e ∈ t.pend.take n ∨ (∃ f, e.act = .flagsOr f) ∨ ∃ v n, e.act = .amax v n) := by
  rcases List.mem_append.1 he with he | he
  · exact ⟨List.mem_of_mem_take he, .inl he⟩
  · obtain ⟨hmem, hact⟩ := List.mem_filter.1 he
    refine ⟨List.mem_of_mem_drop hmem, .inr ?_⟩
    split at hact
    · next f hf => exact .inl ⟨f, hf⟩
    · next v m hm => exact .inr ⟨v, m, hm⟩
    · cases hact

theorem le_foldl_max (l : List Nat) : ∀ m : Nat, m ≤ l.foldl Nat.max m := by
  induction l with
  | nil => exact fun _ => le_rfl
  | cons a l ih => exact fun m => (Nat.le_max_left m a).trans (ih _)

/-- D of a slot is not before its issue (10 R218). -/
theorem State.le_softD (s t : State) (i : Instr) : s.fr.t ≤ s.softD t i :=
  (Nat.le_add_right _ _).trans (le_foldl_max _ _)

/-- Where a slot reads a failed parity, its meaning is run, and then it lands nothing and raises the cold-soft-error fault. -/
theorem runChecked_of_softRead {run : Instr → State → Result} {s t : State} {i : Instr} {rd : Rd} {snap : Bool} (hsoft : s.soft ≠ [])
    (hword : i.slotWord ≠ none) (hrouter : State.routerUses i = []) (ht : run i s = .next t) (hrd : s.softRead i = some (rd, snap)) :
    runChecked run i s = .next { ({ t.noLanding s.pend.length with fr := s.fr }).softFault rd.file rd.num rd.lane rd.slice snap
      (s.softD t i) with fr := t.fr } := by
  simp [runChecked, hsoft, hword, hrouter, ht, hrd]

/-- Settles O38: a step runs the act in front and then the slots that it stages, and the issue of a bundle that passes its checks
stages its slots in order; a slot that reads a failed parity is run by `runChecked_of_softRead`. -/
theorem stepRunsTheDecodedInstruction : Obligations.StepRunsTheDecodedInstruction := by
  unfold Obligations.StepRunsTheDecodedInstruction
  refine ⟨fun _ => step_of_agenda_nil, ?_, ?_, ?_⟩
  · intro s t a r hag hsoft hex hst
    rw [step_of_agenda_cons hag hsoft hex, runSlots_of_staged_nil _ _ hst]
  · intro s t u x pc b n w fr r i hag hf ha hn hw hnull hhead hrest hdec hleg hsoft hex htsoft hrun hst
    have hstaged : t.staged = [.run ⟨i, { s.bundleFrame x pc with slot := n, bits := w }⟩] :=
      (staged_of_admits (s := { s with agenda := r, staged := [], fr := fr }) hf ha hex).trans
        (stageSlots_single hn hw hnull hhead hrest hdec hleg)
    rw [step_of_agenda_cons hag hsoft hex, runSlots_of_staged_cons _ _ hstaged htsoft hrun, runSlots_of_staged_nil _ _ hst]
  · intro s t i rd snap hsoft hword hrouter hex hrd
    refine ⟨_, s.softD t i, runChecked_of_softRead hsoft hword hrouter hex hrd, State.softFault_faults .., State.le_softD s t i, ?_⟩
    intro e he
    rcases State.mem_softFault_pend he with he | he
    · exact .inr (State.mem_noLanding_pend he)
    · exact .inl he

/-! ### Reset -/

/-- p0 reads ones in its 16 lanes, whatever the register file holds (04 R77). -/
@[simp] theorem Regs.read_p_zero (r : Regs) (k : Nat) : r.read (.p 0 k) = 0xFFFF := by simp only [Regs.read, if_true]

/-- The library's `BitVec.setWidth_zero` for zeros written as numerals, as the model writes them. -/
theorem setWidth_zero_lit (m n : Nat) : BitVec.setWidth n (0 : BitVec m) = 0 := BitVec.setWidth_zero n m

/-- A fresh register file reads zero everywhere but in p0. -/
theorem Regs.read_fresh {l : Loc} (h : ∀ k, l ≠ .p 0 k) : Regs.read {} l = 0 := by
  cases l with
  | s n => simp only [Regs.read, SMap.get_nil, setWidth_zero_lit, ite_self]
  | p n k =>
    have hn : n ≠ 0 := fun h0 => h k (by rw [h0])
    simp only [Regs.read, SMap.get_nil, setWidth_zero_lit, ite_self, if_neg hn]
  | v | gen | strm => rfl
  | dsr | m => simp only [Regs.read, SMap.get_nil, setWidth_zero_lit]

/-- Settles O43: every part of the reset state reads its default, and every register file is the fresh one. -/
theorem resetState : Obligations.ResetState := by
  unfold Obligations.ResetState
  have hregs (x : Nat) {l : Loc} (h : ∀ k, l ≠ .p 0 k) : (State.reset.ctx x).regs.read l = 0 := Regs.read_fresh h
  exact ⟨rfl, fun _ => rfl, rfl, rfl, rfl, rfl, fun _ => ⟨rfl, rfl, rfl, rfl⟩,
    fun x _ _ => ⟨hregs x (by simp), hregs x (by simp), Regs.read_p_zero _ _, hregs x (by simp), hregs x (by simp)⟩,
    fun _ => rfl, fun _ => ⟨rfl, rfl, rfl⟩, rfl, rfl, rfl, rfl, fun _ => rfl, fun _ => rfl⟩

end Sys2Proof.Machine

/-! SUPPORT. Every word decodes back to its instruction (02 R26 to R28, R34, R35, R42, R44, 15 R264): what a read of bits gives of a
word put together field by field, and with it each row of the encoding tables. -/

namespace Sys2Proof

/-! ### Codes of two-way tables (02 R29 to R33) -/

theorem ElemTy.code_lt (t : ElemTy) : t.code < 16 := by cases t <;> decide
@[simp] theorem ElemTy.ofCode_code (t : ElemTy) : ElemTy.ofCode t.code = some t := by cases t <;> rfl
theorem FTy.code_lt (t : FTy) : t.code < 4 := by cases t <;> decide
@[simp] theorem FTy.ofCode_code (t : FTy) : FTy.ofCode t.code = some t := by cases t <;> rfl
theorem Rnd.code_lt (t : Rnd) : t.code < 8 := by cases t <;> decide
@[simp] theorem Rnd.ofCode_code (t : Rnd) : Rnd.ofCode t.code = some t := by cases t <;> rfl
theorem Cond.code_lt (t : Cond) : t.code < 16 := by cases t <;> decide
@[simp] theorem Cond.ofCode_code (t : Cond) : Cond.ofCode t.code = some t := by cases t <;> rfl
theorem Scope.code_lt (t : Scope) : t.code < 16 := by cases t <;> decide
@[simp] theorem Scope.ofCode_code (t : Scope) : Scope.ofCode t.code = some t := by cases t <;> rfl
theorem ESize.code_lt (t : ESize) : t.code < 8 := by cases t <;> decide
@[simp] theorem ESize.ofCode_code (t : ESize) : ESize.ofCode t.code = some t := by cases t <;> rfl
theorem RedOp.code_lt (t : RedOp) : t.code < 4 := by cases t <;> decide
@[simp] theorem RedOp.ofCode_code (t : RedOp) : RedOp.ofCode t.code = some t := by cases t <;> rfl
theorem AtomOp.code_lt (t : AtomOp) : t.code < 8 := by cases t <;> decide
@[simp] theorem AtomOp.ofCode_code (t : AtomOp) : AtomOp.ofCode t.code = some t := by cases t <;> rfl
theorem AtomW.code_lt (t : AtomW) : t.code < 8 := by cases t <;> decide
@[simp] theorem AtomW.ofCode_code (t : AtomW) : AtomW.ofCode t.code = some t := by cases t <;> rfl
theorem XmScope.code_lt (t : XmScope) : t.code < 8 := by cases t <;> decide
@[simp] theorem XmScope.ofCode_code (t : XmScope) : XmScope.ofCode t.code = some t := by cases t <;> rfl
theorem RTy.code_lt (t : RTy) : t.code < 8 := by cases t <;> decide
@[simp] theorem RTy.ofCode_code (t : RTy) : RTy.ofCode t.code = some t := by cases t <;> rfl

theorem FTy.qW_lt (t : FTy) : t.qW < 2 := by cases t <;> decide
@[simp] theorem FTy.ofQ_qExt_qW (t : FTy) : FTy.ofQ t.qExt t.qW = t := by cases t <;> rfl

/-! ### Reads of a word put together field by field (02 R28) -/

theorem fld_empty {w hi lo : Nat} (h : hi < lo) : fld w hi lo = 0 := by
  rw [fld, Nat.sub_eq_zero_of_le h, pow_zero, Nat.mod_one]

/-- A read takes no notice of the bits above it. -/
theorem fld_eq_mod_div (w hi lo : Nat) : fld w hi lo = w % 2 ^ (hi + 1) / 2 ^ lo := by
  rcases Nat.lt_or_ge hi lo with h | h
  · rw [fld_empty h, Nat.div_eq_of_lt]
    exact (Nat.mod_lt _ (by positivity)).trans_le (Nat.pow_le_pow_right (by decide) h)
  · rw [fld, ← Nat.mod_mul_right_div_self, ← pow_add, Nat.add_sub_cancel' (h.trans (Nat.le_succ hi))]

/-- One bit of a read. -/
theorem fld_bit_of_fld {w hi lo i : Nat} (hlo : lo ≤ i) (hhi : i ≤ hi) : fld w i i = fld w hi lo / 2 ^ (i - lo) % 2 := by
  have hbit : 2 ∣ 2 ^ (hi + 1 - lo - (i - lo)) := dvd_pow_self 2 (by omega)
  rw [fld, fld, ← Nat.add_sub_cancel' (show i - lo ≤ hi + 1 - lo by omega), pow_add, Nat.mod_mul_right_div_self, Nat.div_div_eq_div_mul,
    ← pow_add, Nat.add_sub_cancel' hlo, Nat.mod_mod_of_dvd _ hbit, Nat.add_sub_cancel_left, pow_one]

theorem fld_of_lt {v hi : Nat} (hv : v < 2 ^ (hi + 1)) : fld v hi 0 = v := by
  rw [fld, pow_zero, Nat.div_one, Nat.sub_zero, Nat.mod_eq_of_lt hv]

theorem fld_above_of_lt {v hi lo : Nat} (hv : v < 2 ^ lo) : fld v hi lo = 0 := by
  rw [fld, Nat.div_eq_of_lt hv, Nat.zero_mod]

theorem putF_div (w v lo k : Nat) : putF w v lo / 2 ^ (lo + k) = (w / 2 ^ lo + v) / 2 ^ k := by
  rw [putF, pow_add, ← Nat.div_div_eq_div_mul, Nat.add_mul_div_right _ _ (by positivity)]

section
variable {w v hi lo : Nat} (hfit : v < 2 ^ (hi + 1 - lo)) (hzero : fld w hi lo = 0) (hle : lo ≤ hi)
include hfit hzero

/-- The field that was put in is what is read there. -/
theorem fld_putF_self : fld (putF w v lo) hi lo = v := by
  have hdiv := putF_div w v lo 0
  rw [Nat.add_zero, pow_zero, Nat.div_one] at hdiv
  rw [fld] at hzero
  rw [fld, hdiv, Nat.add_mod, hzero, Nat.zero_add, Nat.mod_mod, Nat.mod_eq_of_lt hfit]

include hle

/-- A field put in where the word had zeros carries into nothing above it. -/
theorem putF_div_above {k : Nat} (hk : hi < k) : putF w v lo / 2 ^ k = w / 2 ^ k := by
  obtain ⟨j, hj⟩ : ∃ j, k = lo + ((hi + 1 - lo) + j) := ⟨k - (hi + 1), by omega⟩
  obtain ⟨q, hq⟩ := Nat.dvd_of_mod_eq_zero hzero
  rw [hj, putF_div, pow_add 2 lo, ← Nat.div_div_eq_div_mul, pow_add, ← Nat.div_div_eq_div_mul, ← Nat.div_div_eq_div_mul, hq,
    Nat.mul_add_div (by positivity), Nat.div_eq_of_lt hfit, Nat.mul_div_cancel_left _ (by positivity), Nat.add_zero]

/-- A read apart from the field is not changed by it. -/
theorem fld_putF_apart {h l : Nat} (hap : h < lo ∨ hi < l) : fld (putF w v lo) h l = fld w h l := by
  rcases hap with h1 | h1
  · obtain ⟨k, rfl⟩ : ∃ k, lo = h + 1 + k := ⟨_, (Nat.add_sub_cancel' h1).symm⟩
    rw [fld_eq_mod_div, fld_eq_mod_div, putF, pow_add, Nat.mul_left_comm, Nat.add_mul_mod_self_left]
  · rw [fld, fld, putF_div_above hfit hzero hle h1]

end

/-- `w` with the values `vs` put in at the fields of `L`, each written as its highest and its lowest bit. -/
def putFields (w : Nat) : List (Nat × Nat) → List Nat → Nat
  | p :: L, v :: vs => putFields (putF w v p.2) L vs
  | [], _ | _ :: _, [] => w

/-- Every value fits its field. -/
def FieldsFit : List (Nat × Nat) → List Nat → Prop
  | p :: L, v :: vs => v < 2 ^ (p.1 + 1 - p.2) ∧ FieldsFit L vs
  | [], _ | _ :: _, [] => True

/-- Every field of `w` reads as its value. -/
def FieldsRead (w : Nat) : List (Nat × Nat) → List Nat → Prop
  | p :: L, v :: vs => fld w p.1 p.2 = v ∧ FieldsRead w L vs
  | [], _ | _ :: _, [] => True

/-- The bits `h` to `l` lie apart from every field of `L`. -/
abbrev Apart (L : List (Nat × Nat)) (h l : Nat) : Prop := ∀ p ∈ L, h < p.2 ∨ p.1 < l

/-- The fields of `L` lie apart from each other in a word of `N` bits, and `C` has zeros there. -/
abbrev Layout (N C : Nat) (L : List (Nat × Nat)) : Prop :=
  C < 2 ^ N ∧ (∀ p ∈ L, p.2 ≤ p.1 ∧ p.1 < N ∧ fld C p.1 p.2 = 0) ∧ L.Pairwise fun p q => q.1 < p.2 ∨ p.1 < q.2

/-- A bit of `C` apart from every field says that the bits `h` to `l` are not `k`. -/
abbrev Clash (C : Nat) (L : List (Nat × Nat)) (h l k : Nat) : Prop :=
  ∃ i ∈ List.range (h + 1), l ≤ i ∧ Apart L i i ∧ fld C i i ≠ k / 2 ^ (i - l) % 2

section
variable {N C v : Nat} {p : Nat × Nat} {L : List (Nat × Nat)} (hL : Layout N C (p :: L))
include hL

theorem Layout.head : p.2 ≤ p.1 ∧ p.1 < N ∧ fld C p.1 p.2 = 0 ∧ Apart L p.1 p.2 := by
  obtain ⟨-, hfields, hap⟩ := hL
  obtain ⟨hle, hlt, hzero⟩ := hfields p List.mem_cons_self
  exact ⟨hle, hlt, hzero, fun q hq => ((List.pairwise_cons.1 hap).1 q hq).symm⟩

/-- Putting in the first field leaves a layout for the others. -/
theorem Layout.putF (hv : v < 2 ^ (p.1 + 1 - p.2)) : Layout N (putF C v p.2) L := by
  obtain ⟨hle, hlt, hzero, hhead⟩ := hL.head
  obtain ⟨hC, hfields, hap⟩ := hL
  refine ⟨?_, fun q hq => ?_, (List.pairwise_cons.1 hap).2⟩
  · rw [← Nat.div_eq_zero_iff_lt (by positivity)] at hC ⊢
    rw [putF_div_above hv hzero hle hlt, hC]
  · obtain ⟨hqle, hqlt, hqzero⟩ := hfields q (List.mem_cons_of_mem p hq)
    exact ⟨hqle, hqlt, (fld_putF_apart hv hzero hle (hhead q hq).symm).trans hqzero⟩

end

section
variable {N C : Nat} {L : List (Nat × Nat)} {vs : List Nat} (hL : Layout N C L) (hfit : FieldsFit L vs)
include hL hfit

theorem putFields_lt : putFields C L vs < 2 ^ N := by
  induction L, vs using FieldsFit.induct generalizing C with
  | case1 p L v vs ih =>
    obtain ⟨hv, hfit⟩ := hfit
    exact ih (hL.putF hv) hfit
  | case2 | case3 => exact hL.1

theorem fld_putFields_apart {h l : Nat} (hap : Apart L h l) : fld (putFields C L vs) h l = fld C h l := by
  induction L, vs using FieldsFit.induct generalizing C with
  | case1 p L v vs ih =>
    obtain ⟨hv, hfit⟩ := hfit
    obtain ⟨hle, -, hzero, -⟩ := hL.head
    rw [putFields, ih (hL.putF hv) hfit fun q hq => hap q (List.mem_cons_of_mem p hq), fld_putF_apart hv hzero hle (hap p List.mem_cons_self)]
  | case2 | case3 => rfl

theorem fieldsRead_putFields : FieldsRead (putFields C L vs) L vs := by
  induction L, vs using FieldsFit.induct generalizing C with
  | case1 p L v vs ih =>
    obtain ⟨hv, hfit⟩ := hfit
    obtain ⟨-, -, hzero, hhead⟩ := hL.head
    exact ⟨(fld_putFields_apart (hL.putF hv) hfit hhead).trans (fld_putF_self hv hzero), ih (hL.putF hv) hfit⟩
  | case2 | case3 => trivial

theorem fld_putFields_ne {h l k : Nat} (hcl : Clash C L h l k) : fld (putFields C L vs) h l ≠ k := by
  obtain ⟨i, hi, hli, hap, hne⟩ := hcl
  rintro rfl
  exact hne ((fld_putFields_apart hL hfit hap).symm.trans (fld_bit_of_fld hli (Nat.le_of_lt_succ (List.mem_range.1 hi))))

end

/-- What a decoder reads of a word with constant bits `C` and the values `vs` in the fields of `L`: the fields, the constant bits apart from
them, and, of a stretch of bits that takes in a field, that it is not what a constant bit in it rules out. -/
structure Reads (w C : Nat) (L : List (Nat × Nat)) (vs : List Nat) : Prop where
  fields : FieldsRead w L vs
  apart : ∀ {h l}, Apart L h l → fld w h l = C / 2 ^ l % 2 ^ (h + 1 - l)
  clash : ∀ {h l k}, Clash C L h l k → fld w h l ≠ k

theorem reads_putFields {N C : Nat} {L : List (Nat × Nat)} {vs : List Nat} (hL : Layout N C L) (hfit : FieldsFit L vs) :
    Reads (putFields C L vs) C L vs :=
  ⟨fieldsRead_putFields hL hfit, fld_putFields_apart hL hfit, fld_putFields_ne hL hfit⟩

/-! ### The guard of a slot word (02 R23, R25) -/

/-- The bits [31:27] of a slot word with guard `g`. -/
def Guard.code (g : Guard) : Nat := g.neg.toNat * 2 ^ 4 + g.p

theorem slotBase_eq_putF (g : Guard) (C : Nat) : slotBase g C = putF C g.code 27 := by
  simp only [slotBase, Guard.bits, putF, Guard.code]
  ring

@[simp] theorem bit_eq_fld (w i : Nat) : bit w i = (fld w i i == 1) := by
  rw [bit, fld, Nat.add_sub_cancel_left, pow_one]

@[simp] theorem toNat_beq_one (u : Bool) : (u.toNat == 1) = u := by cases u <;> rfl

theorem Guard.p_lt {g : Guard} (hg : g.ok = true) : g.p < 2 ^ 4 := by
  simp only [Guard.ok, Bool.and_eq_true, decide_eq_true_eq] at hg
  exact hg.1

theorem Guard.code_lt {g : Guard} (hg : g.ok = true) : g.code < 2 ^ 5 := by
  have hp := p_lt hg
  have hneg := g.neg.toNat_lt
  rw [code]
  omega

/-- The guard of a well-formed instruction makes no null slot. -/
theorem Guard.code_ne {g : Guard} (hg : g.ok = true) : g.code ≠ 16 := by
  obtain ⟨neg, p⟩ := g
  cases neg <;> simp_all [Guard.ok, Guard.code]
  omega

theorem decodeGuard_of_fld {w : Nat} {g : Guard} (hg : g.ok = true) (hw : fld w 31 27 = g.code) : decodeGuard w = g := by
  obtain ⟨neg, p⟩ := g
  have hp : p < 2 ^ 4 := Guard.p_lt hg
  have hneg := neg.toNat_lt
  simp only [fld, Guard.code] at hw
  have hsign : fld w 31 31 = neg.toNat := by rw [fld]; omega
  have hnum : fld w 30 27 = p := by rw [fld]; omega
  rw [decodeGuard, bit_eq_fld, hsign, hnum, toNat_beq_one]

/-! ### The decoder of each major (02 R34) -/

/-- The decoder of major `m`. -/
@[simp] def decodeMajor (m : Nat) (g : Guard) (w e : Nat) (h : Bool) : Option Instr :=
  match m with
  | 0x01 => decode01 g w e
  | 0x08 => decode08 g w e
  | 0x09 => decode09 g w e h
  | 0x0A => decode0A g w e h
  | 0x0B => decode0B g w e
  | 0x0C => decode0C g w e
  | 0x0D => decode0D g w e
  | 0x10 => decode10 g w e
  | 0x11 => decode11 g w e
  | 0x12 => decode12 g w e
  | 0x13 => decode13 g w e
  | 0x14 => decode14 g w e
  | 0x15 => decode15 g w e
  | 0x16 => decode16 g w e
  | 0x17 => decode17 g w e
  | 0x18 => decode18 g w e
  | 0x19 => decode19 g w e
  | 0x1A => decode1A g w e
  | 0x1B => decode1B g w e
  | 0x1C => decode1C g w e
  | 0x1D => decode1D g w e
  | 0x1E => decode1E g w e
  | 0x20 => decode20 g w e
  | 0x21 => decode21 g w e
  | 0x22 => decode22 g w e
  | 0x23 => decode23 g w e
  | 0x24 => decode24 g w e
  | 0x25 => decode25 g w e
  | 0x26 => decode26 g w e
  | 0x28 => decode28 g w e
  | 0x29 => decode29 g w e h
  | 0x2A => decode2A g w e
  | 0x2C => decode2C g w e
  | 0x2D => decode2D g w e h
  | 0x30 => decode30 g w e h
  | 0x31 => decode31 g w e h
  | 0x32 => decode32 g w e
  | 0x33 => decode33 g w e
  | 0x34 => decode34 g w e
  | 0x35 => decode35 g w e
  | 0x36 => decode36 g w e
  | 0x37 => decode37 g w e
  | 0x38 => decode38 g w e
  | 0x39 => decode39 g w e h
  | 0x3B => decode3B g w e
  | 0x3C => decode3C g w e
  | 0x3D => decode3D g w e
  | 0x3E => decode3E g w e
  | _ => none

theorem decodeSlot_eq_decodeMajor (w e : Nat) (h : Bool) : decodeSlot w e h = decodeMajor (fld w 26 21) (decodeGuard w) w e h := rfl

/-! ### Signed fields, with and without a header (02 R26 to R28) -/

/-- `i` is a signed value of `n` bits. -/
abbrev FitsSigned (n : Nat) (i : Int) : Prop := -2 ^ (n - 1) ≤ i ∧ i < 2 ^ (n - 1)

theorem toFld_lt (n : Nat) (i : Int) : toFld n i < 2 ^ n := by
  rw [toFld, Int.toNat_lt (Int.emod_nonneg _ (by positivity))]
  exact_mod_cast Int.emod_lt_of_pos i (by positivity)

/-- The low bits of a field are the field of fewer bits. -/
theorem toFld_mod_two_pow (n k : Nat) (i : Int) : toFld (n + k) i % 2 ^ n = toFld n i := by
  zify [toFld]
  rw [Int.toNat_of_nonneg (Int.emod_nonneg _ (by positivity)), Int.toNat_of_nonneg (Int.emod_nonneg _ (by positivity)),
    Int.emod_emod_of_dvd _ (pow_dvd_pow 2 (Nat.le_add_right n k))]

theorem sx_toFld {n : Nat} {i : Int} (hn : 0 < n) (hi : FitsSigned n i) : sx n (toFld n i) = i := by
  obtain ⟨m, rfl⟩ : ∃ m, n = m + 1 := ⟨n - 1, by omega⟩
  obtain ⟨hlo, hhi⟩ := hi
  simp only [sx, toFld, Nat.add_sub_cancel, pow_succ] at *
  rcases lt_or_ge i 0 with hneg | hpos
  · rw [← Int.add_emod_right, Int.emod_eq_of_lt (by omega) (by omega)]
    have hcast : ((2 ^ m : Nat) : Int) = 2 ^ m := by push_cast; rfl
    rw [if_neg (by omega), Int.toNat_of_nonneg (by omega)]
    omega
  · rw [Int.emod_eq_of_lt hpos (by omega)]
    have hcast : ((2 ^ m : Nat) : Int) = 2 ^ m := by push_cast; rfl
    rw [if_pos (by omega), Int.toNat_of_nonneg hpos]

/-- A signed field reads back, by its `n` bits alone where they hold it and with the `k` bits of its header otherwise. -/
theorem sxe_toFld {n k : Nat} {h : Bool} {i : Int} (hn : 0 < n) (hk : 0 < k) (hi : FitsSigned (n + k) i)
    (hsolo : h = false → FitsSigned n i) :
    sxe n k h (toFld (n + k) i % 2 ^ n) (if h then toFld (n + k) i / 2 ^ n else 0) = i := by
  cases h with
  | false => simp only [sxe, toFld_mod_two_pow, sx_toFld hn (hsolo rfl), Bool.false_eq_true, if_false]
  | true =>
    have hext : toFld (n + k) i / 2 ^ n < 2 ^ (k - 1 + 1) := by
      rw [Nat.sub_add_cancel hk, Nat.div_lt_iff_lt_mul (by positivity), ← pow_add, Nat.add_comm k n]
      exact toFld_lt _ _
    simp only [sxe, if_true, fld_of_lt hext, Nat.mod_add_div', sx_toFld (Nat.add_pos_left hn k) hi]

theorem decodeSlot_of_major_zero {w e : Nat} {h : Bool} (hm : fld w 26 21 = 0) : decodeSlot w e h = none := by
  rw [decodeSlot_eq_decodeMajor, hm]
  rfl

theorem decodeSlot_of_header {w e : Nat} {h : Bool} (hm : fld w 26 21 = 0x3F) : decodeSlot w e h = none := by
  rw [decodeSlot_eq_decodeMajor, hm]
  rfl

/-! ### Slot words that decode back -/

/-- The slot word of an instruction, with what a header lends it where it needs one, decodes to it; it is no null slot and no header. -/
def Instr.DecodesBack (i : Instr) : Prop :=
  ∀ w e, i.slotWord = some (w, e) → decodeSlot w (if i.needsHeader then e else 0) i.needsHeader = some i
    ∧ w < 2 ^ 32 ∧ e < 2 ^ 7 ∧ nullSlot w = false ∧ isHeader w = false

/-- The fields of `L`, with the guard above them, are a layout of a slot word, and they leave the major apart. -/
abbrev SlotLayout (C : Nat) (L : List (Nat × Nat)) : Prop := Layout 32 C ((31, 27) :: L) ∧ Apart ((31, 27) :: L) 26 21

/-- What a decoder reads of the slot word with guard `g`, constant bits `C` and the values `vs` in the fields of `L`. -/
abbrev SlotReads (w : Nat) (g : Guard) (C : Nat) (L : List (Nat × Nat)) (vs : List Nat) : Prop :=
  Reads w C ((31, 27) :: L) (g.code :: vs)

section
variable {i : Instr} {g : Guard} {C : Nat} (L : List (Nat × Nat)) (vs : List Nat) (hg : g.ok = true)
include hg

/-- A slot word decodes back when the decoder of its major reads the instruction off its fields and its constant bits. -/
theorem Instr.decodesBack_of {e : Nat} (hi : i.slotWord = some (putFields (slotBase g C) L vs, e)) (hL : SlotLayout C L)
    (hfit : FieldsFit L vs) (he : e < 2 ^ 7)
    (hdec : ∀ w, SlotReads w g C L vs → decodeMajor (C / 2 ^ 21 % 2 ^ 6) g w (if i.needsHeader then e else 0) i.needsHeader = some i) :
    i.DecodesBack := by
  intro w e' hw
  obtain ⟨hL, hmajor⟩ := hL
  obtain ⟨hword, rfl⟩ : putFields (slotBase g C) L vs = w ∧ e = e' := by simpa [hi] using hw
  replace hword : putFields C ((31, 27) :: L) (g.code :: vs) = w := by
    rw [← hword, slotBase_eq_putF]
    rfl
  replace hfit : FieldsFit ((31, 27) :: L) (g.code :: vs) := ⟨Guard.code_lt hg, hfit⟩
  have hreads : SlotReads w g C L vs := hword ▸ reads_putFields hL hfit
  have hguard : fld w 31 27 = g.code := hreads.fields.1
  have hdecode : decodeSlot w (if i.needsHeader then e else 0) i.needsHeader = some i := by
    rw [decodeSlot_eq_decodeMajor, decodeGuard_of_fld hg hguard, hreads.apart hmajor]
    exact hdec w hreads
  have hzero : fld w 26 21 ≠ 0 := fun h0 => by simp [decodeSlot_of_major_zero h0] at hdecode
  have hheader : fld w 26 21 ≠ 0x3F := fun h0 => by simp [decodeSlot_of_header h0] at hdecode
  exact ⟨hdecode, hword ▸ putFields_lt hL hfit, he, by simp [nullSlot, hguard, Guard.code_ne hg, hzero], by simp [isHeader, hheader]⟩

/-- An instruction that needs a header just where its extension is not 0. -/
theorem Instr.decodesBack_of_ext {e : Nat} (hi : i.slotWord = some (putFields (slotBase g C) L vs, e))
    (hh : i.needsHeader = decide (e ≠ 0)) (hL : SlotLayout C L) (hfit : FieldsFit L vs) (he : e < 2 ^ 7)
    (hdec : ∀ w h, SlotReads w g C L vs → decodeMajor (C / 2 ^ 21 % 2 ^ 6) g w e h = some i) : i.DecodesBack := by
  have hext : (if i.needsHeader then e else 0) = e := by
    rw [hh, ite_eq_left_iff]
    simpa using Eq.symm
  exact decodesBack_of L vs hg hi hL hfit he fun w hw => by rw [hext, hdec w _ hw]

/-- An instruction without an extension. -/
theorem Instr.decodesBack_of_solo (hi : i.slotWord = some (putFields (slotBase g C) L vs, 0)) (hh : i.needsHeader = false)
    (hL : SlotLayout C L) (hfit : FieldsFit L vs)
    (hdec : ∀ w, SlotReads w g C L vs → decodeMajor (C / 2 ^ 21 % 2 ^ 6) g w 0 false = some i) : i.DecodesBack :=
  decodesBack_of L vs hg hi hL hfit (by decide) fun w hw => by simpa [hh] using hdec w hw

/-- An instruction with a signed field of `n` bits and 7 more in its extension. -/
theorem Instr.decodesBack_of_signed {n : Nat} {x : Int} (hi : i.slotWord = some (putFields (slotBase g C) L vs, toFld (n + 7) x / 2 ^ n))
    (hh : i.needsHeader = false → FitsSigned n x) (hL : SlotLayout C L) (hfit : FieldsFit L vs) (hn : 0 < n) (hx : FitsSigned (n + 7) x)
    (hdec : ∀ w h e, SlotReads w g C L vs → sxe n 7 h (toFld (n + 7) x % 2 ^ n) e = x →
      decodeMajor (C / 2 ^ 21 % 2 ^ 6) g w e h = some i) : i.DecodesBack := by
  refine decodesBack_of L vs hg hi hL hfit ?_ fun w hw => hdec w _ _ hw (sxe_toFld hn (by decide) hx hh)
  rw [Nat.div_lt_iff_lt_mul (by positivity), ← pow_add, Nat.add_comm 7 n]
  exact toFld_lt _ _

end

theorem fits_iff {g : Guard} {p : Prop} [Decidable p] : (g.ok && decide p) = true ↔ g.ok = true ∧ p := by
  rw [Bool.and_eq_true, decide_eq_true_eq]

theorem solo_iff {lo hi i : Int} : (!decide (lo ≤ i ∧ i < hi)) = false ↔ lo ≤ i ∧ i < hi := by
  rw [Bool.not_eq_false', decide_eq_true_eq]

/-- The extension of a form-Q slot holds the rounding mode and the high bit of the type (02 R28). -/
theorem fld_extQ (ft : FTy) (rnd : Rnd) : rnd.code + ft.qExt * 8 < 2 ^ 7 ∧ fld (rnd.code + ft.qExt * 8) 6 4 = 0
    ∧ fld (rnd.code + ft.qExt * 8) 3 3 = ft.qExt ∧ fld (rnd.code + ft.qExt * 8) 2 0 = rnd.code := by
  cases ft <;> cases rnd <;> decide

/-! #### Sequencing, flags and the pilot: form B (majors 0x01 and 0x3E) -/

theorem Instr.immediateOnly_decodesBack {g : Guard} {target : Nat} :
    ∀ op ∈ [Instr.br, .call, .trap, .slack, .bkpt, .mark], (op g target).fits = true → (op g target).DecodesBack := by
  intro op hop hfits
  fin_cases hop
  all_goals
    obtain ⟨hg, htarget⟩ := fits_iff.1 hfits
    refine decodesBack_of_solo [(10, 0)] [target] hg rfl rfl (by decide) ⟨htarget, trivial⟩ fun w hw => ?_
    obtain ⟨-, rtarget, -⟩ := hw.fields
    simp (disch := decide) [decode01, rtarget, hw.apart, hw.clash]

theorem Instr.scalarOnly_decodesBack {g : Guard} {s : Nat} :
    ∀ op ∈ [Instr.bri, .launch, .tiss, .seedFromVector], (op g s).fits = true → (op g s).DecodesBack := by
  intro op hop hfits
  fin_cases hop
  all_goals
    obtain ⟨hg, hs⟩ := fits_iff.1 hfits
    refine decodesBack_of_solo [(15, 11)] [s] hg rfl rfl (by decide) ⟨hs, trivial⟩ fun w hw => ?_
    obtain ⟨-, rs, -⟩ := hw.fields
    simp (disch := decide) [decode01, decode26, rs, hw.apart, hw.clash]

theorem Instr.noField_decodesBack {g : Guard} :
    ∀ op ∈ [Instr.ret, .endl, .leave, .endTask, .yield, .rte, .seed], (op g).fits = true → (op g).DecodesBack := by
  intro op hop hfits
  fin_cases hop
  all_goals
    refine decodesBack_of_solo [] [] hfits rfl rfl (by decide) trivial fun w hw => ?_
    simp (disch := decide) [decode01, decode26, hw.apart]

theorem Instr.scalarImmediate_decodesBack {g : Guard} {s imm : Nat} :
    ∀ op ∈ [Instr.loop, .get, .set], (op g s imm).fits = true → (op g s imm).DecodesBack := by
  intro op hop hfits
  fin_cases hop
  all_goals
    obtain ⟨hg, hs, himm⟩ := fits_iff.1 hfits
    refine decodesBack_of_solo [(15, 11), (10, 0)] [s, imm] hg rfl rfl (by decide) ⟨hs, himm, trivial⟩ fun w hw => ?_
    obtain ⟨-, rs, rimm, -⟩ := hw.fields
    simp (disch := decide) [decode01, rs, rimm, hw.apart, hw.clash]

theorem Instr.flag_decodesBack {g : Guard} {scope : Scope} {f : Nat} :
    ∀ op ∈ [Instr.wait, .setf, .clrf], (op g scope f).fits = true → (op g scope f).DecodesBack := by
  intro op hop hfits
  fin_cases hop
  all_goals
    obtain ⟨hg, hf⟩ := fits_iff.1 hfits
    refine decodesBack_of_solo [(10, 7), (5, 0)] [scope.code, f] hg rfl rfl (by decide) ⟨scope.code_lt, hf, trivial⟩ fun w hw => ?_
    obtain ⟨-, rscope, rf, -⟩ := hw.fields
    simp (disch := decide) [decode01, rscope, rf, hw.apart, hw.clash]

theorem Instr.tstf_decodesBack {g : Guard} {pp : Nat} {scope : Scope} {f : Nat} (hfits : (Instr.tstf g pp scope f).fits = true) :
    (Instr.tstf g pp scope f).DecodesBack := by
  obtain ⟨hg, hpp, hf⟩ := fits_iff.1 hfits
  refine decodesBack_of_solo [(14, 12), (10, 7), (5, 0)] [pp, scope.code, f] hg rfl rfl (by decide) ⟨hpp, scope.code_lt, hf, trivial⟩
    fun w hw => ?_
  obtain ⟨-, rpp, rscope, rf, -⟩ := hw.fields
  simp (disch := decide) [decode01, rpp, rscope, rf, hw.apart, hw.clash]

theorem Instr.fence_decodesBack {g : Guard} {scope : Scope} (hfits : (Instr.fence g scope).fits = true) :
    (Instr.fence g scope).DecodesBack := by
  refine decodesBack_of_solo [(10, 7)] [scope.code] hfits rfl rfl (by decide) ⟨scope.code_lt, trivial⟩ fun w hw => ?_
  obtain ⟨-, rscope, -⟩ := hw.fields
  simp (disch := decide) [decode01, rscope, hw.apart, hw.clash]

theorem Instr.sys_decodesBack {g : Guard} {s n f : Nat} (hfits : (Instr.sys g s n f).fits = true) : (Instr.sys g s n f).DecodesBack := by
  obtain ⟨hg, hs, hn, hf⟩ := fits_iff.1 hfits
  refine decodesBack_of_solo [(15, 11), (10, 4), (3, 0)] [s, n, f] hg rfl rfl (by decide) ⟨hs, hn, hf, trivial⟩ fun w hw => ?_
  obtain ⟨-, rs, rn, rf, -⟩ := hw.fields
  simp (disch := decide) [decode3E, rs, rn, rf, hw.apart]

theorem Instr.contextNumber_decodesBack {g : Guard} {c : Nat} :
    ∀ op ∈ [Instr.ctxs, .ctxr], (op g c).fits = true → (op g c).DecodesBack := by
  intro op hop hfits
  fin_cases hop
  all_goals
    obtain ⟨hg, hc⟩ := fits_iff.1 hfits
    refine decodesBack_of_solo [(1, 0)] [c] hg rfl rfl (by decide) ⟨hc, trivial⟩ fun w hw => ?_
    obtain ⟨-, rc, -⟩ := hw.fields
    simp (disch := decide) [decode3E, rc, hw.apart]

/-! #### Registers alone: forms A, K and Q without a type -/

theorem Instr.threeRegister_decodesBack {g : Guard} {d a b : Nat} :
    ∀ op ∈ [Instr.add, .sub, .mul, .and, .or, .xor, .andn, .shl, .shr, .sra, .vand, .vor, .vxor, .vandn, .pand, .por, .pxor, .vlds, .vldx,
      .vstx], (op g d a b).fits = true → (op g d a b).DecodesBack := by
  intro op hop hfits
  fin_cases hop
  all_goals
    obtain ⟨hg, hd, ha, hb⟩ := fits_iff.1 hfits
    refine decodesBack_of_solo [(20, 16), (15, 11), (10, 6)] [d, a, b] hg rfl rfl (by decide) ⟨hd, ha, hb, trivial⟩ fun w hw => ?_
    obtain ⟨-, rd, ra, rb, -⟩ := hw.fields
    simp (disch := decide) [decode08, decode14, decode15, decode22, decode32, rd, ra, rb, hw.apart]

theorem Instr.signednessThreeRegister_decodesBack {g : Guard} {u : Bool} {d a b : Nat} :
    ∀ op ∈ [Instr.mulh, .min, .max], (op g u d a b).fits = true → (op g u d a b).DecodesBack := by
  intro op hop hfits
  fin_cases hop
  all_goals
    obtain ⟨hg, hd, ha, hb⟩ := fits_iff.1 hfits
    refine decodesBack_of_solo [(0, 0), (20, 16), (15, 11), (10, 6)] [u.toNat, d, a, b] hg rfl rfl
      (by decide) ⟨u.toNat_lt, hd, ha, hb, trivial⟩ fun w hw => ?_
    obtain ⟨-, ru, rd, ra, rb, -⟩ := hw.fields
    simp (disch := decide) [decode08, ru, rd, ra, rb, hw.apart, hw.clash]

theorem Instr.twoRegister_decodesBack {g : Guard} {d a : Nat} :
    ∀ op ∈ [Instr.clz, .popc, .mov, .vmov, .pnot, .pmov, .pcnt, .cvtg, .dts], (op g d a).fits = true → (op g d a).DecodesBack := by
  intro op hop hfits
  fin_cases hop
  all_goals
    obtain ⟨hg, hd, ha⟩ := fits_iff.1 hfits
    refine decodesBack_of_solo [(20, 16), (15, 11)] [d, a] hg rfl rfl (by decide) ⟨hd, ha, trivial⟩ fun w hw => ?_
    obtain ⟨-, rd, ra, -⟩ := hw.fields
    simp (disch := decide) [decode08, decode17, decode22, decode26, decode2C, rd, ra, hw.apart]

theorem Instr.destinationOnly_decodesBack {g : Guard} {d : Nat} :
    ∀ op ∈ [Instr.amaxr, .xcal], (op g d).fits = true → (op g d).DecodesBack := by
  intro op hop hfits
  fin_cases hop
  all_goals
    obtain ⟨hg, hd⟩ := fits_iff.1 hfits
    refine decodesBack_of_solo [(20, 16)] [d] hg rfl rfl (by decide) ⟨hd, trivial⟩ fun w hw => ?_
    obtain ⟨-, rd, -⟩ := hw.fields
    simp (disch := decide) [decode26, decode37, rd, hw.apart]

theorem Instr.lih_decodesBack {g : Guard} {d imm : Nat} (hfits : (Instr.lih g d imm).fits = true) : (Instr.lih g d imm).DecodesBack := by
  obtain ⟨hg, hd, himm⟩ := fits_iff.1 hfits
  refine decodesBack_of_solo [(20, 16), (15, 0)] [d, imm] hg rfl rfl (by decide) ⟨hd, himm, trivial⟩ fun w hw => ?_
  obtain ⟨-, rd, rimm, -⟩ := hw.fields
  simp (disch := decide) [decode0B, rd, rimm]

theorem Instr.sel_decodesBack {g : Guard} {d a b c : Nat} (hfits : (Instr.sel g d a b c).fits = true) :
    (Instr.sel g d a b c).DecodesBack := by
  obtain ⟨hg, hd, ha, hb, hc⟩ := fits_iff.1 hfits
  refine decodesBack_of_solo [(20, 16), (15, 11), (10, 6), (5, 1)] [d, a, b, c] hg rfl rfl (by decide) ⟨hd, ha, hb, hc, trivial⟩
    fun w hw => ?_
  obtain ⟨-, rd, ra, rb, rc, -⟩ := hw.fields
  simp (disch := decide) [decode0C, rd, ra, rb, rc, hw.apart]

theorem Instr.cmp_decodesBack {g : Guard} {cond : Cond} {d a b : Nat} (hfits : (Instr.cmp g cond d a b).fits = true) :
    (Instr.cmp g cond d a b).DecodesBack := by
  obtain ⟨hg, hd, ha, hb⟩ := fits_iff.1 hfits
  refine decodesBack_of_solo [(3, 0), (20, 16), (15, 11), (10, 6)] [cond.code, d, a, b] hg rfl rfl
    (by decide) ⟨cond.code_lt, hd, ha, hb, trivial⟩ fun w hw => ?_
  obtain ⟨-, rcond, rd, ra, rb, -⟩ := hw.fields
  simp (disch := decide) [decode0D, rcond, rd, ra, rb, hw.apart]

theorem Instr.vsel_decodesBack {g : Guard} {d a b p : Nat} (hfits : (Instr.vsel g d a b p).fits = true) :
    (Instr.vsel g d a b p).DecodesBack := by
  obtain ⟨hg, hd, ha, hb, hp⟩ := fits_iff.1 hfits
  refine decodesBack_of_solo [(20, 16), (15, 11), (10, 6), (5, 2)] [d, a, b, p] hg rfl rfl (by decide) ⟨hd, ha, hb, hp, trivial⟩
    fun w hw => ?_
  obtain ⟨-, rd, ra, rb, rp, -⟩ := hw.fields
  simp (disch := decide) [decode23, rd, ra, rb, rp, hw.apart]

/-! #### Signed immediates and displacements: forms I, J and K -/

theorem Instr.signedImmediate_decodesBack {g : Guard} {d a : Nat} {imm : Int} :
    ∀ op ∈ [Instr.addi, .slide], (op g d a imm).fits = true → (op g d a imm).DecodesBack := by
  intro op hop hfits
  fin_cases hop
  all_goals
    obtain ⟨hg, hd, ha, hlo, hhi⟩ := fits_iff.1 hfits
    refine decodesBack_of_signed (n := 11) [(20, 16), (15, 11), (10, 0)] [d, a, toFld 18 imm % 2 ^ 11] hg rfl solo_iff.1
      (by decide) ⟨hd, ha, Nat.mod_lt _ (by decide), trivial⟩ (by decide) ⟨hlo, hhi⟩
      fun w h e hw (hsigned : sxe 11 7 h (toFld 18 imm % 2048) e = imm) => ?_
    obtain ⟨-, rd, ra, rimm, -⟩ := hw.fields
    simp (disch := decide) [decode09, decode29, hsigned, rd, ra, rimm]

theorem Instr.li_decodesBack {g : Guard} {d : Nat} {imm : Int} (hfits : (Instr.li g d imm).fits = true) :
    (Instr.li g d imm).DecodesBack := by
  obtain ⟨hg, hd, hlo, hhi⟩ := fits_iff.1 hfits
  refine decodesBack_of_signed (n := 16) [(20, 16), (15, 0)] [d, toFld 23 imm % 2 ^ 16] hg rfl solo_iff.1
    (by decide) ⟨hd, Nat.mod_lt _ (by decide), trivial⟩ (by decide) ⟨hlo, hhi⟩
    fun w h e hw (hsigned : sxe 16 7 h (toFld 23 imm % 65536) e = imm) => ?_
  obtain ⟨-, rd, rimm, -⟩ := hw.fields
  simp (disch := decide) [decode0A, hsigned, rd, rimm]

theorem Instr.dtld_decodesBack {g : Guard} {k a : Nat} {imm : Int} (hfits : (Instr.dtld g k a imm).fits = true) :
    (Instr.dtld g k a imm).DecodesBack := by
  obtain ⟨hg, hk, ha, hlo, hhi⟩ := fits_iff.1 hfits
  refine decodesBack_of_signed (n := 11) [(17, 16), (15, 11), (10, 0)] [k, a, toFld 18 imm % 2 ^ 11] hg rfl solo_iff.1
    (by decide) ⟨hk, ha, Nat.mod_lt _ (by decide), trivial⟩ (by decide) ⟨hlo, hhi⟩
    fun w h e hw (hsigned : sxe 11 7 h (toFld 18 imm % 2048) e = imm) => ?_
  obtain ⟨-, rk, ra, rimm, -⟩ := hw.fields
  simp (disch := decide) [decode2D, hsigned, rk, ra, rimm, hw.apart]

theorem Instr.displacement_decodesBack {g : Guard} {d a : Nat} {disp : Int} :
    ∀ op ∈ [Instr.vld, .vst, .lds, .sts], (op g d a disp).fits = true → (op g d a disp).DecodesBack := by
  intro op hop hfits
  fin_cases hop
  all_goals
    obtain ⟨hg, hd, ha, hlo, hhi⟩ := fits_iff.1 hfits
    refine decodesBack_of_signed (n := 10) [(20, 16), (15, 11), (9, 0)] [d, a, toFld 17 disp % 2 ^ 10] hg rfl solo_iff.1
      (by decide) ⟨hd, ha, Nat.mod_lt _ (by decide), trivial⟩ (by decide) ⟨hlo, hhi⟩
      fun w h e hw (hsigned : sxe 10 7 h (toFld 17 disp % 1024) e = disp) => ?_
    obtain ⟨-, rd, ra, rdisp, -⟩ := hw.fields
    simp (disch := decide) [decode30, decode31, hsigned, rd, ra, rdisp, hw.apart]

theorem Instr.sld_decodesBack {g : Guard} {lat a : Nat} {imm : Int} (hfits : (Instr.sld g lat a imm).fits = true) :
    (Instr.sld g lat a imm).DecodesBack := by
  obtain ⟨hg, hlat, ha, hlo, hhi⟩ := fits_iff.1 hfits
  refine decodesBack_of_signed (n := 11) [(18, 16), (15, 11), (10, 0)] [lat, a, toFld 18 imm % 2 ^ 11] hg rfl solo_iff.1
    (by decide) ⟨hlat, ha, Nat.mod_lt _ (by decide), trivial⟩ (by decide) ⟨hlo, hhi⟩
    fun w h e hw (hsigned : sxe 11 7 h (toFld 18 imm % 2048) e = imm) => ?_
  obtain ⟨-, rlat, ra, rimm, -⟩ := hw.fields
  simp (disch := decide) [decode39, hsigned, rlat, ra, rimm, hw.apart]

/-! #### Vector integer instructions: form A with a type (majors 0x10 to 0x17) -/

theorem Instr.saturatingThreeVector_decodesBack {g : Guard} {ty : ElemTy} {sat : Bool} {d a b : Nat} :
    ∀ op ∈ [Instr.vadd, .vsub, .vmul, .vmad, .vdot4, .vshl], (op g ty sat d a b).fits = true → (op g ty sat d a b).DecodesBack := by
  intro op hop hfits
  fin_cases hop
  all_goals
    obtain ⟨hg, hd, ha, hb⟩ := fits_iff.1 hfits
    refine decodesBack_of_solo [(4, 1), (5, 5), (20, 16), (15, 11), (10, 6)] [ty.code, sat.toNat, d, a, b] hg rfl rfl
      (by decide) ⟨ty.code_lt, sat.toNat_lt, hd, ha, hb, trivial⟩ fun w hw => ?_
    obtain ⟨-, rty, rsat, rd, ra, rb, -⟩ := hw.fields
    simp (disch := decide) [decode10, decode11, decode12, decode16, rty, rsat, rd, ra, rb, hw.apart]

theorem Instr.typedThreeVector_decodesBack {g : Guard} {ty : ElemTy} {d a b : Nat} :
    ∀ op ∈ [Instr.vmulh, .vmin, .vmax, .vshr, .vsra], (op g ty d a b).fits = true → (op g ty d a b).DecodesBack := by
  intro op hop hfits
  fin_cases hop
  all_goals
    obtain ⟨hg, hd, ha, hb⟩ := fits_iff.1 hfits
    refine decodesBack_of_solo [(4, 1), (20, 16), (15, 11), (10, 6)] [ty.code, d, a, b] hg rfl rfl
      (by decide) ⟨ty.code_lt, hd, ha, hb, trivial⟩ fun w hw => ?_
    obtain ⟨-, rty, rd, ra, rb, -⟩ := hw.fields
    simp (disch := decide) [decode11, decode13, decode16, decode17, rty, rd, ra, rb, hw.apart]

theorem Instr.saturatingTwoVector_decodesBack {g : Guard} {ty : ElemTy} {sat : Bool} {d a : Nat} :
    ∀ op ∈ [Instr.vabs, .vneg], (op g ty sat d a).fits = true → (op g ty sat d a).DecodesBack := by
  intro op hop hfits
  fin_cases hop
  all_goals
    obtain ⟨hg, hd, ha⟩ := fits_iff.1 hfits
    refine decodesBack_of_solo [(4, 1), (5, 5), (20, 16), (15, 11)] [ty.code, sat.toNat, d, a] hg rfl rfl
      (by decide) ⟨ty.code_lt, sat.toNat_lt, hd, ha, trivial⟩ fun w hw => ?_
    obtain ⟨-, rty, rsat, rd, ra, -⟩ := hw.fields
    simp (disch := decide) [decode17, rty, rsat, rd, ra, hw.apart]

theorem Instr.typedTwoVector_decodesBack {g : Guard} {ty : ElemTy} {d a : Nat} :
    ∀ op ∈ [Instr.vclz, .vpopc, .vbc], (op g ty d a).fits = true → (op g ty d a).DecodesBack := by
  intro op hop hfits
  fin_cases hop
  all_goals
    obtain ⟨hg, hd, ha⟩ := fits_iff.1 hfits
    refine decodesBack_of_solo [(4, 1), (20, 16), (15, 11)] [ty.code, d, a] hg rfl rfl (by decide) ⟨ty.code_lt, hd, ha, trivial⟩
      fun w hw => ?_
    obtain ⟨-, rty, rd, ra, -⟩ := hw.fields
    simp (disch := decide) [decode17, rty, rd, ra, hw.apart, hw.clash]

theorem Instr.viota_decodesBack {g : Guard} {ty : ElemTy} {d : Nat} (hfits : (Instr.viota g ty d).fits = true) :
    (Instr.viota g ty d).DecodesBack := by
  obtain ⟨hg, hd⟩ := fits_iff.1 hfits
  refine decodesBack_of_solo [(4, 1), (20, 16)] [ty.code, d] hg rfl rfl (by decide) ⟨ty.code_lt, hd, trivial⟩ fun w hw => ?_
  obtain ⟨-, rty, rd, -⟩ := hw.fields
  simp (disch := decide) [decode17, rty, rd, hw.apart, hw.clash]

theorem Instr.vred_decodesBack {g : Guard} {ty : ElemTy} {sat : Bool} {op : RedOp} {d a : Nat} (hfits :
    (Instr.vred g ty sat op d a).fits = true) : (Instr.vred g ty sat op d a).DecodesBack := by
  obtain ⟨hg, hd, ha⟩ := fits_iff.1 hfits
  refine decodesBack_of_solo [(4, 1), (5, 5), (20, 19), (18, 16), (15, 11)] [ty.code, sat.toNat, op.code, d, a] hg rfl rfl
    (by decide) ⟨ty.code_lt, sat.toNat_lt, op.code_lt, hd, ha, trivial⟩ fun w hw => ?_
  obtain ⟨-, rty, rsat, rop, rd, ra, -⟩ := hw.fields
  simp (disch := decide) [decode17, rty, rsat, rop, rd, ra, hw.apart, hw.clash]

/-! #### Floating point: forms A and Q (majors 0x18 to 0x1E) -/

theorem Instr.roundedThreeVector_decodesBack {g : Guard} {ft : FTy} {rnd : Rnd} {d a b : Nat} :
    ∀ op ∈ [Instr.fadd, .fsub, .fmul], (op g ft rnd d a b).fits = true → (op g ft rnd d a b).DecodesBack := by
  intro op hop hfits
  fin_cases hop
  all_goals
    obtain ⟨hg, hd, ha, hb⟩ := fits_iff.1 hfits
    refine decodesBack_of_solo [(2, 1), (5, 3), (20, 16), (15, 11), (10, 6)] [ft.code, rnd.code, d, a, b] hg rfl rfl
      (by decide) ⟨ft.code_lt, rnd.code_lt, hd, ha, hb, trivial⟩ fun w hw => ?_
    obtain ⟨-, rft, rrnd, rd, ra, rb, -⟩ := hw.fields
    simp (disch := decide) [decode18, decode19, rft, rrnd, rd, ra, rb, hw.apart]

theorem Instr.floatThreeVector_decodesBack {g : Guard} {ft : FTy} {d a b : Nat} :
    ∀ op ∈ [Instr.fmin, .fmax, .fcps], (op g ft d a b).fits = true → (op g ft d a b).DecodesBack := by
  intro op hop hfits
  fin_cases hop
  all_goals
    obtain ⟨hg, hd, ha, hb⟩ := fits_iff.1 hfits
    refine decodesBack_of_solo [(2, 1), (20, 16), (15, 11), (10, 6)] [ft.code, d, a, b] hg rfl rfl
      (by decide) ⟨ft.code_lt, hd, ha, hb, trivial⟩ fun w hw => ?_
    obtain ⟨-, rft, rd, ra, rb, -⟩ := hw.fields
    simp (disch := decide) [decode19, decode1A, rft, rd, ra, rb, hw.apart]

theorem Instr.floatTwoVector_decodesBack {g : Guard} {ft : FTy} {d a : Nat} :
    ∀ op ∈ [Instr.fabs, .fneg, .fcls], (op g ft d a).fits = true → (op g ft d a).DecodesBack := by
  intro op hop hfits
  fin_cases hop
  all_goals
    obtain ⟨hg, hd, ha⟩ := fits_iff.1 hfits
    refine decodesBack_of_solo [(2, 1), (20, 16), (15, 11)] [ft.code, d, a] hg rfl rfl (by decide) ⟨ft.code_lt, hd, ha, trivial⟩
      fun w hw => ?_
    obtain ⟨-, rft, rd, ra, -⟩ := hw.fields
    simp (disch := decide) [decode1B, rft, rd, ra, hw.apart]

theorem Instr.roundedTwoVector_decodesBack {g : Guard} {ft : FTy} {rnd : Rnd} {d a : Nat} :
    ∀ op ∈ [Instr.frcp, .frsq, .fsqrt, .fexp2, .flog2, .ftanh], (op g ft rnd d a).fits = true → (op g ft rnd d a).DecodesBack := by
  intro op hop hfits
  fin_cases hop
  all_goals
    obtain ⟨hg, hd, ha⟩ := fits_iff.1 hfits
    refine decodesBack_of_solo [(2, 1), (5, 3), (20, 16), (15, 11)] [ft.code, rnd.code, d, a] hg rfl rfl
      (by decide) ⟨ft.code_lt, rnd.code_lt, hd, ha, trivial⟩ fun w hw => ?_
    obtain ⟨-, rft, rrnd, rd, ra, -⟩ := hw.fields
    simp (disch := decide) [decode1B, rft, rrnd, rd, ra, hw.apart, hw.clash]

theorem Instr.fred_decodesBack {g : Guard} {ft : FTy} {rnd : Rnd} {op : RedOp} {d a : Nat} (hfits :
    (Instr.fred g ft rnd op d a).fits = true) : (Instr.fred g ft rnd op d a).DecodesBack := by
  obtain ⟨hg, hd, ha⟩ := fits_iff.1 hfits
  refine decodesBack_of_solo [(2, 1), (5, 3), (20, 19), (18, 16), (15, 11)] [ft.code, rnd.code, op.code, d, a] hg rfl rfl
    (by decide) ⟨ft.code_lt, rnd.code_lt, op.code_lt, hd, ha, trivial⟩ fun w hw => ?_
  obtain ⟨-, rft, rrnd, rop, rd, ra, -⟩ := hw.fields
  simp (disch := decide) [decode1B, rft, rrnd, rop, rd, ra, hw.apart, hw.clash]

theorem Instr.fused_decodesBack {g : Guard} {ft : FTy} {rnd : Rnd} {d a b c : Nat} :
    ∀ op ∈ [Instr.fma, .fms, .fnma], (op g ft rnd d a b c).fits = true → (op g ft rnd d a b c).DecodesBack := by
  intro op hop hfits
  fin_cases hop
  all_goals
    obtain ⟨hg, hd, ha, hb, hc⟩ := fits_iff.1 hfits
    refine decodesBack_of_ext [(0, 0), (20, 16), (15, 11), (10, 6), (5, 1)] [ft.qW, d, a, b, c] hg rfl rfl
      (by decide) ⟨ft.qW_lt, hd, ha, hb, hc, trivial⟩ (fld_extQ ft rnd).1 fun w h hw => ?_
    obtain ⟨-, rft, rd, ra, rb, rc, -⟩ := hw.fields
    simp (disch := decide) [decode1C, decode1D, decode1E, fld_extQ ft rnd, rft, rd, ra, rb, rc]

/-! #### Compares and conversions: forms C and V, and form A of major 0x26 -/

theorem Instr.compare_decodesBack {g : Guard} {ty : ElemTy} {cond : Cond} {pp a b : Nat} :
    ∀ op ∈ [Instr.vcmp, .fcmp], (op g ty cond pp a b).fits = true → (op g ty cond pp a b).DecodesBack := by
  intro op hop hfits
  fin_cases hop
  all_goals
    obtain ⟨hg, hpp, ha, hb⟩ := fits_iff.1 hfits
    refine decodesBack_of_solo [(3, 0), (7, 4), (20, 18), (17, 13), (12, 8)] [ty.code, cond.code, pp, a, b] hg rfl rfl
      (by decide) ⟨ty.code_lt, cond.code_lt, hpp, ha, hb, trivial⟩ fun w hw => ?_
    obtain ⟨-, rty, rcond, rpp, ra, rb, -⟩ := hw.fields
    simp (disch := decide) [decode20, decode21, rty, rcond, rpp, ra, rb]

theorem Instr.convert_decodesBack {g : Guard} {dty sty : ElemTy} {rnd : Rnd} {d a : Nat} :
    ∀ op ∈ [Instr.cvt, .cvtSat], (op g dty sty rnd d a).fits = true → (op g dty sty rnd d a).DecodesBack := by
  intro op hop hfits
  fin_cases hop
  all_goals
    obtain ⟨hg, hd, ha⟩ := fits_iff.1 hfits
    refine decodesBack_of_solo [(10, 7), (6, 3), (2, 0), (20, 16), (15, 11)] [dty.code, sty.code, rnd.code, d, a] hg rfl rfl
      (by decide) ⟨dty.code_lt, sty.code_lt, rnd.code_lt, hd, ha, trivial⟩ fun w hw => ?_
    obtain ⟨-, rdty, rsty, rrnd, rd, ra, -⟩ := hw.fields
    simp (disch := decide) [decode24, decode25, rdty, rsty, rrnd, rd, ra]

theorem Instr.cvtb_decodesBack {g : Guard} {bf16 dx4 dec : Bool} {rnd : Rnd} {d a : Nat} (hfits :
    (Instr.cvtb g bf16 dx4 dec rnd d a).fits = true) : (Instr.cvtb g bf16 dx4 dec rnd d a).DecodesBack := by
  obtain ⟨hg, hd, ha⟩ := fits_iff.1 hfits
  refine decodesBack_of_solo [(8, 8), (7, 7), (6, 6), (2, 0), (20, 16), (15, 11)] [bf16.toNat, dx4.toNat, dec.toNat, rnd.code, d, a] hg rfl
    rfl (by decide) ⟨bf16.toNat_lt, dx4.toNat_lt, dec.toNat_lt, rnd.code_lt, hd, ha, trivial⟩ fun w hw => ?_
  obtain ⟨-, rbf16, rdx4, rdec, rrnd, rd, ra, -⟩ := hw.fields
  simp (disch := decide) [decode26, rbf16, rdx4, rdec, rrnd, rd, ra, hw.apart]

theorem Instr.packing_decodesBack {g : Guard} {w part d a : Nat} :
    ∀ op ∈ [Instr.pack, .unpk], (op g w part d a).fits = true → (op g w part d a).DecodesBack := by
  intro op hop hfits
  fin_cases hop
  all_goals
    obtain ⟨hg, hw, hpart, hd, ha⟩ := fits_iff.1 hfits
    refine decodesBack_of_solo [(10, 9), (8, 6), (20, 16), (15, 11)] [w, part, d, a] hg rfl rfl
      (by decide) ⟨hw, hpart, hd, ha, trivial⟩ fun w hw => ?_
    obtain ⟨-, rw, rpart, rd, ra, -⟩ := hw.fields
    simp (disch := decide) [decode26, rw, rpart, rd, ra, hw.apart, hw.clash]

/-! #### Rearrangement, streams and digit transducers (majors 0x28, 0x2A and 0x2C) -/

theorem Instr.sizedThreeVector_decodesBack {g : Guard} {size : ESize} {d a b : Nat} :
    ∀ op ∈ [Instr.zip2, .uzp2, .perm], (op g size d a b).fits = true → (op g size d a b).DecodesBack := by
  intro op hop hfits
  fin_cases hop
  all_goals
    obtain ⟨hg, hd, ha, hb⟩ := fits_iff.1 hfits
    refine decodesBack_of_solo [(5, 3), (20, 16), (15, 11), (10, 6)] [size.code, d, a, b] hg rfl rfl
      (by decide) ⟨size.code_lt, hd, ha, hb, trivial⟩ fun w hw => ?_
    obtain ⟨-, rsize, rd, ra, rb, -⟩ := hw.fields
    simp (disch := decide) [decode28, rsize, rd, ra, rb, hw.apart]

theorem Instr.sizedTwoVector_decodesBack {g : Guard} {size : ESize} {d a : Nat} :
    ∀ op ∈ [Instr.zip3, .zip4, .uzp3, .uzp4], (op g size d a).fits = true → (op g size d a).DecodesBack := by
  intro op hop hfits
  fin_cases hop
  all_goals
    obtain ⟨hg, hd, ha⟩ := fits_iff.1 hfits
    refine decodesBack_of_solo [(5, 3), (20, 16), (15, 11)] [size.code, d, a] hg rfl rfl (by decide) ⟨size.code_lt, hd, ha, trivial⟩
      fun w hw => ?_
    obtain ⟨-, rsize, rd, ra, -⟩ := hw.fields
    simp (disch := decide) [decode28, rsize, rd, ra, hw.apart]

theorem Instr.drv_decodesBack {g : Guard} {st a : Nat} (hfits : (Instr.drv g st a).fits = true) : (Instr.drv g st a).DecodesBack := by
  obtain ⟨hg, hst, ha⟩ := fits_iff.1 hfits
  refine decodesBack_of_solo [(10, 8), (15, 11)] [st, a] hg rfl rfl (by decide) ⟨hst, ha, trivial⟩ fun w hw => ?_
  obtain ⟨-, rst, ra, -⟩ := hw.fields
  simp (disch := decide) [decode2A, rst, ra, hw.apart]

theorem Instr.tap_decodesBack {g : Guard} {d st : Nat} (hfits : (Instr.tap g d st).fits = true) : (Instr.tap g d st).DecodesBack := by
  obtain ⟨hg, hd, hst⟩ := fits_iff.1 hfits
  refine decodesBack_of_solo [(20, 16), (10, 8)] [d, st] hg rfl rfl (by decide) ⟨hd, hst, trivial⟩ fun w hw => ?_
  obtain ⟨-, rd, rst, -⟩ := hw.fields
  simp (disch := decide) [decode2A, rd, rst, hw.apart]

theorem Instr.xcp_decodesBack {g : Guard} {d st a : Nat} (hfits : (Instr.xcp g d st a).fits = true) : (Instr.xcp g d st a).DecodesBack := by
  obtain ⟨hg, hd, hst, ha⟩ := fits_iff.1 hfits
  refine decodesBack_of_solo [(20, 16), (10, 8), (15, 11)] [d, st, a] hg rfl rfl (by decide) ⟨hd, hst, ha, trivial⟩ fun w hw => ?_
  obtain ⟨-, rd, rst, ra, -⟩ := hw.fields
  simp (disch := decide) [decode2A, rd, rst, ra, hw.apart]

theorem Instr.dtx_decodesBack {g : Guard} {k d a b : Nat} (hfits : (Instr.dtx g k d a b).fits = true) :
    (Instr.dtx g k d a b).DecodesBack := by
  obtain ⟨hg, hk, hd, ha, hb⟩ := fits_iff.1 hfits
  refine decodesBack_of_solo [(5, 4), (20, 16), (15, 11), (10, 6)] [k, d, a, b] hg rfl rfl (by decide) ⟨hk, hd, ha, hb, trivial⟩
    fun w hw => ?_
  obtain ⟨-, rk, rd, ra, rb, -⟩ := hw.fields
  simp (disch := decide) [decode2C, rk, rd, ra, rb, hw.apart]

theorem Instr.dtu_decodesBack {g : Guard} {k d a : Nat} (hfits : (Instr.dtu g k d a).fits = true) : (Instr.dtu g k d a).DecodesBack := by
  obtain ⟨hg, hk, hd, ha⟩ := fits_iff.1 hfits
  refine decodesBack_of_solo [(5, 4), (20, 16), (15, 11)] [k, d, a] hg rfl rfl (by decide) ⟨hk, hd, ha, trivial⟩ fun w hw => ?_
  obtain ⟨-, rk, rd, ra, -⟩ := hw.fields
  simp (disch := decide) [decode2C, rk, rd, ra, hw.apart]

theorem Instr.dtc_decodesBack {g : Guard} {k pp a b : Nat} (hfits : (Instr.dtc g k pp a b).fits = true) :
    (Instr.dtc g k pp a b).DecodesBack := by
  obtain ⟨hg, hk, hpp, ha, hb⟩ := fits_iff.1 hfits
  refine decodesBack_of_solo [(5, 4), (19, 17), (15, 11), (10, 6)] [k, pp, a, b] hg rfl rfl (by decide) ⟨hk, hpp, ha, hb, trivial⟩
    fun w hw => ?_
  obtain ⟨-, rk, rpp, ra, rb, -⟩ := hw.fields
  simp (disch := decide) [decode2C, rk, rpp, ra, rb, hw.apart]

theorem Instr.dtz_decodesBack {g : Guard} {k : Nat} (hfits : (Instr.dtz g k).fits = true) : (Instr.dtz g k).DecodesBack := by
  obtain ⟨hg, hk⟩ := fits_iff.1 hfits
  refine decodesBack_of_solo [(5, 4)] [k] hg rfl rfl (by decide) ⟨hk, trivial⟩ fun w hw => ?_
  obtain ⟨-, rk, -⟩ := hw.fields
  simp (disch := decide) [decode2C, rk, hw.apart, hw.clash]

theorem Instr.dtq_decodesBack {g : Guard} {k d : Nat} (hfits : (Instr.dtq g k d).fits = true) : (Instr.dtq g k d).DecodesBack := by
  obtain ⟨hg, hk, hd⟩ := fits_iff.1 hfits
  refine decodesBack_of_solo [(5, 4), (20, 16)] [k, d] hg rfl rfl (by decide) ⟨hk, hd, trivial⟩ fun w hw => ?_
  obtain ⟨-, rk, rd, -⟩ := hw.fields
  simp (disch := decide) [decode2C, rk, rd, hw.apart, hw.clash]

/-! #### Rings, atomics and crossings: forms A, X and Y (majors 0x32 to 0x37) -/

theorem Instr.rset_decodesBack {g : Guard} {ring a : Nat} (hfits : (Instr.rset g ring a).fits = true) :
    (Instr.rset g ring a).DecodesBack := by
  obtain ⟨hg, hring, ha⟩ := fits_iff.1 hfits
  refine decodesBack_of_solo [(18, 16), (15, 11)] [ring, a] hg rfl rfl (by decide) ⟨hring, ha, trivial⟩ fun w hw => ?_
  obtain ⟨-, rring, ra, -⟩ := hw.fields
  simp (disch := decide) [decode32, rring, ra, hw.apart]

theorem Instr.rpush_decodesBack {g : Guard} {ring : Nat} (hfits : (Instr.rpush g ring).fits = true) : (Instr.rpush g ring).DecodesBack := by
  obtain ⟨hg, hring⟩ := fits_iff.1 hfits
  refine decodesBack_of_solo [(18, 16)] [ring] hg rfl rfl (by decide) ⟨hring, trivial⟩ fun w hw => ?_
  obtain ⟨-, rring, -⟩ := hw.fields
  simp (disch := decide) [decode32, rring, hw.apart]

theorem Instr.rinfo_decodesBack {g : Guard} {d ring : Nat} (hfits : (Instr.rinfo g d ring).fits = true) :
    (Instr.rinfo g d ring).DecodesBack := by
  obtain ⟨hg, hd, hring⟩ := fits_iff.1 hfits
  refine decodesBack_of_solo [(20, 16), (13, 11)] [d, ring] hg rfl rfl (by decide) ⟨hd, hring, trivial⟩ fun w hw => ?_
  obtain ⟨-, rd, rring, -⟩ := hw.fields
  simp (disch := decide) [decode32, rd, rring, hw.apart, hw.clash]

theorem Instr.atom_decodesBack {g : Guard} {op : AtomOp} {wd : AtomW} {d a b : Nat} (hfits :
    (Instr.atom g op wd d a b).fits = true) : (Instr.atom g op wd d a b).DecodesBack := by
  obtain ⟨hg, hd, ha, hb⟩ := fits_iff.1 hfits
  refine decodesBack_of_solo [(5, 3), (2, 0), (20, 16), (15, 11), (10, 6)] [op.code, wd.code, d, a, b] hg rfl rfl
    (by decide) ⟨op.code_lt, wd.code_lt, hd, ha, hb, trivial⟩ fun w hw => ?_
  obtain ⟨-, rop, rwd, rd, ra, rb, -⟩ := hw.fields
  simp (disch := decide) [decode33, rop, rwd, rd, ra, rb]

theorem Instr.crossing_decodesBack {g : Guard} {v q sz : Nat} :
    ∀ op ∈ [Instr.xin, .xout], (op g v q sz).fits = true → (op g v q sz).DecodesBack := by
  intro op hop hfits
  fin_cases hop
  all_goals
    obtain ⟨hg, hv, hq, hsz⟩ := fits_iff.1 hfits
    have hext : q / 512 < 8 := by omega
    refine decodesBack_of_ext [(20, 16), (15, 7), (6, 4)] [v, q % 2 ^ 9, sz] hg rfl rfl (by decide) ⟨hv, Nat.mod_lt _
      (by decide), hsz, trivial⟩ (by omega) fun w h hw => ?_
    obtain ⟨-, rv, rq, rsz, -⟩ := hw.fields
    simp (disch := decide) [decode34, fld_of_lt (hi := 2) hext, fld_above_of_lt (lo := 3) hext, Nat.mod_add_div', rv, rq, rsz, hw.apart]

theorem Instr.xinm_decodesBack {g : Guard} {scope : XmScope} {v q mask : Nat} (hfits : (Instr.xinm g scope v q mask).fits = true) :
    (Instr.xinm g scope v q mask).DecodesBack := by
  obtain ⟨hg, hv, hq, hmask⟩ := fits_iff.1 hfits
  have hext : q / 512 < 8 := by omega
  refine decodesBack_of_ext [(2, 0), (20, 16), (15, 7), (6, 3)] [scope.code, v, q % 2 ^ 9, mask] hg rfl rfl
    (by decide) ⟨scope.code_lt, hv, Nat.mod_lt _ (by decide), hmask, trivial⟩ (by omega) fun w h hw => ?_
  obtain ⟨-, rscope, rv, rq, rmask, -⟩ := hw.fields
  simp (disch := decide) [decode35, fld_of_lt (hi := 2) hext, fld_above_of_lt (lo := 3) hext, Nat.mod_add_div', rscope, rv, rq, rmask]

theorem Instr.xinr_decodesBack {g : Guard} {ring q sz : Nat} (hfits : (Instr.xinr g ring q sz).fits = true) :
    (Instr.xinr g ring q sz).DecodesBack := by
  obtain ⟨hg, hring, hq, hsz⟩ := fits_iff.1 hfits
  have hext : q / 512 < 8 := by omega
  refine decodesBack_of_ext [(18, 16), (15, 7), (6, 4)] [ring, q % 2 ^ 9, sz] hg rfl rfl (by decide) ⟨hring, Nat.mod_lt _
    (by decide), hsz, trivial⟩ (by omega) fun w h hw => ?_
  obtain ⟨-, rring, rq, rsz, -⟩ := hw.fields
  simp (disch := decide) [decode36, fld_of_lt (hi := 2) hext, fld_above_of_lt (lo := 3) hext, Nat.mod_add_div', rring, rq, rsz, hw.apart]

theorem Instr.accumulatorCrossing_decodesBack {g : Guard} {lat h : Nat} :
    ∀ op ∈ [Instr.xina, .xouta], (op g lat h).fits = true → (op g lat h).DecodesBack := by
  intro op hop hfits
  fin_cases hop
  all_goals
    obtain ⟨hg, hlat, hh⟩ := fits_iff.1 hfits
    refine decodesBack_of_solo [(18, 16), (15, 8)] [lat, h] hg rfl rfl (by decide) ⟨hlat, hh, trivial⟩ fun w hw => ?_
    obtain ⟨-, rlat, rh, -⟩ := hw.fields
    simp (disch := decide) [decode37, rlat, rh, hw.apart]

/-! #### The matrix class and the transposes: form M (major 0x38) and major 0x3B -/

theorem Instr.mcall_decodesBack {g : Guard} {n : Nat} (hfits : (Instr.mcall g n).fits = true) : (Instr.mcall g n).DecodesBack := by
  obtain ⟨hg, hn⟩ := fits_iff.1 hfits
  refine decodesBack_of_solo [(17, 10)] [n] hg rfl rfl (by decide) ⟨hn, trivial⟩ fun w hw => ?_
  obtain ⟨-, rn, -⟩ := hw.fields
  simp (disch := decide) [decode38, rn, hw.apart]

theorem Instr.parameterRegister_decodesBack {g : Guard} {m s : Nat} :
    ∀ op ∈ [Instr.mset, .mget], (op g m s).fits = true → (op g m s).DecodesBack := by
  intro op hop hfits
  fin_cases hop
  all_goals
    obtain ⟨hg, hm, hs⟩ := fits_iff.1 hfits
    refine decodesBack_of_solo [(17, 15), (9, 5)] [m, s] hg rfl rfl (by decide) ⟨hm, hs, trivial⟩ fun w hw => ?_
    obtain ⟨-, rm, rs, -⟩ := hw.fields
    simp (disch := decide) [decode38, rm, rs, hw.apart]

theorem Instr.mzero_decodesBack {g : Guard} {lat : Nat} (hfits : (Instr.mzero g lat).fits = true) : (Instr.mzero g lat).DecodesBack := by
  obtain ⟨hg, hlat⟩ := fits_iff.1 hfits
  refine decodesBack_of_solo [(17, 15)] [lat] hg rfl rfl (by decide) ⟨hlat, trivial⟩ fun w hw => ?_
  obtain ⟨-, rlat, -⟩ := hw.fields
  simp (disch := decide) [decode38, rlat, hw.apart]

theorem Instr.latchRow_decodesBack {g : Guard} {v lat grp : Nat} :
    ∀ op ∈ [Instr.mpop, .mpsh], (op g v lat grp).fits = true → (op g v lat grp).DecodesBack := by
  intro op hop hfits
  fin_cases hop
  all_goals
    obtain ⟨hg, hv, hlat, hgrp⟩ := fits_iff.1 hfits
    refine decodesBack_of_solo [(9, 5), (17, 15), (2, 0)] [v, lat, grp] hg rfl rfl (by decide) ⟨hv, hlat, hgrp, trivial⟩ fun w hw => ?_
    obtain ⟨-, rv, rlat, rgrp, -⟩ := hw.fields
    simp (disch := decide) [decode38, rv, rlat, rgrp, hw.apart]

theorem Instr.mload_decodesBack {g : Guard} {n s : Nat} (hfits : (Instr.mload g n s).fits = true) : (Instr.mload g n s).DecodesBack := by
  obtain ⟨hg, hn, hs⟩ := fits_iff.1 hfits
  refine decodesBack_of_solo [(17, 10), (9, 5)] [n, s] hg rfl rfl (by decide) ⟨hn, hs, trivial⟩ fun w hw => ?_
  obtain ⟨-, rn, rs, -⟩ := hw.fields
  simp (disch := decide) [decode38, rn, rs, hw.apart]

theorem Instr.trn_decodesBack {g : Guard} {a grp : Nat} (hfits : (Instr.trn g a grp).fits = true) : (Instr.trn g a grp).DecodesBack := by
  obtain ⟨hg, ha, hgrp⟩ := fits_iff.1 hfits
  refine decodesBack_of_solo [(15, 11), (8, 6)] [a, grp] hg rfl rfl (by decide) ⟨ha, hgrp, trivial⟩ fun w hw => ?_
  obtain ⟨-, ra, rgrp, -⟩ := hw.fields
  simp (disch := decide) [decode3B, ra, rgrp, hw.apart]

theorem Instr.trno_decodesBack {g : Guard} {d grp : Nat} (hfits : (Instr.trno g d grp).fits = true) : (Instr.trno g d grp).DecodesBack := by
  obtain ⟨hg, hd, hgrp⟩ := fits_iff.1 hfits
  refine decodesBack_of_solo [(20, 16), (8, 6)] [d, grp] hg rfl rfl (by decide) ⟨hd, hgrp, trivial⟩ fun w hw => ?_
  obtain ⟨-, rd, rgrp, -⟩ := hw.fields
  simp (disch := decide) [decode3B, rd, rgrp, hw.apart]

/-! #### Engines: forms E and H (majors 0x3C and 0x3D) -/

theorem Instr.engine_decodesBack {g : Guard} {a b off : Nat} :
    ∀ op ∈ [Instr.ceLd, .ceSt, .ceAl, .ceAs, .ceGth, .ceFil, .rtLd, .rtGo, .bxSend], (op g a b off).fits = true → (op g a b
      off).DecodesBack := by
  intro op hop hfits
  fin_cases hop
  all_goals
    obtain ⟨hg, ha, hb, hoff⟩ := fits_iff.1 hfits
    have hext : off / 128 < 128 := by omega
    refine decodesBack_of_ext [(16, 12), (11, 7), (6, 0)] [a, b, off % 2 ^ 7] hg rfl rfl (by decide) ⟨ha, hb, Nat.mod_lt _
      (by decide), trivial⟩ (by omega) fun w h hw => ?_
    obtain ⟨-, ra, rb, roff, -⟩ := hw.fields
    simp (disch := decide) [decode3C, fld_of_lt (hi := 6) hext, Nat.mod_add_div', ra, rb, roff, hw.apart, hw.clash]

theorem Instr.rtStop_decodesBack {g : Guard} {off : Nat} (hfits : (Instr.rtStop g off).fits = true) : (Instr.rtStop g off).DecodesBack := by
  obtain ⟨hg, hoff⟩ := fits_iff.1 hfits
  have hext : off / 128 < 128 := by omega
  refine decodesBack_of_ext [(6, 0)] [off % 2 ^ 7] hg rfl rfl (by decide) ⟨Nat.mod_lt _ (by decide), trivial⟩ (by omega) fun w h hw => ?_
  obtain ⟨-, roff, -⟩ := hw.fields
  simp (disch := decide) [decode3C, fld_of_lt (hi := 6) hext, Nat.mod_add_div', roff, hw.apart]

theorem Instr.bxPost_decodesBack {g : Guard} {a b f : Nat} (hfits : (Instr.bxPost g a b f).fits = true) :
    (Instr.bxPost g a b f).DecodesBack := by
  obtain ⟨hg, ha, hb, hf⟩ := fits_iff.1 hfits
  refine decodesBack_of_solo [(16, 12), (11, 7), (3, 0)] [a, b, f] hg rfl rfl (by decide) ⟨ha, hb, hf, trivial⟩ fun w hw => ?_
  obtain ⟨-, ra, rb, rf, -⟩ := hw.fields
  simp (disch := decide) [decode3C, ra, rb, rf, hw.apart, hw.clash]

theorem Instr.tier_decodesBack {g : Guard} {q s f : Nat} :
    ∀ op ∈ [Instr.ceCxlToQuay, .ceCxlToTier], (op g q s f).fits = true → (op g q s f).DecodesBack := by
  intro op hop hfits
  fin_cases hop
  all_goals
    obtain ⟨hg, hq, hs, hf⟩ := fits_iff.1 hfits
    have hext : q / 2048 < 2 := by omega
    refine decodesBack_of_ext [(20, 10), (9, 5), (4, 1)] [q % 2 ^ 11, s, f] hg rfl rfl (by decide) ⟨Nat.mod_lt _
      (by decide), hs, hf, trivial⟩ (by omega) fun w h hw => ?_
    obtain ⟨-, rq, rs, rf, -⟩ := hw.fields
    simp (disch := decide) [decode3D, fld_of_lt (hi := 0) hext, fld_above_of_lt (lo := 1) hext, Nat.mod_add_div', rq, rs, rf, hw.apart]

/-- Every slot word decodes back, row by row of the tables. -/
theorem Instr.decodesBack_of_fits {i : Instr} (hi : i.fits = true) : i.DecodesBack := by
  cases i with
  | br g target | call g target | trap g target | slack g target | bkpt g target | mark g target =>
    exact immediateOnly_decodesBack _ (by simp) hi
  | bri g s | launch g s | tiss g s | seedFromVector g s => exact scalarOnly_decodesBack _ (by simp) hi
  | ret g | endl g | leave g | endTask g | yield g | rte g | seed g => exact noField_decodesBack _ (by simp) hi
  | loop g s imm | get g s imm | set g s imm => exact scalarImmediate_decodesBack _ (by simp) hi
  | wait g scope f | setf g scope f | clrf g scope f => exact flag_decodesBack _ (by simp) hi
  | tstf g pp scope f => exact tstf_decodesBack hi
  | fence g scope => exact fence_decodesBack hi
  | add g d a b | sub g d a b | mul g d a b | and g d a b | or g d a b | xor g d a b | andn g d a b | shl g d a b | shr g d a b
  | sra g d a b | vand g d a b | vor g d a b | vxor g d a b | vandn g d a b | pand g d a b | por g d a b | pxor g d a b | vlds g d a b
  | vldx g d a b | vstx g d a b => exact threeRegister_decodesBack _ (by simp) hi
  | mulh g u d a b | min g u d a b | max g u d a b => exact signednessThreeRegister_decodesBack _ (by simp) hi
  | clz g d a | popc g d a | mov g d a | vmov g d a | pnot g d a | pmov g d a | pcnt g d a | cvtg g d a | dts g d a =>
    exact twoRegister_decodesBack _ (by simp) hi
  | addi g d a imm | slide g d a imm => exact signedImmediate_decodesBack _ (by simp) hi
  | li g d imm => exact li_decodesBack hi
  | lih g d imm => exact lih_decodesBack hi
  | sel g d a b c => exact sel_decodesBack hi
  | cmp g cond d a b => exact cmp_decodesBack hi
  | vadd g ty sat d a b | vsub g ty sat d a b | vmul g ty sat d a b | vmad g ty sat d a b | vdot4 g ty sat d a b | vshl g ty sat d a b =>
    exact saturatingThreeVector_decodesBack _ (by simp) hi
  | vmulh g ty d a b | vmin g ty d a b | vmax g ty d a b | vshr g ty d a b | vsra g ty d a b =>
    exact typedThreeVector_decodesBack _ (by simp) hi
  | vabs g ty sat d a | vneg g ty sat d a => exact saturatingTwoVector_decodesBack _ (by simp) hi
  | vclz g ty d a | vpopc g ty d a | vbc g ty d a => exact typedTwoVector_decodesBack _ (by simp) hi
  | viota g ty d => exact viota_decodesBack hi
  | vred g ty sat op d a => exact vred_decodesBack hi
  | fadd g ft rnd d a b | fsub g ft rnd d a b | fmul g ft rnd d a b => exact roundedThreeVector_decodesBack _ (by simp) hi
  | fmin g ft d a b | fmax g ft d a b | fcps g ft d a b => exact floatThreeVector_decodesBack _ (by simp) hi
  | fabs g ft d a | fneg g ft d a | fcls g ft d a => exact floatTwoVector_decodesBack _ (by simp) hi
  | frcp g ft rnd d a | frsq g ft rnd d a | fsqrt g ft rnd d a | fexp2 g ft rnd d a | flog2 g ft rnd d a | ftanh g ft rnd d a =>
    exact roundedTwoVector_decodesBack _ (by simp) hi
  | fred g ft rnd op d a => exact fred_decodesBack hi
  | fma g ft rnd d a b c | fms g ft rnd d a b c | fnma g ft rnd d a b c => exact fused_decodesBack _ (by simp) hi
  | vcmp g ty cond pp a b | fcmp g ty cond pp a b => exact compare_decodesBack _ (by simp) hi
  | vsel g d a b p => exact vsel_decodesBack hi
  | cvt g dty sty rnd d a | cvtSat g dty sty rnd d a => exact convert_decodesBack _ (by simp) hi
  | cvtb g bf16 dx4 dec rnd d a => exact cvtb_decodesBack hi
  | amaxr g d | xcal g d => exact destinationOnly_decodesBack _ (by simp) hi
  | pack g w part d a | unpk g w part d a => exact packing_decodesBack _ (by simp) hi
  | zip2 g size d a b | uzp2 g size d a b | perm g size d a b => exact sizedThreeVector_decodesBack _ (by simp) hi
  | zip3 g size d a | zip4 g size d a | uzp3 g size d a | uzp4 g size d a => exact sizedTwoVector_decodesBack _ (by simp) hi
  | drv g st a => exact drv_decodesBack hi
  | tap g d st => exact tap_decodesBack hi
  | xcp g d st a => exact xcp_decodesBack hi
  | dtx g k d a b => exact dtx_decodesBack hi
  | dtu g k d a => exact dtu_decodesBack hi
  | dtc g k pp a b => exact dtc_decodesBack hi
  | dtz g k => exact dtz_decodesBack hi
  | dtq g k d => exact dtq_decodesBack hi
  | dtld g k a imm => exact dtld_decodesBack hi
  | vld g d a disp | vst g d a disp | lds g d a disp | sts g d a disp => exact displacement_decodesBack _ (by simp) hi
  | rset g ring a => exact rset_decodesBack hi
  | rpush g ring => exact rpush_decodesBack hi
  | rinfo g d ring => exact rinfo_decodesBack hi
  | atom g op wd d a b => exact atom_decodesBack hi
  | xin g v q sz | xout g v q sz => exact crossing_decodesBack _ (by simp) hi
  | xinm g scope v q mask => exact xinm_decodesBack hi
  | xinr g ring q sz => exact xinr_decodesBack hi
  | xina g lat h | xouta g lat h => exact accumulatorCrossing_decodesBack _ (by simp) hi
  | mcall g n => exact mcall_decodesBack hi
  | mset g m s | mget g m s => exact parameterRegister_decodesBack _ (by simp) hi
  | mzero g lat => exact mzero_decodesBack hi
  | mpop g v lat grp | mpsh g v lat grp => exact latchRow_decodesBack _ (by simp) hi
  | mload g n s => exact mload_decodesBack hi
  | sld g lat a imm => exact sld_decodesBack hi
  | trn g a grp => exact trn_decodesBack hi
  | trno g d grp => exact trno_decodesBack hi
  | ceLd g a b off | ceSt g a b off | ceAl g a b off | ceAs g a b off | ceGth g a b off | ceFil g a b off | rtLd g a b off
  | rtGo g a b off | bxSend g a b off => exact engine_decodesBack _ (by simp) hi
  | rtStop g off => exact rtStop_decodesBack hi
  | bxPost g a b f => exact bxPost_decodesBack hi
  | ceCxlToQuay g q s f | ceCxlToTier g q s f => exact tier_decodesBack _ (by simp) hi
  | sys g s n f => exact sys_decodesBack hi
  | ctxs g c | ctxr g c => exact contextNumber_decodesBack _ (by simp) hi
  | _ => intro w e hw; cases hw

/-! ### Router operations (15 R264, R265) -/

/-- The word of a router operation fits its 40 bits and decodes to it in one slot of its word. -/
def Instr.RouterDecodesBack (i : Instr) : Prop :=
  ∀ w, i.routerOp = some w → w < 2 ^ 40 ∧ ∃ n, n < 3 ∧ decodeRouterOp n w = some i

/-- A router operation with code `op` in slot `n` decodes back when the decoder reads it off its fields and its constant bits. -/
theorem Instr.routerDecodesBack_of {i : Instr} (op n : Nat) (L : List (Nat × Nat)) (vs : List Nat)
    (hi : i.routerOp = some (putFields (op * 2 ^ 36) L vs)) (hL : Layout 40 (op * 2 ^ 36) L ∧ n < 3) (hfit : FieldsFit L vs)
    (hdec : ∀ w, Reads w (op * 2 ^ 36) L vs → decodeRouterOp n w = some i) : i.RouterDecodesBack := by
  intro w hw
  obtain rfl : putFields (op * 2 ^ 36) L vs = w := by simpa [hi] using hw
  exact ⟨putFields_lt hL.1 hfit, n, hL.2, hdec _ (reads_putFields hL.1 hfit)⟩

section
variable {ty : RTy} {d a b stp gr : Nat} (hd : d < 8) (ha : a < 8) (hb : b < 8) (hstp : stp < 256) (hgr : gr < 4096)

theorem Instr.rnop_routerDecodesBack : Instr.rnop.RouterDecodesBack := by
  refine routerDecodesBack_of 0 0 [] [] rfl (by decide) trivial fun w hw => ?_
  simp (disch := decide) [decodeRouterOp, hw.apart]

theorem Instr.rhalt_routerDecodesBack : Instr.rhalt.RouterDecodesBack := by
  refine routerDecodesBack_of 15 2 [] [] rfl (by decide) trivial fun w hw => ?_
  simp (disch := decide) [decodeRouterOp, hw.apart]

include hd hstp hgr in
theorem Instr.rld_routerDecodesBack : (Instr.rld d stp gr).RouterDecodesBack := by
  refine routerDecodesBack_of 1 0 [(35, 33), (19, 12), (11, 0)] [d, stp, gr] (by simp [routerOp, putFields, putF]) (by decide)
    ⟨hd, hstp, hgr, trivial⟩ fun w hw => ?_
  obtain ⟨rd, rstp, rgr, -⟩ := hw.fields
  simp (disch := decide) [decodeRouterOp, rd, rstp, rgr, hw.apart]

include hd hstp hgr in
theorem Instr.rldc_routerDecodesBack {x : Nat} (hx : x < 4) : (Instr.rldc d x stp gr).RouterDecodesBack := by
  refine routerDecodesBack_of 2 0 [(35, 33), (23, 20), (19, 12), (11, 0)] [d, x, stp, gr] (by simp [routerOp, putFields, putF]) (by decide)
    ⟨hd, hx.trans (by decide), hstp, hgr, trivial⟩ fun w hw => ?_
  obtain ⟨rd, rx, rstp, rgr, -⟩ := hw.fields
  simp (disch := decide) [decodeRouterOp, rd, rx, rstp, rgr, hx, hw.apart]

include hd in
theorem Instr.rldi_routerDecodesBack {imm : Nat} (himm : imm < 65536) : (Instr.rldi d imm).RouterDecodesBack := by
  refine routerDecodesBack_of 3 0 [(35, 33), (15, 0)] [d, imm] (by simp [routerOp, putFields, putF]) (by decide) ⟨hd, himm, trivial⟩
    fun w hw => ?_
  obtain ⟨rd, rimm, -⟩ := hw.fields
  simp (disch := decide) [decodeRouterOp, rd, rimm, hw.apart]

include hd ha hb in
/-- RADD, RMAX and RMIN. -/
theorem Instr.typed_routerDecodesBack :
    ∀ op ∈ [Instr.radd, .rmax, .rmin], (op ty d a b).RouterDecodesBack := by
  intro op hop
  fin_cases hop
  all_goals
    refine routerDecodesBack_of _ 1 [(35, 33), (32, 30), (29, 27), (26, 24)] [d, a, b, ty.code] rfl (by decide)
      ⟨hd, ha, hb, ty.code_lt, trivial⟩ fun w hw => ?_
    obtain ⟨rd, ra, rb, rty, -⟩ := hw.fields
    simp (disch := decide) [decodeRouterOp, rd, ra, rb, rty, hw.apart]

include hd ha hb in
theorem Instr.rthr_routerDecodesBack (hty : ty ≠ .t3) : (Instr.rthr ty d a b).RouterDecodesBack := by
  have hcode : ty.code < 3 := by revert hty; cases ty <;> decide
  refine routerDecodesBack_of 9 1 [(35, 33), (32, 30), (29, 27), (26, 24)] [d, a, b, ty.code] rfl (by decide)
    ⟨hd, ha, hb, ty.code_lt, trivial⟩ fun w hw => ?_
  obtain ⟨rd, ra, rb, rty, -⟩ := hw.fields
  simp (disch := decide) [decodeRouterOp, rd, ra, rb, rty, hcode, hw.apart]

include hd ha hb in
theorem Instr.rand_routerDecodesBack : (Instr.rand d a b).RouterDecodesBack := by
  refine routerDecodesBack_of 7 1 [(35, 33), (32, 30), (29, 27)] [d, a, b] rfl (by decide) ⟨hd, ha, hb, trivial⟩ fun w hw => ?_
  obtain ⟨rd, ra, rb, -⟩ := hw.fields
  simp (disch := decide) [decodeRouterOp, rd, ra, rb, hw.apart]

include hd ha in
theorem Instr.rflt_routerDecodesBack {mask : Nat} (hmask : mask < 65536) : (Instr.rflt d a mask).RouterDecodesBack := by
  refine routerDecodesBack_of 8 1 [(35, 33), (32, 30), (15, 0)] [d, a, mask] (by simp [routerOp, putFields, putF]) (by decide)
    ⟨hd, ha, hmask, trivial⟩ fun w hw => ?_
  obtain ⟨rd, ra, rmask, -⟩ := hw.fields
  simp (disch := decide) [decodeRouterOp, rd, ra, rmask, hw.apart]

include hd ha in
theorem Instr.rmov_routerDecodesBack : (Instr.rmov d a).RouterDecodesBack := by
  refine routerDecodesBack_of 10 1 [(35, 33), (32, 30)] [d, a] rfl (by decide) ⟨hd, ha, trivial⟩ fun w hw => ?_
  obtain ⟨rd, ra, -⟩ := hw.fields
  simp (disch := decide) [decodeRouterOp, rd, ra, hw.apart]

include ha hstp hgr in
theorem Instr.rst_routerDecodesBack : (Instr.rst a stp gr).RouterDecodesBack := by
  refine routerDecodesBack_of 11 2 [(32, 30), (19, 12), (11, 0)] [a, stp, gr] (by simp [routerOp, putFields, putF]) (by decide)
    ⟨ha, hstp, hgr, trivial⟩ fun w hw => ?_
  obtain ⟨ra, rstp, rgr, -⟩ := hw.fields
  simp (disch := decide) [decodeRouterOp, ra, rstp, rgr, hw.apart]

include ha hstp hgr in
theorem Instr.rstc_routerDecodesBack {x : Nat} (hx : x < 16) : (Instr.rstc x a stp gr).RouterDecodesBack := by
  refine routerDecodesBack_of 12 2 [(32, 30), (23, 20), (19, 12), (11, 0)] [a, x, stp, gr] (by simp [routerOp, putFields, putF]) (by decide)
    ⟨ha, hx, hstp, hgr, trivial⟩ fun w hw => ?_
  obtain ⟨ra, rx, rstp, rgr, -⟩ := hw.fields
  simp (disch := decide) [decodeRouterOp, ra, rx, rstp, rgr, hw.apart]

include hd ha in
theorem Instr.rpsh_routerDecodesBack {x : Nat} (hx : x < 16) : (Instr.rpsh x d a).RouterDecodesBack := by
  refine routerDecodesBack_of 13 2 [(35, 33), (32, 30), (23, 20)] [d, a, x] rfl (by decide) ⟨hd, ha, hx, trivial⟩ fun w hw => ?_
  obtain ⟨rd, ra, rx, -⟩ := hw.fields
  simp (disch := decide) [decodeRouterOp, rd, ra, rx, hw.apart]

theorem Instr.rflg_routerDecodesBack {n : Nat} (hn : n < 64) : (Instr.rflg n).RouterDecodesBack := by
  refine routerDecodesBack_of 14 2 [(5, 0)] [n] (by simp [routerOp, putFields, putF]) (by decide) ⟨hn, trivial⟩ fun w hw => ?_
  obtain ⟨rn, -⟩ := hw.fields
  simp (disch := decide) [decodeRouterOp, rn, hw.apart]

end

/-- Every router operation decodes back; that RTHR takes no .t3 is a limit on its operand (02 R36). -/
theorem Instr.routerDecodesBack_of_wellFormed {i : Instr} (hi : i.WellFormed) : i.RouterDecodesBack := by
  obtain ⟨hfits, hlegal⟩ : i.fits = true ∧ i.legal = true := Bool.and_eq_true_iff.1 hi
  cases i with
  | rnop => exact rnop_routerDecodesBack
  | rhalt => exact rhalt_routerDecodesBack
  | rld d stp gr =>
    obtain ⟨hd, hstp, hgr⟩ := of_decide_eq_true hfits
    exact rld_routerDecodesBack hd hstp hgr
  | rldc d x stp gr =>
    obtain ⟨hd, hx, hstp, hgr⟩ := of_decide_eq_true hfits
    exact rldc_routerDecodesBack hd hstp hgr hx
  | rldi d imm =>
    obtain ⟨hd, himm⟩ := of_decide_eq_true hfits
    exact rldi_routerDecodesBack hd himm
  | radd ty d a b | rmax ty d a b | rmin ty d a b =>
    obtain ⟨hd, ha, hb⟩ := of_decide_eq_true hfits
    exact typed_routerDecodesBack hd ha hb _ (by simp)
  | rthr ty d a b =>
    obtain ⟨hd, ha, hb⟩ := of_decide_eq_true hfits
    exact rthr_routerDecodesBack hd ha hb (bne_iff_ne.1 hlegal)
  | rand d a b =>
    obtain ⟨hd, ha, hb⟩ := of_decide_eq_true hfits
    exact rand_routerDecodesBack hd ha hb
  | rflt d a mask =>
    obtain ⟨hd, ha, hmask⟩ := of_decide_eq_true hfits
    exact rflt_routerDecodesBack hd ha hmask
  | rmov d a =>
    obtain ⟨hd, ha⟩ := of_decide_eq_true hfits
    exact rmov_routerDecodesBack hd ha
  | rst a stp gr =>
    obtain ⟨ha, hstp, hgr⟩ := of_decide_eq_true hfits
    exact rst_routerDecodesBack ha hstp hgr
  | rstc x a stp gr =>
    obtain ⟨hx, ha, hstp, hgr⟩ := of_decide_eq_true hfits
    exact rstc_routerDecodesBack ha hstp hgr hx
  | rpsh x d a =>
    obtain ⟨hx, hd, ha⟩ := of_decide_eq_true hfits
    exact rpsh_routerDecodesBack hd ha hx
  | rflg n => exact rflg_routerDecodesBack (of_decide_eq_true hfits)
  | _ => intro w hw; cases hw

/-! ### Tile words (02 R42 to R44) -/

/-- The fields of an operand descriptor (02 R44). -/
def TileDesc.layout : List (Nat × Nat) := [(3, 0), (17, 4), (57, 18)]

/-- The fields of a tile word, its operation first (02 R42). -/
def TileWord.layout : List (Nat × Nat) :=
  [(3, 0), (6, 4), (11, 7), (16, 12), (21, 17), (22, 22), (23, 23), (24, 24), (25, 25), (28, 26), (31, 29), (47, 32), (63, 48), (79, 64),
    (139, 82), (197, 140), (255, 198)]

theorem TileDesc.bits_eq_putFields (d : TileDesc) : d.bits = putFields 0 layout [d.sto, d.str, d.adr] := by
  simp [layout, bits, putFields, putF]

theorem TileDesc.fieldsFit {d : TileDesc} (hd : d.fits = true) : FieldsFit layout [d.sto, d.str, d.adr] := by
  obtain ⟨hsto, hstr, hadr⟩ := of_decide_eq_true hd
  exact ⟨hsto, hstr, hadr, trivial⟩

theorem TileDesc.bits_lt {d : TileDesc} (hd : d.fits = true) : d.bits < 2 ^ 58 := by
  rw [bits_eq_putFields]
  exact putFields_lt (by decide) (fieldsFit hd)

theorem decodeTileDesc_bits {d : TileDesc} (hd : d.fits = true) : decodeTileDesc d.bits = d := by
  have hreads : Reads d.bits 0 TileDesc.layout [d.sto, d.str, d.adr] := by
    rw [d.bits_eq_putFields]
    exact reads_putFields (N := 58) (by decide) (TileDesc.fieldsFit hd)
  obtain ⟨hsto, hstr, hadr, -⟩ := hreads.fields
  rw [decodeTileDesc, hsto, hstr, hadr]

/-- The values of the fields of a tile word with operation `op`. -/
def TileWord.values (t : TileWord) (op : Nat) : List Nat :=
  [op, t.lvl, t.fa, t.fb, t.fc, t.acc.toNat, t.ta.toNat, t.tb.toNat, t.sat.toNat, t.rnd, t.aux, t.tm, t.tn, t.tk, t.dsa.bits, t.dsb.bits,
    t.dsc.bits]

theorem TileWord.bits_eq_putFields (t : TileWord) (op : Nat) : t.bits op = putFields 0 layout (t.values op) := by
  simp [layout, values, bits, putFields, putF]

theorem TileWord.fits_iff {t : TileWord} : t.fits = true ↔ (t.lvl < 8 ∧ t.fa < 32 ∧ t.fb < 32 ∧ t.fc < 32 ∧ t.rnd < 8 ∧ t.aux < 8
    ∧ t.tm < 2 ^ 16 ∧ t.tn < 2 ^ 16 ∧ t.tk < 2 ^ 16) ∧ t.dsa.fits = true ∧ t.dsb.fits = true ∧ t.dsc.fits = true := by
  simp only [fits, Bool.and_eq_true, decide_eq_true_eq, and_assoc]

theorem TileWord.fieldsFit {t : TileWord} {op : Nat} (hop : op < 16) (ht : t.fits = true) : FieldsFit layout (t.values op) := by
  obtain ⟨⟨hlvl, hfa, hfb, hfc, hrnd, haux, htm, htn, htk⟩, ha, hb, hc⟩ := fits_iff.1 ht
  exact ⟨hop, hlvl, hfa, hfb, hfc, t.acc.toNat_lt, t.ta.toNat_lt, t.tb.toNat_lt, t.sat.toNat_lt, hrnd, haux, htm, htn, htk,
    TileDesc.bits_lt ha, TileDesc.bits_lt hb, TileDesc.bits_lt hc, trivial⟩

theorem TileWord.reads_bits {t : TileWord} {op : Nat} (hop : op < 16) (ht : t.fits = true) :
    Reads (t.bits op) 0 layout (t.values op) := by
  rw [bits_eq_putFields]
  exact reads_putFields (N := 256) (by decide) (fieldsFit hop ht)

theorem decodeTileFields_bits {t : TileWord} {op : Nat} (hop : op < 16) (ht : t.fits = true) : decodeTileFields (t.bits op) = t := by
  obtain ⟨-, hlvl, hfa, hfb, hfc, hacc, hta, htb, hsat, hrnd, haux, htm, htn, htk, ha, hb, hc, -⟩ := (TileWord.reads_bits hop ht).fields
  obtain ⟨-, fitsA, fitsB, fitsC⟩ := TileWord.fits_iff.1 ht
  simp only [decodeTileFields, bit_eq_fld, hlvl, hfa, hfb, hfc, hacc, hta, htb, hsat, hrnd, haux, htm, htn, htk, ha, hb, hc, toNat_beq_one,
    decodeTileDesc_bits fitsA, decodeTileDesc_bits fitsB, decodeTileDesc_bits fitsC]

/-- The word of a tile operation with code `op` fits its 256 bits and decodes to what the decoder makes of `op`. -/
theorem TileWord.decodesBack {t : TileWord} {op : Nat} {i : Instr} (hop : op < 16) (ht : t.fits = true)
    (hi : ∀ v, fld v 81 80 = 0 → fld v 3 0 = op → decodeTileFields v = t → decodeTile v = some i) :
    t.bits op < 2 ^ 256 ∧ decodeTile (t.bits op) = some i := by
  have hreads := reads_bits hop ht
  refine ⟨?_, hi _ (hreads.apart (by decide)) hreads.fields.1 (decodeTileFields_bits hop ht)⟩
  rw [bits_eq_putFields]
  exact putFields_lt (by decide) (fieldsFit hop ht)

theorem Instr.tileBits_decodesBack {i : Instr} {v : Nat} (hi : i.fits = true) (hv : i.tileBits = some v) :
    v < 2 ^ 256 ∧ decodeTile v = some i := by
  cases i with
  | tmul t | tmuls t | tadd t | tscl t | tred t | tcpy t | txps t | tdig t | tfil t | tfen t =>
    obtain rfl := Option.some.inj hv
    exact TileWord.decodesBack (by decide) hi fun v hzero hop ht => by simp [decodeTile, hzero, hop, ht]
  | _ => cases hv

end Sys2Proof

namespace Sys2Proof.Machine

/-- Settles O40: slot words by `Instr.decodesBack_of_fits`, router operations by `Instr.routerDecodesBack_of_wellFormed`, tile words by
`Instr.tileBits_decodesBack`. -/
theorem everyEncodingDecodesBack : Obligations.EveryEncodingDecodesBack := by
  unfold Obligations.EveryEncodingDecodesBack
  refine ⟨fun i w e hi => ?_, fun i w hi => Instr.routerDecodesBack_of_wellFormed hi w, fun i w hi => ?_⟩
  · exact Instr.decodesBack_of_fits (Bool.and_eq_true_iff.1 hi).1 w e
  · exact Instr.tileBits_decodesBack (Bool.and_eq_true_iff.1 hi).1

/-- Settles O39: each word of the tables is evaluated by its decoder. -/
theorem wordsDecodeByTheTables : Obligations.WordsDecodeByTheTables := by
  unfold Obligations.WordsDecodeByTheTables
  decide

end Sys2Proof.Machine

/-! SUPPORT. Rounding, and the flags of a slot (03 R55, R60, R61). -/

namespace Sys2Proof.Machine

/-! ### Rounding a magnitude to whole units (03 R55) -/

section
variable {rnd : Rnd} {u : Nat} {neg : Bool} {i r d : Nat}

/-- A magnitude in units of the last place is a whole part and a fraction `r / 2 ^ d`, on which `roundInt` decides. -/
theorem roundInt_eq_parts (rnd : Rnd) (u : Nat) (neg : Bool) (m : Nat) (e q : Int) :
    ∃ i r d : Nat, r < 2 ^ d ∧ (m : ℚ) * (2 : ℚ) ^ (e - q) = i + (r : ℚ) / 2 ^ d
      ∧ roundInt rnd u neg m e q false = (i + (roundUp rnd u neg i r d false).toNat, r == 0) := by
  by_cases hqe : q ≤ e
  · obtain ⟨n, hn⟩ := Int.eq_ofNat_of_zero_le (sub_nonneg.2 hqe)
    exact ⟨m * 2 ^ n, 0, 0, by norm_num, by simp [hn], by simp [roundInt, hqe, hn]⟩
  · obtain ⟨n, hn⟩ := Int.eq_ofNat_of_zero_le (sub_nonneg.2 (not_le.1 hqe).le)
    refine ⟨m / 2 ^ n, m % 2 ^ n, n, Nat.mod_lt _ (Nat.two_pow_pos n), ?_, by simp [roundInt, hqe, hn]⟩
    have hdiv : ((2 ^ n * (m / 2 ^ n) + m % 2 ^ n : Nat) : ℚ) = m := congrArg Nat.cast (Nat.div_add_mod m (2 ^ n))
    push_cast at hdiv
    rw [show e - q = -(n : Int) by omega, zpow_neg, zpow_natCast, ← hdiv]
    field_simp

/-- A whole number of units is not rounded up. -/
theorem roundUp_zero : roundUp rnd u neg i 0 d false = false := by
  cases rnd <;> simp [roundUp, (Nat.two_pow_pos d).ne]

theorem roundUp_rn : roundUp .rn u neg i r d false = true ↔ 2 ^ d < 2 * r ∨ 2 * r = 2 ^ d ∧ i % 2 = 1 := by
  simp [roundUp]

theorem roundUp_ru : roundUp .ru u neg i r d false = true ↔ neg = false ∧ r ≠ 0 := by
  simp [roundUp]

theorem roundUp_rd : roundUp .rd u neg i r d false = true ↔ neg = true ∧ r ≠ 0 := by
  simp [roundUp]

theorem fraction_lt_one (hr : r < 2 ^ d) : (r : ℚ) / 2 ^ d < 1 :=
  (div_lt_one (by positivity)).2 (by exact_mod_cast hr)

theorem fraction_pos (hr : r ≠ 0) : 0 < (r : ℚ) / 2 ^ d := by
  have := Nat.pos_of_ne_zero hr
  positivity

theorem half_lt_fraction : 1 / 2 < (r : ℚ) / 2 ^ d ↔ 2 ^ d < 2 * r := by
  rw [div_lt_div_iff₀ two_pos (by positivity), one_mul, mul_comm]
  exact_mod_cast Iff.rfl

theorem fraction_eq_half : (r : ℚ) / 2 ^ d = 1 / 2 ↔ 2 * r = 2 ^ d := by
  rw [div_eq_div_iff (by positivity) two_ne_zero, one_mul, mul_comm]
  exact_mod_cast Iff.rfl

end

/-- Settles O9: with the magnitude as a whole part and a fraction, each clause is read off for a result rounded up and for one that
is not. -/
theorem roundingPicksANeighbour : Obligations.RoundingPicksANeighbour := by
  unfold Obligations.RoundingPicksANeighbour
  intro rnd u neg m e q
  obtain ⟨i, r, d, hr, hx, hround⟩ := roundInt_eq_parts rnd u neg m e q
  rw [hround, hx]
  have hlt : (r : ℚ) / 2 ^ d < 1 := fraction_lt_one hr
  have hhalf := half_lt_fraction (r := r) (d := d)
  have htie := fraction_eq_half (r := r) (d := d)
  by_cases hr0 : r = 0
  · simp [hr0, roundUp_zero]
  have hpos : 0 < (r : ℚ) / 2 ^ d := fraction_pos hr0
  generalize (r : ℚ) / 2 ^ d = f at *
  cases hup : roundUp rnd u neg i r d false with
  | false =>
    simp only [Bool.toNat_false, add_zero, sub_add_cancel_left, abs_neg, abs_of_pos hpos, beq_iff_eq, hr0, false_iff]
    refine ⟨⟨by linarith, by linarith⟩, fun h => by linarith, ?_, fun _ => by linarith, ?_, ?_⟩
    · rintro rfl
      have hdown := mt roundUp_rn.2 (Bool.eq_false_iff.1 hup)
      exact ⟨not_lt.1 fun h => hdown (.inl (hhalf.1 h)), fun h => Nat.mod_two_ne_one.1 fun hodd => hdown (.inr ⟨htie.1 h, hodd⟩)⟩
    · rintro rfl
      have hneg : neg = true := by simpa [hr0] using mt roundUp_ru.2 (Bool.eq_false_iff.1 hup)
      simp [hneg, hpos.le]
    · rintro rfl
      have hneg : neg = false := by simpa [hr0] using mt roundUp_rd.2 (Bool.eq_false_iff.1 hup)
      simp [hneg, hpos.le]
  | true =>
    have hdist : |(i : ℚ) + 1 - (i + f)| = 1 - f := by rw [add_sub_add_left_eq_sub, abs_of_pos (by linarith)]
    simp only [Bool.toNat_true, Nat.cast_add, Nat.cast_one, hdist, beq_iff_eq, hr0, false_iff]
    refine ⟨⟨by linarith, by linarith⟩, fun h => by linarith, ?_, ?_, ?_, ?_⟩
    · rintro rfl
      rcases roundUp_rn.1 hup with h | ⟨h, hodd⟩
      · have := hhalf.2 h
        exact ⟨by linarith, fun _ => by linarith⟩
      · have := htie.2 h
        exact ⟨by linarith, fun _ => by omega⟩
    · rintro rfl
      cases hup
    · rintro rfl
      simp [(roundUp_ru.1 hup).1, hlt.le]
    · rintro rfl
      simp [(roundUp_rd.1 hup).1, hlt.le]

/-! ### Flags of a slot (03 R60, R61) -/

/-- An effect that writes neither a register nor memory holds no byte of the snapshot buffer. -/
theorem Effect.holds_flagsOr (fl x : Nat) (hnd : Bool) (ord : Nat) (p : Spot) : (Effect.flagsOr fl).holds x hnd ord p = false := by
  cases p <;> simp [Effect.holds]

/-- Flags that land meet no error of the snapshot buffer (10 R231). -/
theorem State.meetHeld_flagsOr {s : State} {e : Eff} {fl : Nat} (he : e.act = .flagsOr fl) : s.meetHeld e = s := by
  simp [State.meetHeld, he, Effect.holds_flagsOr]

theorem State.land_flagsOr (s : State) (fr : Frame) (due run pri fl wall : Nat) :
    s.land ⟨fr, due, run, pri, .flagsOr fl, wall⟩ = ({ s with fr := fr } : State).mergeFlags fr.x fl := by
  simp [State.land, State.meetHeld_flagsOr]

section
variable (s : State) (x fl : Nat)

@[simp] theorem State.mergeFlags_mem : (s.mergeFlags x fl).mem = s.mem := rfl

@[simp] theorem State.mergeFlags_pend : (s.mergeFlags x fl).pend = s.pend := rfl

theorem State.ctx_mergeFlags_self :
    (s.mergeFlags x fl).ctx x = { s.ctx x with psw := (s.ctx x).psw ||| BitVec.ofNat 64 (fl * 16) } :=
  State.ctx_updCtx_self s x fun c => { c with psw := c.psw ||| BitVec.ofNat 64 (fl * 16) }

theorem State.ctx_mergeFlags_ne {y : Nat} (h : y ≠ x) : (s.mergeFlags x fl).ctx y = s.ctx y :=
  State.ctx_updCtx_ne s (fun c => { c with psw := c.psw ||| BitVec.ofNat 64 (fl * 16) }) h

/-- What a SET of PSW would give back when it is taken back has the flags as well (03 R60, R61). -/
theorem State.mem_mergeFlags_undo {u : Undo} {o : Word} (hu : u ∈ s.undo) (hx : u.x = x) (ho : u.old = .creg 0 o) :
    { u with old := .creg 0 (o ||| BitVec.ofNat 64 (fl * 16)) } ∈ (s.mergeFlags x fl).undo :=
  List.mem_map.2 ⟨u, hu, by simp only [ho, if_pos hx]⟩

end

/-- The enabled ones of a slot's flags raise their fault one count after `D`; all of them are pushed for PSW. -/
theorem State.fpFlags_eq (s : State) (fl due D : Nat) :
    let t := if fl = 0 then s else s.push due (.flagsOr fl) 2
    let en := fl &&& s.fr.fmask &&& 0x1F
    s.fpFlags fl due D = if en = 0 then t else t.raiseExec 10 (BitVec.ofNat 64 en) 0 D := by
  by_cases hfl : fl = 0 <;> simp [State.fpFlags, hfl]

/-- Settles O7: the landing of flags is `mergeFlags`, and `fpFlags` pushes it and raises the fault of the enabled ones. -/
theorem enabledFlagsFault : Obligations.EnabledFlagsFault := by
  unfold Obligations.EnabledFlagsFault
  constructor
  · intro s fr due run pri fl
    rw [State.land_flagsOr]
    exact ⟨State.ctx_mergeFlags_self .., State.mergeFlags_mem .., State.mergeFlags_pend .., fun _ => State.ctx_mergeFlags_ne _ _ _,
      fun u o hu hx ho => ⟨_, State.mem_mergeFlags_undo _ _ _ hu hx ho, rfl⟩⟩
  · intro s fl due D
    refine ⟨?_, fun hfl hen => ?_, fun hfl hen => ?_⟩
    · simp [State.fpFlags_eq]
    · rw [State.fpFlags_eq, if_neg hfl, if_pos hen]
    · rw [State.fpFlags_eq, if_neg hfl, if_neg hen]
      rfl

end Sys2Proof.Machine

/-! SUPPORT. Integer results: an exact value kept in an element, and the results of the integer instructions element by element (03 R48,
R50, 05 R94 to R97, R107). -/

namespace Sys2Proof

theorem ElemTy.width_pos (ty : ElemTy) : 0 < ty.width := by cases ty <;> decide

/-- The elements of a type narrower than a lane fill it. -/
theorem ElemTy.width_mul_perLane {ty : ElemTy} (h : 32 / ty.width ≠ 0) : ty.width * (32 / ty.width) = 32 := by
  revert h
  cases ty <;> decide

end Sys2Proof

namespace Sys2Proof.Machine

/-! ### An exact value kept in an element (03 R48, R50) -/

section
variable {sg sat : Bool} {w x : Nat} {z : Int}

theorem ofInt_cast (w : Nat) (z : Int) : ((ofInt w z : Nat) : Int) = z % 2 ^ w :=
  Int.toNat_of_nonneg (Int.emod_nonneg _ (by positivity))

theorem ofInt_lt (w : Nat) (z : Int) : ofInt w z < 2 ^ w := by
  have := Int.emod_lt_of_pos z (b := 2 ^ w) (by positivity)
  zify
  rwa [ofInt_cast]

theorem fit_lt (sg sat : Bool) (w : Nat) (z : Int) : fit sg sat w z < 2 ^ w := ofInt_lt w _

theorem two_mul_two_pow_pred (hw : 0 < w) : (2 : Int) * 2 ^ (w - 1) = 2 ^ w := by
  rw [← pow_succ', Nat.sub_add_cancel hw]

theorem intRange_signed (w : Nat) : intRange true w = (-(2 ^ (w - 1)), 2 ^ (w - 1) - 1) := rfl

theorem intRange_plain (w : Nat) : intRange false w = (0, 2 ^ w - 1) := rfl

theorem intVal_signed (w x : Nat) : intVal true w x = if (2 : Int) ^ (w - 1) ≤ x then (x : Int) - 2 ^ w else x := by
  simp only [intVal, Bool.true_and, decide_eq_true_eq]
  exact if_congr (by norm_cast) rfl rfl

theorem intVal_plain (w x : Nat) : intVal false w x = x := rfl

theorem intRange_ordered (sg : Bool) (w : Nat) : (intRange sg w).1 ≤ (intRange sg w).2 := by
  have hwhole : (0 : Int) < 2 ^ w := by positivity
  have hhalf : (0 : Int) < 2 ^ (w - 1) := by positivity
  cases sg <;> simp only [intRange_signed, intRange_plain] <;> omega

/-- The range of a type lies within the values that `w` bits and a sign hold. -/
theorem intRange_bounds (sg : Bool) (w : Nat) : -2 ^ w ≤ (intRange sg w).1 ∧ (intRange sg w).2 < 2 ^ w := by
  have hhalf : (2 : Int) ^ (w - 1) ≤ 2 ^ w := pow_le_pow_right₀ one_le_two (Nat.sub_le w 1)
  have hwhole : (0 : Int) < 2 ^ w := by positivity
  cases sg <;> simp only [intRange_signed, intRange_plain] <;> omega

theorem clampI_eq_max_min (sg : Bool) (w : Nat) (z : Int) :
    clampI (intRange sg w) z = max (intRange sg w).1 (min (intRange sg w).2 z) := by
  have := intRange_ordered sg w
  unfold clampI
  grind

/-- The value of an element lies in the range of its type. -/
theorem intVal_mem_range (hw : 0 < w) (hx : x < 2 ^ w) :
    (intRange sg w).1 ≤ intVal sg w x ∧ intVal sg w x ≤ (intRange sg w).2 := by
  have hhalf := two_mul_two_pow_pred hw
  have hx' : (x : Int) < 2 ^ w := by exact_mod_cast hx
  cases sg with
  | false =>
    rw [intRange_plain, intVal_plain]
    omega
  | true =>
    rw [intRange_signed, intVal_signed]
    split <;> omega

/-- A value of the type is the value of the element that keeps it. -/
theorem intVal_ofInt (hw : 0 < w) (hlo : (intRange sg w).1 ≤ z) (hhi : z ≤ (intRange sg w).2) : intVal sg w (ofInt w z) = z := by
  have hhalf := two_mul_two_pow_pred hw
  have hofInt := ofInt_cast w z
  cases sg with
  | false =>
    rw [intRange_plain] at hlo hhi
    rw [intVal_plain, hofInt, Int.emod_eq_of_lt hlo (by omega)]
  | true =>
    rw [intRange_signed] at hlo hhi
    rw [intVal_signed]
    rcases lt_or_ge z 0 with hneg | hpos
    · rw [← Int.add_emod_right, Int.emod_eq_of_lt (by omega) (by omega)] at hofInt
      rw [if_pos (by omega)]
      omega
    · rw [Int.emod_eq_of_lt hpos (by omega)] at hofInt
      rw [if_neg (by omega)]
      omega

/-- An element is kept as its value keeps it. -/
theorem ofInt_intVal (hx : x < 2 ^ w) : ofInt w (intVal sg w x) = x := by
  have hofInt := ofInt_cast w (intVal sg w x)
  have hmod : intVal sg w x % 2 ^ w = (x : Int) % 2 ^ w := by
    unfold intVal
    split
    · exact Int.sub_emod_right _ _
    · rfl
  rw [hmod, Int.emod_eq_of_lt (by positivity) (by exact_mod_cast hx)] at hofInt
  exact_mod_cast hofInt

/-- With saturation the element's value is the value of the type nearest to the exact one. -/
theorem intVal_fit_sat (hw : 0 < w) (z : Int) :
    intVal sg w (fit sg true w z) = max (intRange sg w).1 (min (intRange sg w).2 z) := by
  rw [← clampI_eq_max_min]
  refine intVal_ofInt hw ?_ ?_
  · rw [if_pos rfl, clampI_eq_max_min]
    exact le_max_left _ _
  · rw [if_pos rfl, clampI_eq_max_min]
    exact max_le (intRange_ordered sg w) (min_le_left _ _)

end

/-! ### Elements of a slice computed element by element (05 R88) -/

theorem elemAt_eq_elemOf (s : State) (w r k j : Nat) : elemAt s w r k j = elemOf w (s.vget r k) j := rfl

section
variable {w j : Nat}

theorem elemOf_eGran_of_length {l : List Nat} (hl : l.length = 512 / w) : elemOf w (eGran w l) j = l.getD j 0 % 2 ^ w :=
  elemOf_eGran w l j (hl ▸ Nat.mul_div_le 512 w)

theorem granE_getElem (a : Gran) (h : j < (granE w a).length) : (granE w a)[j] = elemOf w a j := by
  rw [← granE_getD w a j (by simpa using h), List.getD_eq_getElem _ _ h]

theorem elemOf_map1 {f : Nat → Nat} {a : Gran} (hj : j < 512 / w) (hf : f (elemOf w a j) < 2 ^ w) :
    elemOf w (map1 w f a) j = f (elemOf w a j) := by
  rw [map1, elemOf_eGran_of_length (by simp), List.getD_eq_getElem _ _ (by simpa)]
  simp [granE_getElem, Nat.mod_eq_of_lt hf]

theorem elemOf_map2 {f : Nat → Nat → Nat} {a b : Gran} (hj : j < 512 / w) (hf : f (elemOf w a j) (elemOf w b j) < 2 ^ w) :
    elemOf w (map2 w f a b) j = f (elemOf w a j) (elemOf w b j) := by
  rw [map2, elemOf_eGran_of_length (by simp), List.getD_eq_getElem _ _ (by simpa)]
  simp [granE_getElem, Nat.mod_eq_of_lt hf]

theorem elemOf_map3 {f : Nat → Nat → Nat → Nat} {a b c : Gran} (hj : j < 512 / w)
    (hf : f (elemOf w a j) (elemOf w b j) (elemOf w c j) < 2 ^ w) :
    elemOf w (map3 w f a b c) j = f (elemOf w a j) (elemOf w b j) (elemOf w c j) := by
  rw [map3, elemOf_eGran_of_length (by simp), List.getD_eq_getElem _ _ (by simpa)]
  simp [granE_getElem, Nat.mod_eq_of_lt hf]

theorem elemOf_eGran_map_range (f : Nat → Nat) (hj : j < 512 / w) :
    elemOf w (eGran w ((List.range (512 / w)).map f)) j = f j % 2 ^ w := by
  rw [elemOf_eGran_of_length (by simp), List.getD_eq_getElem _ _ (by simpa)]
  simp

theorem elemOf_eGran_replicate (x : Nat) (hj : j < 512 / w) : elemOf w (eGran w (List.replicate (512 / w) x)) j = x % 2 ^ w := by
  rw [elemOf_eGran_of_length (by simp), List.getD_eq_getElem _ _ (by simpa)]
  simp

theorem testBit_elemOf (v : Gran) (w j i : Nat) : (elemOf w v j).testBit i = (decide (i < w) && v.getLsbD (w * j + i)) := by
  simp [elemOf, Nat.testBit_mod_two_pow, Nat.testBit_div_two_pow, BitVec.testBit_toNat, Nat.add_comm]

/-- An element inside a wider one. -/
theorem elemOf_elemOf {v : Gran} {W i n : Nat} (hn : w * n = W) (hi : i < n) :
    elemOf W v j / 2 ^ (w * i) % 2 ^ w = elemOf w v (j * n + i) := by
  have hin : w * i + w ≤ W := by rw [← hn]; nlinarith
  have hpos : w * (j * n + i) = W * j + w * i := by rw [← hn]; ring
  refine Nat.eq_of_testBit_eq fun k => ?_
  rw [Nat.testBit_mod_two_pow, Nat.testBit_div_two_pow, testBit_elemOf, testBit_elemOf, hpos]
  by_cases hk : k < w
  · simp [hk, show k + w * i < W by omega, show W * j + (k + w * i) = W * j + w * i + k by omega]
  · simp [hk]

end

/-! ### The choice by a predicate (05 R107) -/

theorem packE_append_singleton (w : Nat) (l : List Nat) (x : Nat) :
    packE w (l ++ [x]) = packE w l + x % 2 ^ w * 2 ^ (w * l.length) := by
  induction l with
  | nil => simp [packE]
  | cons y l ih =>
    simp only [List.cons_append, packE, ih, List.length_cons, Nat.mul_succ, pow_add]
    ring

/-- Elements put together are the sum of each at its place. -/
theorem packE_map_range {w : Nat} {f : Nat → Nat} (hf : ∀ i, f i < 2 ^ w) (n : Nat) :
    packE w ((List.range n).map f) = ((List.range n).map fun i => f i * 2 ^ (w * i)).foldl (· + ·) 0 := by
  induction n with
  | zero => rfl
  | succ n ih => simp [List.range_succ, packE_append_singleton, ih, Nat.mod_eq_of_lt (hf n)]

theorem laneBits_eq_eGran (m : LaneMask) :
    laneBits m = eGran 32 ((List.range 16).map fun l => if m.getLsbD l then 2 ^ 32 - 1 else 0) := by
  rw [eGran, packE_map_range fun i => by split <;> decide]
  simp [laneBits, ite_mul]

theorem elemOf_laneBits (m : LaneMask) {l : Nat} (hl : l < 16) :
    elemOf 32 (laneBits m) l = if m.getLsbD l then 2 ^ 32 - 1 else 0 := by
  rw [laneBits_eq_eGran, elemOf_eGran_map_range (w := 32) _ hl]
  split <;> rfl

theorem laneBits_getLsbD (m : LaneMask) {l i : Nat} (hl : l < 16) (hi : i < 32) :
    (laneBits m).getLsbD (32 * l + i) = m.getLsbD l := by
  have h := testBit_elemOf (laneBits m) 32 l i
  rw [elemOf_laneBits m hl, decide_eq_true hi, Bool.true_and] at h
  rw [← h]
  split
  · next hm => rw [Nat.testBit_two_pow_sub_one, decide_eq_true hi, hm]
  · next hm => rw [Nat.zero_testBit, Bool.eq_false_iff.2 hm]

/-- Bits merged under a mask of whole lanes are lanes of the one slice or of the other. -/
theorem elemOf_mergeBits_laneBits (old val : Gran) (m : LaneMask) {l : Nat} (hl : l < 16) :
    elemOf 32 (mergeBits old val (laneBits m)) l = if m.getLsbD l then elemOf 32 val l else elemOf 32 old l := by
  refine Nat.eq_of_testBit_eq fun i => ?_
  rw [apply_ite (Nat.testBit · i), testBit_elemOf, testBit_elemOf, testBit_elemOf, mergeBits_getLsbD]
  by_cases hi : i < 32
  · rw [laneBits_getLsbD m hl hi]
    split <;> rfl
  · simp [hi]

/-! ### Results of single elements (05 R95 to R97) -/

/-- Shifted elements are the exact product kept; a count past the width leaves nothing of it, or passes the range. -/
theorem shlElem_eq_fit (ty : ElemTy) (sat : Bool) {x : Nat} (hx : x < 2 ^ ty.width) (c : Nat) :
    shlElem ty sat x c = fit ty.isSigned sat ty.width (intVal ty.isSigned ty.width x * 2 ^ c) := by
  unfold shlElem
  by_cases hc : c < ty.width
  · rw [if_pos hc]
  rw [if_neg hc]
  have hpow : (2 : Int) ^ ty.width ≤ 2 ^ c := pow_le_pow_right₀ one_le_two (not_lt.1 hc)
  have hrange := intRange_ordered ty.isSigned ty.width
  obtain ⟨hmin, hmax⟩ := intRange_bounds ty.isSigned ty.width
  obtain ⟨hlo, hhi⟩ := intVal_mem_range (sg := ty.isSigned) ty.width_pos hx
  generalize intVal ty.isSigned ty.width x = v at *
  cases sat with
  | false =>
    have hdvd : (2 : Int) ^ ty.width ∣ v * 2 ^ c := Dvd.dvd.mul_left (pow_dvd_pow 2 (not_lt.1 hc)) v
    simp [fit, ofInt, Int.emod_eq_zero_of_dvd hdvd]
  | true =>
    rw [fit, if_pos rfl, clampI_eq_max_min]
    rcases lt_trichotomy v 0 with hv | rfl | hv
    · have hbelow : v * 2 ^ c ≤ (intRange ty.isSigned ty.width).1 := by nlinarith
      rw [min_eq_right (hbelow.trans hrange), max_eq_left hbelow]
      simp [hv, hv.ne]
    · rw [zero_mul, min_eq_right hhi, max_eq_right hlo]
      simp [ofInt]
    · have habove : (intRange ty.isSigned ty.width).2 ≤ v * 2 ^ c := by nlinarith
      rw [min_eq_left habove, max_eq_right hrange]
      simp [hv.not_gt, hv.ne']

theorem shlElem_lt (ty : ElemTy) (sat : Bool) {x : Nat} (hx : x < 2 ^ ty.width) (c : Nat) : shlElem ty sat x c < 2 ^ ty.width := by
  rw [shlElem_eq_fit ty sat hx]
  exact fit_lt ..

/-- A right shift by a count past the width leaves nothing. -/
theorem shrElem_eq_div {w x : Nat} (hx : x < 2 ^ w) (c : Nat) : (if c < w then x / 2 ^ c else 0) = x / 2 ^ c := by
  split
  · rfl
  · next hc => exact (Nat.div_eq_of_lt (hx.trans_le (Nat.pow_le_pow_right two_pos (not_lt.1 hc)))).symm

theorem shrElem_lt {w x : Nat} (hx : x < 2 ^ w) (c : Nat) : (if c < w then x / 2 ^ c else 0) < 2 ^ w := by
  rw [shrElem_eq_div hx]
  exact (Nat.div_le_self ..).trans_lt hx

/-- The quotient by a power that passes a value is its sign alone. -/
theorem ediv_eq_sign {z k : Int} (hlo : -k ≤ z) (hhi : z < k) : z / k = if z < 0 then -1 else 0 := by
  split
  · next hneg => exact Int.ediv_eq_iff_of_pos (by omega) |>.2 (by omega)
  · next hpos => exact Int.ediv_eq_zero_of_lt (not_lt.1 hpos) hhi

/-- A quotient of a signed value is a value of its type. -/
theorem ediv_mem_intRange_signed {w : Nat} {z k : Int} (hk : 0 < k) (hlo : (intRange true w).1 ≤ z) (hhi : z ≤ (intRange true w).2) :
    (intRange true w).1 ≤ z / k ∧ z / k ≤ (intRange true w).2 := by
  have hhalf : (0 : Int) < 2 ^ (w - 1) := by positivity
  rw [intRange_signed] at *
  exact ⟨(Int.le_ediv_iff_mul_le hk).2 (by nlinarith), Int.le_sub_one_of_lt ((Int.ediv_lt_iff_lt_mul hk).2 (by nlinarith))⟩

/-- A shift with copies of the top bit is the floor of the quotient; past the width nothing but the sign is left. -/
theorem intVal_sraElem {w x : Nat} (hw : 0 < w) (hx : x < 2 ^ w) (c : Nat) :
    intVal true w (ofInt w (intVal true w x / 2 ^ Nat.min c w)) = intVal true w x / 2 ^ c := by
  obtain ⟨hlo, hhi⟩ := intVal_mem_range (sg := true) hw hx
  obtain ⟨hmin, hmax⟩ := intRange_bounds true w
  have hquot : intVal true w x / 2 ^ Nat.min c w = intVal true w x / 2 ^ c := by
    rcases le_total c w with hc | hc
    · rw [show Nat.min c w = c from min_eq_left hc]
    · have hpow : (2 : Int) ^ w ≤ 2 ^ c := pow_le_pow_right₀ one_le_two hc
      rw [show Nat.min c w = w from min_eq_right hc, ediv_eq_sign (by omega) (by omega), ediv_eq_sign (by omega) (by omega)]
  obtain ⟨hlo', hhi'⟩ := ediv_mem_intRange_signed (k := 2 ^ c) (by positivity) hlo hhi
  rw [hquot, intVal_ofInt hw hlo' hhi']

theorem clzN_le (w x : Nat) : clzN w x ≤ w := by
  unfold clzN
  split <;> omega

/-- The leading zeros of a number leave its highest one bit in front. -/
theorem clzN_bounds {w x : Nat} (hx : x < 2 ^ w) :
    x < 2 ^ (w - clzN w x) ∧ (clzN w x < w → 2 ^ (w - 1 - clzN w x) ≤ x) := by
  by_cases h0 : x = 0
  · simp [clzN, h0]
  · have hlog : Nat.log2 x < w := (Nat.log2_lt h0).2 hx
    rw [clzN, if_neg h0, show w - (w - 1 - x.log2) = x.log2 + 1 by omega, show w - 1 - (w - 1 - x.log2) = x.log2 by omega]
    exact ⟨Nat.lt_log2_self, fun _ => Nat.log2_self_le h0⟩

theorem popN_eq_length_filter (w : Nat) : ∀ x, popN w x = ((List.range w).filter fun i => x.testBit i).length := by
  induction w with
  | zero => exact fun _ => rfl
  | succ w ih =>
    intro x
    rw [popN, ih, List.range_succ_eq_map, List.filter_cons, List.filter_map, Nat.testBit_zero]
    simp only [Function.comp_def, Nat.testBit_succ, decide_eq_true_eq]
    split <;> simp <;> omega

theorem popN_le (w x : Nat) : popN w x ≤ w := by
  rw [popN_eq_length_filter]
  exact (List.length_filter_le _ _).trans_eq List.length_range

theorem elems_eq_map_range (w n x : Nat) : elems w n x = (List.range n).map fun i => x / 2 ^ (w * i) % 2 ^ w := by
  refine List.ext_getElem (by simp) fun i hi _ => ?_
  rw [← List.getD_eq_getElem _ 0 hi, elems_getD w n x i (by simpa using hi)]
  simp

/-- The products of the elements of two lanes, summed in order (05 R95). -/
theorem dotLane_elemOf (ty : ElemTy) (a b : Gran) (j : Nat) :
    dotLane ty (elemOf 32 a j) (elemOf 32 b j) = ((List.range (32 / ty.width)).map fun i =>
      intVal ty.isSigned ty.width (elemOf ty.width a (j * (32 / ty.width) + i))
        * intVal ty.isSigned ty.width (elemOf ty.width b (j * (32 / ty.width) + i))).foldl (· + ·) 0 := by
  simp only [dotLane, elems_eq_map_range, List.zipWith_map, List.zipWith_self]
  congr 1
  refine List.map_congr_left fun i hi => ?_
  have hi' := List.mem_range.1 hi
  have hn := ElemTy.width_mul_perLane (ty := ty) (by omega)
  rw [elemOf_elemOf hn hi', elemOf_elemOf hn hi']

/-! ### The instructions -/

theorem getLsbD_and_not (x y : Gran) (i : Nat) : (x &&& ~~~y).getLsbD i = (x.getLsbD i && !y.getLsbD i) := by
  by_cases hi : i < 512
  · simp [hi]
  · simp [BitVec.getLsbD_of_ge _ i (not_lt.1 hi)]

section
variable (g : Guard) (ty : ElemTy) (sat : Bool) (d a b : Nat) (s : State)

/-- A two-source integer slot keeps the exact result of each two elements' values. -/
theorem intSlot_answers (i : Instr) (lat : Nat) (f : Int → Int → Int) :
    ∃ val, intSlot i g ty sat lat d a b f s = .next (laneNext i g ty.width lat d val s)
      ∧ HoldsElems ty.width val fun j => fit ty.isSigned sat ty.width
          (f (intVal ty.isSigned ty.width (elemAt s ty.width a s.fr.slice j))
            (intVal ty.isSigned ty.width (elemAt s ty.width b s.fr.slice j))) :=
  ⟨_, rfl, fun _ hj => elemOf_map2 hj (fit_lt ..)⟩

theorem exec_vmin_eq_intSlot : exec (.vmin g ty d a b) s = intSlot (.vmin g ty d a b) g ty false 2 d a b min s := by
  have hmin : (fun x y : Int => if x < y then x else y) = min := by
    funext x y
    grind
  rw [← hmin]
  rfl

theorem exec_vmax_eq_intSlot : exec (.vmax g ty d a b) s = intSlot (.vmax g ty d a b) g ty false 2 d a b max s := by
  have hmax : (fun x y : Int => if y < x then x else y) = max := by
    funext x y
    grind
  rw [← hmax]
  rfl

theorem vmad_answers : ∃ val, exec (.vmad g ty sat d a b) s = .next (laneNext (.vmad g ty sat d a b) g ty.width 4 d val s)
    ∧ HoldsElems ty.width val fun j =>
      let v := fun r => intVal ty.isSigned ty.width (elemAt s ty.width r s.fr.slice j)
      fit ty.isSigned sat ty.width (v d + v a * v b) :=
  ⟨_, rfl, fun _ hj => elemOf_map3 hj (fit_lt ..)⟩

theorem vdot4_answers : ∃ val, exec (.vdot4 g ty sat d a b) s = .next (laneNext (.vdot4 g ty sat d a b) g 32 4 d val s)
    ∧ HoldsElems 32 val fun j => fit ty.isSigned sat 32 (intVal ty.isSigned 32 (elemAt s 32 d s.fr.slice j)
      + dotLane ty (elemAt s 32 a s.fr.slice j) (elemAt s 32 b s.fr.slice j)) :=
  ⟨_, rfl, fun _ hj => elemOf_map3 hj (fit_lt ..)⟩

end

/-- Settles O5: each instruction is a per-lane slot whose value holds the element results above. -/
theorem vectorIntegerResults : Obligations.VectorIntegerResults := by
  unfold Obligations.VectorIntegerResults
  refine ⟨⟨?_, ?_, ?_⟩, fun sg w e hw => ⟨ofInt_cast w e, ?_, fun x hx => ofInt_intVal hx⟩⟩
  · intro g ty sat d a b s
    dsimp only
    refine ⟨intSlot_answers (f := (· + ·)) .., intSlot_answers (f := (· - ·)) .., intSlot_answers (f := (· * ·)) ..,
      intSlot_answers (f := (· * · / 2 ^ ty.width)) .., ?_, ?_, vmad_answers .., ?_⟩
    · rw [exec_vmin_eq_intSlot]
      exact intSlot_answers ..
    · rw [exec_vmax_eq_intSlot]
      exact intSlot_answers ..
    · simp only [elemAt_eq_elemOf, ← dotLane_elemOf]
      exact vdot4_answers ..
  · intro g ty d a b p s
    refine ⟨⟨_, rfl, fun i => ?_⟩, ⟨_, rfl, fun i => ?_⟩, ⟨_, rfl, fun i => ?_⟩, ⟨_, rfl, fun i => ?_⟩, ⟨_, rfl, rfl⟩,
      ⟨_, rfl, fun j hj => ?_⟩, ⟨_, rfl, fun j hj => ?_⟩, ⟨_, rfl, fun j hj => ?_⟩⟩
    · exact BitVec.getLsbD_and
    · exact BitVec.getLsbD_or
    · exact BitVec.getLsbD_xor
    · exact getLsbD_and_not ..
    · exact elemOf_mergeBits_laneBits _ _ _ hj
    · rw [elemOf_eGran_map_range _ hj, Nat.mod_mod]
    · rw [elemOf_eGran_replicate _ hj, Nat.mod_mod]
  · intro g ty sat d a b s
    dsimp only
    have hx := fun j => elemOf_lt ty.width (s.vget a s.fr.slice) j
    refine ⟨⟨_, rfl, fun j hj => ?_⟩, ⟨_, rfl, fun j hj => ?_⟩, ⟨_, rfl, fun j hj => ?_⟩, ⟨_, rfl, fun j hj => ?_⟩,
      ⟨_, rfl, fun j hj => ?_⟩, ⟨_, rfl, fun j hj => ?_⟩, ⟨_, rfl, fun j hj => ?_⟩⟩
    · rw [elemOf_map2 hj (shlElem_lt ty sat (hx j) _)]
      exact shlElem_eq_fit ty sat (hx j) _
    · rw [elemOf_map2 hj (shrElem_lt (hx j) _)]
      exact shrElem_eq_div (hx j) _
    · rw [elemOf_map2 hj (ofInt_lt ..)]
      exact intVal_sraElem ty.width_pos (hx j) _
    · rw [elemOf_map1 hj (fit_lt ..), Int.natCast_natAbs]
      rfl
    · exact elemOf_map1 hj (fit_lt ..)
    · rw [elemOf_map1 hj ((clzN_le ..).trans_lt Nat.lt_two_pow_self)]
      exact ⟨clzN_le .., clzN_bounds (hx j)⟩
    · rw [elemOf_map1 hj ((popN_le ..).trans_lt Nat.lt_two_pow_self)]
      exact popN_eq_length_filter ..
  · rw [intVal_fit_sat hw]
    cases sg <;> rfl

end Sys2Proof.Machine

/-! SUPPORT. The elements of a slice as lists over their places, and steps that keep the frame. -/

namespace Sys2Proof.Machine

/-! ### Lists over the elements of a slice -/

section
variable {α : Type} {n : Nat}

theorem zipIdx_map_range (f : Nat → α) (n : Nat) : ((List.range n).map f).zipIdx = (List.range n).map fun j => (f j, j) :=
  List.ext_getElem (by simp) fun j _ _ => by simp

theorem getD_map_range (f : Nat → α) (x : α) {j : Nat} (hj : j < n) : ((List.range n).map f).getD j x = f j := by
  rw [List.getD_eq_getElem _ _ (by simpa using hj)]
  simp

theorem granE_eq_map_range (w : Nat) (v : Gran) : granE w v = (List.range (512 / w)).map (elemOf w v) := elems_eq_map_range ..

/-- The flags of those entries that are let through, gathered. -/
theorem foldl_flOr_map_ite (on : α → Bool) (f : α → Nat) (l : List α) (m : Nat) :
    (l.map fun a => if on a then f a else 0).foldl flOr m = (l.filter on).foldl (fun m a => m ||| f a) m := by
  rw [List.foldl_map, List.foldl_filter]
  congr 1
  funext m a
  split
  · rfl
  · exact Nat.or_zero m

theorem flagsOn_map_range (w : Nat) (gm : LaneMask) (r : Nat → Nat × Nat) :
    flagsOn w gm ((List.range n).map r) = ((List.range n).filter (elemOn w gm)).foldl (fun m j => m ||| (r j).2) 0 := by
  rw [flagsOn, zipIdx_map_range, List.map_map]
  exact foldl_flOr_map_ite ..

end

theorem zipWith_range {α : Type} {l : List Nat} {n : Nat} (hl : l.length = n) (f : Nat → Nat → α) :
    List.zipWith f l (List.range n) = (List.range n).map fun j => f (l.getD j 0) j := by
  refine List.ext_getElem (by simp [hl]) fun j hj _ => ?_
  rw [List.length_zipWith, List.length_range, hl, Nat.min_self] at hj
  simp [hl, hj]

theorem filterMap_ite_some {α β : Type} (on : α → Bool) (f : α → β) (l : List α) :
    (l.filterMap fun a => if on a then some (f a) else none) = (l.filter on).map f := by
  induction l with
  | nil => rfl
  | cons a l ih => cases h : on a <;> simp [h, ih]

theorem filterMap_getD_map_range {α β : Type} (on : Nat → Bool) (x : Nat → α) (y : α) (f : α → β) (n : Nat) :
    ((List.range n).filterMap fun j => if on j then some (f (((List.range n).map x).getD j y)) else none)
      = ((List.range n).filter on).map fun j => f (x j) := by
  rw [filterMap_ite_some]
  exact List.map_congr_left fun j hj => by rw [getD_map_range _ _ (List.mem_range.1 (List.mem_filter.1 hj).1)]

theorem packE_map_range_elem (w : Nat) (f : Nat → Nat) {n j : Nat} (hj : j < n) :
    packE w ((List.range n).map f) / 2 ^ (w * j) % 2 ^ w = f j % 2 ^ w := by
  rw [packE_elem, getD_map_range _ _ hj]

theorem testBit_packE (w : Nat) (l : List Nat) (j : Nat) {i : Nat} (hi : i < w) :
    (packE w l).testBit (w * j + i) = (l.getD j 0).testBit i := by
  have h := congrArg (Nat.testBit · i) (packE_elem w l j)
  simpa [Nat.testBit_mod_two_pow, Nat.testBit_div_two_pow, hi, Nat.add_comm i] using h

/-! ### The frame and the draws of a slot (03 R57) -/

/-- Steps that keep the frame may read it in the state before them all. -/
theorem foldl_congr_of_fr {α : Type} {s : State} {f f' : State → α → State} (hfr : ∀ u a, (f' u a).fr = u.fr)
    (hf : ∀ u a, u.fr = s.fr → f u a = f' u a) (l : List α) : l.foldl f s = l.foldl f' s := by
  induction l generalizing s with
  | nil => rfl
  | cons a l ih =>
    rw [List.foldl_cons, List.foldl_cons, hf s a rfl]
    exact ih fun u b hu => hf u b (hu.trans (hfr s a))

/-- Steps that keep the frame keep it together. -/
theorem foldl_fr {α : Type} {f : State → α → State} (hf : ∀ u a, (f u a).fr = u.fr) (l : List α) (s : State) :
    (l.foldl f s).fr = s.fr :=
  List.foldlRecOn l f (motive := fun u => u.fr = s.fr) rfl fun u hu a _ => (hf u a).trans hu

/-- Each element has its number drawn, 0 where none is drawn (03 R57). -/
theorem drawElems_length (w : Nat) (on : Nat → Bool) (n : Nat) : ∀ i gens, (drawElems w on n i gens).1.length = n := by
  induction n with
  | zero => exact fun _ _ => rfl
  | succ n ih =>
    intro i gens
    rw [drawElems]
    split <;> simp [ih]

theorem State.draws_length (s : State) (rnd : Rnd) (w n k : Nat) (on : Nat → Bool) : (s.draws rnd w n k on).1.length = n := by
  unfold State.draws
  split
  · exact drawElems_length ..
  · exact List.length_replicate

@[simp] theorem State.draws_fr (s : State) (rnd : Rnd) (w n k : Nat) (on : Nat → Bool) : (s.draws rnd w n k on).2.fr = s.fr := by
  unfold State.draws
  split <;> rfl

@[simp] theorem State.fpFlags_fr (s : State) (fl due D : Nat) : (s.fpFlags fl due D).fr = s.fr := by
  rw [State.fpFlags_eq]
  split <;> split <;> rfl

@[simp] theorem amaxList_fr (s : State) (l : List (Option Nat)) (due : Nat) : (amaxList s l due).fr = s.fr := by
  unfold amaxList State.amaxAt
  split <;> rfl

end Sys2Proof.Machine

/-! SUPPORT. Reductions, floating-point arithmetic, compares and predicates (03 R74, 05 R98 to R107). -/

namespace Sys2Proof.Machine

/-! ### Reductions (05 R98, R104) -/

/-- Settles O6: a reduction slot takes its slice, and after slice 7 spreads its value; both outcomes are next states. -/
theorem reductionsLandOneValue : Obligations.ReductionsLandOneValue := by
  unfold Obligations.ReductionsLandOneValue
  intro g d a s
  exact ⟨fun ty sat op => (apply_ite Host.Outcome.next _ _ _).symm, fun ft rnd op => (apply_ite Host.Outcome.next _ _ _).symm⟩

/-! ### Floating-point arithmetic (05 R100 to R104) -/

section
variable (g : Guard) (ft : FTy) (rnd : Rnd) (d a b : Nat) (s : State)

/-- A floating-point slot lands each element's result, and the flags of the elements that the guards let through. -/
theorem fpSlot_answers (i : Instr) (w lat : Nat) (f : Nat → Nat → Nat × Nat) :
    let gm := s.laneGuard g s.fr.slice
    let p := s.draws rnd w (512 / w) s.fr.slice (elemOn w gm)
    let r := fun j => f (p.1.getD j 0) j
    let due := s.fr.t + s.fr.slice + lat
    ∃ val fl, fpSlot i g w lat d rnd f s
        = .next (((p.2.landV d s.fr.slice val (elemMask w gm) due).fpFlags fl due (s.fr.t + 7 + lat)).nextSlice i s.fr)
      ∧ (∀ j, j < 512 / w → elemOf w val j = (r j).1 % 2 ^ w)
      ∧ fl = ((List.range (512 / w)).filter (elemOn w gm)).foldl (fun m j => m ||| (r j).2) 0 := by
  refine ⟨eGran w ((List.range (512 / w)).map fun j => _), _, ?_, fun j hj => elemOf_eGran_map_range _ hj, flagsOn_map_range ..⟩
  simp only [fpSlot, State.landV_fr, State.draws_fr, zipWith_range (s.draws_length ..), List.map_map]
  rfl

theorem Fmt.width_pred (F : Fmt) : F.width - 1 = F.eb + F.fb := by
  rw [Fmt.width, Nat.add_assoc, Nat.add_sub_cancel_left]

/-- The sign bit of a pattern in its place. -/
theorem signBit_bit (F : Fmt) {y : Nat} (hy : y < 2 ^ F.width) :
    F.signBit (bit y (F.width - 1)) = y / 2 ^ (F.width - 1) * 2 ^ (F.width - 1)
      ∧ F.signBit (!bit y (F.width - 1)) = (1 - y / 2 ^ (F.width - 1)) * 2 ^ (F.width - 1) := by
  rw [Fmt.width_pred] at *
  have hq : y / 2 ^ (F.eb + F.fb) < 2 := by
    rw [Nat.div_lt_iff_lt_mul (Nat.two_pow_pos _), ← pow_succ']
    rwa [Fmt.width, Nat.add_assoc, Nat.add_comm] at hy
  unfold bit Fmt.signBit
  generalize y / 2 ^ (F.eb + F.fb) = q at *
  interval_cases q <;> simp

/-- FCPS: the sign of the second source put to the magnitude of the first. -/
theorem exec_fcps_eq_fpSlot : exec (.fcps g ft d a b) s = fpSlot (.fcps g ft d a b) g (ftFmt ft).width 2 d .rn (fun _ j =>
    (elemAt s (ftFmt ft).width a s.fr.slice j % 2 ^ ((ftFmt ft).width - 1)
      + elemAt s (ftFmt ft).width b s.fr.slice j / 2 ^ ((ftFmt ft).width - 1) * 2 ^ ((ftFmt ft).width - 1), 0)) s := by
  simp only [← (signBit_bit (ftFmt ft) (elemOf_lt (ftFmt ft).width (s.vget b s.fr.slice) _)).1, elemAt_eq_elemOf]
  rfl

/-- FNEG: the other sign put to the magnitude. -/
theorem exec_fneg_eq_fpSlot : exec (.fneg g ft d a) s = fpSlot (.fneg g ft d a) g (ftFmt ft).width 2 d .rn (fun _ j =>
    (elemAt s (ftFmt ft).width a s.fr.slice j % 2 ^ ((ftFmt ft).width - 1)
      + (1 - elemAt s (ftFmt ft).width a s.fr.slice j / 2 ^ ((ftFmt ft).width - 1)) * 2 ^ ((ftFmt ft).width - 1), 0)) s := by
  simp only [← (signBit_bit (ftFmt ft) (elemOf_lt (ftFmt ft).width (s.vget a s.fr.slice) _)).2, elemAt_eq_elemOf]
  rfl

end

/-- Settles O8: each instruction is a floating-point slot, whose elements, draws and flags `fpSlot_answers` gives. -/
theorem vectorFloatArithmetic : Obligations.VectorFloatArithmetic := by
  unfold Obligations.VectorFloatArithmetic
  intro g ft rnd d a b c s
  dsimp only
  refine ⟨fpSlot_answers .., fpSlot_answers .., fpSlot_answers .., fpSlot_answers .., fpSlot_answers .., fpSlot_answers .., fpSlot_answers ..,
    fpSlot_answers .., ?_, fpSlot_answers .., ?_, fpSlot_answers .., fpSlot_answers .., fpSlot_answers .., fpSlot_answers .., fpSlot_answers ..,
    fpSlot_answers .., fpSlot_answers ..⟩
  · rw [exec_fcps_eq_fpSlot]
    exact fpSlot_answers ..
  · rw [exec_fneg_eq_fpSlot]
    exact fpSlot_answers ..

/-! ### Compares and predicates (05 R105 to R107) -/

/-- One bit for each lane, put together. -/
theorem getLsbD_ofNat_sum_bits (p : Nat → Bool) {l : Nat} (hl : l < 16) :
    (BitVec.ofNat 16 (((List.range 16).map fun l => if p l then 2 ^ l else 0).foldl (· + ·) 0)).getLsbD l = p l := by
  have hsum := packE_map_range (w := 1) (f := fun l => (p l).toNat) (fun l => Bool.toNat_lt (p l)) 16
  have hterm : (fun l => (p l).toNat * 2 ^ (1 * l)) = fun l => if p l then 2 ^ l else 0 := by
    funext l
    cases p l <;> simp
  have hbit := testBit_packE 1 ((List.range 16).map fun l => (p l).toNat) l zero_lt_one
  rw [getD_map_range _ _ hl, Nat.one_mul, Nat.add_zero] at hbit
  rw [BitVec.getLsbD_ofNat, decide_eq_true hl, Bool.true_and, ← hterm, ← hsum, hbit]
  cases p l <;> rfl

/-- Two bits for each lane pair, put together. -/
theorem getLsbD_ofNat_sum_pairs (p : Nat → Bool) {l : Nat} (hl : l < 16) :
    (BitVec.ofNat 16 (((List.range 8).map fun i => if p i then 3 * 4 ^ i else 0).foldl (· + ·) 0)).getLsbD l = p (l / 2) := by
  have hsum := packE_map_range (w := 2) (f := fun i => if p i then 3 else 0) (fun i => by split <;> decide) 8
  have hterm : (fun i => (if p i then 3 else 0) * 2 ^ (2 * i)) = fun i => if p i then 3 * 4 ^ i else 0 := by
    funext i
    rw [ite_mul, Nat.zero_mul, Nat.pow_mul]
  have hbit := testBit_packE 2 ((List.range 8).map fun i => if p i then 3 else 0) (l / 2) (Nat.mod_lt l two_pos)
  rw [getD_map_range _ _ (by omega), Nat.div_add_mod] at hbit
  rw [BitVec.getLsbD_ofNat, decide_eq_true hl, Bool.true_and, ← hterm, ← hsum, hbit]
  rcases Nat.mod_two_eq_zero_or_one l with h | h <;> rw [h] <;> cases p (l / 2) <;> rfl

/-- The elements of a lane are elements of the slice. -/
theorem laneElem_lt (ty : ElemTy) {l i : Nat} (hl : l < 16) (hi : i < 32 / ty.width) : l * (32 / ty.width) + i < 512 / ty.width := by
  have hfill : 16 * (32 / ty.width) ≤ 512 / ty.width := by cases ty <;> decide
  nlinarith

theorem laneResult_map_range (ty : ElemTy) (h : Nat → Bool) {l : Nat} (hl : l < 16) :
    (laneResult ty.width ((List.range (512 / ty.width)).map h)).getLsbD l
      = if ty.width = 64 then h (l / 2) else (List.range (32 / ty.width)).all fun i => h (l * (32 / ty.width) + i) := by
  rw [laneResult, getLsbD_ofNat_sum_bits _ hl]
  split
  · next hw => exact getD_map_range _ _ (by rw [hw]; omega)
  · rw [Bool.eq_iff_iff, List.all_eq_true, List.all_eq_true]
    refine forall₂_congr fun i hi => ?_
    rw [getD_map_range _ _ (laneElem_lt ty hl (List.mem_range.1 hi))]

theorem cmpMask_getLsbD (w : Nat) (g : LaneMask) {l : Nat} (hl : l < 16) :
    (cmpMask w g).getLsbD l = g.getLsbD (if w = 64 then 2 * (l / 2) else l) := by
  unfold cmpMask
  split
  · exact getLsbD_ofNat_sum_pairs (fun i => g.getLsbD (2 * i)) hl
  · rfl

theorem elemFmt_width {ty : ElemTy} {F : Fmt} (h : elemFmt ty = some F) : F.width = ty.width := by
  cases ty <;> cases h <;> rfl

section
variable (g : Guard) (ty : ElemTy) (cond : Cond) (pp a b : Nat) (s : State)

/-- VCMP lands the pair of its elements' comparisons. -/
theorem exec_vcmp :
    let k := s.fr.slice
    let w := ty.width
    let holds := fun j => condHolds cond (intVal ty.isSigned w (elemAt s w a k j)) (intVal ty.isSigned w (elemAt s w b k j))
      (elemAt s w a k j) (elemAt s w b k j)
    exec (.vcmp g ty cond pp a b) s = .next ((landPair s pp k (laneResult w ((List.range (512 / w)).map holds))
      (cmpMask w (s.laneGuard g k)) (s.fr.t + k + 3)).nextSlice (.vcmp g ty cond pp a b) s.fr) := by
  change execVcmp .. = _
  simp only [execVcmp, granE_eq_map_range, List.zipWith_map, List.zipWith_self]
  rfl

/-- FCMP lands the pair of its elements' comparisons, with the flags of the elements let through. -/
theorem exec_fcmp {F : Fmt} (hF : elemFmt ty = some F) :
    let k := s.fr.slice
    let w := F.width
    let gm := s.laneGuard g k
    let r := fun j => fcmpElem F cond (elemAt s w a k j) (elemAt s w b k j)
    exec (.fcmp g ty cond pp a b) s = .next (((landPair s pp k (laneResult w ((List.range (512 / w)).map fun j => (r j).1)) (cmpMask w gm)
      (s.fr.t + k + 3)).fpFlags (((List.range (512 / w)).filter (elemOn w gm)).foldl (fun m j => m ||| (r j).2) 0) (s.fr.t + k + 3)
        (s.fr.t + 10)).nextSlice (.fcmp g ty cond pp a b) s.fr) := by
  change execFcmp .. = _
  simp only [execFcmp, hF, Option.getD_some, granE_eq_map_range, List.zipWith_map, List.zipWith_self, List.map_map, flagsOn_map_range]
  rfl

end

/-- Settles O10: a compare's bits and mask lane by lane, and predicate logic bit by bit. -/
theorem comparesAndPredicates : Obligations.ComparesAndPredicates := by
  unfold Obligations.ComparesAndPredicates
  intro g ty cond pp d a b s
  refine ⟨⟨_, _, exec_vcmp .., fun l hl => laneResult_map_range ty _ hl, fun l hl => cmpMask_getLsbD _ _ hl⟩, fun F hF => ?_,
    ⟨_, rfl, fun l _ => BitVec.getLsbD_and⟩, ⟨_, rfl, fun l _ => BitVec.getLsbD_or⟩, ⟨_, rfl, fun l _ => BitVec.getLsbD_xor⟩,
    ⟨_, rfl, fun l hl => ?_⟩, ⟨_, rfl, fun l _ => rfl⟩, ⟨_, rfl, fun j hj => ?_⟩⟩
  · refine ⟨_, _, _, exec_fcmp (hF := hF) .., fun l hl => ?_, fun l hl => cmpMask_getLsbD _ _ hl, rfl⟩
    rw [elemFmt_width hF]
    exact laneResult_map_range ty _ hl
  · rw [BitVec.getLsbD_not, decide_eq_true hl, Bool.true_and]
  · have hcount := popN_eq_length_filter 16 (s.pget a s.fr.slice).toNat
    simp only [BitVec.testBit_toNat] at hcount
    rw [← hcount]
    exact (elemOf_eGran_replicate _ hj).trans (Nat.mod_eq_of_lt ((popN_le ..).trans_lt (by decide)))

end Sys2Proof.Machine

/-! SUPPORT. Conversions of elements and of blocks (03 R65 to R68, 05 R108 to R110). -/

namespace Sys2Proof.Machine

/-! ### Conversions of elements (05 R108) -/

/-- A conversion slot lands each element's result in its unit of the wider type, with the flags of the elements let through; an FP8
destination merges their magnitudes into AMAX. -/
theorem cvtSlot_eq (i : Instr) (g : Guard) (sat : Bool) (dt st : ElemTy) (rnd : Rnd) (d a : Nat) (s : State) :
    let k := s.fr.slice
    let gm := s.laneGuard g k
    let W := max dt.width st.width
    let n := 512 / W
    let x := fun j => (s.vget a k).toNat / 2 ^ cvtPlace W st.width j % 2 ^ st.width
    let p := s.draws (if cvtRounds st dt then rnd else .rn) W n k (elemOn W gm)
    let r := fun j => cvtElem st dt rnd (p.1.getD j 0) sat (x j)
    let due := s.fr.t + k + 4
    let u := (p.2.landV d k (BitVec.ofNat 512 (((List.range n).map fun j => (r j).1 * 2 ^ cvtPlace W dt.width j).foldl (· + ·) 0))
      (elemMask W gm) due).fpFlags (((List.range n).filter (elemOn W gm)).foldl (fun m j => m ||| (r j).2) 0) due (s.fr.t + 11)
    cvtSlot i g sat dt st rnd d a s = .next ((if dt = .e4m3 ∨ dt = .e5m2 then
      amaxList u (((List.range n).filter (elemOn W gm)).map fun j => elemIn st (x j)) (s.fr.t + 11) else u).nextSlice i s.fr) := by
  have hmax : Nat.max dt.width st.width = max dt.width st.width := rfl
  simp only [cvtSlot, hmax, List.zipWith_map_right, zipWith_range (s.draws_length ..), zipIdx_map_range, flagsOn_map_range,
    List.filter_map, List.map_map, beq_iff_eq, Bool.or_eq_true, apply_ite State.fr, amaxList_fr, State.fpFlags_fr, State.landV_fr,
    State.draws_fr, ite_self]
  rfl

/-- Settles O11: CVT and CVT.sat are conversion slots. -/
theorem conversionsOfElements : Obligations.ConversionsOfElements := by
  unfold Obligations.ConversionsOfElements
  intro g dt st rnd sat d a s
  cases sat with
  | false => exact ⟨_, _, cvtSlot_eq .., rfl, rfl⟩
  | true => exact ⟨_, _, cvtSlot_eq .., rfl, rfl⟩

/-! ### Whole registers (05 R109, R110) -/

/-- A whole register lands slice by slice at the counts that the frame gives at the start. -/
theorem landWhole_eq (s : State) (d lat : Nat) (gt : BitVec 128) (v : Nat) : landWhole s d lat gt v = (List.range 8).foldl
    (fun (u : State) k => u.landV d k (BitVec.ofNat 512 (v / 2 ^ (512 * k))) (laneBits (sliceOf gt k)) (s.fr.t + lat + k)) s := by
  unfold landWhole
  exact foldl_congr_of_fr (fun _ _ => State.landV_fr ..) (fun u _ hu => by rw [hu]) _

@[simp] theorem landWhole_fr (s : State) (d lat : Nat) (gt : BitVec 128) (v : Nat) : (landWhole s d lat gt v).fr = s.fr :=
  foldl_fr (fun _ _ => State.landV_fr ..) _ s

theorem amaxList_eq_amaxAt (s : State) (l : List (Option Nat)) (due : Nat) :
    amaxList s l due = s.amaxAt (l.foldl (fun m e => max m (e.getD 0)) 0) (l.any Option.isNone) due := by
  unfold amaxList
  congr 1
  refine List.foldl_ext _ _ _ fun m e _ => ?_
  cases e with
  | none => exact (Nat.max_zero m).symm
  | some v => rfl

/-- Magnitudes merge into AMAX unless all are zero and none is a NaN (03 R63). -/
theorem amaxList_eq (s : State) (l : List (Option Nat)) (due : Nat) :
    let top := l.foldl (fun m e => max m (e.getD 0)) 0
    amaxList s l due = if top = 0 ∧ (∀ e ∈ l, e ≠ none) then s else s.push due (.amax top (l.any Option.isNone)) := by
  intro top
  have hNaN : (!l.any Option.isNone) = true ↔ ∀ e ∈ l, e ≠ none := by simp [List.any_eq_false]
  rw [amaxList_eq_amaxAt, State.amaxAt]
  refine if_congr ?_ rfl rfl
  rw [Bool.and_eq_true, decide_eq_true_eq, hNaN]

/-! ### The image of encoded blocks (03 R66, 05 R109) -/

/-- Bits below place `m` of a number with more above. -/
theorem add_two_pow_mul_field {m p q : Nat} (x y : Nat) (h : p + q ≤ m) : (x + 2 ^ m * y) / 2 ^ p % 2 ^ q = x / 2 ^ p % 2 ^ q := by
  obtain ⟨r, rfl⟩ := Nat.exists_eq_add_of_le h
  rw [show x + 2 ^ (p + q + r) * y = x + 2 ^ p * (2 ^ q * (2 ^ r * y)) by ring, Nat.add_mul_div_left _ _ (Nat.two_pow_pos p),
    Nat.add_mul_mod_self_left]

/-- A field of a field. -/
theorem field_of_field {p q P Q : Nat} (x : Nat) (h : p + q ≤ Q) : x / 2 ^ P % 2 ^ Q / 2 ^ p % 2 ^ q = x / 2 ^ (P + p) % 2 ^ q := by
  conv_rhs => rw [pow_add, ← Nat.div_div_eq_div_mul, ← Nat.mod_add_div (x / 2 ^ P) (2 ^ Q)]
  rw [add_two_pow_mul_field _ _ h]

/-- The register image of `N` encoded blocks: codes of `bw` bits from the bottom, and the pairs of scale bytes from bit `base` on. -/
def blockImage (base bw N : Nat) (blk : Nat → List Nat × Nat × Nat × Nat) : Nat :=
  packE (bw * 64) ((List.range N).map fun b => packE bw (blk b).1)
    + 2 ^ base * packE 16 ((List.range N).map fun b => (blk b).2.1 + 2 ^ 8 * (blk b).2.2.1)

/-- Blocks of up to 64 codes with two scales of one byte. -/
def BlocksFit (blk : Nat → List Nat × Nat × Nat × Nat) : Prop :=
  ∀ b, (blk b).1.length ≤ 64 ∧ (blk b).2.1 < 2 ^ 8 ∧ (blk b).2.2.1 < 2 ^ 8

section
variable {base bw N b : Nat} {blk : Nat → List Nat × Nat × Nat × Nat} (h : BlocksFit blk)
include h

theorem BlocksFit.codes_lt (bw b : Nat) : packE bw (blk b).1 < 2 ^ (bw * 64) :=
  (packE_lt ..).trans_le (Nat.pow_le_pow_right two_pos (Nat.mul_le_mul_left _ (h b).1))

theorem BlocksFit.scales_lt (b : Nat) : (blk b).2.1 + 2 ^ 8 * (blk b).2.2.1 < 2 ^ 16 := by
  obtain ⟨-, h0, h1⟩ := h b
  omega

theorem BlocksFit.sum_eq_blockImage : ((List.range N).map fun b => packE bw (blk b).1 * 2 ^ (8 * (b * 8 * bw))
    + (blk b).2.1 * 2 ^ (base + 16 * b) + (blk b).2.2.1 * 2 ^ (base + 16 * b + 8)).foldl (· + ·) 0 = blockImage base bw N blk := by
  rw [blockImage, packE_map_range (h.codes_lt bw), packE_map_range h.scales_lt, ← List.sum_eq_foldl, ← List.sum_eq_foldl,
    ← List.sum_eq_foldl, ← List.sum_map_mul_left, ← List.sum_map_add]
  congr 1
  refine List.map_congr_left fun b _ => ?_
  rw [show 8 * (b * 8 * bw) = bw * 64 * b by ring, pow_add _ _ 8, pow_add]
  ring

variable (hb : b < N) (hbits : bw * 64 * N ≤ base)
include hb hbits

theorem BlocksFit.blockImage_code {i : Nat} (hi : i < 64) :
    blockImage base bw N blk / 2 ^ (bw * (64 * b + i)) % 2 ^ bw = (blk b).1.getD i 0 % 2 ^ bw := by
  have hin : bw * i + bw ≤ bw * 64 := by nlinarith
  have hblk : bw * 64 * b + bw * 64 ≤ bw * 64 * N := by nlinarith
  rw [blockImage, add_two_pow_mul_field _ _ (by rw [Nat.mul_add, ← Nat.mul_assoc]; omega), Nat.mul_add, ← Nat.mul_assoc,
    ← field_of_field _ hin, packE_map_range_elem _ _ hb, Nat.mod_eq_of_lt (h.codes_lt bw b), packE_elem]

theorem BlocksFit.blockImage_scales :
    blockImage base bw N blk / 2 ^ (base + 16 * b) % 256 = (blk b).2.1 % 256
      ∧ blockImage base bw N blk / 2 ^ (base + 16 * b + 8) % 256 = (blk b).2.2.1 % 256 := by
  obtain ⟨-, h0, h1⟩ := h b
  have hcodes : packE (bw * 64) ((List.range N).map fun b => packE bw (blk b).1) < 2 ^ base :=
    (packE_lt ..).trans_le (Nat.pow_le_pow_right two_pos (by simpa using hbits))
  have hpair : blockImage base bw N blk / 2 ^ (base + 16 * b) % 2 ^ 16 = (blk b).2.1 + 2 ^ 8 * (blk b).2.2.1 := by
    rw [pow_add, ← Nat.div_div_eq_div_mul, blockImage, Nat.add_mul_div_left _ _ (Nat.two_pow_pos _), Nat.div_eq_of_lt hcodes, Nat.zero_add,
      packE_map_range_elem _ _ hb, Nat.mod_eq_of_lt (h.scales_lt b)]
  rw [pow_add _ (base + 16 * b), ← Nat.div_div_eq_div_mul]
  generalize blockImage base bw N blk / 2 ^ (base + 16 * b) = q at *
  omega

end

/-- An encoded block has at most the elements given, and its exponents are bytes. -/
theorem dxEncode_fits (dx4 : Bool) (rnd : Rnd) (xs : List FV) (us : List Nat) :
    let r := dxEncode dx4 rnd xs us
    r.1.length ≤ xs.length ∧ r.2.1 < 2 ^ 8 ∧ r.2.2.1 < 2 ^ 8 := by
  have hnone : 255 < 2 ^ 8 := by decide
  have hzero : 0 < 2 ^ 8 := by decide
  have hmin : ∀ n, Nat.min 254 n < 2 ^ 8 := fun n => (min_le_left 254 n).trans_lt (by decide)
  unfold dxEncode
  dsimp only
  split
  · exact ⟨(List.length_map _).le, hnone, hnone⟩
  · refine ⟨?_, ?_, (Nat.sub_le ..).trans_lt ?_⟩
    · rw [List.length_map, List.length_zipWith]
      exact min_le_left ..
    all_goals
      split
      · exact hzero
      · exact hmin _

theorem blocksFit_dxEncode (dx4 : Bool) (rnd : Rnd) (xs : List FV) (us : List Nat) :
    BlocksFit fun b => dxEncode dx4 rnd ((xs.drop (64 * b)).take 64) ((us.drop (64 * b)).take 64) := fun b => by
  obtain ⟨hlen, hscales⟩ := dxEncode_fits dx4 rnd ((xs.drop (64 * b)).take 64) ((us.drop (64 * b)).take 64)
  exact ⟨hlen.trans (List.length_take_le ..), hscales⟩

/-- The scale bytes of a block stand in one pair of bytes from byte 448 on. -/
theorem scaleByte_place (b : Nat) : 8 * (448 + 2 * b) = 3584 + 16 * b ∧ 8 * (449 + 2 * b) = 3584 + 16 * b + 8 := by omega

/-! ### Decoding, encoding and expanding (05 R109, R110) -/

section
variable (s : State) (F : Fmt) (dx4 : Bool) (rnd : Rnd) (gt : BitVec 128) (d a : Nat)

/-- Decoded blocks: each element the value of its code under its block's scales. -/
theorem cvtbDecode_eq :
    let v := wholeReg s a
    let bw := if dx4 then 4 else 8
    let dec := fun j => dxVal dx4 (v / 2 ^ (8 * (448 + 2 * (j / 64))) % 256) (v / 2 ^ (8 * (449 + 2 * (j / 64))) % 256)
      (v / 2 ^ (bw * j) % 2 ^ bw)
    cvtbDecode s F dx4 gt d a = amaxList
      (landWhole s d 4 gt (packE F.width ((List.range (4096 / F.width)).map fun j => (F.ofFV .rn 0 false (dec j)).1)))
      (((List.range (4096 / F.width)).filter fun j => gt.getLsbD (j * F.width / 32)).map fun j => amaxIn (dec j)) (s.fr.t + 11) := by
  intro v bw dec
  have hplace : ∀ j, j / 64 * 64 * bw + bw * (j % 64) = bw * j := fun j => by
    rw [mul_comm _ bw, ← Nat.mul_add, mul_comm _ 64, Nat.div_add_mod]
  simp only [cvtbDecode, List.map_map, landWhole_fr, filterMap_getD_map_range (fun j => gt.getLsbD (j * F.width / 32))]
  simp only [show (if dx4 then 4 else 8) = bw from rfl, hplace]
  rfl

/-- Encoded blocks, with the flags of all of them and the magnitudes of the elements let through. -/
theorem cvtbEncode_eq :
    let w := F.width
    let v := wholeReg s a
    let bw := if dx4 then 4 else 8
    let on := fun j => gt.getLsbD (j * w / 32)
    let us := drawWhole s rnd w gt
    let xs := (List.range (4096 / w)).map fun j => if on j then F.decode (v / 2 ^ (w * j) % 2 ^ w) else FV.fin false 0 0
    let blk := fun b => dxEncode dx4 rnd ((xs.drop (64 * b)).take 64) ((us.drop (64 * b)).take 64)
    cvtbEncode s F dx4 rnd gt d a = amaxList ((landWhole s d 4 gt (blockImage 3584 bw (4096 / w / 64) blk)).fpFlags
        (((List.range (4096 / w / 64)).map fun b => (blk b).2.2.2).foldl (fun m e => m ||| e) 0) (s.fr.t + 11) (s.fr.t + 11))
      (((List.range (4096 / w)).filter on).map fun j => amaxIn (F.decode (v / 2 ^ (w * j) % 2 ^ w))) (s.fr.t + 11) := by
  intro w v bw on us xs blk
  have hfit : BlocksFit blk := blocksFit_dxEncode dx4 rnd xs us
  have hin : ((List.range (4096 / w)).filterMap fun j => if on j then some (amaxIn (xs.getD j (.nan false))) else none)
      = ((List.range (4096 / w)).filter on).map fun j => amaxIn (F.decode (v / 2 ^ (w * j) % 2 ^ w)) :=
    (filterMap_getD_map_range ..).trans (List.map_congr_left fun j hj => by rw [if_pos (List.mem_filter.1 hj).2])
  rw [← hfit.sum_eq_blockImage, ← hin]
  simp only [cvtbEncode, zipIdx_map_range, List.map_map, State.fpFlags_fr, landWhole_fr, scaleByte_place]
  rfl

end

theorem cvtbEncode_fr (s : State) (F : Fmt) (dx4 : Bool) (rnd : Rnd) (gt : BitVec 128) (d a : Nat) :
    (cvtbEncode s F dx4 rnd gt d a).fr = s.fr := by
  rw [cvtbEncode_eq, amaxList_fr, State.fpFlags_fr, landWhole_fr]

/-- The state after `n` weights with the exact values `gx` are rounded to BF16 and land under the guards `gt`. -/
def landExpanded (s : State) (d : Nat) (gt : BitVec 128) (n : Nat) (gx : Nat → FV × Nat) : State :=
  let gr := fun j => Fmt.bf16.finish .rn 0 (gx j)
  let on := fun j => gt.getLsbD (j / 2)
  amaxList ((landWhole s d 4 gt (packE 16 ((List.range n).map fun j => (gr j).1))).fpFlags
      ((((List.range n).filter on).map fun j => (gr j).2).foldl (fun m e => m ||| e) 0) (s.fr.t + 11) (s.fr.t + 11))
    (((List.range n).filter on).map fun j => amaxIn (gx j).1) (s.fr.t + 11)

/-- The lists that CVTG makes of its weights, for any number of them. -/
theorem landExpanded_eq (s : State) (d : Nat) (gt : BitVec 128) (n : Nat) (gx : Nat → FV × Nat) :
    let ex := (List.range n).map gx
    let res := ex.map fun e => Fmt.bf16.finish .rn 0 e
    let on := fun j => gt.getLsbD (j / 2)
    let t := landWhole s d 4 gt (packE 16 (res.map (·.1)))
    let u := t.fpFlags ((res.zipIdx.map fun e => if on e.2 then e.1.2 else 0).foldl flOr 0) (t.fr.t + 11) (t.fr.t + 11)
    amaxList u ((ex.zipIdx.filter fun e => on e.2).map fun e => amaxIn e.1.1) (u.fr.t + 11) = landExpanded s d gt n gx := by
  simp only [landExpanded, zipIdx_map_range, List.map_map, List.filter_map, State.fpFlags_fr, landWhole_fr, Function.comp_def,
    foldl_flOr_map_ite]
  rw [List.foldl_map]

theorem exec_cvtg (g : Guard) (d a : Nat) (s : State) :
    let v := wholeReg s a
    exec (.cvtg g d a) s = .next (landExpanded s d (s.allGuards g) 256 fun j => g4Exact (v / 2 ^ (8 * (128 + 4 * (j / 64))) % 65536)
      (v / 2 ^ (8 * (130 + 4 * (j / 64))) % 16) (v / 2 ^ (256 * (j / 64) + 4 * (j % 64)) % 16)) := by
  dsimp only
  rw [← landExpanded_eq]
  rfl

section
variable (g : Guard) (bf dx4 : Bool) (rnd : Rnd) (d a : Nat) (s : State)

theorem cvtbAdvance_eq (i : Instr) (w : Nat) : cvtbAdvance i rnd w s
    = if rnd = .rs then (s.draws .rs w (512 / w) s.fr.slice (elemOn w (sliceOf s.fr.gt s.fr.slice))).2.nextSlice i s.fr else s :=
  ite_not ..

/-- After slice 0 a CVTB only advances generators. -/
theorem exec_cvtb_later {dec : Bool} (hk : s.fr.slice ≠ 0) :
    exec (.cvtb g bf dx4 dec rnd d a) s = .next (cvtbAdvance (.cvtb g bf dx4 dec rnd d a) rnd (if bf then Fmt.bf16 else Fmt.f32).width s) :=
  if_pos hk

theorem exec_cvtb_refused {dec : Bool} (hr : (dx4 && (s.gangOf s.fr.x).dock && s.allGuards g != 0) = true) (hk : s.fr.slice = 0) :
    exec (.cvtb g bf dx4 dec rnd d a) s = .next (s.raiseIssue 22 (BitVec.ofNat 64 s.fr.bits)) :=
  (if_neg (not_not.2 hk)).trans (if_pos hr)

theorem exec_cvtb_decode (hr : (dx4 && (s.gangOf s.fr.x).dock && s.allGuards g != 0) = false) (hk : s.fr.slice = 0) :
    exec (.cvtb g bf dx4 true rnd d a) s = .next (cvtbDecode s (if bf then .bf16 else .f32) dx4 (s.allGuards g) d a) :=
  (if_neg (not_not.2 hk)).trans (if_neg (Bool.eq_false_iff.1 hr))

/-- An encoding CVTB goes on from the state `t` that its blocks leave, with its guards kept for the slices after it. -/
theorem exec_cvtb_encode {t : State} (hr : (dx4 && (s.gangOf s.fr.x).dock && s.allGuards g != 0) = false) (hk : s.fr.slice = 0)
    (ht : cvtbEncode s (if bf then .bf16 else .f32) dx4 rnd (s.allGuards g) d a = t) :
    let w := (if bf then Fmt.bf16 else Fmt.f32).width
    let i : Instr := .cvtb g bf dx4 false rnd d a
    let u : State := { t with fr := { s.fr with gt := s.allGuards g } }
    exec i s = .next (if rnd = .rs then
      (u.draws .rs w (512 / w) u.fr.slice (elemOn w (sliceOf u.fr.gt u.fr.slice))).2.nextSlice i u.fr else u) := by
  intro w i u
  have hexec : exec i s = .next (cvtbAdvance i rnd w { t with fr := { t.fr with gt := s.allGuards g } }) := by
    rw [← ht]
    exact (if_neg (not_not.2 hk)).trans (if_neg (Bool.eq_false_iff.1 hr))
  rw [hexec, cvtbAdvance_eq, ← ht, cvtbEncode_fr, ht]

end

/-- Settles O12: the four ways of CVTB, CVTG, and what a landing of a whole register and a merge into AMAX are. -/
theorem blockConversions : Obligations.BlockConversions := by
  unfold Obligations.BlockConversions
  intro g bf dx4 rnd d a s gt F w v bw on refused dec us xs blk gx gr flags i advances
  have hbw : bw ≤ 8 := by
    simp only [bw]
    split <;> decide
  have hN : 4096 / w / 64 ≤ 4 := by
    cases bf <;> decide
  have hbits : bw * 64 * (4096 / w / 64) ≤ 3584 := by nlinarith
  have hfit : BlocksFit blk := blocksFit_dxEncode dx4 rnd xs us
  refine ⟨fun hk => ?later, fun hr hk dec => ?refused, fun hr hk => ⟨_, ?decodes, fun j hj => packE_map_range_elem _ _ hj⟩,
    fun hr hk => ⟨blockImage 3584 bw (4096 / w / 64) blk, ?encodes, fun b hb => ⟨fun i hi => ?code, ?scales⟩⟩,
    ⟨_, exec_cvtg .., fun j hj => packE_map_range_elem 16 _ hj⟩, fun u img => ⟨_, fun k => rfl, landWhole_eq ..⟩, amaxList_eq⟩
  case later => rw [exec_cvtb_later _ _ _ _ _ _ _ hk, cvtbAdvance_eq]
  case refused => exact exec_cvtb_refused g bf dx4 rnd d a s hr hk
  case decodes => rw [exec_cvtb_decode _ _ _ _ _ _ _ hr hk, cvtbDecode_eq]
  case encodes => exact exec_cvtb_encode g bf dx4 rnd d a s hr hk (cvtbEncode_eq ..)
  case code => exact hfit.blockImage_code hb hbits hi
  case scales =>
    rw [(scaleByte_place b).1, (scaleByte_place b).2]
    exact hfit.blockImage_scales hb hbits

end Sys2Proof.Machine

/-! SUPPORT. Fields of lanes, generators, rearrangements and streams (05 R111 to R117, 04 R82). -/

namespace Sys2Proof.Machine

/-! ### Fields of lanes and generators (05 R111 to R113) -/

/-- A field of a number replaced: the new field, and what lies below and above it. -/
theorem putField_parts (W o z x : Nat) :
    let r := z - z / 2 ^ o % 2 ^ W * 2 ^ o + x % 2 ^ W * 2 ^ o
    r / 2 ^ o % 2 ^ W = x % 2 ^ W ∧ r % 2 ^ o = z % 2 ^ o ∧ r / 2 ^ (o + W) = z / 2 ^ (o + W) := by
  have hlow := Nat.mod_lt z (Nat.two_pow_pos o)
  have hfield := Nat.mod_lt x (Nat.two_pow_pos W)
  have hsplit : z = z % 2 ^ o + 2 ^ o * (z / 2 ^ o % 2 ^ W + 2 ^ W * (z / 2 ^ (o + W))) := by
    rw [pow_add, ← Nat.div_div_eq_div_mul, Nat.mod_add_div, Nat.mod_add_div]
  generalize z % 2 ^ o = lo at *
  generalize z / 2 ^ o % 2 ^ W = f at *
  generalize z / 2 ^ (o + W) = hi at *
  generalize x % 2 ^ W = x at *
  intro r
  have hr : r = lo + 2 ^ o * (x + 2 ^ W * hi) := by
    simp only [r, hsplit]
    rw [Nat.sub_eq_of_eq_add (b := f * 2 ^ o) (c := lo + 2 ^ o * (2 ^ W * hi)) (by ring)]
    ring
  have hq : r / 2 ^ o = x + 2 ^ W * hi := by
    rw [hr, Nat.add_mul_div_left _ _ (Nat.two_pow_pos o), Nat.div_eq_of_lt hlow, Nat.zero_add]
  refine ⟨?_, ?_, ?_⟩
  · rw [hq, Nat.add_mul_mod_self_left, Nat.mod_eq_of_lt hfield]
  · rw [hr, Nat.add_mul_mod_self_left, Nat.mod_eq_of_lt hlow]
  · rw [pow_add, ← Nat.div_div_eq_div_mul, hq, Nat.add_mul_div_left _ _ (Nat.two_pow_pos W), Nat.div_eq_of_lt hfield, Nat.zero_add]

/-- A number of `n` bits keeps them with a field inside replaced. -/
theorem putField_lt {W o n z x : Nat} (hz : z < 2 ^ n) (hn : o + W ≤ n) : z - z / 2 ^ o % 2 ^ W * 2 ^ o + x % 2 ^ W * 2 ^ o < 2 ^ n := by
  obtain ⟨-, -, hhigh⟩ := putField_parts W o z x
  obtain ⟨m, rfl⟩ := Nat.exists_eq_add_of_le hn
  have hquot : z / 2 ^ (o + W) < 2 ^ m := (Nat.div_lt_iff_lt_mul (Nat.two_pow_pos _)).2 (hz.trans_eq (by ring))
  rw [← hhigh] at hquot
  exact ((Nat.div_lt_iff_lt_mul (Nat.two_pow_pos _)).1 hquot).trans_eq (by ring)

section
variable (g : Guard) (d : Nat) (s : State)

/-- The state in which AMAXR lands what it has read: in slice 0 AMAX is captured, and cleared under the guard. -/
theorem exec_amaxr :
    let c := s.ctx s.fr.x
    let s0 : State := if s.fr.slice = 0 then { s with fr := { s.fr with cap := c.amax } } else s
    let s1 : State := if s.fr.slice = 0 ∧ s.onceGuard g = true then
      { s0.setCtx s.fr.x { c with amax := 0 } with undo := ⟨s.fr.x, s.fr.hnd, s.fr.ord, .creg 16 c.amax, 0⟩ :: s.undo } else s0
    exec (.amaxr g d) s = .next (laneNext (.amaxr g d) g 64 2 d (eGran 64 (List.replicate 8 s1.fr.cap.toNat)) s1) := by
  change execAmaxr g d s = _
  unfold execAmaxr
  by_cases hk : s.fr.slice = 0
  · by_cases hg : s.onceGuard g = true
    · simp only [hk, hg, and_self, if_true]
      rfl
    · simp only [hk, hg, if_true]
      rfl
  · simp only [hk, false_and, if_false]
    rfl

/-- SEED reads the register in slice 0 and loads the generators of its slice. -/
theorem exec_seed :
    let k := s.fr.slice
    let s0 : State := if k = 0 then { s with fr := { s.fr with cap := (s.ctx s.fr.x).seed } } else s
    exec (.seed g) s = .next ((s0.push (s.fr.t + k) (.seedGen k (seedSlice s0.fr.cap k) (laneBits (s.laneGuard g k)))).nextSlice
      (.seed g) s0.fr) := by
  change execSeed g s = _
  unfold execSeed
  by_cases hk : s.fr.slice = 0
  · simp only [if_pos hk]
    rfl
  · simp only [if_neg hk]

end

/-- Settles O13: PACK and UNPK by the fields of a lane, AMAXR and SEED by what slice 0 captures. -/
theorem packUnpackAndSeed : Obligations.PackUnpackAndSeed := by
  unfold Obligations.PackUnpackAndSeed
  intro g w p d a s hp
  rw [Nat.mul_succ] at hp
  refine ⟨⟨_, rfl, fun l hl => ?_⟩, ⟨_, rfl, fun l hl => ?_⟩, ⟨_, exec_amaxr .., fun j hj => ?_⟩, exec_seed ..,
    ⟨_, rfl, fun l hl => ?_⟩⟩
  · rw [elemOf_map2 hl (putField_lt (elemOf_lt ..) hp), Nat.mul_succ]
    exact putField_parts ..
  · exact elemOf_map1 hl (((Nat.mod_le ..).trans (Nat.div_le_self ..)).trans_lt (elemOf_lt ..))
  · exact (elemOf_eGran_replicate _ hj).trans (Nat.mod_eq_of_lt (BitVec.isLt _))
  · refine elemOf_map1 hl ?_
    split
    · decide
    · exact elemOf_lt ..

/-! ### ZIP, UZP and PERM (05 R114, R115) -/

/-- A group of registers lands at the count that the frame gives at the start. -/
theorem landGroup_eq (s : State) (d k : Nat) (gm : LaneMask) (l : List Gran) : landGroup s d k gm l
    = l.zipIdx.foldl (fun (u : State) e => u.landV (d + e.2) k e.1 (laneBits gm) (s.fr.t + k + 3)) s := by
  unfold landGroup
  exact foldl_congr_of_fr (fun _ _ => State.landV_fr ..) (fun u _ hu => by rw [hu]) _

section
variable {m : Nat} (w : Nat) (v : Nat → Gran)

/-- Register `r` of interleaved sources `v` holds the elements of all of them in turn, from place `r n` on. -/
theorem zipE_map_range {r : Nat} (hr : r < m) : HoldsElems w ((zipE w ((List.range m).map fun j => granE w (v j))).getD r 0) fun i =>
    elemOf w (v ((r * (512 / w) + i) % m)) ((r * (512 / w) + i) / m) := by
  intro i hi
  dsimp only
  have hplace : (r * (512 / w) + i) / m < 512 / w := (Nat.div_lt_iff_lt_mul (by omega)).2 (by nlinarith)
  simp only [zipE]
  rw [List.length_map, List.length_range, getD_map_range _ _ hr, elemOf_eGran_map_range _ hi,
    getD_map_range _ _ (Nat.mod_lt _ (by omega)), granE_getD _ _ _ hplace, Nat.mod_eq_of_lt (elemOf_lt ..)]

/-- Register `r` of de-interleaved sources `v` holds every `m`-th of their elements in order, from place `r` on. -/
theorem uzpE_map_range {r : Nat} (hr : r < m) : HoldsElems w ((uzpE w ((List.range m).map fun j => granE w (v j))).getD r 0) fun i =>
    elemOf w (v ((m * i + r) / (512 / w))) ((m * i + r) % (512 / w)) := by
  intro i hi
  dsimp only
  have hsource : (m * i + r) / (512 / w) < m := (Nat.div_lt_iff_lt_mul (by omega)).2 (by nlinarith)
  simp only [uzpE]
  rw [List.length_map, List.length_range, getD_map_range _ _ hr, elemOf_eGran_map_range _ hi, getD_map_range _ _ hsource,
    granE_getD _ _ _ (Nat.mod_lt _ (by omega)), Nat.mod_eq_of_lt (elemOf_lt ..)]

end

/-- A rearrangement slot lands the registers of its group, each with the elements that it holds. -/
theorem rearrSlot_answers {val : Nat → List Gran} {s : State} {w m : Nat} {f : Nat → Nat → Nat} (i : Instr) (g : Guard) (d : Nat)
    (hlen : (val s.fr.slice).length = m) (hf : ∀ r, r < m → HoldsElems w ((val s.fr.slice).getD r 0) (f r)) :
    ∃ vals : List Gran, vals.length = m
      ∧ rearrSlot i g d val s = .next ((vals.zipIdx.foldl (fun (u : State) e => u.landV (d + e.2) s.fr.slice e.1
          (laneBits (s.laneGuard g s.fr.slice)) (s.fr.t + s.fr.slice + 3)) s).nextSlice i s.fr)
      ∧ ∀ r, r < m → HoldsElems w (vals.getD r 0) (f r) :=
  ⟨_, hlen, by rw [rearrSlot, landGroup_eq], hf⟩

/-- Slice `k` of the sources of an instruction that names two. -/
def pairSlices (s : State) (a b k j : Nat) : Gran := if j = 0 then s.vget a k else s.vget b k

theorem elemOf_pairSlices (s : State) (a b k w j i : Nat) :
    elemOf w (pairSlices s a b k j) i = if j = 0 then elemOf w (s.vget a k) i else elemOf w (s.vget b k) i := apply_ite (elemOf w · i) ..

section
variable (g : Guard) (z : ESize) (d a b : Nat) (s : State)

theorem exec_zip2 : exec (.zip2 g z d a b) s
    = rearrSlot (.zip2 g z d a b) g d (fun k => zipE z.width ((List.range 2).map fun j => granE z.width (pairSlices s a b k j))) s := rfl

theorem exec_zip3 : exec (.zip3 g z d a) s
    = rearrSlot (.zip3 g z d a) g d (fun k => zipE z.width ((List.range 3).map fun j => granE z.width (s.vget (a + j) k))) s := rfl

theorem exec_zip4 : exec (.zip4 g z d a) s
    = rearrSlot (.zip4 g z d a) g d (fun k => zipE z.width ((List.range 4).map fun j => granE z.width (s.vget (a + j) k))) s := rfl

theorem exec_uzp2 : exec (.uzp2 g z d a b) s
    = rearrSlot (.uzp2 g z d a b) g d (fun k => uzpE z.width ((List.range 2).map fun j => granE z.width (pairSlices s a b k j))) s := rfl

theorem exec_uzp3 : exec (.uzp3 g z d a) s
    = rearrSlot (.uzp3 g z d a) g d (fun k => uzpE z.width ((List.range 3).map fun j => granE z.width (s.vget (a + j) k))) s := rfl

theorem exec_uzp4 : exec (.uzp4 g z d a) s
    = rearrSlot (.uzp4 g z d a) g d (fun k => uzpE z.width ((List.range 4).map fun j => granE z.width (s.vget (a + j) k))) s := rfl

end

/-- PERM picks an element of the slice for each index byte below 0x80, and zero for the others. -/
theorem permE_holdsElems (w : Nat) (a b : Gran) : HoldsElems w (permE w a b) fun i =>
    if 0x80 ≤ b.toNat / 2 ^ (8 * i) % 256 then 0 else elemOf w a (b.toNat / 2 ^ (8 * i) % 256 % (512 / w)) := by
  intro i hi
  refine (elemOf_eGran_map_range _ hi).trans ?_
  dsimp only
  split
  · rfl
  · rw [granE_getD _ _ _ (Nat.mod_lt _ (by omega)), Nat.mod_eq_of_lt (elemOf_lt ..)]

/-- Settles O14: the zips and unzips are rearrangement slots over a group of sources, PERM is a per-lane slot. -/
theorem rearrangementsOfElements : Obligations.RearrangementsOfElements := by
  unfold Obligations.RearrangementsOfElements
  intro g z d a b s
  dsimp only
  simp only [elemAt_eq_elemOf, ← elemOf_pairSlices, exec_zip2, exec_zip3, exec_zip4, exec_uzp2, exec_uzp3, exec_uzp4]
  have hzip := fun m (v : Nat → Nat → Gran) i => rearrSlot_answers (s := s) (val := fun k => zipE z.width ((List.range m).map fun j =>
    granE z.width (v k j))) i g d (by simp [zipE]) fun r hr => zipE_map_range z.width _ hr
  have huzp := fun m (v : Nat → Nat → Gran) i => rearrSlot_answers (s := s) (val := fun k => uzpE z.width ((List.range m).map fun j =>
    granE z.width (v k j))) i g d (by simp [uzpE]) fun r hr => uzpE_map_range z.width _ hr
  exact ⟨hzip 2 .., hzip 3 .., hzip 4 .., huzp 2 .., huzp 3 .., huzp 4 .., _, rfl, permE_holdsElems _ _ _⟩

/-! ### SLIDE and the streams (05 R116, R117, 04 R82) -/

section
variable (n : Int) (d k t : Nat)

/-- Slice `j` of a slide lands when the slice that it waits for has executed. -/
def slideLand (u : State) (j : Nat) : State :=
  if slideNeed n j = k then u.landV d j (slideSlice n u.fr.capv j) (laneBits (sliceOf u.fr.gt j)) (t + j + (3 + (n.natAbs + 15) / 16)) else u

theorem slideLand_fr (u : State) (j : Nat) : (slideLand n d k t u j).fr = u.fr := by
  unfold slideLand
  split <;> rfl

end

/-- SLIDE captures its slice and lands the slices that waited for it. -/
theorem exec_slide (g : Guard) (d a : Nat) (n : Int) (s : State) :
    let k := s.fr.slice
    let u : State := { s with fr := { s.fr with
      capv := withGran s.fr.capv k (s.vget a k), gt := s.fr.gt ||| BitVec.ofNat 128 ((s.laneGuard g k).toNat * 2 ^ (16 * k)) } }
    exec (.slide g d a n) s = .next (((List.range 8).foldl (slideLand n d k s.fr.t) u).nextSlice (.slide g d a n) u.fr) := by
  intro k u
  have hfr := foldl_fr (slideLand_fr n d k s.fr.t) (List.range 8) u
  have hland : (List.range 8).foldl (fun (v : State) j => slideLand n d k v.fr.t v j) u = (List.range 8).foldl (slideLand n d k s.fr.t) u :=
    foldl_congr_of_fr (slideLand_fr n d k s.fr.t) (fun v j hv => by rw [hv]) _
  rw [← hfr, ← hland]
  rfl

theorem slideSlice_holdsElems (n : Int) (src : BitVec 4096) (j : Nat) : HoldsElems 32 (slideSlice n src j) fun l =>
    if 0 ≤ (16 * j + l : Int) - n ∧ (16 * j + l : Int) - n ≤ 127 then src.toNat / 2 ^ (32 * ((16 * j + l : Int) - n).toNat) % 2 ^ 32
    else 0 := by
  intro l hl
  refine (elemOf_eGran_map_range (w := 32) _ hl).trans (Nat.mod_eq_of_lt ?_)
  dsimp only
  split
  · exact Nat.mod_lt _ (by decide)
  · decide

/-- Settles O15: a slide by its captured slices, each landing once all that it reads is there; the streams by their boundaries. -/
theorem slidesAndStreams : Obligations.SlidesAndStreams := by
  unfold Obligations.SlidesAndStreams
  intro g d a st n s
  exact ⟨exec_slide g d a n s, slideSlice_holdsElems n, rfl, rfl, rfl⟩

end Sys2Proof.Machine

/-! SUPPORT. Walks, exchanges, final actions and loads of charts (06 R126, R129 to R134). -/

namespace Sys2Proof.Machine

/-! ### Guards and states of the lanes (06 R120, R134) -/

theorem laneMask_eq_zero_iff (gm : LaneMask) : gm = 0 ↔ ∀ l, l < 16 → gm.getLsbD l = false :=
  ⟨fun h _ _ => h ▸ BitVec.getLsbD_zero, fun h => BitVec.eq_of_getLsbD_eq fun l hl => (h l hl).trans BitVec.getLsbD_zero.symm⟩

theorem guardedLanes_isEmpty (gm : LaneMask) : ((List.range 16).filter fun l => gm.getLsbD l).isEmpty = decide (gm = 0) := by
  rw [Bool.eq_iff_iff, decide_eq_true_iff, laneMask_eq_zero_iff, List.isEmpty_iff, List.filter_eq_nil_iff]
  simp

theorem holdsElems_eGran_map_range {w : Nat} {f : Nat → Nat} (hf : ∀ l, f l < 2 ^ w) :
    HoldsElems w (eGran w ((List.range (512 / w)).map f)) f :=
  fun l hl => (elemOf_eGran_map_range f hl).trans (Nat.mod_eq_of_lt (hf l))

theorem dsrStates_eq_map_range (s : State) (k : Nat) : dsrStates s k = (List.range 16).map (elemOf 4 (s.reg (.dsr k))) :=
  elems_eq_map_range ..

theorem elemOf_packDsr_map_range (f : Nat → Nat) {l : Nat} (hl : l < 16) : elemOf 4 (packDsr ((List.range 16).map f)) l = f l % 16 :=
  (elemOf_eGran 4 _ l (by simp)).trans (congrArg (· % 16) (getD_map_range _ _ hl))

theorem elemOf_packDsr_replicate {x l : Nat} (hx : x < 16) (hl : l < 16) : elemOf 4 (packDsr (List.replicate 16 x)) l = x := by
  refine (elemOf_eGran 4 _ l (by simp)).trans ?_
  rw [List.getD_eq_getElem _ _ (by simpa using hl), List.getElem_replicate]
  exact Nat.mod_eq_of_lt hx

/-! ### Chart words, final entries and the checks of a slot (06 R121, R124, R129, R133) -/

theorem fld_lt (w hi lo : Nat) : fld w hi lo < 2 ^ (hi + 1 - lo) := Nat.mod_lt _ (Nat.two_pow_pos _)

theorem bit_eq_testBit (w i : Nat) : bit w i = w.testBit i := Nat.testBit_eq_decide_div_mod_eq.symm

theorem attrStart_lt (attr : Nat) : attrStart attr < 16 := fld_lt ..

/-- The action of a final entry, emit count and digits, fits a lane. -/
theorem finalAction_lt (f : Nat) : fld f 7 4 * 16 + fld f 10 8 < 2 ^ 32 := by
  have hcount := fld_lt f 7 4
  have hdigits := fld_lt f 10 8
  omega

theorem attrW_ne_zero {attr : Nat} (h : attrBad attr = false) : attrW attr ≠ 0 := by
  intro hw
  simp [attrBad, hw] at h

section
variable {c : Ctx} {attr n : Nat} {arity : Option Bool}

theorem chartCheck_of_not_held (hheld : c.chartIn n = false) : chartCheck c attr n arity = some 2 := by
  simp [chartCheck, hheld]

theorem chartCheck_of_illegal (hheld : c.chartIn n = true) (hbad : attrBad attr = true) : chartCheck c attr n arity = some 3 := by
  simp [chartCheck, hheld, hbad]

theorem chartCheck_of_other_arity {two : Bool} (hheld : c.chartIn n = true) (hlegal : attrBad attr = false) (htwo : attrAr attr = !two) :
    chartCheck c attr n (some two) = some 4 := by
  simp [chartCheck, hheld, hlegal, htwo]

theorem chartCheck_of_same_arity {two : Bool} (hheld : c.chartIn n = true) (hlegal : attrBad attr = false) (htwo : attrAr attr = two) :
    chartCheck c attr n (some two) = none := by
  simp [chartCheck, hheld, hlegal, htwo]

theorem chartCheck_of_either_arity (hheld : c.chartIn n = true) (hlegal : attrBad attr = false) : chartCheck c attr n none = none := by
  simp [chartCheck, hheld, hlegal]

end

/-! ### The lanes that failed (06 R134) -/

/-- The lanes let through whose walk met an invalid entry, lowest first, each with that entry. -/
def failedLanes (gm : LaneMask) (r : Nat → (Nat × Nat × Bool) ⊕ WalkFault) : List (Nat × WalkFault) :=
  ((List.range 16).filter fun l => gm.getLsbD l).filterMap fun l => (r l).getRight?.map (l, ·)

section
variable {gm : LaneMask} {r : Nat → (Nat × Nat × Bool) ⊕ WalkFault}

theorem mem_failedLanes {l : Nat} {f : WalkFault} : (l, f) ∈ failedLanes gm r ↔ l < 16 ∧ gm.getLsbD l = true ∧ r l = .inr f := by
  simp [failedLanes, and_assoc]

theorem failedLanes_eq_nil_iff : failedLanes gm r = [] ↔ ∀ l, l < 16 → gm.getLsbD l = true → ∃ p, r l = .inl p := by
  simp [failedLanes, Sum.isLeft_iff]

theorem failedLanes_map_fst : (failedLanes gm r).map Prod.fst = (List.range 16).filter fun l => gm.getLsbD l && (r l).isRight := by
  rw [failedLanes, List.map_filterMap, List.filterMap_filter, ← List.filterMap_eq_filter]
  refine List.filterMap_congr fun l _ => ?_
  cases hg : gm.getLsbD l <;> cases hr : r l <;> simp [Option.guard, hg, hr]

/-- The lanes named come in rising order. -/
theorem failedLanes_pairwise_lt : (failedLanes gm r).Pairwise fun e e' => e.1 < e'.1 := by
  rw [← List.pairwise_map (f := Prod.fst) (R := (· < ·)), failedLanes_map_fst]
  exact List.pairwise_lt_range.filter _

/-- FINFO's mask has one bit for each lane that failed. -/
theorem failedLanes_mask_eq : ((failedLanes gm r).map fun e => 2 ^ e.1).foldl (· + ·) 0
    = packE 1 ((List.range 16).map fun l => (gm.getLsbD l && (r l).isRight).toNat) := by
  have hfst : ((failedLanes gm r).map fun e => 2 ^ e.1) = ((failedLanes gm r).map Prod.fst).map (2 ^ ·) := by simp
  rw [hfst, failedLanes_map_fst, List.foldl_map, List.foldl_filter, packE_map_range fun l => Bool.toNat_lt _, List.foldl_map]
  congr 1
  funext m l
  cases gm.getLsbD l && (r l).isRight <;> simp

/-- The fields of FINFO name the lanes that failed and the invalid entry of the lowest. -/
theorem exists_walkInfo_failedLanes (k : Nat) (h : failedLanes gm r ≠ []) : ∃ l f mask,
    (l < 16 ∧ gm.getLsbD l = true ∧ r l = .inr f) ∧ (∀ m, m < l → gm.getLsbD m = true → ∃ p, r m = .inl p)
      ∧ mask < 2 ^ 16 ∧ (∀ m, m < 16 → (mask.testBit m = true ↔ gm.getLsbD m = true ∧ ∃ e, r m = .inr e))
      ∧ walkInfo k (failedLanes gm r)
        = k * 2 ^ 47 + mask * 2 ^ 31 + l * 2 ^ 27 + f.j * 2 ^ 22 + f.st * 2 ^ 18 + f.da * 2 ^ 15 + f.db * 2 ^ 13 := by
  obtain ⟨⟨l, f⟩, rest, hlist⟩ := List.exists_cons_of_ne_nil h
  have hfirst := mem_failedLanes.1 (hlist ▸ List.mem_cons_self)
  refine ⟨l, f, ((failedLanes gm r).map fun e => 2 ^ e.1).foldl (· + ·) 0, hfirst, fun m hm hgm => ?_, ?_, fun m hm => ?_, ?_⟩
  · cases hr : r m with
    | inl p => exact ⟨p, rfl⟩
    | inr e =>
      have hmem : (m, e) ∈ (l, f) :: rest := hlist ▸ mem_failedLanes.2 ⟨hm.trans hfirst.1, hgm, hr⟩
      have hrising : ((l, f) :: rest).Pairwise fun e e' => e.1 < e'.1 := hlist ▸ failedLanes_pairwise_lt
      rcases List.mem_cons.1 hmem with heq | hrest
      · exact absurd (congrArg Prod.fst heq) hm.ne
      · exact absurd (List.rel_of_pairwise_cons hrising hrest) hm.asymm
  · rw [failedLanes_mask_eq]
    exact (packE_lt 1 _).trans_eq (by simp)
  · have hbit := testBit_packE 1 ((List.range 16).map fun l => (gm.getLsbD l && (r l).isRight).toNat) m zero_lt_one
    rw [getD_map_range _ _ hm, Nat.one_mul, Nat.add_zero] at hbit
    rw [failedLanes_mask_eq, hbit, ← Sum.isRight_iff, ← Bool.and_eq_true]
    cases gm.getLsbD m && (r m).isRight <;> simp
  · rw [hlist]
    rfl

end

/-! ### A walk in its slice (06 R129) -/

/-- The word that governs chart slot `n` in the slice at hand (06 R124). -/
def slotAttr (s : State) (n : Nat) : Nat := chartAttr s (coreOf s.fr.x) s.fr.slice n

/-- The latency of a walk under the word of its chart, which gives the detecting count also where that word has no width (log 44). -/
def attrLat (attr : Nat) : Nat := walkLat (if attrW attr = 0 then 1 else attrW attr)

theorem attrLat_of_legal {attr : Nat} (h : attrBad attr = false) : attrLat attr = walkLat (attrW attr) := by
  rw [attrLat, if_neg (attrW_ne_zero h)]

/-- Lane `l` of the slice at hand walked through chart slot `n` over the digits of two registers, from its state in DSR. -/
def laneWalk (s : State) (n a b l : Nat) : (Nat × Nat × Bool) ⊕ WalkFault :=
  let k := s.fr.slice
  let attr := slotAttr s n
  let w := attrW attr
  walk (chartEntry s (coreOf s.fr.x) k n) (attrAr attr) w (elemAt s 32 a k l) (elemAt s 32 b k l)
    (walkOrder (attrDir attr) (digits w)) (elemOf 4 (s.reg (.dsr k)) l) 0 false

/-- What a walk reached: state, output and the last FL[0]. -/
def reached : (Nat × Nat × Bool) ⊕ WalkFault → Nat × Nat × Bool
  | .inl p => p
  | .inr _ => (0, 0, false)

section
variable {i : Instr} {g : Guard} {n a b : Nat} {arity : Option Bool} {land : State → Nat → List Nat → LaneMask → LaneMask → Nat → State}
  {s : State}

theorem walkSlot_of_unguarded (hgm : s.laneGuard g s.fr.slice = 0) : walkSlot i g n a b arity land s = .next (s.nextSlice i s.fr) := by
  simp only [walkSlot, guardedLanes_isEmpty, hgm, decide_true, if_true]

theorem walkSlot_of_refused {kind : Nat} (hgm : s.laneGuard g s.fr.slice ≠ 0)
    (hcheck : chartCheck ((s.ctx s.fr.x).asIssued s.fr) (slotAttr s n) n arity = some kind) :
    walkSlot i g n a b arity land s = .next ((s.chartFault kind n 0 (s.fr.t + 7 + attrLat (slotAttr s n))).nextSlice i s.fr) := by
  rw [slotAttr] at hcheck
  simp only [walkSlot, guardedLanes_isEmpty, hgm, decide_false, Bool.false_eq_true, if_false, hcheck]
  rfl

/-- The walks of all lanes, as the slot takes them. -/
theorem laneWalks_eq (s : State) (n a b : Nat) :
    ((List.range 16).map fun l => walk (chartEntry s (coreOf s.fr.x) s.fr.slice n) (attrAr (slotAttr s n)) (attrW (slotAttr s n))
      ((granE 32 (s.vget a s.fr.slice)).getD l 0) ((granE 32 (s.vget b s.fr.slice)).getD l 0)
      (walkOrder (attrDir (slotAttr s n)) (digits (attrW (slotAttr s n)))) ((dsrStates s s.fr.slice).getD l 0) 0 false)
    = (List.range 16).map (laneWalk s n a b) := by
  refine List.map_congr_left fun l hl => ?_
  have hl16 := List.mem_range.1 hl
  rw [granE_getD 32 _ _ hl16, granE_getD 32 _ _ hl16, dsrStates_eq_map_range, getD_map_range _ _ hl16]
  rfl

/-- A slot that passed its checks lands what its walks reached, or raises the fault of those that failed. -/
theorem walkSlot_of_checked (hgm : s.laneGuard g s.fr.slice ≠ 0)
    (hcheck : chartCheck ((s.ctx s.fr.x).asIssued s.fr) (slotAttr s n) n arity = none) :
    let k := s.fr.slice
    let gm := s.laneGuard g k
    let lat := attrLat (slotAttr s n)
    let due := s.fr.t + k + lat
    let r := laneWalk s n a b
    walkSlot i g n a b arity land s = if failedLanes gm r = [] then
        .next ((land (s.push due (.reg (.dsr k) (packDsr ((List.range 16).map fun l => (reached (r l)).1)) (dsrBits gm))) k
          ((List.range 16).map fun l => (reached (r l)).2.1)
          (BitVec.ofNat 16 (((List.range 16).map fun l => if (reached (r l)).2.2 then 2 ^ l else 0).foldl (· + ·) 0)) gm due).nextSlice i s.fr)
      else .next ((s.chartFault 0 n (walkInfo k (failedLanes gm r)) (s.fr.t + 7 + lat)).nextSlice i s.fr) := by
  intro k gm lat due r
  have hwalks := laneWalks_eq s n a b
  rw [slotAttr] at hcheck hwalks
  simp only [walkSlot, guardedLanes_isEmpty, hgm, decide_false, Bool.false_eq_true, if_false, hcheck, hwalks, List.map_map,
    zipIdx_map_range, List.isEmpty_iff]
  rw [List.filterMap_congr (g := fun l => (laneWalk s n a b l).getRight?.map (l, ·))]
  · rfl
  · intro l hl
    rw [getD_map_range _ _ (List.mem_range.1 (List.mem_filter.1 hl).1)]
    cases laneWalk s n a b l <;> rfl

/-- A slot whose guarded walks all end lands the states, the outputs and the last flags that they reached. -/
theorem walkSlot_of_clean (hgm : s.laneGuard g s.fr.slice ≠ 0)
    (hcheck : chartCheck ((s.ctx s.fr.x).asIssued s.fr) (slotAttr s n) n arity = none) (hlegal : attrBad (slotAttr s n) = false)
    (hclean : ∀ l, l < 16 → (s.laneGuard g s.fr.slice).getLsbD l = true → ∃ p, laneWalk s n a b l = .inl p) :
    let k := s.fr.slice
    let gm := s.laneGuard g k
    let due := s.fr.t + k + walkLat (attrW (slotAttr s n))
    ∃ q outs lasts, walkSlot i g n a b arity land s
        = .next ((land (s.push due (.reg (.dsr k) q (dsrBits gm))) k outs lasts gm due).nextSlice i s.fr)
      ∧ (∀ l st o fin, l < 16 → laneWalk s n a b l = .inl (st, o, fin) → elemOf 4 q l = st % 16)
      ∧ (∀ l st o fin, l < 16 → laneWalk s n a b l = .inl (st, o, fin) → elemOf 32 (eGran 32 outs) l = o % 2 ^ 32)
      ∧ ∀ l st o fin, l < 16 → laneWalk s n a b l = .inl (st, o, fin) → lasts.getLsbD l = fin := by
  intro k gm due
  have hexec := walkSlot_of_checked (i := i) (a := a) (b := b) (land := land) hgm hcheck
  simp only [if_pos (failedLanes_eq_nil_iff.2 hclean), attrLat_of_legal hlegal] at hexec
  refine ⟨_, _, _, hexec, fun l st o fin hl hwalk => ?_, fun l st o fin hl hwalk => ?_, fun l st o fin hl hwalk => ?_⟩
  · rw [elemOf_packDsr_map_range _ hl, hwalk]
    rfl
  · rw [elemOf_eGran_map_range (w := 32) _ hl, hwalk]
    rfl
  · rw [getLsbD_ofNat_sum_bits _ hl, hwalk]
    rfl

/-- A slot with a guarded walk that met an invalid entry lands nothing and raises the chart fault of KIND 0. -/
theorem walkSlot_of_invalid (hgm : s.laneGuard g s.fr.slice ≠ 0)
    (hcheck : chartCheck ((s.ctx s.fr.x).asIssued s.fr) (slotAttr s n) n arity = none)
    (hinvalid : ¬ ∀ l, l < 16 → (s.laneGuard g s.fr.slice).getLsbD l = true → ∃ p, laneWalk s n a b l = .inl p) :
    let k := s.fr.slice
    let gm := s.laneGuard g k
    let r := laneWalk s n a b
    ∃ l f mask, (l < 16 ∧ gm.getLsbD l = true ∧ r l = .inr f) ∧ (∀ m, m < l → gm.getLsbD m = true → ∃ p, r m = .inl p)
      ∧ mask < 2 ^ 16 ∧ (∀ m, m < 16 → (mask.testBit m = true ↔ gm.getLsbD m = true ∧ ∃ e, r m = .inr e))
      ∧ walkSlot i g n a b arity land s = .next ((s.chartFault 0 n
          (k * 2 ^ 47 + mask * 2 ^ 31 + l * 2 ^ 27 + f.j * 2 ^ 22 + f.st * 2 ^ 18 + f.da * 2 ^ 15 + f.db * 2 ^ 13)
          (s.fr.t + 7 + attrLat (slotAttr s n))).nextSlice i s.fr) := by
  intro k gm r
  have hne := mt failedLanes_eq_nil_iff.1 hinvalid
  obtain ⟨l, f, mask, hlane, hlower, hmask, hbits, hinfo⟩ := exists_walkInfo_failedLanes k hne
  refine ⟨l, f, mask, hlane, hlower, hmask, hbits, (walkSlot_of_checked hgm hcheck).trans ?_⟩
  rw [if_neg hne, hinfo]

end

section
variable (g : Guard) (n d pp a b : Nat) (s : State)

/-- What a walk slot lands besides its states: digits in a register. -/
def landDigits (d : Nat) (s : State) (k : Nat) (outs : List Nat) (_lasts gm : LaneMask) (due : Nat) : State :=
  s.landV d k (eGran 32 outs) (laneBits gm) due

theorem exec_dtx : exec (.dtx g n d a b) s = walkSlot (.dtx g n d a b) g n a b (some true) (landDigits d) s := rfl

theorem exec_dtu : exec (.dtu g n d a) s = walkSlot (.dtu g n d a) g n a a (some false) (landDigits d) s := rfl

theorem exec_dtc : exec (.dtc g n pp a b) s
    = walkSlot (.dtc g n pp a b) g n a b none (fun s k _ lasts gm due => landPair s pp k lasts gm due) s := rfl

end

/-- Settles O16: a walk slot by its checks, and past them by the lanes that failed. -/
theorem walksLandDigitsAndStates : Obligations.WalksLandDigitsAndStates := by
  unfold Obligations.WalksLandDigitsAndStates
  intro g n d pp a b s
  simp only [exec_dtx, exec_dtu, exec_dtc]
  refine ⟨fun hgm => ⟨walkSlot_of_unguarded hgm, walkSlot_of_unguarded hgm, walkSlot_of_unguarded hgm⟩, fun hgm hheld => ?_,
    fun hgm hheld hbad => ?_, fun hgm hheld hlegal => ?_⟩
  · exact ⟨walkSlot_of_refused hgm (chartCheck_of_not_held hheld), walkSlot_of_refused hgm (chartCheck_of_not_held hheld),
      walkSlot_of_refused hgm (chartCheck_of_not_held hheld)⟩
  · exact ⟨walkSlot_of_refused hgm (chartCheck_of_illegal hheld hbad), walkSlot_of_refused hgm (chartCheck_of_illegal hheld hbad),
      walkSlot_of_refused hgm (chartCheck_of_illegal hheld hbad)⟩
  have hcheck {two : Bool} (h : attrAr (slotAttr s n) = two) := chartCheck_of_same_arity hheld hlegal h
  have hany := chartCheck_of_either_arity hheld hlegal
  refine ⟨fun h => walkSlot_of_refused hgm (chartCheck_of_other_arity (two := true) hheld hlegal h),
    fun h => walkSlot_of_refused hgm (chartCheck_of_other_arity (two := false) hheld hlegal h),
    fun h hclean => ?_, fun h hclean => ?_, fun hclean => ?_, fun h hinvalid => walkSlot_of_invalid hgm (hcheck h) hinvalid,
    fun h hinvalid => walkSlot_of_invalid hgm (hcheck h) hinvalid, fun hinvalid => walkSlot_of_invalid hgm hany hinvalid⟩
  · obtain ⟨q, outs, lasts, hexec, hstates, houts, -⟩ := walkSlot_of_clean hgm (hcheck h) hlegal hclean
    exact ⟨q, eGran 32 outs, hexec, hstates, houts⟩
  · obtain ⟨q, outs, lasts, hexec, hstates, houts, -⟩ := walkSlot_of_clean hgm (hcheck h) hlegal hclean
    exact ⟨q, eGran 32 outs, hexec, hstates, houts⟩
  · obtain ⟨q, outs, lasts, hexec, hstates, -, hlasts⟩ := walkSlot_of_clean hgm hany hlegal hclean
    exact ⟨q, lasts, hexec, hstates, hlasts⟩

/-! ### DTS, DTZ and DTQ (06 R131 to R133) -/

section
variable (g : Guard) (n d a : Nat) (s : State)

theorem exec_dts :
    let k := s.fr.slice
    let due := s.fr.t + k + 2
    exec (.dts g d a) s = .next (((s.push due (.reg (.dsr k) (packDsr ((List.range 16).map fun l => elemAt s 32 a k l % 16))
      (dsrBits (s.laneGuard g k)))).landV d k (eGran 32 ((List.range 16).map (elemOf 4 (s.reg (.dsr k)))))
      (laneBits (s.laneGuard g k)) due).nextSlice (.dts g d a) s.fr) := by
  intro k due
  have hsource : (granE 32 (s.vget a k)).map (· % 16) = (List.range 16).map fun l => elemAt s 32 a k l % 16 := by
    rw [granE_eq_map_range, List.map_map]
    rfl
  rw [← hsource, ← dsrStates_eq_map_range]
  rfl

variable {g n s}

theorem exec_dtz_of_legal (hgm : s.laneGuard g s.fr.slice ≠ 0) (hheld : ((s.ctx s.fr.x).asIssued s.fr).chartIn n = true)
    (hlegal : attrBad (slotAttr s n) = false) :
    let k := s.fr.slice
    exec (.dtz g n) s = .next ((s.push (s.fr.t + k + 2) (.reg (.dsr k)
      (packDsr (List.replicate 16 (attrStart (slotAttr s n)))) (dsrBits (s.laneGuard g k)))).nextSlice (.dtz g n) s.fr) := by
  have hcheck := chartCheck_of_either_arity hheld hlegal
  rw [slotAttr] at hcheck
  change execDtz .. = _
  simp only [execDtz, if_neg hgm, hcheck]
  rfl

/-- The final entry of the state in which lane `l` of the slice at hand is. -/
def laneFinal (s : State) (n l : Nat) : Nat := chartFinal s (coreOf s.fr.x) s.fr.slice n (elemOf 4 (s.reg (.dsr s.fr.slice)) l)

/-- The lanes let through whose state has an invalid final entry. -/
def unfinishedLanes (g : Guard) (s : State) (n : Nat) : List Nat :=
  ((List.range 16).filter fun l => (s.laneGuard g s.fr.slice).getLsbD l).filter fun l => !bit (laneFinal s n l) 15

theorem laneFinals_eq (s : State) (n : Nat) :
    (dsrStates s s.fr.slice).map (chartFinal s (coreOf s.fr.x) s.fr.slice n) = (List.range 16).map (laneFinal s n) := by
  rw [dsrStates_eq_map_range, List.map_map]
  rfl

/-- A slot that passed its checks lands the final actions of its states, or raises the fault of the lanes that have none. -/
theorem exec_dtq_of_legal (hgm : s.laneGuard g s.fr.slice ≠ 0) (hheld : ((s.ctx s.fr.x).asIssued s.fr).chartIn n = true)
    (hlegal : attrBad (slotAttr s n) = false) :
    let k := s.fr.slice
    let gm := s.laneGuard g k
    let due := s.fr.t + k + 4
    let t := s.landV d k (eGran 32 ((List.range 16).map fun l => fld (laneFinal s n l) 7 4 * 16 + fld (laneFinal s n l) 10 8)) (laneBits gm) due
    exec (.dtq g n d) s = if unfinishedLanes g s n = [] then
        .next ((if attrFin (slotAttr s n) = true then
          t.push due (.reg (.dsr k) (packDsr (List.replicate 16 (attrStart (slotAttr s n)))) (dsrBits gm)) else t).nextSlice (.dtq g n d) s.fr)
      else .next ((s.chartFault 1 n (walkInfo k ((unfinishedLanes g s n).map fun l => (l, ⟨0, (dsrStates s k).getD l 0, 0, 0⟩)))
        (s.fr.t + 11)).nextSlice (.dtq g n d) s.fr) := by
  intro k gm due t
  have hcheck := chartCheck_of_either_arity hheld hlegal
  rw [slotAttr] at hcheck
  change execDtq .. = _
  simp only [execDtq, guardedLanes_isEmpty, hgm, decide_false, Bool.false_eq_true, if_false, hcheck, laneFinals_eq,
    List.isEmpty_iff, List.map_eq_nil_iff, List.map_map]
  rw [List.filter_congr (q := fun l => !bit (laneFinal s n l) 15)]
  · simp only [apply_ite State.fr, State.push_fr, State.landV_fr, ite_self]
    rfl
  · intro l hl
    rw [getD_map_range _ _ (List.mem_range.1 (List.mem_filter.1 hl).1)]

theorem unfinishedLanes_eq_nil_iff : unfinishedLanes g s n = []
    ↔ ∀ l, l < 16 → (s.laneGuard g s.fr.slice).getLsbD l = true → (laneFinal s n l).testBit 15 = true := by
  simp only [unfinishedLanes, List.filter_eq_nil_iff, List.mem_filter, List.mem_range, bit_eq_testBit, Bool.not_eq_true', Bool.not_eq_false,
    and_imp]

end

/-! ### DTLD (06 R126) -/

/-- The address of a chart's image. -/
def imageAddr (s : State) (a : Nat) (imm : Int) : Nat := (((s.sget a).toInt + imm * 64) % 2 ^ 32).toNat

section
variable {g : Guard} {n a : Nat} {imm : Int} {s : State} (hg : s.onceGuard g = true)
include hg

theorem exec_dtld_of_misaligned (hal : imageAddr s a imm % 64 ≠ 0) :
    exec (.dtld g n a imm) s = .next (s.berthBound 0 0 (imageAddr s a imm)) := by
  rw [imageAddr] at hal
  change execDtld .. = _
  simp only [execDtld, onceSlot_eq, once_true _ hg, if_pos hal]
  rfl

theorem exec_dtld_of_outlying {reason : Nat} (hal : imageAddr s a imm % 64 = 0)
    (hown : ownOnly (s.ctx s.fr.x) (imageAddr s a imm) 576 = some reason) :
    exec (.dtld g n a imm) s = .next (s.berthBound reason 0 (imageAddr s a imm)) := by
  rw [imageAddr] at hal hown
  change execDtld .. = _
  simp only [execDtld, onceSlot_eq, once_true _ hg, hal, hown]
  rfl

theorem exec_dtld_of_image_in_berth (hal : imageAddr s a imm % 64 = 0) (hown : ownOnly (s.ctx s.fr.x) (imageAddr s a imm) 576 = none) :
    exec (.dtld g n a imm) s = .next (if (s.ctx s.fr.x).chartIn n = true then
        (s.push (s.fr.t + 2) (.dtld n ((Place.berth (coreOf s.fr.x)).key (imageAddr s a imm)))).notePerf (s.fr.t + 2)
      else s.raiseIssue 8 (BitVec.ofNat 64 (2 * 2 ^ 52 + n * 2 ^ 50))) := by
  rw [imageAddr] at hal hown
  change execDtld .. = _
  simp only [execDtld, onceSlot_eq, once_true _ hg, hal, hown]
  cases (s.ctx s.fr.x).chartIn n <;> rfl

end

theorem State.noMarks_of_clean {s : State} (h : s.Clean) : s.noMarks = true := by
  obtain ⟨hecc, hpoison, hsoft⟩ := h
  simp [State.noMarks, hecc, hpoison, hsoft]

theorem State.landDtld_of_clean {s : State} (h : s.Clean) (n key due : Nat) : s.landDtld n key due = s.landImage n key due := by
  rw [State.landDtld, State.readWhole, if_pos (State.noMarks_of_clean h)]

/-- Settles O17: DTS, DTZ and DTQ field by field of DSR; DTLD by its checks and the image that it reads. -/
theorem exchangeFinalsAndChartLoads : Obligations.ExchangeFinalsAndChartLoads := by
  unfold Obligations.ExchangeFinalsAndChartLoads
  refine ⟨fun g n d a s => ⟨⟨_, _, exec_dts .., fun l hl => ?_, ?_⟩, fun hgm hheld hlegal => ⟨?_, fun hfinal => ?_, fun hfinal => ?_⟩⟩,
    fun g n a imm s hg => ?_⟩
  · rw [elemOf_packDsr_map_range _ hl, Nat.mod_mod]
  · exact holdsElems_eGran_map_range fun l => (elemOf_lt 4 _ l).trans (by decide)
  · exact ⟨_, exec_dtz_of_legal hgm hheld hlegal, fun l hl => elemOf_packDsr_replicate (attrStart_lt _) hl⟩
  · have hexec := exec_dtq_of_legal d hgm hheld hlegal
    simp only [if_pos (unfinishedLanes_eq_nil_iff.2 hfinal)] at hexec
    exact ⟨_, _, hexec, fun l hl => elemOf_packDsr_replicate (attrStart_lt _) hl, holdsElems_eGran_map_range fun l => finalAction_lt _⟩
  · obtain ⟨l, hl, hon, hfin⟩ := hfinal
    have hexec := exec_dtq_of_legal d hgm hheld hlegal
    have hne : unfinishedLanes g s n ≠ [] := fun h => Bool.false_ne_true (hfin.symm.trans (unfinishedLanes_eq_nil_iff.1 h l hl hon))
    simp only [if_neg hne] at hexec
    exact ⟨_, hexec⟩
  · exact ⟨fun hal hown hheld => (exec_dtld_of_image_in_berth hg hal hown).trans (congrArg _ (if_pos hheld)), exec_dtld_of_misaligned hg,
      fun _ => exec_dtld_of_outlying hg,
      fun hal hown hheld => (exec_dtld_of_image_in_berth hg hal hown).trans (congrArg _ (if_neg (Bool.eq_false_iff.1 hheld))),
      fun due hclean => State.landDtld_of_clean hclean n _ due⟩

end Sys2Proof.Machine

/-! SUPPORT. What leaves memory as it is: one rule for each operation of the state, then one for each meaning. `Eq.refl _` stands where
`rfl` would make the rule one of definitional equality, which `simp` does not use on the side goals of the rules for folds and slots. -/

namespace Sys2Proof.Machine

/-- A result keeps memory when the next state, where it names one, has the memory of `s`. -/
def KeepsMem (s : State) (r : Result) : Prop := ∀ t, r = .next t → t.mem = s.mem

@[simp] theorem keepsMem_next (s t : State) : KeepsMem s (.next t) ↔ t.mem = s.mem :=
  ⟨fun h => h t rfl, fun h u hu => by cases hu; exact h⟩

@[simp] theorem keepsMem_ite (s : State) (p : Prop) [Decidable p] (a b : Result) :
    KeepsMem s (if p then a else b) ↔ if p then KeepsMem s a else KeepsMem s b := by split <;> rfl

@[simp] theorem State.mem_ite (p : Prop) [Decidable p] (a b : State) : (if p then a else b).mem = if p then a.mem else b.mem :=
  apply_ite ..

/-- `State.foldl_mem` as a rule for `simp`. -/
@[simp] theorem State.mem_foldl {α : Type} (f : State → α → State) (h : ∀ s a, (f s a).mem = s.mem) (l : List α) (s : State) :
    (l.foldl f s).mem = s.mem := State.foldl_mem f h l s

@[simp] theorem onceSlot_mem (g : Guard) (s : State) (f : State → State) (h : (f s).mem = s.mem) : KeepsMem s (onceSlot g s f) := by
  simp [onceSlot, h]

/-! ### The named operations over registers, memory, counts, freezes and faults -/

@[simp] theorem State.fresh_mem (s : State) : s.fresh.2.mem = s.mem := rfl

@[simp] theorem State.freeValue_mem (s : State) (w : Nat) : (s.freeValue w).2.mem = s.mem := rfl

@[simp] theorem State.ask_mem (s : State) (g F : Nat) (why : Why) : (State.ask s g F why).mem = s.mem := Eq.refl _

@[simp] theorem State.record_mem (s : State) (en type ts0 tide ts3 : Nat) : (State.record s en type ts0 tide ts3).mem = s.mem := Eq.refl _

@[simp] theorem State.later_mem (s : State) (fr : Frame) (pri : Nat) (act : Effect) : (State.later s fr pri act).mem = s.mem := Eq.refl _

@[simp] theorem State.pushWall_mem (s : State) (n : Nat) (act : Effect) : (State.pushWall s n act).mem = s.mem := Eq.refl _

@[simp] theorem State.keepBefore_mem (s : State) (x : Nat) (hnd : Bool) (key n mask : Nat) : (State.keepBefore s x hnd key n mask).mem = s.mem := by
  simp [State.keepBefore]

@[simp] theorem State.raiseExec_mem (s : State) (code : Nat) (finfo fbnd : Word) (D : Nat) :
    (State.raiseExec s code finfo fbnd D).mem = s.mem := Eq.refl _

@[simp] theorem State.raiseBoundary_mem (s : State) (code : Nat) (finfo : Word) (F : Nat) :
    (State.raiseBoundary s code finfo F).mem = s.mem := Eq.refl _

@[simp] theorem State.berthBound_mem (s : State) (reason lane addr : Nat) : (State.berthBound s reason lane addr).mem = s.mem := Eq.refl _

@[simp] theorem State.freshen_mem (s : State) (hit : Spot → Bool) : (State.freshen s hit).mem = s.mem := Eq.refl _

@[simp] theorem State.freshenCtx_mem (s : State) (y : Nat) : (State.freshenCtx s y).mem = s.mem := Eq.refl _

@[simp] theorem State.writeRegAt_mem (s : State) (x : Nat) (hnd : Bool) (ord y : Nat) (l : Loc) (val mask : Gran) :
    (State.writeRegAt s x hnd ord y l val mask).mem = s.mem := Eq.refl _

@[simp] theorem State.writeFlag_mem (s : State) (x : Nat) (hnd : Bool) (ord : Nat) (f : FlagFile) (n : Nat) (v : Bool) :
    (State.writeFlag s x hnd ord f n v).mem = s.mem := by
  simp [State.writeFlag]

@[simp] theorem State.mergeAmax_mem (s : State) (x val : Nat) (ns : Bool) : (State.mergeAmax s x val ns).mem = s.mem := Eq.refl _

@[simp] theorem State.faultRecords_mem (s : State) (f : PendFault) (nest : Bool) (anchor : Nat) :
    (State.faultRecords s f nest anchor).mem = s.mem := Eq.refl _

@[simp] theorem State.faultEntry_mem (s : State) (f : PendFault) (anchor : Nat) : (State.faultEntry s f anchor).mem = s.mem := by
  simp [State.faultEntry]

@[simp] theorem State.faultReturn_mem (s : State) (x : Nat) : (State.faultReturn s x).mem = s.mem := Eq.refl _

/-! ### The sticky flags and the stochastic draws of a slot -/

@[simp] theorem State.fpFlags_mem (s : State) (fl due D : Nat) : (State.fpFlags s fl due D).mem = s.mem := by
  simp [State.fpFlags]

@[simp] theorem State.amaxAt_mem (s : State) (val : Nat) (ns : Bool) (due : Nat) : (State.amaxAt s val ns due).mem = s.mem := by
  simp [State.amaxAt]

@[simp] theorem State.draws_mem (s : State) (rnd : Rnd) (w n k : Nat) (on : Nat → Bool) : (s.draws rnd w n k on).2.mem = s.mem := by
  unfold State.draws; split <;> rfl

/-! ### The operand forms of slots -/

@[simp] theorem laneSlot_mem (i : Instr) (g : Guard) (w lat d : Nat) (val : Nat → Gran) (s : State) : KeepsMem s (laneSlot i g w lat d val s) := by
  simp [laneSlot]

@[simp] theorem scalarSlot_mem (g : Guard) (d lat : Nat) (val : State → Word) (s : State) : KeepsMem s (scalarSlot g d lat val s) :=
  onceSlot_mem _ _ _ rfl

@[simp] theorem fpSlot_mem (i : Instr) (g : Guard) (w lat d : Nat) (rnd : Rnd) (f : Nat → Nat → Nat × Nat) (s : State) :
    KeepsMem s (fpSlot i g w lat d rnd f s) := by simp [fpSlot]

/-! ### The vector integer instructions -/

@[simp] theorem intSlot_mem (i : Instr) (g : Guard) (t : ElemTy) (sat : Bool) (lat d a b : Nat) (f : Int → Int → Int) (s : State) :
    KeepsMem s (intSlot i g t sat lat d a b f s) := by
  simp [intSlot]

@[simp] theorem execVbc_mem (g : Guard) (t : ElemTy) (d a : Nat) (s : State) : KeepsMem s (execVbc g t d a s) := by
  unfold execVbc captureScalar
  dsimp only
  split
  · exact laneSlot_mem _ _ _ _ _ _ { s with fr := { s.fr with cap := s.sget a } }
  · simp

@[simp] theorem redSlot_mem (i : Instr) (g : Guard) (w lat d ident a : Nat) (res : List (List Nat) → Nat × Nat) (s : State) :
    KeepsMem s (redSlot i g w lat d ident a res s) := by
  unfold redSlot
  dsimp only
  split
  · simp
  · rw [keepsMem_next, State.fpFlags_mem, State.foldl_mem _ fun _ _ => by rfl]

/-! ### The vector floating-point instructions -/

@[simp] theorem fp2Slot_mem (i : Instr) (g : Guard) (ft : FTy) (rnd : Rnd) (lat d a b : Nat) (f : Fmt → Nat → Nat → Nat → Nat × Nat)
    (s : State) : KeepsMem s (fp2Slot i g ft rnd lat d a b f s) := by
  simp [fp2Slot]

@[simp] theorem fp1Slot_mem (i : Instr) (g : Guard) (ft : FTy) (rnd : Rnd) (lat d a : Nat) (f : Fmt → Nat → Nat × Nat) (s : State) :
    KeepsMem s (fp1Slot i g ft rnd lat d a f s) := by
  simp [fp1Slot]

@[simp] theorem fmaSlot_mem (i : Instr) (g : Guard) (ft : FTy) (rnd : Rnd) (np nc : Bool) (d a b c : Nat) (s : State) :
    KeepsMem s (fmaSlot i g ft rnd np nc d a b c s) := by
  simp [fmaSlot]

/-! ### Compares and predicates -/

@[simp] theorem landPair_mem (s : State) (pp k : Nat) (v mask : LaneMask) (due : Nat) : (landPair s pp k v mask due).mem = s.mem := Eq.refl _

@[simp] theorem predSlot_mem (i : Instr) (g : Guard) (d : Nat) (v : Nat → LaneMask) (s : State) : KeepsMem s (predSlot i g d v s) := by
  simp [predSlot]

/-! ### Conversions, block formats, AMAXR, PACK, UNPK and SEED -/

@[simp] theorem amaxList_mem (s : State) (l : List (Option Nat)) (due : Nat) : (amaxList s l due).mem = s.mem := by
  simp [amaxList]

@[simp] theorem cvtSlot_mem (i : Instr) (g : Guard) (sat : Bool) (dt st : ElemTy) (r : Rnd) (d a : Nat) (s : State) :
    KeepsMem s (cvtSlot i g sat dt st r d a s) := by
  simp [cvtSlot]

@[simp] theorem landWhole_mem (s : State) (d lat : Nat) (gt : BitVec 128) (v : Nat) : (landWhole s d lat gt v).mem = s.mem :=
  State.foldl_mem _ (fun _ _ => by rfl) _ _

@[simp] theorem cvtbAdvance_mem (i : Instr) (r : Rnd) (w : Nat) (s : State) : (cvtbAdvance i r w s).mem = s.mem := by
  simp [cvtbAdvance]

@[simp] theorem cvtbEncode_mem (s : State) (F : Fmt) (dx4 : Bool) (r : Rnd) (gt : BitVec 128) (d a : Nat) :
    (cvtbEncode s F dx4 r gt d a).mem = s.mem := by
  simp [cvtbEncode]

@[simp] theorem cvtbDecode_mem (s : State) (F : Fmt) (dx4 : Bool) (gt : BitVec 128) (d a : Nat) : (cvtbDecode s F dx4 gt d a).mem = s.mem := by
  simp [cvtbDecode]

@[simp] theorem execAmaxr_mem (g : Guard) (d : Nat) (s : State) : KeepsMem s (execAmaxr g d s) := by
  unfold execAmaxr laneSlot
  dsimp only
  split
  · split <;> simp
  · simp

/-! ### ZIP, UZP, PERM, SLIDE and the streams -/

@[simp] theorem landGroup_mem (s : State) (d k : Nat) (gm : LaneMask) (l : List Gran) : (landGroup s d k gm l).mem = s.mem :=
  State.foldl_mem _ (fun _ _ => by rfl) _ _

@[simp] theorem rearrSlot_mem (i : Instr) (g : Guard) (d : Nat) (val : Nat → List Gran) (s : State) : KeepsMem s (rearrSlot i g d val s) := by
  simp [rearrSlot]

@[simp] theorem driveSlice_mem (s : State) (st k : Nat) (v : Gran) (gm : LaneMask) : (driveSlice s st k v gm).mem = s.mem := by
  unfold driveSlice
  split <;> simp

/-! ### The digit transducers and their charts -/

@[simp] theorem State.chartFault_mem (s : State) (kind slot : Nat) (rest D : Nat) : (State.chartFault s kind slot rest D).mem = s.mem := Eq.refl _

@[simp] theorem walkSlot_mem (i : Instr) (g : Guard) (n a b : Nat) (arity : Option Bool)
    (land : State → Nat → List Nat → LaneMask → LaneMask → Nat → State) (s : State)
    (h : ∀ s k outs lasts gm due, (land s k outs lasts gm due).mem = s.mem) : KeepsMem s (walkSlot i g n a b arity land s) := by
  unfold walkSlot
  dsimp only
  split
  · simp
  · split
    · simp
    · split <;> simp [h]

@[simp] theorem execDtx_mem (g : Guard) (n d a b : Nat) (s : State) : KeepsMem s (execDtx g n d a b s) :=
  walkSlot_mem _ _ _ _ _ _ _ _ fun _ _ _ _ _ _ => rfl

@[simp] theorem execDtu_mem (g : Guard) (n d a : Nat) (s : State) : KeepsMem s (execDtu g n d a s) :=
  walkSlot_mem _ _ _ _ _ _ _ _ fun _ _ _ _ _ _ => rfl

@[simp] theorem execDtz_mem (g : Guard) (n : Nat) (s : State) : KeepsMem s (execDtz g n s) := by
  unfold execDtz
  dsimp only
  split
  · simp
  · split <;> simp

@[simp] theorem execDtq_mem (g : Guard) (n d : Nat) (s : State) : KeepsMem s (execDtq g n d s) := by
  unfold execDtq
  dsimp only
  split
  · simp
  · split <;> simp

@[simp] theorem execDtld_mem (g : Guard) (n a : Nat) (imm : Int) (s : State) : KeepsMem s (execDtld g n a imm s) := by
  unfold execDtld
  apply onceSlot_mem
  dsimp only
  split
  · simp
  · split <;> simp

/-! ### Berth loads and stores, gathers and scatters, rings and atomics -/

@[simp] theorem loadAt_mem (s : State) (c : Cold) (k : Nat) (l : Loc) (srcs : List (Nat × Nat × Nat)) (mask : Gran) :
    (loadAt s c k l srcs mask).mem = s.mem := by
  simp [loadAt]

@[simp] theorem noteCi_mem (s : State) (reg : Nat) (c : Cold) : (noteCi s reg c).mem = s.mem := by
  simp [noteCi]

@[simp] theorem execVld_mem (g : Guard) (d a : Nat) (disp : Int) (s : State) : KeepsMem s (execVld g d a disp s) := by
  unfold execVld
  dsimp only
  split
  · simp
  · split <;> simp

@[simp] theorem vstSlice_mem (g : Guard) (d a : Nat) (disp : Int) (c : Cold) (s : State) : (vstSlice g d a disp c s).mem = s.mem := by
  simp [vstSlice]

@[simp] theorem execVst_mem (g : Guard) (d a : Nat) (disp : Int) (s : State) : KeepsMem s (execVst g d a disp s) := by
  unfold execVst
  split
  · exact (keepsMem_next _ _).2 (vstSlice_mem ..)
  · dsimp only
    split
    · exact (keepsMem_next _ _).2 rfl
    · split
      · exact (keepsMem_next _ _).2 (State.berthBound_mem ..)
      · exact (keepsMem_next _ _).2 ((vstSlice_mem ..).trans (State.notePerf_mem ..))

@[simp] theorem execLds_mem (g : Guard) (d a : Nat) (disp : Int) (s : State) : KeepsMem s (execLds g d a disp s) := by
  unfold execLds
  apply onceSlot_mem
  dsimp only
  split <;> simp

@[simp] theorem execSts_mem (g : Guard) (d a : Nat) (disp : Int) (s : State) : KeepsMem s (execSts g d a disp s) := by
  unfold execSts
  apply onceSlot_mem
  dsimp only
  split <;> simp

/-- The address list of a gather is abstracted before the fault check is split: what is left does not evaluate it. -/
@[simp] theorem gather_mem (s : State) (g : Guard) (d : Nat) (f : Nat → Nat) : (gather s g d f).mem = s.mem := by
  suffices h : ∀ F, F = gather → ∀ u, u = F s g d f → u.mem = s.mem from h _ rfl _ rfl
  intro F hF u hu
  delta gather at hF
  subst hF
  beta_reduce at hu
  extract_lets +onlyGivenNames gt c as at hu
  generalize laneFault c as = r at hu
  cases r with
  | some e => rw [hu]; exact State.berthBound_mem ..
  | none =>
    dsimp only at hu
    split at hu
    · rw [hu]
    · rw [hu, noteCi_mem]
      exact State.foldl_mem _ (fun s k => loadAt_mem ..) _ _

@[simp] theorem vstxSlice_mem (g : Guard) (d a b : Nat) (s : State) : (vstxSlice g d a b s).mem = s.mem := by
  unfold vstxSlice
  dsimp only
  rw [State.nextSlice_mem, State.foldl_mem _ fun _ _ => by rfl]

@[simp] theorem execVstx_mem (g : Guard) (d a b : Nat) (s : State) : KeepsMem s (execVstx g d a b s) := by
  suffices h : ∀ F, F = execVstx → ∀ u, u = F g d a b s → KeepsMem s u from h _ rfl _ rfl
  intro F hF u hu
  delta execVstx at hF
  subst hF
  beta_reduce at hu
  split at hu
  · rw [hu, keepsMem_next, vstxSlice_mem]
  generalize hs' : { s with fr := { s.fr with gt := s.allGuards g, cap := s.sget a, capv := BitVec.ofNat 4096 (wholeReg s b) } } = s' at hu
  have h : s'.mem = s.mem := by rw [← hs']
  clear hs'
  extract_lets +onlyGivenNames s'' at hu
  generalize laneFault _ _ = r at hu
  cases r with
  | some e => rw [hu, keepsMem_next, ← h]; exact State.berthBound_mem ..
  | none =>
    dsimp only at hu
    split at hu
    · rw [hu, keepsMem_next, h]
    · rw [hu, keepsMem_next, vstxSlice_mem, State.notePerf_mem, h]

@[simp] theorem execRset_mem (g : Guard) (ring a : Nat) (s : State) : KeepsMem s (execRset g ring a s) := by
  unfold execRset
  apply onceSlot_mem
  dsimp only
  split <;> simp

@[simp] theorem execRpush_mem (g : Guard) (ring : Nat) (s : State) : KeepsMem s (execRpush g ring s) := onceSlot_mem _ _ _ rfl

@[simp] theorem execAtom_mem (g : Guard) (op : AtomOp) (w : AtomW) (d a b : Nat) (s : State) : KeepsMem s (execAtom g op w d a b s) := by
  unfold execAtom
  apply onceSlot_mem
  dsimp only
  split <;> simp

/-! ### The lock calendar and the crossings -/

@[simp] theorem State.atSlot_mem (s : State) (S : Int) (i : Instr) (fr : Frame) : (State.atSlot s S i fr).mem = s.mem := by
  simp [State.atSlot]

@[simp] theorem State.cross_mem (s : State) (kind : CrossKind) (out : Bool) (lk src dst bytes : Nat) :
    (State.cross s kind out lk src dst bytes).mem = s.mem := by
  simp [State.cross]

@[simp] theorem State.reslot_mem (s : State) (enter : State → State) (h : ∀ s, (enter s).mem = s.mem) : (s.reslot enter).mem = s.mem := by
  simp [State.reslot, h]

@[simp] theorem State.noLock_mem (s : State) : (State.noLock s).mem = s.mem := Eq.refl _

@[simp] theorem State.quayBound_mem (s : State) (tile : Bool) (n : Nat) : (State.quayBound s tile n).mem = s.mem := Eq.refl _

@[simp] theorem quayCross_mem (s : State) (q : Nat) (own : State → Option State) (f : Nat → State → State)
    (hown : ∀ t, own s = some t → t.mem = s.mem) (hf : ∀ n, (f n s).mem = s.mem) : (quayCross s q own f).mem = s.mem := by
  unfold quayCross
  dsimp only
  split
  · simp
  · split
    · next h => exact hown _ h
    · simp [hf]

@[simp] theorem execXout_mem (g : Guard) (v q sz : Nat) (s : State) : KeepsMem s (execXout g v q sz s) := by
  unfold execXout
  dsimp only
  split
  · refine onceSlot_mem _ _ _ (quayCross_mem _ _ _ _ (fun _ h => nomatch h) fun n => ?_)
    split <;> simp
  · split <;> simp

theorem claimTile_mem {s t : State} {x ring tile id : Nat} (h : claimTile s x ring = some (tile, id, t)) : t.mem = s.mem := by
  unfold claimTile at h
  dsimp only at h
  split at h
  · cases h
  · cases h; rfl

@[simp] theorem State.ringOver_mem (s : State) (ring : Nat) : (State.ringOver s ring).mem = s.mem := Eq.refl _

@[simp] theorem execXinr_mem (g : Guard) (ring q sz : Nat) (s : State) : KeepsMem s (execXinr g ring q sz s) := by
  refine onceSlot_mem _ _ _ (quayCross_mem _ _ _ _ (fun t h => ?_) fun n => ?_)
  · split at h
    · cases h; simp
    · cases h
  · split
    · simp
    · split
      · simp
      · next h => simp [claimTile_mem h]

@[simp] theorem latchCross_mem (s : State) (lat h : Nat) (f : Nat → State → State) (hf : ∀ n, (f n s).mem = s.mem) :
    (latchCross s lat h f).mem = s.mem := by simp [latchCross, hf]

/-! ### Latches and the transposer as slots reach them -/

@[simp] theorem latchSlot_mem (lat : Nat) (s : State) (f : State → State) (hf : (f s).mem = s.mem) : (latchSlot lat s f).mem = s.mem := by
  simp [latchSlot, hf]

@[simp] theorem execMzero_mem (g : Guard) (lat : Nat) (s : State) : KeepsMem s (execMzero g lat s) := onceSlot_mem _ _ _ (latchSlot_mem _ _ _ rfl)

@[simp] theorem everySlice_mem (i : Instr) (g : Guard) (lat : Nat) (s : State) (f : State → Nat → State) (hf : ∀ n, (f s n).mem = s.mem) :
    KeepsMem s (everySlice i g lat s f) := by
  unfold everySlice
  split
  · exact onceSlot_mem _ _ _ (by simp [hf])
  · simp [hf]

@[simp] theorem execMpop_mem (g : Guard) (v lat grp : Nat) (s : State) : KeepsMem s (execMpop g v lat grp s) := everySlice_mem _ _ _ _ _ fun _ => rfl

@[simp] theorem execMpsh_mem (g : Guard) (v lat grp : Nat) (s : State) : KeepsMem s (execMpsh g v lat grp s) := everySlice_mem _ _ _ _ _ fun _ => rfl

@[simp] theorem execTrno_mem (g : Guard) (d grp : Nat) (s : State) : KeepsMem s (execTrno g d grp s) := by
  unfold execTrno laneSlot
  split
  · simp
  · dsimp only
    split <;> simp

/-! ### Warm memory -/

@[simp] theorem State.clearMarks_mem (s : State) (key n mask : Nat) : (State.clearMarks s key n mask).mem = s.mem := by
  simp [State.clearMarks]

@[simp] theorem State.hostCover_mem (s : State) (key n : Nat) : (State.hostCover s key n).mem = s.mem := by
  simp [State.hostCover]

@[simp] theorem State.setLate_mem (s : State) (f : FlagFile) (n setter : Nat) : (State.setLate s f n setter).mem = s.mem := by
  simp [State.setLate]

@[simp] theorem State.errorSlot_mem (s : State) (store where_ : Nat) : (State.errorSlot s store where_).mem = s.mem := by
  simp [State.errorSlot]

@[simp] theorem State.errorWord_mem (s : State) (key store where_ : Nat) : (State.errorWord s key store where_).mem = s.mem := by
  unfold State.errorWord
  split <;> simp

@[simp] theorem State.countSnap_mem (s : State) (x : Nat) : (State.countSnap s x).mem = s.mem := by
  simp [State.countSnap]

@[simp] theorem State.meetWords_mem (s : State) (keys : List Nat) : (State.meetWords s keys).mem = s.mem := by
  simp [State.meetWords]

@[simp] theorem State.countPart_mem (s : State) (key n mask : Nat) : (State.countPart s key n mask).mem = s.mem := by
  simp [State.countPart]

@[simp] theorem State.inboundRead_mem (s : State) (k : Crossing) (j land : Nat) (f : Nat → Nat → State → State)
    (hf : ∀ n v s, (f n v s).mem = s.mem) : (s.inboundRead k j land f).mem = s.mem := by
  unfold State.inboundRead
  dsimp only
  split <;> simp [hf]

@[simp] theorem State.touchVirt_mem (s : State) (proc va n : Nat) : (s.touchVirt proc va n).mem = s.mem := by
  refine State.foldl_mem _ (fun s i => ?_) _ _
  dsimp only
  split <;> split <;> simp

@[simp] theorem State.poisonGranule_mem (s : State) (g : Nat) : (State.poisonGranule s g).mem = s.mem := Eq.refl _

@[simp] theorem State.chargePilot_mem (s : State) (p wb : Nat) : (State.chargePilot s p wb).mem = s.mem := Eq.refl _

@[simp] theorem State.softFault_mem (s : State) (file num lane slice : Nat) (snap : Bool) (D : Nat) :
    (State.softFault s file num lane slice snap D).mem = s.mem := by
  simp [State.softFault]

@[simp] theorem State.latchFault_mem (s : State) (lat b D : Nat) : (State.latchFault s lat b D).mem = s.mem := by
  simp [State.latchFault]

@[simp] theorem State.traceWrite_mem (s : State) (job r : Nat) : (State.traceWrite s job r).mem = s.mem := by
  unfold State.traceWrite
  split <;> simp

@[simp] theorem State.traceRec_mem (s : State) (job en type addr x ts0 sch tide ts3 : Nat) :
    (State.traceRec s job en type addr x ts0 sch tide ts3).mem = s.mem := by
  unfold State.traceRec
  split <;> simp

@[simp] theorem State.traceAct_mem (s : State) (en type ts0 tide ts3 : Nat) : (State.traceAct s en type ts0 tide ts3).mem = s.mem := by
  simp [State.traceAct]

@[simp] theorem State.faultTrace_mem (s : State) (f : PendFault) (nest : Bool) : (State.faultTrace s f nest).mem = s.mem := by
  simp [State.faultTrace]

@[simp] theorem State.enterCause_mem (s : State) (f : PendFault) : (State.enterCause s f).mem = s.mem := by
  simp [State.enterCause]

@[simp] theorem State.holdMember_mem (s : State) (F : Nat) (wave : Bool) (x : Nat) : (State.holdMember s F wave x).mem = s.mem := by
  unfold State.holdMember
  dsimp only
  split <;> simp

@[simp] theorem State.join_mem (s : State) (gi : Nat) (w : Why) : (State.join s gi w).mem = s.mem := by
  simp [State.join]

@[simp] theorem State.sendJob_mem (s : State) (job : Nat) (via : Option Nat) (m : Msg) : (State.sendJob s job via m).mem = s.mem := by
  simp [State.sendJob]

@[simp] theorem State.waveIn_mem (s : State) (job : Nat) (r : Slack) (via : Option Nat) : (State.waveIn s job r via).mem = s.mem := by
  simp [State.waveIn]

@[simp] theorem State.trigger_mem (s : State) (job : Nat) (r : Slack) : (State.trigger s job r).mem = s.mem := by
  simp [State.trigger]

@[simp] theorem State.triggerCtx_mem (s : State) (x addr code arg sch tide : Nat) (wide : Bool) :
    (State.triggerCtx s x addr code arg sch tide wide).mem = s.mem := by
  simp [State.triggerCtx]

/-! ### Branches, loops, END, flags, waits and fences, launches, system and debug instructions -/

@[simp] theorem State.transfer_mem (s : State) (target : Nat) : (State.transfer s target).mem = s.mem := by
  simp [State.transfer]

@[simp] theorem State.keepLoop_mem (s : State) : (State.keepLoop s).mem = s.mem := Eq.refl _

@[simp] theorem transferReg_mem (s : State) (v : Word) : (transferReg s v).mem = s.mem := by
  simp [transferReg]

@[simp] theorem loopBack_mem (s : State) (head : Nat) : (loopBack s head).mem = s.mem := by
  simp [loopBack]

@[simp] theorem execEndl_mem (g : Guard) (s : State) : KeepsMem s (execEndl g s) := by
  unfold execEndl
  apply onceSlot_mem
  dsimp only
  split <;> simp

@[simp] theorem execEndTask_mem (g : Guard) (s : State) : KeepsMem s (execEndTask g s) := onceSlot_mem _ _ _ rfl

@[simp] theorem execSetf_mem (g : Guard) (sc : Scope) (n : Nat) (s : State) : KeepsMem s (execSetf g sc n s) := by
  unfold execSetf
  apply onceSlot_mem
  split <;> simp

@[simp] theorem execClrf_mem (g : Guard) (sc : Scope) (n : Nat) (s : State) : KeepsMem s (execClrf g sc n s) := by
  unfold execClrf
  apply onceSlot_mem
  split <;> simp

@[simp] theorem landFlag_mem (s : State) (pp : Nat) (v : Bool) (read : Nat) : (landFlag s pp v read).mem = s.mem :=
  State.foldl_mem _ (fun _ _ => by rfl) _ _

@[simp] theorem readFlag_mem (s : State) (pp : Nat) (f : FlagFile) (n due : Nat) : (readFlag s pp f n due).mem = s.mem := by
  simp [readFlag]

@[simp] theorem execTstf_mem (g : Guard) (pp : Nat) (sc : Scope) (n : Nat) (s : State) : KeepsMem s (execTstf g pp sc n s) := by
  unfold execTstf
  apply onceSlot_mem
  split <;> simp

@[simp] theorem State.gangStop_mem (s : State) (why : Why) : (State.gangStop s why).mem = s.mem := by
  simp [State.gangStop]

@[simp] theorem execWait_mem (g : Guard) (sc : Scope) (n : Nat) (s : State) : KeepsMem s (execWait g sc n s) := by
  refine onceSlot_mem _ _ _ ?_
  split
  · simp
  · split <;> simp

@[simp] theorem postMsg_mem (s : State) (kind : CrossKind) (bytes : Nat) (m : Msg) : (postMsg s kind bytes m).mem = s.mem := by
  simp [postMsg]

@[simp] theorem execLaunch_mem (g : Guard) (a : Nat) (s : State) : KeepsMem s (execLaunch g a s) := by
  unfold execLaunch
  apply onceSlot_mem
  dsimp only
  split <;> simp

@[simp] theorem execTiss_mem (g : Guard) (a : Nat) (s : State) : KeepsMem s (execTiss g a s) := by
  unfold execTiss
  apply onceSlot_mem
  dsimp only
  split <;> simp

@[simp] theorem execTrap_mem (g : Guard) (code : Nat) (s : State) : KeepsMem s (execTrap g code s) := onceSlot_mem _ _ _ rfl

@[simp] theorem State.triggerSlot_mem (s : State) (cause code tide : Nat) : (State.triggerSlot s cause code tide).mem = s.mem := by
  simp [State.triggerSlot]

@[simp] theorem slackBy_mem (s : State) (cause code : Nat) (own : Bool) : (slackBy s cause code own).mem = s.mem := Eq.refl _

@[simp] theorem execSlack_mem (g : Guard) (code : Nat) (s : State) : KeepsMem s (execSlack g code s) := onceSlot_mem _ _ _ rfl

@[simp] theorem execMark_mem (g : Guard) (code : Nat) (s : State) : KeepsMem s (execMark g code s) := onceSlot_mem _ _ _ rfl

@[simp] theorem execCtxs_mem (g : Guard) (n : Nat) (s : State) : KeepsMem s (execCtxs g n s) := by
  unfold execCtxs
  apply onceSlot_mem
  dsimp only
  (repeat' split) <;> simp

theorem State.bulk_mem {s t : State} {y n : Nat} {out : Bool} {stage : List Nat} (h : s.bulk y out n stage = some t) : t.mem = s.mem := by
  unfold State.bulk at h
  dsimp only at h
  split at h
  · cases h
  · cases h; exact State.foldl_mem _ (fun _ _ => by rfl) _ _

/-! ### The matrix class -/

@[simp] theorem State.updCore_mem (s : State) (c : Nat) (f : Core → Core) : (State.updCore s c f).mem = s.mem := Eq.refl _

@[simp] theorem execMset_mem (g : Guard) (m a : Nat) (s : State) : KeepsMem s (execMset g m a s) := onceSlot_mem _ _ _ rfl

@[simp] theorem execMload_mem (g : Guard) (n a : Nat) (s : State) : KeepsMem s (execMload g n a s) := by
  unfold execMload
  apply onceSlot_mem
  dsimp only
  split
  · simp
  · split <;> simp

@[simp] theorem execSld_mem (g : Guard) (lat a : Nat) (imm : Int) (s : State) : KeepsMem s (execSld g lat a imm s) := by
  refine onceSlot_mem _ _ _ (latchSlot_mem _ _ _ ?_)
  dsimp only
  split <;> simp

@[simp] theorem State.updCall_mem (s : State) (core id : Nat) (f : Call → Call) : (State.updCall s core id f).mem = s.mem := Eq.refl _

@[simp] theorem enterCall_mem (s : State) (core n t S y : Nat) (m : List Word) (tile : Option TileRef) (flags : Nat) :
    (enterCall s core n t S y m tile flags).mem = s.mem := by
  simp [enterCall]

@[simp] theorem execMcall_mem (g : Guard) (n : Nat) (s : State) : KeepsMem s (execMcall g n s) := by
  unfold execMcall
  apply onceSlot_mem
  dsimp only
  split <;> simp

@[simp] theorem State.updTile_mem (s : State) (id : Nat) (f : TileJob → TileJob) : (State.updTile s id f).mem = s.mem := Eq.refl _

@[simp] theorem State.jobFr_mem (s : State) (j : TileJob) : (State.jobFr s j).mem = s.mem := Eq.refl _

@[simp] theorem State.tileAt_mem (s : State) (j : TileJob) (due : Nat) (st : TileStep) : (State.tileAt s j due st).mem = s.mem := Eq.refl _

@[simp] theorem State.tileEndAt_mem (s : State) (j : TileJob) (due : Nat) : (State.tileEndAt s j due).mem = s.mem := Eq.refl _

@[simp] theorem State.dropCrossings_mem (s : State) (ids : List Nat) (all : Bool) : (State.dropCrossings s ids all).mem = s.mem := Eq.refl _

@[simp] theorem State.childRecord_mem (s : State) (j : TileJob) (r : TileRef) (cause : Nat) : (State.childRecord s j r cause).mem = s.mem := by
  simp [State.childRecord]

@[simp] theorem State.failTile_mem (s : State) (r : TileRef) (cause : Nat) (place : Option Nat) : (State.failTile s r cause place).mem = s.mem := by
  unfold State.failTile
  split <;> simp

@[simp] theorem State.deferFault_mem (s : State) (core : Nat) (c : Call) (code kind uw F : Nat) :
    (State.deferFault s core c code kind uw F).mem = s.mem := by
  unfold State.deferFault
  split <;> simp

@[simp] theorem callSample_mem (s : State) (core id : Nat) : (callSample s core id).mem = s.mem := by
  unfold callSample
  dsimp only
  (repeat' split) <;> simp

@[simp] theorem readAcc_mem (s : State) (core id lat : Nat) : (readAcc s core id lat).mem = s.mem := by
  unfold readAcc
  split <;> (try simp) <;> split <;> simp

@[simp] theorem execMatrixCallStart_mem (core : Nat) (s : State) : KeepsMem s (execMatrixCallStart core s) := by
  unfold execMatrixCallStart
  dsimp only
  split <;> simp

@[simp] theorem captureScales_mem (s : State) (core id : Nat) : (captureScales s core id).mem = s.mem := by
  unfold captureScales
  split
  · simp
  · split <;> simp

@[simp] theorem callStep_mem (s : State) (core id : Nat) : (callStep s core id).mem = s.mem := by
  unfold callStep
  dsimp only
  split
  · simp
  split
  · simp
  split
  · simp
  split
  · simp
  split
  · simp
  split
  · simp
  · simp

@[simp] theorem callSum_mem (s : State) (core id : Nat) : (callSum s core id).mem = s.mem := by
  unfold callSum
  dsimp only
  (repeat' split) <;> simp

@[simp] theorem execMatrixCallRetire_mem (core : Nat) (s : State) : KeepsMem s (execMatrixCallRetire core s) := by
  unfold execMatrixCallRetire
  split
  · simp
  split
  · simp
  split
  · simp
  · simp

/-! ### Engine commands -/

@[simp] theorem State.lateStart_mem (s : State) (S : Int) : (State.lateStart s S).mem = s.mem := Eq.refl _

@[simp] theorem State.illegal_mem (s : State) : (State.illegal s).mem = s.mem := Eq.refl _

@[simp] theorem State.commandId_mem (s : State) : s.commandId.2.mem = s.mem := by unfold State.commandId; split <;> rfl

@[simp] theorem State.noteNonstatic_mem (s : State) (id : Nat) : (State.noteNonstatic s id).mem = s.mem := Eq.refl _

@[simp] theorem enterCommand_mem (s : State) (op : Nat) (d : Xfer) (warm : Nat) (dw : Word) (S : Int) :
    (enterCommand s op d warm dw S).mem = s.mem := by
  simp [enterCommand]

@[simp] theorem engineCheck_mem (s : State) (op : Nat) (S : Int) (dw : Word) (f : Xfer → State → State) (hf : ∀ d, (f d s).mem = s.mem) :
    (engineCheck s op S dw f).mem = s.mem := by
  unfold engineCheck
  dsimp only
  split
  · simp
  · split
    · simp
    · simp [hf]

@[simp] theorem transfer_mem (op : Nat) (g : Guard) (a b off : Nat) (s : State) : KeepsMem s (transfer op g a b off s) := by
  simp [transfer]

@[simp] theorem limitStop_mem (s : State) (why : Why) (i : Instr) (a b : Word) : (limitStop s why i a b).mem = s.mem := by
  simp [limitStop]

@[simp] theorem acceptPost_mem (i : Instr) (f : Nat) (a b : Word) (d : Xfer) (s : State) : (acceptPost i f a b d s).mem = s.mem := by
  simp [acceptPost]

@[simp] theorem execBxPost_mem (g : Guard) (a b f : Nat) (s : State) : KeepsMem s (execBxPost g a b f s) := by
  unfold execBxPost
  split
  · split <;> simp
  · simp

@[simp] theorem enterCxl_mem (s : State) (dir : Bool) (q : Nat) (va f : Nat) : (enterCxl s dir q va f).mem = s.mem := by
  simp [enterCxl]

@[simp] theorem acceptCxl_mem (i : Instr) (dir : Bool) (q f : Nat) (va : Word) (s : State) : (acceptCxl i dir q f va s).mem = s.mem := by
  simp [acceptCxl]

@[simp] theorem cxl_mem (i : Instr) (dir : Bool) (g : Guard) (q a f : Nat) (s : State) : KeepsMem s (cxl i dir g q a f s) := by
  simp [cxl]

@[simp] theorem dropCxl_mem (s : State) (x id : Nat) : (dropCxl s x id).mem = s.mem := Eq.refl _

/-- A fold over a state paired with what else it carries keeps memory when its steps do. -/
theorem foldl_fst_mem {α β : Type} (f : State × β → α → State × β) (h : ∀ p a, (f p a).1.mem = p.1.mem) (l : List α) :
    ∀ p : State × β, (l.foldl f p).1.mem = p.1.mem := by
  induction l with
  | nil => exact fun _ => rfl
  | cons a l ih => exact fun p => (ih (f p a)).trans (h p a)

@[simp] theorem sendCxl_mem (s : State) (rs : List CxlReq) : (sendCxl s rs).mem = s.mem := foldl_fst_mem _ (fun p r => by simp) _ _

@[simp] theorem warmCheck_mem (s : State) (id D : Nat) : (warmCheck s id D).mem = s.mem := by
  unfold warmCheck
  dsimp only
  (repeat' split) <;> simp

@[simp] theorem sendPosted_mem (s : State) (id : Nat) : (sendPosted s id).mem = s.mem := by
  unfold sendPosted
  split <;> simp

@[simp] theorem sendGranule_mem (s : State) (k : Command) (d : Xfer) (i u data : Nat) (bad : Bool) :
    (sendGranule s k d i u data bad).mem = s.mem := by
  unfold sendGranule
  split <;> (try simp) <;> split <;> simp

@[simp] theorem quayGranule_mem (s : State) (key : Nat) : (quayGranule s key).1.mem = s.mem := by simp [quayGranule]

@[simp] theorem quayRead_mem (s : State) (core : Nat) (k : Command) (d : Xfer) (i : Nat) : (quayRead s core k d i).1.mem = s.mem := by
  unfold quayRead; split <;> simp

@[simp] theorem State.actAt_mem (s : State) (T : Nat) (i : Instr) (fr : Frame) : (State.actAt s T i fr).mem = s.mem := by
  simp [State.actAt]

@[simp] theorem present_mem (s : State) (x : Nat) (k : Command) (i pa data : Nat) (bad : Bool) : (present s x k i pa data bad).mem = s.mem := by
  simp [present]

@[simp] theorem startSlot_mem (s : State) (x : Nat) (k : Command) (d : Xfer) : (startSlot s x k d).mem = s.mem := by
  unfold startSlot
  dsimp only
  split <;> (try simp) <;> split <;> simp

@[simp] theorem execEngineSlot_mem (x id : Nat) (s : State) : KeepsMem s (execEngineSlot x id s) := by
  unfold execEngineSlot
  dsimp only
  (repeat' split) <;> simp

@[simp] theorem execHbmCalendarAccess_mem (id : Nat) (s : State) : KeepsMem s (execHbmCalendarAccess id s) := by
  unfold execHbmCalendarAccess
  dsimp only
  split
  · simp
  split
  · simp
  split
  · simp
  · simp

@[simp] theorem finishCxl_mem (s : State) (r : CxlReq) : (finishCxl s r).mem = s.mem := by
  simp [finishCxl]

@[simp] theorem State.updCxl_mem (s : State) (id : Nat) (f : CxlReq → CxlReq) : (State.updCxl s id f).mem = s.mem := Eq.refl _

@[simp] theorem execCxlRequestSend_mem (id : Nat) (s : State) : KeepsMem s (execCxlRequestSend id s) := by
  unfold execCxlRequestSend
  split
  · simp
  · split <;> simp

@[simp] theorem cxlReturn_mem (s : State) (r : CxlReq) (ok : Bool) : (cxlReturn s r ok).1.mem = s.mem := by
  unfold cxlReturn
  split
  · rfl
  · split
    · rfl
    · split <;> rfl

@[simp] theorem endCxl_mem (s : State) (r : CxlReq) (ok : Bool) : (endCxl s r ok).mem = s.mem := by
  simp [endCxl]

@[simp] theorem execCxlRequestComplete_mem (id : Nat) (ok : Bool) (s : State) : KeepsMem s (execCxlRequestComplete id ok s) := by
  unfold execCxlRequestComplete
  split <;> simp

@[simp] theorem execCxlRequestTimeout_mem (id : Nat) (s : State) : KeepsMem s (execCxlRequestTimeout id s) := by
  unfold execCxlRequestTimeout
  split <;> simp

@[simp] theorem routerCommand_mem (g : Guard) (off : Nat) (bad : State → Bool) (s : State) (f : Int → State → State)
    (hf : ∀ S, (f S s).mem = s.mem) : KeepsMem s (routerCommand g off bad s f) := onceSlot_mem _ _ _ (by simp [hf])

@[simp] theorem execRtLd_mem (g : Guard) (a b off : Nat) (s : State) : KeepsMem s (execRtLd g a b off s) := by
  unfold execRtLd
  refine routerCommand_mem _ _ _ _ _ fun S => ?_
  extract_lets w ad n clu off gi
  split
  · exact State.berthBound_mem ..
  split
  · exact State.berthBound_mem ..
  split
  · exact State.berthBound_mem ..
  split
  · exact State.berthBound_mem ..
  split
  · exact State.lateStart_mem ..
  · exact State.foldl_mem _ (fun s j => State.push_mem ..) _ _

/-! ### The router stage -/

@[simp] theorem State.updRouter_mem (s : State) (c : Nat) (f : Router → Router) : (State.updRouter s c f).mem = s.mem := Eq.refl _

@[simp] theorem State.landW_mem (s : State) (d lat : Nat) (v : Gran) : (State.landW s d lat v).mem = s.mem := Eq.refl _

@[simp] theorem State.loadW_mem (s : State) (d lat key : Nat) : (State.loadW s d lat key).mem = s.mem := Eq.refl _

@[simp] theorem State.storeW_mem (s : State) (lat key pri : Nat) (v : Gran) : (State.storeW s lat key pri v).mem = s.mem := Eq.refl _

@[simp] theorem execRadd_mem (ty : RTy) (d a b : Nat) (s : State) : KeepsMem s (execRadd ty d a b s) := by
  unfold execRadd
  split <;> simp

@[simp] theorem pushGranule_mem (s : State) (y ring lat : Nat) (v : Gran) : (pushGranule s y ring lat v).mem = s.mem := by
  unfold pushGranule
  dsimp only
  have opened : ∀ t, (if ((s.ctx y).ring ring).gran = 0 then (claimTile s y ring).map fun e => e.2.2 else some s) = some t → t.mem = s.mem := by
    intro t h
    split at h
    · obtain ⟨⟨tile, id, u⟩, hu, rfl⟩ := Option.map_eq_some_iff.1 h
      exact claimTile_mem hu
    · cases h; rfl
  split
  · rfl
  · next h => split <;> simp [opened _ h]

@[simp] theorem routerFault_mem (s : State) (clu code fbnd entry slot iter : Nat) :
    (routerFault s clu code fbnd entry slot iter).mem = s.mem := Eq.refl _

@[simp] theorem routerSoft_mem (s : State) (clu entry slot iter : Nat) : (routerSoft s clu entry slot iter).mem = s.mem := by
  simp [routerSoft]

@[simp] theorem execRouterWordIssue_mem (clu : Nat) (s : State) : KeepsMem s (execRouterWordIssue clu s) := by
  unfold execRouterWordIssue
  dsimp only
  split
  · simp
  split
  · simp
  split
  · simp
  split
  · simp
  · simp

@[simp] theorem routerStop_mem (s : State) : (routerStop s).mem = s.mem := Eq.refl _

/-! ### Tile words -/

@[simp] theorem writeC_mem (s : State) (j : TileJob) (due pri r off n v : Nat) : (writeC s j due pri r off n v).mem = s.mem := by
  unfold writeC
  dsimp only
  split
  · exact State.foldl_mem _ (fun _ _ => by rfl) _ _
  · split <;> simp

@[simp] theorem dieCross_mem (s : State) (j : TileJob) (k : Nat) (out : Bool) (n c : Nat) : (dieCross s j k out n c).mem = s.mem := by
  simp [dieCross]

@[simp] theorem stopTile_mem (s : State) (j : TileJob) : (stopTile s j).mem = s.mem := by
  simp [stopTile]

@[simp] theorem accIn_mem (s : State) (j : TileJob) (k : Nat) : (accIn s j k).mem = s.mem := by
  unfold accIn
  split <;> (try simp) <;> split <;> simp

@[simp] theorem startTile_mem (s : State) (j : TileJob) : (startTile s j).mem = s.mem := by
  unfold startTile
  split <;> (try simp) <;> split <;> simp

@[simp] theorem beginTile_mem (s : State) (j : TileJob) : (beginTile s j).mem = s.mem := by
  unfold beginTile
  dsimp only
  split <;> (try simp) <;> split <;> simp

@[simp] theorem acceptTile_mem (s : State) (j : TileJob) : (acceptTile s j).mem = s.mem := by
  simp [acceptTile]

@[simp] theorem wakeTiles_mem (s : State) (port : TileJob) : (wakeTiles s port).mem = s.mem := by
  simp [wakeTiles]

@[simp] theorem tileRecord_mem (s : State) (j : TileJob) (status : Nat) : (tileRecord s j status).mem = s.mem := by
  unfold tileRecord
  split <;> simp

@[simp] theorem completeTile_mem (n : Nat) : ∀ (s : State) (id : Nat), (completeTile s n id).mem = s.mem := by
  induction n with
  | zero => intro s id; rfl
  | succ n ih =>
    intro s id
    unfold completeTile
    split
    · rfl
    · dsimp only
      split <;> simp [ih]

@[simp] theorem finishReduce_mem (s : State) (j : TileJob) (due : Nat) : (finishReduce s j due).mem = s.mem := by
  unfold finishReduce
  dsimp only
  split <;> simp

@[simp] theorem startSub_mem (s : State) (c : TileJob) : (startSub s c).mem = s.mem := by
  unfold startSub
  split <;> (try simp) <;> split <;> simp

@[simp] theorem execTileChildEnd_mem (s : State) : KeepsMem s (execTileChildEnd s) := by
  unfold execTileChildEnd
  dsimp only
  (repeat' split) <;> simp

@[simp] theorem emitSub_mem (s : State) (j : TileJob) (k : Nat) : (emitSub s j k).mem = s.mem := by
  unfold emitSub
  dsimp only
  split <;> simp

@[simp] theorem emitCore_mem (s : State) (j : TileJob) (k : Nat) : (emitCore s j k).mem = s.mem := by
  simp [emitCore]

@[simp] theorem emitCluster_mem (s : State) (j : TileJob) (k : Nat) : (emitCluster s j k).mem = s.mem := by
  simp [emitCluster]

@[simp] theorem emitModule_mem (s : State) (j : TileJob) (k : Nat) : (emitModule s j k).mem = s.mem := by
  simp [emitModule]

@[simp] theorem emitChild_mem (s : State) (j : TileJob) (k : Nat) : (emitChild s j k).mem = s.mem := by
  unfold emitChild
  split <;> (try simp) <;> split <;> simp

theorem portCall_mem {s t : State} {core rout S x y flags : Nat} {hnd : Bool} {m : List Word} {r : TileRef}
    (h : portCall s core rout S x y hnd m r flags = some t) : t.mem = s.mem := by
  unfold portCall at h
  dsimp only at h
  split at h
  · cases h
  · cases h; simp

@[simp] theorem coreCall_mem (s : State) (j : TileJob) (k : Nat) : (coreCall s j k).mem = s.mem := by
  unfold coreCall
  split
  · rfl
  · dsimp only
    split
    · simp
    · split
      · simp
      · next h => simp [portCall_mem h]

@[simp] theorem coreOut_mem (s : State) (j : TileJob) (k : Nat) : (coreOut s j k).mem = s.mem := by
  unfold coreOut
  split
  · dsimp only
    split
    · simp
    · split <;> simp [foldl_fst_mem]
  · rfl

@[simp] theorem pushTile_mem (s : State) (j : TileJob) (y ring g img : Nat) (ref : TileRef) : (pushTile s j y ring g img ref).mem = s.mem := by
  unfold pushTile
  dsimp only
  split
  · simp
  · split
    · simp
    · next h => rw [State.push_mem, State.foldl_mem _ fun _ _ => by rfl, State.jobFr_mem, claimTile_mem h]

@[simp] theorem portFeed_mem (s : State) (j : TileJob) (pos st i : Nat) : (portFeed s j pos st i).mem = s.mem := by
  unfold portFeed
  split <;> (try simp) <;> split <;> simp

@[simp] theorem portEmit_mem (s : State) (j : TileJob) (k : Nat) : (portEmit s j k).mem = s.mem := by
  unfold portEmit
  split <;> simp

@[simp] theorem portChild_mem (s : State) (j : TileJob) (k pos st : Nat) : (portChild s j k pos st).mem = s.mem := by
  unfold portChild
  split
  · rfl
  · dsimp only
    split
    · rfl
    · split
      · simp
      · split
        · simp
        · next h => simp [portCall_mem h]

@[simp] theorem portReduce_mem (s : State) (j : TileJob) (pos : Nat) : (portReduce s j pos).mem = s.mem := by
  unfold portReduce
  split
  · rfl
  · dsimp only
    split
    · simp
    · split
      · simp
      · split <;> split <;> simp [foldl_fst_mem]

@[simp] theorem dieNext_mem (s : State) (j : TileJob) (c : Crossing) (k i : Nat) : (dieNext s j c k i).mem = s.mem := by
  unfold dieNext
  split <;> simp

@[simp] theorem dieSlot_mem (s : State) (j : TileJob) (k i : Nat) : (dieSlot s j k i).mem = s.mem := by
  unfold dieSlot
  dsimp only
  split
  · simp
  split
  · simp
  split
  · simp
  · simp

@[simp] theorem dieOut_mem (s : State) (j : TileJob) (k i : Nat) : (dieOut s j k i).mem = s.mem := by
  unfold dieOut
  dsimp only
  split
  · simp
  split
  · simp
  split
  · simp
  · simp

@[simp] theorem moduleWord_mem (s : State) (j : TileJob) : (moduleWord s j).mem = s.mem := by
  unfold moduleWord
  dsimp only
  split
  · simp
  split
  · simp
  split
  · simp
  · simp

theorem besideProgram_mem {s t : State} {j : TileJob} (h : besideProgram s j = some t) : t.mem = s.mem := by
  unfold besideProgram at h
  dsimp only at h
  split at h
  · cases h; simp
  · cases h

@[simp] theorem acceptWord_mem (op : Nat) (w : TileWord) (s : State) : (acceptWord op w s).mem = s.mem := by
  simp [acceptWord]

@[simp] theorem lateCharge_mem (s : State) (wb : Nat) : (lateCharge s wb).mem = s.mem := Eq.refl _

@[simp] theorem tissRead_mem (s : State) (key : Nat) : (tissRead s key).mem = s.mem := by
  unfold tissRead
  dsimp only
  (repeat' split) <;> simp

/-! ### The start of a router program -/

@[simp] theorem routerGo_mem (s : State) (entry rcnt : Nat) : (routerGo s entry rcnt).mem = s.mem := by
  simp [routerGo]

/-! ### Pending effects -/

@[simp] theorem State.landReg_mem (s : State) (l : Loc) (val mask : Gran) : (State.landReg s l val mask).mem = s.mem := Eq.refl _

@[simp] theorem State.keep_mem (s : State) (old : Saved) : (State.keep s old).mem = s.mem := Eq.refl _

@[simp] theorem State.landCreg_mem (s : State) (n : Nat) (v : Word) : (State.landCreg s n v).mem = s.mem := by
  simp [State.landCreg]

@[simp] theorem State.landRset_mem (s : State) (ring : Nat) (v : Word) : (State.landRset s ring v).mem = s.mem := Eq.refl _

@[simp] theorem State.landPush_mem (s : State) (ring : Nat) : (s.landPush ring).mem = s.mem := by
  unfold State.landPush
  dsimp only
  split
  · simp
  · next h => simp [claimTile_mem h]

@[simp] theorem State.landImage_mem (s : State) (n key due : Nat) : (s.landImage n key due).mem = s.mem := by
  unfold State.landImage
  dsimp only
  split
  · simp
  · exact State.foldl_mem _ (fun _ _ => by rfl) _ _

@[simp] theorem State.readLaunch_mem (s : State) (key : Nat) : (State.readLaunch s key).mem = s.mem := Eq.refl _

@[simp] theorem State.landPushLoop_mem (s : State) (head n : Nat) : (State.landPushLoop s head n).mem = s.mem := Eq.refl _

@[simp] theorem State.meetHeld_mem (s : State) (e : Eff) : (State.meetHeld s e).mem = s.mem := by
  simp [State.meetHeld]

@[simp] theorem State.poisonFault_mem (s : State) (st key D : Nat) : (State.poisonFault s st key D).mem = s.mem := by
  simp [State.poisonFault]

@[simp] theorem State.wordFault_mem (s : State) (key D : Nat) : (State.wordFault s key D).mem = s.mem := by
  simp [State.wordFault]

@[simp] theorem State.readChecked_mem (s : State) (srcs : List (Nat × Nat × Nat)) (D : Nat) (f : State → State) (hf : ∀ s, (f s).mem = s.mem) :
    (s.readChecked srcs D f).mem = s.mem := by
  unfold State.readChecked
  split
  · exact hf _
  · split
    · simp
    · dsimp only; split <;> simp [hf]

@[simp] theorem State.readWhole_mem (s : State) (image : Bool) (key n D : Nat) (f : State → State) (hf : ∀ s, (f s).mem = s.mem) :
    (s.readWhole image key n D f).mem = s.mem := by
  unfold State.readWhole
  split
  · exact hf _
  · split
    · simp
    · split <;> simp [hf]

@[simp] theorem State.landDtld_mem (s : State) (n key due : Nat) : (State.landDtld s n key due).mem = s.mem := by
  simp [State.landDtld]

@[simp] theorem State.landWload_mem (s : State) (n key iter : Nat) : (State.landWload s n key iter).mem = s.mem := by
  unfold State.landWload
  dsimp only
  split <;> simp

@[simp] theorem State.poisonLost_mem (s : State) (key n : Nat) : (State.poisonLost s key n).mem = s.mem := by
  simp [State.poisonLost]

@[simp] theorem State.performFlag_mem (s : State) (f : FlagFile) (n : Nat) (set : Bool) (kind : Nat) :
    (State.performFlag s f n set kind).mem = s.mem := by
  simp [State.performFlag]

@[simp] theorem State.performTrigger_mem (s : State) (e : Eff) (cause code tide : Nat) (own : Bool) :
    (State.performTrigger s e cause code tide own).mem = s.mem := by
  simp [State.performTrigger]

@[simp] theorem State.performFlagIn_mem (s : State) (f : FlagFile) (n setter : Nat) : (State.performFlagIn s f n setter).mem = s.mem := by
  simp [State.performFlagIn]

@[simp] theorem State.performWriteBack_mem (s : State) (key n : Nat) : (State.performWriteBack s key n).mem = s.mem := Eq.refl _

@[simp] theorem State.unlandOne_mem (l : List Landed) (s : State) (n : Landed) : (State.unlandOne l s n).mem = s.mem := by
  unfold State.unlandOne
  split <;> simp

@[simp] theorem State.tidy_mem (s : State) : (State.tidy s).mem = s.mem := Eq.refl _

/-! ### The issue of a bundle -/

@[simp] theorem State.chargeSlots_mem (s : State) (x : Nat) (hnd : Bool) (look : State) (slots : List Staged) :
    (State.chargeSlots s x hnd look slots).mem = s.mem := by
  simp [State.chargeSlots]

@[simp] theorem State.watchdogTick_mem (s : State) (x : Nat) : (State.watchdogTick s x).mem = s.mem := by
  simp [State.watchdogTick]

@[simp] theorem State.holdHandler_mem (s : State) (x : Nat) : (State.holdHandler s x).mem = s.mem := Eq.refl _

@[simp] theorem State.delayHandler_mem (s : State) (x : Nat) : (State.delayHandler s x).mem = s.mem := Eq.refl _

@[simp] theorem State.payIssue_mem (s : State) (x : Nat) (hnd : Bool) (look : State) (slots : List Staged) :
    (State.payIssue s x hnd look slots).mem = s.mem := by
  simp [State.payIssue]

@[simp] theorem reentry_mem (s : State) (x : Nat) (r : Resume) : (reentry s x r).mem = s.mem := by
  simp [reentry]

@[simp] theorem breakTrigger_mem (s : State) (idx : Nat) : (breakTrigger s idx).mem = s.mem := by
  simp [breakTrigger]

@[simp] theorem issueSlots_mem (s : State) (slots : List Staged) : (issueSlots s slots).mem = s.mem := by
  simp [issueSlots]

@[simp] theorem meterIssue_mem (s : State) (slots : List Staged) : (meterIssue s slots).mem = s.mem := by
  simp [meterIssue]

@[simp] theorem issueBundle_mem (s : State) (b : Nat) : (issueBundle s b).mem = s.mem := by
  simp [issueBundle]

/-! ### Freezes and resumes of a gang, the taking of a fault, and the end of a task -/

@[simp] theorem State.noteSlack_mem (s : State) (job : Nat) : (s.noteSlack job).mem = s.mem := by
  unfold State.noteSlack; exact State.updMod_mem ..

@[simp] theorem State.toWaiter_mem (s : State) (gi : Nat) : (State.toWaiter s gi).mem = s.mem := Eq.refl _

@[simp] theorem State.yielded_mem (s : State) (gi : Nat) (coop : Bool) : (s.yielded gi coop).mem = s.mem := by
  unfold State.yielded
  dsimp only
  split
  · split
    · simp
    · split
      · simp
      · split <;> (rw [State.foldl_mem _ fun _ _ => by rfl]; simp)
  · simp

@[simp] theorem State.dropFences_mem (s : State) (gi : Nat) : (State.dropFences s gi).mem = s.mem := by
  simp [State.dropFences]

@[simp] theorem State.stopAt_mem (s : State) (gi : Nat) (w : Why) : (State.stopAt s gi w).mem = s.mem := by
  unfold State.stopAt
  dsimp only
  split <;> simp

@[simp] theorem State.settle_mem (s : State) (gi : Nat) : (State.settle s gi).mem = s.mem := by
  simp [State.settle]

@[simp] theorem State.waitRecord_mem (s : State) (gi G : Nat) (w : Why) : (s.waitRecord gi G w).mem = s.mem := by
  unfold State.waitRecord; split <;> simp

@[simp] theorem State.resumeMember_mem (s : State) (gi : Nat) (slack : Bool) (x : Nat) : (State.resumeMember s gi slack x).mem = s.mem := by
  unfold State.resumeMember
  dsimp only
  split <;> simp

@[simp] theorem State.releaseCxl_mem (s : State) (gi : Nat) : (State.releaseCxl s gi).mem = s.mem := by
  simp [State.releaseCxl]

@[simp] theorem State.resumeNow_mem (s : State) (gi : Nat) : (State.resumeNow s gi).mem = s.mem := by
  unfold State.resumeNow
  dsimp only
  split <;> simp

@[simp] theorem State.faultTrigger_mem (s : State) (f : PendFault) : (State.faultTrigger s f).mem = s.mem := by
  simp [State.faultTrigger]

@[simp] theorem State.completion_mem (s : State) (proc va job tag status cause sch : Nat) :
    (State.completion s proc va job tag status cause sch).mem = s.mem := by
  simp [State.completion]

@[simp] theorem State.finishPacket_mem (s : State) (q seq status cause sch : Nat) : (State.finishPacket s q seq status cause sch).mem = s.mem := by
  unfold State.finishPacket
  dsimp only
  split <;> simp

@[simp] theorem State.tableDone_mem (s : State) (q seq : Nat) : (State.tableDone s q seq).mem = s.mem := by
  simp [State.tableDone]

@[simp] theorem State.releaseCtx_mem (s : State) (x : Nat) : (State.releaseCtx s x).mem = s.mem := by
  simp [State.releaseCtx]

@[simp] theorem State.releaseGang_mem (s : State) (gi : Nat) : (State.releaseGang s gi).mem = s.mem := by
  simp [State.releaseGang]

@[simp] theorem State.wordDone_mem (s : State) (q p status cause sch : Nat) (more : Nat) :
    (State.wordDone s q p status cause sch more).mem = s.mem := by
  simp [State.wordDone]

@[simp] theorem State.endLater_mem (s : State) (gi status cause : Nat) : (s.endLater gi status cause).mem = s.mem := by
  unfold State.endLater
  dsimp only
  rw [State.updGang_mem, State.stopAt_mem, State.foldl_mem _ fun _ _ => by rfl]

/-! ### Launches -/

@[simp] theorem State.eventOpen_mem (s : State) (p type : Nat) : (State.eventOpen s p type).mem = s.mem := by
  simp [State.eventOpen]

@[simp] theorem State.readImage_mem (s : State) (proc img : Nat) (all : Bool) : (State.readImage s proc img all).mem = s.mem := by
  unfold State.readImage
  split <;> simp

@[simp] theorem State.setRefill_mem (s : State) (gi : Nat) : (State.setRefill s gi).mem = s.mem := Eq.refl _

@[simp] theorem State.allotSoon_mem (s : State) (p : Nat) : (State.allotSoon s p).mem = s.mem := Eq.refl _

@[simp] theorem State.launchCtx_mem (s : State) (gi member owner : Nat) (l : Launch) (d : Directory) (p : Place1) :
    (State.launchCtx s gi member owner l d p).mem = s.mem := Eq.refl _

@[simp] theorem State.showCauses_mem (s : State) (gi : Nat) : (s.showCauses gi).mem = s.mem := State.foldl_mem _ (fun _ _ => by rfl) _ _

@[simp] theorem State.pickStart_mem (s : State) (gi R Q : Nat) : (State.pickStart s gi R Q).mem = s.mem := by
  simp [State.pickStart]

@[simp] theorem State.tellRatio_mem (s : State) (gid md r : Nat) (via : Option Nat) : (State.tellRatio s gid md r via).mem = s.mem := by
  simp [State.tellRatio]

@[simp] theorem State.schedule_mem (s : State) (gi : Nat) : (State.schedule s gi).mem = s.mem := by
  simp [State.schedule]

/-! ### Queues, packets, device launches, command streams and the services of SYS -/

theorem takeUp_mem {s t : State} {q p : Nat} {e : QItem} (h : takeUp s q = some (e, p, t)) : t.mem = s.mem := by
  unfold takeUp at h
  split at h
  · cases h
  · cases h
    split <;> simp

@[simp] theorem onPacket_mem (s : State) (f : Nat → Nat → State → State) (hf : ∀ n p s, (f n p s).mem = s.mem) :
    KeepsMem s (onPacket s f) := by
  unfold onPacket
  split
  · next h => simp [hf, takeUp_mem h]
  · simp

@[simp] theorem execDeviceLaunch_mem (id : Nat) (s : State) : KeepsMem s (execDeviceLaunch id s) := by
  unfold execDeviceLaunch
  split <;> simp

/-- The touched entries of a table, each at the address that the memory of its own step gives. -/
theorem foldl_touchVirt_mem (proc : Nat) (va : State → Nat → Nat) (n : Nat) (l : List Nat) (s : State) (f : State → Nat → State)
    (hf : ∀ s e, f s e = s.touchVirt proc (va s e) n) : (l.foldl f s).mem = s.mem :=
  State.foldl_mem _ (fun s e => by rw [hf, State.touchVirt_mem]) _ _
@[simp] theorem execTable_mem (s : State) : KeepsMem s (execTable s) := by
  unfold execTable
  refine onPacket_mem _ _ fun seq p s => ?_
  extract_lets proc tbl n es s' q
  split
  · exact State.finishPacket_mem ..
  · refine (State.setQueue_mem ..).trans ?_
    refine (foldl_touchVirt_mem proc (fun s e => word (s.readVirt proc (tbl + 16 * e) 16) 0) 64 _ _ _ fun s e => rfl).trans ?_
    exact State.touchVirt_mem ..

@[simp] theorem farWord_mem (s : State) : (farWord s).mem = s.mem := by
  unfold farWord
  dsimp only
  split
  · split <;> simp
  · simp

@[simp] theorem execTilePacket_mem (s : State) : KeepsMem s (execTilePacket s) := by
  unfold execTilePacket
  dsimp only
  split
  · simp
  · split
    · simp
    · refine onPacket_mem _ _ fun n p s => ?_
      split
      · simp
      · split
        · simp
        · split
          · simp
          · split <;> simp

@[simp] theorem grantLease_mem (s : State) (gi rate dur : Nat) : (grantLease s gi rate dur).2.mem = s.mem := by
  unfold grantLease; split <;> rfl

@[simp] theorem execLease_mem (s : State) : KeepsMem s (execLease s) := by
  unfold execLease
  refine onPacket_mem _ _ fun n p s => ?_
  split
  · simp
  · split <;> simp

@[simp] theorem endLeases_mem (s : State) (gi : Nat) : (endLeases s gi).mem = s.mem := by
  simp [endLeases]

@[simp] theorem sysAnswer_mem (s : State) (id : Nat) (reply : Word) : (sysAnswer s id reply).mem = s.mem := Eq.refl _

@[simp] theorem service_mem (s : State) (id : Nat) (f : Msg → State → Word × State) (hf : ∀ m, (f m s).2.mem = s.mem) :
    KeepsMem s (service s id f) := by
  unfold service
  split <;> simp [hf]

@[simp] theorem sysInput_mem (s : State) (m : Msg) (v : Nat) : (sysInput s m v).mem = s.mem := by
  simp [sysInput]

@[simp] theorem execSysReply_mem (id : Nat) (s : State) : KeepsMem s (execSysReply id s) := by
  unfold execSysReply
  split <;> simp

@[simp] theorem moveStream_mem (s : State) (q : Nat) (p : Bool × Nat) : (moveStream s q p).mem = s.mem := Eq.refl _

@[simp] theorem noteEntry_mem (s : State) (q : Nat) (p : Bool × Nat) : (noteEntry s q p).mem = s.mem := by
  simp [noteEntry]

@[simp] theorem endStream_mem (s : State) (q va status cause : Nat) : (endStream s q va status cause).mem = s.mem := by
  simp [endStream]

@[simp] theorem touchCommand_mem (s : State) (q : Nat) (p : Bool × Nat) : (touchCommand s q p).mem = s.mem := by
  unfold touchCommand
  split
  · simp
  · split <;> simp

@[simp] theorem onCommand_mem (s : State) (f : Bool × Nat → Nat → Nat → State → State) (hf : ∀ p a b s, (f p a b s).mem = s.mem) :
    KeepsMem s (onCommand s f) := by
  unfold onCommand
  dsimp only
  split <;> simp [hf]

@[simp] theorem streamRead_mem (s : State) (q a : Nat) (more : List Nat) : (streamRead s q a more).2.mem = s.mem := by simp [streamRead]

@[simp] theorem execCslp_mem (s : State) : KeepsMem s (execCslp s) := by
  unfold execCslp
  refine onCommand_mem _ _ fun p a b s => ?_
  split
  · simp
  · exact (moveStream_mem ..).trans ((State.setQueue_mem ..).trans (streamRead_mem ..))

@[simp] theorem execCsel_mem (s : State) : KeepsMem s (execCsel s) := by
  unfold execCsel
  refine onCommand_mem _ _ fun p a b s => ?_
  dsimp only
  split <;> simp

@[simp] theorem execCommandStreamWaitEnd_mem (s : State) : KeepsMem s (execCommandStreamWaitEnd s) := by
  unfold execCommandStreamWaitEnd
  dsimp only
  split <;> simp

/-! ### Fair shares, the meter's refill and boost -/

@[simp] theorem execShareCredit_mem (s : State) : KeepsMem s (execShareCredit s) := by
  refine (keepsMem_next _ _).2 (State.foldl_mem _ (fun s e => ?_) _ _)
  exact (State.foldl_mem _ (fun _ _ => by rfl) _ _).trans rfl

@[simp] theorem decideSwitch_mem (s : State) (w : Nat) : (decideSwitch s w).mem = s.mem := by
  refine (State.foldl_mem _ (fun s h => ?_) _ _).trans ((State.foldl_mem _ (fun s h => ?_) _ _).trans rfl)
  · dsimp only
    split
    · simp
    · rw [State.timedAt_mem, State.foldl_mem _ fun _ _ => by rfl, State.setGang_mem]
  · simp

@[simp] theorem decideCore_mem (s : State) (core : Nat) : (decideCore s core).mem = s.mem := by
  unfold decideCore
  dsimp only
  split <;> simp

@[simp] theorem spend_mem (l : List Nat) : ∀ (s : State) (n : Nat), (spend s n l).mem = s.mem := by
  induction l with
  | nil => intro s n; rfl
  | cons x l ih => intro s n; simp [spend, ih]

/-! ### The fabric -/

@[simp] theorem State.errorAll_mem (s : State) : (State.errorAll s).mem = s.mem := by
  simp [State.errorAll]

@[simp] theorem putGranule_mem (s : State) (job key data : Nat) (bad : Bool) : (putGranule s job key data bad).mem = s.mem := by
  simp [putGranule]

@[simp] theorem execBxSendArrival_mem (gid due va data : Nat) (bad : Bool) (s : State) : KeepsMem s (execBxSendArrival gid due va data bad s) := by
  unfold execBxSendArrival
  dsimp only
  split <;> simp

@[simp] theorem answerPost_mem (s : State) (job kind : Nat) : (answerPost s job kind).mem = s.mem := Eq.refl _

@[simp] theorem execBxPostArrival_mem (job va data : Nat) (rf : Bool) (rfn after : Nat) (s : State) :
    KeepsMem s (execBxPostArrival job va data rf rfn after s) := by
  unfold execBxPostArrival
  extract_lets fr me again close reject
  have hagain : ∀ T u, (again T u).mem = u.mem := fun T u => rfl
  have hclose : ∀ u, (close u).mem = u.mem := by
    intro u
    simp [close, hagain]
  split
  · exact (keepsMem_next _ _).2 (hclose _)
  · split
    · exact (keepsMem_next _ _).2 (hagain ..)
    · have hreject : ∀ k u, (reject k u).mem = u.mem := by
        intro k u
        simp [reject, hclose]
      split
      · exact (keepsMem_next _ _).2 (hreject ..)
      · split
        · exact (keepsMem_next _ _).2 (hreject ..)
        · split
          · exact (keepsMem_next _ _).2 (hreject ..)
          · exact (keepsMem_next _ _).2 ((hclose _).trans (putGranule_mem ..))

@[simp] theorem postEnds_mem (s : State) (id info : Nat) (ok : Bool) : (postEnds s id info ok).mem = s.mem := by
  unfold postEnds
  split <;> simp

@[simp] theorem failLink_mem (s : State) (l : Nat) : (failLink s l).mem = s.mem := by
  simp [failLink]

@[simp] theorem execTideExchange_mem (s : State) : KeepsMem s (execTideExchange s) := by
  unfold execTideExchange
  dsimp only
  split
  · split <;> simp
  · split
    · simp
    · rw [keepsMem_next, State.updMod_mem, State.freeValue_mem, State.freeValue_mem]
      exact (State.foldl_mem _ (fun _ _ => State.send_mem ..) _ _).trans rfl

@[simp] theorem execGangReadyReport_mem (gid md : Nat) (win : List Nat) (s : State) : KeepsMem s (execGangReadyReport gid md win s) := by
  unfold execGangReadyReport
  dsimp only
  split
  · simp
  · split <;> simp

@[simp] theorem closeReports_mem (s : State) (gid : Nat) (via : Option Nat) (m : Msg) : (closeReports s gid via m).mem = s.mem := by
  unfold closeReports
  dsimp only
  split <;> simp

@[simp] theorem execStartWave_mem (s : State) : KeepsMem s (execStartWave s) := by
  unfold execStartWave
  dsimp only
  split <;> simp

@[simp] theorem freezeJob_mem (s : State) (job : Nat) : (freezeJob s job).mem = s.mem := by
  simp [freezeJob]

@[simp] theorem resumeJob_mem (s : State) (job n : Nat) : (resumeJob s job n).mem = s.mem := Eq.refl _

@[simp] theorem resumeGang_mem (G n : Nat) (s : State) (e : Nat × Gang) : (resumeGang G n s e).mem = s.mem := by
  simp [resumeGang]

@[simp] theorem stepFault_mem (k : Slack) (s : State) (e : Nat × Gang) : (stepFault k s e).mem = s.mem := by
  unfold stepFault
  split
  · rfl
  · exact State.foldl_mem _ (fun _ _ => by rfl) _ _

/-! ### DEBUG packets, the wait-for graph and samples -/

@[simp] theorem debugOp_mem (s : State) (one : Bool) (f : DebugOp → Nat → State → Nat × State) (hf : ∀ d q s, (f d q s).2.mem = s.mem) :
    KeepsMem s (debugOp s one f) := by
  unfold debugOp
  exact onPacket_mem _ _ fun n p s => by simp [hf]

@[simp] theorem execDebugStop_mem (s : State) : KeepsMem s (execDebugStop s) := by
  refine debugOp_mem _ _ _ fun d q s => ?_
  dsimp only
  split <;> simp

@[simp] theorem askResume_mem (s : State) (job n : Nat) : (askResume s job n).2.mem = s.mem := by
  unfold askResume
  dsimp only
  split
  · rfl
  · split <;> simp

@[simp] theorem execDebugStep_mem (s : State) : KeepsMem s (execDebugStep s) := by
  refine debugOp_mem _ _ _ fun d q s => ?_
  split <;> simp

@[simp] theorem pokeBuffer_mem (s : State) (proc va n v : Nat) : (pokeBuffer s proc va n v).mem = s.mem := by
  simp [pokeBuffer]

@[simp] theorem chargeDebug_mem (s : State) (d : DebugOp) (wb : Nat) : (chargeDebug s d wb).mem = s.mem := by
  simp [chargeDebug]

@[simp] theorem execDebugBreak_mem (s : State) : KeepsMem s (execDebugBreak s) := by
  refine debugOp_mem _ _ _ fun d q s => ?_
  dsimp only
  split <;> simp

@[simp] theorem execDebugTrace_mem (s : State) : KeepsMem s (execDebugTrace s) := by
  refine debugOp_mem _ _ _ fun d q s => ?_
  dsimp only
  split
  · rfl
  · split <;> rfl

@[simp] theorem execDebugGraph_mem (s : State) : KeepsMem s (execDebugGraph s) := by
  refine debugOp_mem _ _ _ fun d q s => ?_
  split
  · rfl
  · exact State.foldl_mem _ (fun _ _ => State.pokeVirt_mem ..) _ _

/-! ### Module states, firmware, bias domains, partitions, caps and clock ratios -/

@[simp] theorem State.setMstat_mem (s : State) (hef hek fcode st : Nat) : (s.setMstat hef hek fcode st).mem = s.mem := by
  unfold State.setMstat; exact State.updMod_mem ..

@[simp] theorem State.eventD0_mem (s : State) (p type d0 : Nat) : (State.eventD0 s p type d0).mem = s.mem := by
  simp [State.eventD0]

@[simp] theorem State.enter_mem (s : State) (st fcode : Nat) : (State.enter s st fcode).mem = s.mem := by
  simp [State.enter]

@[simp] theorem State.tryCooldown_mem (s : State) : (State.tryCooldown s).mem = s.mem := by
  unfold State.tryCooldown
  split <;> (try simp) <;> split <;> simp

@[simp] theorem execCooldownTimer_mem (s : State) : KeepsMem s (execCooldownTimer s) := by
  unfold execCooldownTimer
  split
  · rw [keepsMem_next, State.foldl_mem _ fun _ _ => by rfl]; simp
  · simp

@[simp] theorem State.moveDomain_mem (s : State) (d : Nat) (k : Domain) : (State.moveDomain s d k).mem = s.mem := by
  simp [State.moveDomain]

@[simp] theorem State.markCores_mem (s : State) (d : Nat) (ok : Bool) : (s.markCores d ok).mem = s.mem := by
  unfold State.markCores; exact State.foldl_mem _ (fun _ _ => State.setCore_mem ..) _ _

@[simp] theorem execDomainSelfTestDone_mem (d : Nat) (pass : Bool) (s : State) : KeepsMem s (execDomainSelfTestDone d pass s) := by
  unfold execDomainSelfTestDone
  dsimp only
  split
  · simp
  · split
    · rw [keepsMem_next, State.markCores_mem, State.moveDomain_mem, State.foldl_mem _ fun _ _ => by rfl]
    · simp

@[simp] theorem wantRatio_mem (s : State) (p r : Nat) : (wantRatio s p r).mem = s.mem := by
  simp [wantRatio]

@[simp] theorem showPart_mem (s : State) (p : Nat) : (showPart s p).mem = s.mem := by
  simp [showPart]

@[simp] theorem applyPart_mem (s : State) (p : Nat) : (applyPart s p).mem = s.mem := by
  simp [applyPart]

@[simp] theorem reHelium_mem (s : State) (p : Nat) : (reHelium s p).mem = s.mem := by
  simp [reHelium]

@[simp] theorem scheduleRanks_mem (s : State) (raised : Bool) : (scheduleRanks s raised).mem = s.mem := by
  have step (s : State) (i : Nat) : ((s.freeValue 22).2.timedAt
      (s.tide + quarterMs * i + 1 + (s.freeValue 22).1.toNat) .capRankApply { slot := if raised then 7 - i else i }).mem = s.mem := by
    rw [State.timedAt_mem, State.freeValue_mem]
  unfold scheduleRanks
  exact State.foldl_mem _ step _ _

@[simp] theorem limitsChanged_mem (s : State) (old : Option Nat) : (limitsChanged s old).mem = s.mem := by
  simp [limitsChanged]

@[simp] theorem execModuleLimitExceeded_mem (warm : Bool) (s : State) : KeepsMem s (execModuleLimitExceeded warm s) := by
  simp [execModuleLimitExceeded]

@[simp] theorem takeRatio_mem (s : State) (p r : Nat) : (takeRatio s p r).mem = s.mem := by
  unfold takeRatio
  dsimp only
  rw [State.setPart_mem, State.foldl_mem _ fun _ _ => State.tellRatio_mem .., State.foldl_mem _ fun _ _ => by rfl]

@[simp] theorem takeRatios_mem (s : State) : (takeRatios s).mem = s.mem := by
  refine State.foldl_mem _ (fun s p => ?_) _ _
  split <;> simp

@[simp] theorem execRatioChange_mem (p r : Nat) (s : State) : KeepsMem s (execRatioChange p r s) := by
  unfold execRatioChange
  dsimp only
  split
  · split
    · simp
    · split
      · simp
      · refine (keepsMem_next _ _).2 ((State.foldl_mem _ (fun s e => ?_) _ _).trans rfl)
        split <;> simp
  · simp
  · split <;> simp

@[simp] theorem refusedWrite_mem (s : State) (p : Nat) : (refusedWrite s p).mem = s.mem := by
  simp [refusedWrite]

@[simp] theorem moveClusters_mem (old s : State) : (moveClusters old s).mem = s.mem := State.foldl_mem _ (fun _ _ => by rfl) _ _

/-! ### Scrubbing, refresh, corrected words and host writes -/

@[simp] theorem execBerthScrub_mem (s : State) : KeepsMem s (execBerthScrub s) := by
  unfold execBerthScrub
  split <;> (try simp) <;> split <;> simp

@[simp] theorem execWarmScrub_mem (s : State) : KeepsMem s (execWarmScrub s) := by
  unfold execWarmScrub
  split <;> simp

@[simp] theorem execHostWrite_mem (addr len : Nat) (data : Nat) (s : State) : KeepsMem s (execHostWrite addr len data s) := by
  unfold execHostWrite
  split <;> simp

/-! ### One cycle of the module -/

@[simp] theorem State.advance_mem (s : State) : (State.advance s).mem = s.mem := by
  simp [State.advance]

@[simp] theorem State.scan_mem (s : State) : s.scan.mem = s.mem := by
  refine State.foldl_mem _ (fun s e => ?_) _ _
  split <;> simp

@[simp] theorem State.handOver_mem (s : State) (slot : Nat × Nat) : (State.handOver s slot).mem = s.mem := by
  unfold State.handOver
  split <;> (try simp) <;> split <;> simp

end Sys2Proof.Machine

/-! SUPPORT. What writes memory keeps its canonical form: the undo log, landings and performs, copies and loads, resets. An act that
leaves memory keeps it by the rules above; so does every step (log 1). -/

namespace Sys2Proof.Machine

section
variable {s t : State}

theorem State.Canonical.of_mem (h : s.Canonical) (e : t.mem = s.mem) : t.Canonical := by
  unfold State.Canonical
  rwa [e]

theorem State.Canonical.writeN (h : s.Canonical) {key n val mask : Nat} (e : t.mem = s.mem.writeN key n val mask) : t.Canonical := by
  unfold State.Canonical
  rw [e]
  exact Memory.wf_writeN _ _ _ _ h

/-- A fold of steps that keep the canonical form keeps it. -/
theorem State.Canonical.foldl {α : Type} {f : State → α → State} (hf : ∀ s a, s.Canonical → (f s a).Canonical) (l : List α) :
    ∀ {s : State}, s.Canonical → (l.foldl f s).Canonical := by
  induction l with
  | nil => exact fun h => h
  | cons a l ih => exact fun h => ih (hf _ a h)

/-- Where its next state is one, a result is canonical. -/
def Result.Canonical (r : Result) : Prop := ∀ t, r = .next t → t.Canonical

theorem Result.canonical_next (h : t.Canonical) : Result.Canonical (.next t) := fun u hu => by cases hu; exact h

theorem KeepsMem.canonical {r : Result} (k : KeepsMem s r) (h : s.Canonical) : r.Canonical := fun t e => h.of_mem (k t e)

/-! ### What is taken back -/

theorem takeBack_canonical (h : s.Canonical) (u : Undo) (newer : List Undo) : (takeBack s u newer).1.Canonical := by
  unfold takeBack
  split
  case h_5 key n old mask _ => exact h.writeN rfl
  case h_6 | h_7 | h_10 => split <;> exact h.of_mem (by simp)
  all_goals exact h.of_mem (by simp)

theorem revert_canonical (cancel : Undo → Bool) (us : List Undo) :
    ∀ {s : State} (newer : List Undo), s.Canonical → (revert cancel us newer s).1.Canonical := by
  induction us with
  | nil => exact fun _ h => h
  | cons u us ih =>
    intro s newer h
    unfold revert
    split
    · exact ih _ (takeBack_canonical h u newer)
    · exact ih _ h

theorem State.cancel_canonical (h : s.Canonical) (f : PendFault) : (s.cancel f).Canonical := by
  have hr := revert_canonical (fun u => f.cancels u.x u.hnd u.ord) s.undo [] h
  refine hr.of_mem ?_
  unfold State.cancel
  dsimp only
  simp

/-! ### Copies, context saves, lock slots -/

theorem State.copyPage_canonical (h : s.Canonical) (src dst : Nat) : (s.copyPage src dst).Canonical := by
  have hp := State.poke_canonical h dst (2 ^ 16) (s.mem.readN src (2 ^ 16))
  refine hp.of_mem ?_
  unfold State.copyPage
  extract_lets bad s₁ s₂
  have h1 : s₂.mem = s₁.mem := State.foldl_mem _ (fun s i => by rw [State.activate_mem, State.activate_mem]) _ _
  exact (State.foldl_mem _ (fun s i => State.poisonGranule_mem ..) _ _).trans h1

theorem putTail_canonical (h : s.Canonical) (x img lo hi : Nat) : (putTail s x img lo hi).Canonical := by
  unfold putTail
  refine State.Canonical.foldl (fun s e hs => ?_) _ h
  dsimp only
  split
  · exact State.poke_canonical hs ..
  · exact hs

theorem startRestore_mem (g : Guard) (n y : Nat) (s : State) : (startRestore g n y s).mem = s.mem := by
  unfold startRestore
  split
  case h_1 _ t ht =>
    split at ht
    · exact absurd ht (by simp)
    · exact State.bulk_mem ht
  case h_2 => rfl

theorem execCtxr_mem (g : Guard) (n : Nat) (s : State) : KeepsMem s (execCtxr g n s) := by
  unfold execCtxr
  extract_lets y
  split
  · exact (keepsMem_next ..).2 (startRestore_mem ..)
  · refine onceSlot_mem _ _ _ ?_
    dsimp only
    split
    · exact State.privilege_mem ..
    · split <;> simp

theorem execContextSaveStart_mem (y : Nat) (s : State) : KeepsMem s (execContextSaveStart y s) := by
  unfold execContextSaveStart
  extract_lets c g b img q stage lat
  split
  · exact (keepsMem_next ..).2 rfl
  · rw [keepsMem_next]
    split
    · next t ht => exact (State.updGang_mem ..).trans (State.bulk_mem ht)
    · rfl

theorem bulkSlot_canonical (h : s.Canonical) (y : Nat) (k : Crossing) (j : Nat) : (bulkSlot s y k j).Canonical := by
  unfold bulkSlot
  extract_lets c lats q tileOf last s₁ s₂ src bad s₃ s₄ s₅ img s₆
  have h1 : s₁.Canonical := h.of_mem (by unfold s₁; split <;> rfl)
  split
  · have h2 : s₂.Canonical := State.poke_canonical h1 ..
    split
    · exact h2.of_mem rfl
    · exact h2
  · have h4 : s₄.Canonical := h1.of_mem (by simp [s₄, s₃])
    have h5 : s₅.Canonical := by
      unfold s₅
      split
      · exact h4
      · exact State.poke_canonical h4 ..
    split
    · exact State.Canonical.of_mem (putTail_canonical (h5.of_mem (by simp)) y img 21568 (2 ^ 64)) rfl
    · exact h5

theorem execLockSlot_canonical (h : s.Canonical) (x id : Nat) : (execLockSlot x id s).Canonical := by
  unfold execLockSlot
  split
  · exact Result.canonical_next h
  next k _ =>
    extract_lets j S due pace tideAt s₁ c
    have h1 : s₁.Canonical := h.of_mem rfl
    refine Result.canonical_next ?_
    split
    case h_1 => exact h1.of_mem (State.inboundRead_mem _ _ _ _ _ fun _ _ _ => by simp)
    case h_2 => exact h1.of_mem (State.inboundRead_mem _ _ _ _ _ fun _ _ _ => State.foldl_mem _ (fun _ _ => by simp) _ _)
    case h_3 => exact h1.of_mem (State.inboundRead_mem _ _ _ _ _ fun _ _ _ => by split <;> simp)
    case h_4 => exact h1.of_mem (State.inboundRead_mem _ _ _ _ _ fun _ _ _ => by simp)
    case h_7 => exact h1.of_mem (by split <;> simp)
    case h_10 => exact h1.of_mem (by split <;> simp)
    case h_11 => exact bulkSlot_canonical h1 ..
    all_goals exact h1.of_mem (by simp)

/-! ### Calls of the array, requests over CXL, tile steps -/

theorem callLand_canonical (h : s.Canonical) (core id : Nat) : (callLand s core id).Canonical := by
  unfold callLand
  split
  · exact h
  · split
    · extract_lets lat n s₁
      split
      · exact h.writeN rfl
      · exact h.of_mem rfl
    · exact h

theorem performCxl_canonical (h : s.Canonical) (r : CxlReq) : (performCxl s r).Canonical := by
  unfold performCxl
  split
  · exact h.of_mem (finishCxl_mem ..)
  · extract_lets p s₁ taint s₂
    have h1 : s₁.Canonical := h.of_mem (by unfold s₁ p; split <;> simp)
    have h2 : s₂.Canonical := by
      unfold s₂
      split
      · exact h1
      · exact State.poke_canonical (h1.of_mem (State.hostCover_mem ..)) ..
    exact h2.of_mem (by split <;> simp)

theorem arriveCxl_canonical (h : s.Canonical) (id : Nat) : (arriveCxl s id).Canonical := by
  unfold arriveCxl
  split
  · exact h
  · exact performCxl_canonical h _

theorem portDrain_canonical (h : s.Canonical) (j : TileJob) (k pos : Nat) : (portDrain s j k pos).Canonical := by
  unfold portDrain
  dsimp only
  split
  · split
    · exact h.of_mem (State.failTile_mem ..)
    · exact State.poke_canonical h ..
  · exact h

theorem tileStep_canonical (h : s.Canonical) (id : Nat) (st : TileStep) : (tileStep s id st).Canonical := by
  unfold tileStep
  split
  · exact h
  next j _ =>
    split
    · exact h
    · split
      case h_1 =>
        split
        · next t ht => exact h.of_mem (besideProgram_mem ht)
        · exact h.of_mem (by split <;> simp)
      case h_8 => exact portDrain_canonical h ..
      case h_2 | h_3 | h_4 => exact h.of_mem (by split <;> simp)
      all_goals exact h.of_mem (by simp)

/-! ### Landings and performs -/

theorem State.landBytes_canonical (h : s.Canonical) (key n val mask : Nat) : (s.landBytes key n val mask).Canonical := by
  refine h.writeN (key := key) (n := n) (val := val) (mask := mask) ?_
  unfold State.landBytes
  dsimp only
  split <;> rfl

theorem State.landStore_canonical (h : s.Canonical) (key n val mask : Nat) : (s.landStore key n val mask).Canonical := by
  unfold State.landStore
  exact State.Canonical.of_mem (State.landBytes_canonical (h.of_mem (State.keepBefore_mem ..)) key n val mask) (State.clearMarks_mem ..)

theorem State.land_canonical (h : s.Canonical) (e : Eff) : (s.land e).Canonical := by
  have h1 : ({ s.meetHeld e with fr := e.fr } : State).Canonical := h.of_mem (State.meetHeld_mem ..)
  unfold State.land
  extract_lets src s₁ x
  change s₁.Canonical at h1
  clear_value s₁
  split
  case h_6 => exact State.landStore_canonical h1 ..
  case h_21 => exact callLand_canonical h1 ..
  case h_25 => exact tileStep_canonical h1 ..
  case h_3 | h_4 => exact h1.of_mem (State.readChecked_mem _ _ _ _ fun s => by simp)
  case h_16 | h_17 | h_22 | h_23 | h_26 => exact h1.of_mem (State.readWhole_mem _ _ _ _ _ _ fun s => by simp)
  all_goals exact h1.of_mem (by simp)

theorem State.performStore_canonical (h : s.Canonical) (key n v m : Nat) : (s.performStore key n v m).Canonical := by
  unfold State.performStore
  extract_lets o s'
  have h1 : s'.Canonical :=
    State.Canonical.of_mem (State.landBytes_canonical (h.of_mem (State.countPart_mem ..)) key n v o) (State.clearMarks_mem ..)
  clear_value s'
  split
  · exact h1
  split
  · exact h1.of_mem (by simp)
  · exact h1.of_mem (by split <;> simp)

theorem State.readChecked_canonical (h : s.Canonical) (srcs : List (Nat × Nat × Nat)) (D : Nat) {f : State → State}
    (hf : ∀ s, s.Canonical → (f s).Canonical) : (s.readChecked srcs D f).Canonical := by
  unfold State.readChecked
  split
  · exact hf _ h
  split
  · exact h.of_mem (State.softFault_mem ..)
  extract_lets ks
  split
  · exact h.of_mem (State.wordFault_mem ..)
  split
  · exact h
  · exact hf _ (h.of_mem (State.meetWords_mem ..))

theorem State.performAtom_canonical (h : s.Canonical) (op : AtomOp) (w : AtomW) (key : Nat) (b d : Word) (dst at_ : Nat) :
    (s.performAtom op w key b d dst at_).Canonical := by
  unfold State.performAtom
  refine State.readChecked_canonical h _ _ fun s hs => ?_
  extract_lets r s₁
  have h1 : s₁.Canonical := State.Canonical.of_mem (State.landBytes_canonical hs key _ _ _) (State.landS_mem ..)
  split
  · exact h1
  · exact h1.of_mem (State.push_mem ..)

theorem State.performPoke_canonical (h : s.Canonical) (key n val : Nat) (rep : Option (Nat × Nat)) :
    (s.performPoke key n val rep).Canonical := by
  unfold State.performPoke
  extract_lets lost s₁ s₂ s₃
  have h1 : s₁.Canonical := h.of_mem (by unfold s₁; split <;> simp)
  have h2 : s₂.Canonical :=
    State.Canonical.of_mem (State.poke_canonical (h1.of_mem (State.countPart_mem ..)) key n val) (State.touch_mem ..)
  split
  · exact h2
  · exact h2.of_mem (by split <;> simp [s₃])

theorem State.perform_canonical (h : s.Canonical) (e : Eff) : (s.perform e).Canonical := by
  have h1 : ({ s.meetHeld e with fr := e.fr } : State).Canonical := h.of_mem (State.meetHeld_mem ..)
  unfold State.perform
  extract_lets src s₁
  change s₁.Canonical at h1
  clear_value s₁
  split
  case h_1 => exact State.Canonical.of_mem (State.performStore_canonical h1 ..) (State.activate_mem ..)
  case h_2 => exact State.performAtom_canonical h1 ..
  case h_3 => exact State.landBytes_canonical h1 ..
  case h_4 | h_7 => exact h1.of_mem (by split <;> simp)
  case h_12 => exact arriveCxl_canonical h1 _
  case h_14 => exact State.performPoke_canonical h1 ..
  all_goals exact h1.of_mem (by simp)

theorem State.landNoted_canonical (h : s.Canonical) (e : Eff) : (s.landNoted e).Canonical := by
  have h1 := State.land_canonical h e
  unfold State.landNoted
  dsimp only
  split
  · exact h1.of_mem rfl
  · exact h1

theorem State.landings_canonical (h : s.Canonical) : s.landings.Canonical := by
  unfold State.landings
  extract_lets p
  exact State.Canonical.foldl (fun _ e hs => State.landNoted_canonical hs e) _ (h.of_mem rfl)

theorem State.unland_canonical (h : s.Canonical) (members : List Nat) : (s.unland members).Canonical := by
  unfold State.unland
  extract_lets mine r rs t
  split
  · exact h
  · have hr : r.1.Canonical := revert_canonical _ _ _ h
    have ht : t.mem = r.1.mem := State.foldl_mem _ (fun s n => State.unlandOne_mem mine s n) _ _
    exact hr.of_mem ht

theorem State.foldl_perform_canonical (h : s.Canonical) (l : List Eff) : (l.foldl State.perform s).Canonical :=
  State.Canonical.foldl (fun _ e hs => State.perform_canonical hs e) _ h

theorem State.performs_canonical (h : s.Canonical) : s.performs.Canonical := by
  unfold State.performs
  extract_lets p s₁ q
  have h1 : s₁.Canonical := by
    refine State.foldl_perform_canonical ?_ _
    exact h.of_mem rfl
  refine State.Canonical.of_mem (State.foldl_perform_canonical ?_ (sortBy Eff.before q.1)) (State.tidy_mem _)
  exact h1.of_mem rfl

theorem State.flushTrace_canonical (h : s.Canonical) : s.flushTrace.Canonical := by
  unfold State.flushTrace
  extract_lets p
  refine State.foldl_perform_canonical ?_ _
  exact h.of_mem rfl

/-! ### Issue -/

theorem reentryIssue_mem (s : State) (x : Nat) : (reentryIssue s x).mem = s.mem := by
  unfold reentryIssue
  extract_lets s₁ gi g look
  have h1 : s₁.mem = s.mem := by
    unfold s₁
    split <;> simp
  clear_value s₁
  split
  · exact h1
  · extract_lets slots C s₃
    split
    · exact (State.join_mem ..).trans h1
    · exact (State.updCtx_mem ..).trans ((State.payIssue_mem ..).trans h1)

theorem execBundleIssue_mem (x : Nat) (s : State) : KeepsMem s (execBundleIssue x s) := by
  unfold execBundleIssue
  extract_lets c g hnd u s₁ pc fr s₂
  have h1 : s₁.mem = s.mem := rfl
  have h2 : s₂.mem = s.mem := rfl
  clear_value s₁ s₂
  split
  · exact (keepsMem_next ..).2 (reentryIssue_mem ..)
  split
  · exact (keepsMem_next ..).2 (by simp)
  split
  · exact (keepsMem_next ..).2 rfl
  split
  · exact (keepsMem_next ..).2 h1
  split
  · exact (keepsMem_next ..).2 (by simp [h1])
  split
  · exact (keepsMem_next ..).2 (by simp [h1])
  split
  · exact (keepsMem_next ..).2 (by simp [h2])
  split
  · refine (keepsMem_next ..).2 ?_
    split <;> simp [h2]
  · exact (keepsMem_next ..).2 (by simp [h2])

/-! ### Freezes and faults -/

theorem State.freezeNow_canonical (h : s.Canonical) (gi : Nat) (whys : List Why) : (s.freezeNow gi whys).Canonical := by
  unfold State.freezeNow
  extract_lets late s₁ g whys' waits s₂ s₃ s₄
  have h1 : s₁.Canonical := by
    unfold s₁
    split
    · exact State.unland_canonical h _
    · exact h
  have h2 : s₂.Canonical := h1.of_mem rfl
  have h3 : s₃.Canonical := h2.of_mem (State.foldl_mem _ (fun s x => State.holdMember_mem ..) _ _)
  have h4 : s₄.Canonical := by
    unfold s₄
    split
    · exact h3.of_mem (State.foldl_mem _ (fun s x => by dsimp only; split <;> simp) _ _)
    · exact h3
  split
  · exact h4.of_mem (State.yielded_mem ..)
  split
  · exact h4.of_mem (State.yielded_mem ..)
  · exact h4

theorem State.freezeDue_canonical (h : s.Canonical) (gi : Nat) : (s.freezeDue gi).Canonical := by
  have h1 : (s.dropFences gi).Canonical := h.of_mem (State.dropFences_mem ..)
  unfold State.freezeDue
  dsimp only
  split
  · exact State.freezeNow_canonical h1 ..
  · exact h1

theorem State.preempt_canonical (h : s.Canonical) (gi w : Nat) : (s.preempt gi w).Canonical := by
  unfold State.preempt
  extract_lets g s₁
  have h1 : s₁.Canonical := h.of_mem rfl
  split
  · split
    · exact State.freezeNow_canonical h1 ..
    · exact h1.of_mem (State.toWaiter_mem ..)
  · exact h

theorem execGangFreeze_canonical (h : s.Canonical) : (execGangFreeze s).Canonical := by
  refine Result.canonical_next ?_
  split
  · exact State.preempt_canonical h ..
  · exact State.freezeDue_canonical h _

theorem State.unhandled_canonical (h : s.Canonical) (f : PendFault) : (s.unhandled f).Canonical := by
  unfold State.unhandled
  extract_lets s₁ gi g s₂ c same s₃ t s₄
  have h2 : s₂.Canonical := h.of_mem (by simp [s₂, s₁])
  have h3 : s₃.Canonical := h2.of_mem rfl
  have ht : t.Canonical := State.freezeNow_canonical h3 ..
  have h4 : s₄.Canonical := by
    unfold s₄
    split
    · exact h2.of_mem (by simp)
    split
    · split
      · split
        · exact ht
        · exact ht.of_mem rfl
      · exact h3.of_mem (State.join_mem ..)
    · exact h2.of_mem rfl
  exact h4.of_mem (State.faultTrigger_mem ..)

theorem State.takeFault_canonical (h : s.Canonical) (f : PendFault) : (s.takeFault f).Canonical := by
  unfold State.takeFault
  extract_lets s₁ s₂ s₃ s₄ gi anchor s₅
  have h1 : s₁.Canonical := h.of_mem rfl
  have h2 : s₂.Canonical := State.cancel_canonical h1 f
  have h4 : s₄.Canonical := h2.of_mem (by unfold s₄; split <;> simp [s₃])
  have h5 : s₅.Canonical := by
    unfold s₅
    split
    · exact State.freezeNow_canonical h4 ..
    · exact h4.of_mem (State.join_mem ..)
  split
  · exact h5.of_mem (State.faultEntry_mem ..)
  · exact State.unhandled_canonical h4 f

theorem execFaultTaken_canonical (h : s.Canonical) (x : Nat) : (execFaultTaken x s).Canonical := by
  refine Result.canonical_next ?_
  split
  · exact State.takeFault_canonical h _
  · exact h

theorem execWatchdogExpiry_canonical (h : s.Canonical) (x : Nat) : (execWatchdogExpiry x s).Canonical := by
  unfold execWatchdogExpiry
  extract_lets c hung s₁ F f s₂ u
  have h1 : s₁.Canonical := h.of_mem rfl
  have ht : (s₁.faultTrace f false).Canonical := h1.of_mem (State.faultTrace_mem ..)
  have h2 : s₂.Canonical := h.of_mem rfl
  split
  · exact Result.canonical_next (State.unhandled_canonical ht f)
  · exact Result.canonical_next (h2.of_mem rfl)

/-! ### Launch and the end of a gang -/

theorem State.Canonical.foldl_of_mem {α : Type} {f : State → α → State} (h : s.Canonical) (hf : ∀ s a, (f s a).mem = s.mem) (l : List α) :
    (l.foldl f s).Canonical := h.of_mem (State.foldl_mem f hf l s)

theorem State.copyBack_canonical (h : s.Canonical) (g : Gang) : (s.copyBack g).Canonical := by
  unfold State.copyBack
  refine State.Canonical.foldl (fun s e hs => ?_) _ h
  split
  · exact State.copyPage_canonical hs ..
  · exact hs

theorem State.endGang_canonical (h : s.Canonical) (gi status cause sch : Nat) : (s.endGang gi status cause sch).Canonical := by
  unfold State.endGang
  extract_lets g words s₁ s₂
  have h1 : s₁.Canonical := (State.copyBack_canonical h g).of_mem (State.releaseGang_mem ..)
  have h2 : s₂.Canonical := h1.foldl_of_mem (fun s w => State.wordDone_mem ..) _
  split
  · exact h2.of_mem (by simp)
  · exact h2.of_mem (by simp)
  · exact h2.of_mem (by simp)

theorem State.performHeld_canonical (h : s.Canonical) (gi : Nat) : (s.performHeld gi).Canonical := by
  unfold State.performHeld
  extract_lets mine p s₁
  have h1 : s₁.Canonical := by
    refine State.foldl_perform_canonical ?_ _
    exact h.of_mem rfl
  exact State.Canonical.foldl (fun _ r hs => performCxl_canonical hs r) _ h1

theorem execTaskComplete_canonical (h : s.Canonical) : (execTaskComplete s).Canonical := by
  refine Result.canonical_next ?_
  split
  · split
    · exact h.of_mem (State.timedAt_mem ..)
    · split
      · exact h
      · exact h.of_mem (State.endLater_mem ..)
    · exact h
  split
  · split
    · split
      · exact State.endGang_canonical (State.performHeld_canonical h _) ..
      · exact h
    · exact h
  split
  · exact State.endGang_canonical h ..
  · exact h

theorem State.loadBundles_canonical (h : s.Canonical) (proc img : Nat) (d : Directory) (p : Place1) :
    (s.loadBundles proc img d p).Canonical := by
  unfold State.loadBundles
  extract_lets key base
  exact State.Canonical.foldl (fun s i hs => State.poke_canonical hs ..) _ (h.of_mem (State.touchVirt_mem ..))

theorem State.preload_canonical (h : s.Canonical) (proc img core : Nat) (e : Nat × Nat × Nat × Nat) :
    (s.preload proc img core e).Canonical := by
  unfold State.preload
  extract_lets v s₁
  have h1 : s₁.Canonical := h.of_mem (State.touchVirt_mem ..)
  split
  case h_3 => exact State.Canonical.foldl (fun s k hs => State.poke_canonical hs ..) _ h1
  all_goals exact State.poke_canonical h1 ..

theorem State.makeGang_canonical (h : s.Canonical) (q seq kind : Nat) (pl : Plan) : (s.makeGang q seq kind pl).2.Canonical := by
  unfold State.makeGang
  extract_lets f gi l proc b s₁ s₂ s₃ s₄ s₅ s₆ s₇ k s₈
  have h1 : s₁.Canonical := h.of_mem (by simp [s₁, b, f])
  have h2 : s₂.Canonical := h1.foldl_of_mem (fun s e => State.launchCtx_mem ..) _
  have h3 : s₃.Canonical := State.Canonical.foldl (fun s p hs => State.loadBundles_canonical hs ..) _ h2
  have h4 : s₄.Canonical := State.Canonical.foldl (fun s c hs => State.Canonical.foldl (fun s e hs => State.preload_canonical hs ..) _ hs) _ h3
  have h5 : s₅.Canonical := h4.of_mem (by simp [s₅])
  have h6 : s₆.Canonical := by
    unfold s₆
    split
    · exact h5.foldl_of_mem (fun s c => State.setClu_mem ..) _
    · exact h5
  have h8 : s₈.Canonical := h6.of_mem (by unfold s₈ s₇; split <;> split <;> simp)
  exact h8.of_mem (by simp)

theorem State.launch_canonical (h : s.Canonical) (q seq kind : Nat) (owner : Option Nat) (p : Nat) :
    (s.launch q seq kind owner p).Canonical := by
  unfold State.launch
  extract_lets l gid
  split
  · next cause _ =>
    extract_lets s₁ s₂
    have h1 : s₁.Canonical := h.of_mem (by unfold s₁; split <;> simp)
    have h2 : s₂.Canonical := h1.of_mem (by unfold s₂; split <;> simp)
    split
    · exact h2.of_mem (State.finishPacket_mem ..)
    · exact h2.of_mem (State.completion_mem ..)
  · next pl _ =>
    exact State.Canonical.of_mem (State.makeGang_canonical (h.of_mem (State.readImage_mem ..)) q seq kind pl) (State.schedule_mem ..)

theorem State.startGang_canonical (h : s.Canonical) (gi : Nat) : (s.startGang gi).Canonical := by
  unfold State.startGang
  extract_lets g free late s₁ s₂ g' s₃ k whys
  split
  · exact h
  · have h1 : s₁.Canonical := h.of_mem (by unfold s₁; split <;> simp)
    have h2 : s₂.Canonical := by
      unfold s₂
      split
      · exact h1.foldl_of_mem (fun s x => State.setCore_mem ..) _
      · exact h1
    have h3 : s₃.Canonical := h2.of_mem rfl
    split
    · exact h3
    · exact State.freezeNow_canonical h3 ..

theorem execGangStart_canonical (h : s.Canonical) : (execGangStart s).Canonical := by
  refine Result.canonical_next ?_
  split
  · exact h.of_mem (by simp)
  · exact State.startGang_canonical h _

theorem execStagingComplete_canonical (h : s.Canonical) : (execStagingComplete s).Canonical := by
  unfold execStagingComplete
  extract_lets gi g s₁
  have h1 : s₁.Canonical := by
    refine State.Canonical.foldl (fun s e hs => ?_) _ h
    split
    · exact State.copyPage_canonical hs ..
    · exact hs
  refine Result.canonical_next ?_
  split
  · exact h1.of_mem rfl
  · exact h1

theorem execLaunchPacket_canonical (h : s.Canonical) : (execLaunchPacket s).Canonical := by
  refine Result.canonical_next ?_
  split
  · exact h
  · next e p t ht =>
    have h1 : t.Canonical := h.of_mem (takeUp_mem ht)
    split
    · exact (State.launch_canonical h1 ..).of_mem (State.tableDone_mem ..)
    · split <;> exact State.launch_canonical h1 ..

theorem streamLaunch_canonical (h : s.Canonical) (q p : Nat) : (streamLaunch s q p).Canonical := State.launch_canonical h ..

theorem onCommand_canonical (h : s.Canonical) {f : Bool × Nat → Nat → Nat → State → State}
    (hf : ∀ p a b s, s.Canonical → (f p a b s).Canonical) : (onCommand s f).Canonical := by
  refine Result.canonical_next ?_
  split
  · exact h
  · next p w _ =>
    have h1 : (touchCommand (noteEntry s s.fr.id p) s.fr.id p).Canonical := h.of_mem (by simp)
    dsimp only
    split
    · exact h1.of_mem (endStream_mem ..)
    · exact hf _ _ _ _ h1

theorem execCsln_canonical (h : s.Canonical) : (execCsln s).Canonical := by
  unfold execCsln
  refine onCommand_canonical h fun p a b s hs => ?_
  exact (streamLaunch_canonical (hs.of_mem (State.touchVirt_mem ..)) _ _).of_mem (moveStream_mem ..)

theorem execCsin_canonical (h : s.Canonical) : (execCsin s).Canonical := by
  unfold execCsin
  refine onCommand_canonical h fun p a b s hs => ?_
  extract_lets pk l r s₁ s₂
  have h1 : s₁.Canonical := hs.of_mem (by simp [s₁, r])
  have h2 : s₂.Canonical := by
    unfold s₂
    split
    · exact h1
    split
    · exact h1.of_mem (State.completion_mem ..)
    · exact streamLaunch_canonical h1 ..
  exact h2.of_mem (moveStream_mem ..)

theorem execFabricLaunchTimeout_canonical (h : s.Canonical) : (execFabricLaunchTimeout s).Canonical := by
  unfold execFabricLaunchTimeout
  extract_lets gid via m
  split
  · exact Result.canonical_next h
  split
  · exact Result.canonical_next (h.of_mem (closeReports_mem ..))
  · split
    · exact Result.canonical_next h
    · refine Result.canonical_next (State.endGang_canonical ?_ ..)
      exact h.of_mem (by split <;> simp)

/-! ### Debug operations -/

theorem onPacket_canonical (h : s.Canonical) {f : Nat → Nat → State → State} (hf : ∀ n p s, s.Canonical → (f n p s).Canonical) :
    (onPacket s f).Canonical := by
  refine Result.canonical_next ?_
  split
  · next e p t ht => exact hf _ _ _ (h.of_mem (takeUp_mem ht))
  · exact h

theorem debugAccess_canonical (h : s.Canonical) (write : Bool) {f : DebugOp → Nat → State → State}
    (hf : ∀ d q s, s.Canonical → (f d q s).Canonical) : (debugAccess s write f).Canonical := by
  unfold debugAccess debugOp
  refine onPacket_canonical h fun seq p s hs => ?_
  extract_lets d named r
  have hr : r.2.Canonical := by
    unfold r
    beta_reduce
    split
    · exact hs
    split
    · exact hs
    split
    · exact hs
    split
    · exact hs
    · exact hf _ _ _ hs
  split
  · exact hs.of_mem (State.finishPacket_mem ..)
  split
  · exact hs.of_mem (State.finishPacket_mem ..)
  · exact hr.of_mem (State.finishPacket_mem ..)

theorem execDebugRead_canonical (h : s.Canonical) : (execDebugRead s).Canonical := by
  refine debugAccess_canonical h _ fun d proc s hs => ?_
  exact hs.of_mem ((pokeBuffer_mem ..).trans (chargeDebug_mem ..))

theorem execDebugWrite_canonical (h : s.Canonical) : (execDebugWrite s).Canonical := by
  refine debugAccess_canonical h _ fun d proc s hs => ?_
  extract_lets v s₁ r img s₂ s₃
  have h1 : s₁.Canonical := hs.of_mem ((State.touchVirt_mem ..).trans (chargeDebug_mem ..))
  have h2 : s₂.Canonical := h1.of_mem (State.freshen_mem ..)
  have h3 : s₃.Canonical := by
    unfold s₃
    split
    · exact h2.of_mem (State.updCtx_mem ..)
    · exact h2
  split
  · exact State.poke_canonical h1 ..
  split
  · exact State.poke_canonical h1 ..
  · exact putTail_canonical h3 ..

/-! ### The loss of cold stores, modes, resets -/

theorem State.loseCold_canonical (h : s.Canonical) (cores : List Nat) : (s.loseCold cores).Canonical := by
  have hf : Memory.wf (s.mem.filter fun e => !coldKey cores e.1) = true := Memory.wf_filter _ h
  unfold State.Canonical
  rw [show (s.loseCold cores).mem = s.mem.filter fun e => !coldKey cores e.1 from ?_]
  · exact hf
  · unfold State.loseCold
    extract_lets clus s₁ s₂ s₃ here s₄ s₅
    have h2 : s₂.mem = s₁.mem := State.freshen_mem ..
    have h3 : s₃.mem = s₂.mem := State.foldl_mem _ (fun s c => State.setClu_mem ..) _ _
    have h5 : s₅.mem = s₄.mem := State.foldl_mem _ (fun s e => State.setCtx_mem ..) _ _
    exact (State.foldl_mem _ (fun s c => State.setCore_mem ..) _ _).trans (h5.trans (h3.trans h2))

theorem State.domainFault_canonical (h : s.Canonical) (dom d x : Nat) : (s.domainFault dom d x).Canonical := by
  unfold State.domainFault
  extract_lets c hnd F f
  exact State.unhandled_canonical (h.of_mem (State.faultTrace_mem ..)) f

theorem State.coldLoss_canonical (h : s.Canonical) (dom d : Nat) (cores : List Nat) : (s.coldLoss dom d cores).Canonical := by
  unfold State.coldLoss
  extract_lets gone s₁ dock
  have h1 : s₁.Canonical := h.foldl_of_mem (fun s gi => State.timedAt_mem ..) _
  exact State.loseCold_canonical (State.Canonical.foldl (fun s x hs => State.domainFault_canonical hs ..) _ h1) _

theorem State.anchor_canonical (h : s.Canonical) (fcode : Nat) : (s.anchor fcode).Canonical := by
  unfold State.anchor
  extract_lets s₁ s₂
  have h1 : s₁.Canonical := State.coldLoss_canonical h ..
  have h2 : s₂.Canonical := h1.foldl_of_mem (fun s d => State.setDomain_mem ..) _
  exact h2.of_mem (State.enter_mem ..)

/-- The pilots' pending writes, done in memory, keep the canonical form. -/
theorem State.wf_pilotMem (h : s.Canonical) : s.pilotMem.wf = true := by
  have step (l : List Eff) : ∀ m : Memory, m.wf = true → Memory.wf (l.foldl (fun m e => match e.act with
      | .poke key n val _ => m.writeN key n val (allBytes n)
      | _ => m) m) = true := by
    induction l with
    | nil => exact fun m hm => hm
    | cons e l ih =>
      intro m hm
      refine ih _ ?_
      beta_reduce
      split
      · exact Memory.wf_writeN _ _ _ _ hm
      · exact hm
  exact step s.pend s.mem h

theorem execModuleReset_canonical (h : s.Canonical) : (execModuleReset s).Canonical := by
  unfold execModuleReset
  extract_lets t
  have ht : t.Canonical := h.of_mem (by unfold t; split <;> simp)
  refine Result.canonical_next (Memory.wf_filter _ ?_)
  split
  · exact h
  · exact State.wf_pilotMem ht

theorem execFirmwareVerifyDone_canonical (h : s.Canonical) (ok0 ok1 : Bool) : (execFirmwareVerifyDone ok0 ok1 s).Canonical := by
  unfold execFirmwareVerifyDone
  extract_lets v0 v1 s₁
  split
  · exact Result.canonical_next h
  split
  · exact Result.canonical_next (State.anchor_canonical h _)
  · exact Result.canonical_next (h.of_mem (by simp [s₁]))

theorem execSelfTestComplete_canonical (h : s.Canonical) (pass : Bool) : (execSelfTestComplete pass s).Canonical := by
  unfold execSelfTestComplete
  extract_lets fr bad s₁
  have h1 : s₁.Canonical :=
    State.Canonical.of_mem (h.foldl_of_mem (fun s c => State.setCore_mem ..) bad) (State.enter_mem ..)
  split
  · exact Result.canonical_next h
  split
  · exact Result.canonical_next (State.anchor_canonical h _)
  split
  · exact Result.canonical_next (h.of_mem (State.timedAt_mem ..))
  split
  · exact Result.canonical_next (State.anchor_canonical h _)
  refine Result.canonical_next ?_
  split
  · exact State.anchor_canonical h1 _
  · exact h1

theorem execBiasDomainFailure_canonical (h : s.Canonical) (d : Nat) : (execBiasDomainFailure d s).Canonical := by
  unfold execBiasDomainFailure
  extract_lets k
  split
  · exact Result.canonical_next h
  · exact Result.canonical_next ((State.coldLoss_canonical h ..).of_mem (State.moveDomain_mem ..))

theorem execHekChange_canonical (h : s.Canonical) (v : Nat) : (execHekChange v s).Canonical := by
  unfold execHekChange
  extract_lets was s₁ cold s₂ s₃
  have h1 : s₁.mem = s.mem := State.setMstat_mem ..
  have h2 : s₂.mem = s₁.mem := State.updMod_mem ..
  have h3 : s₃.mem = s₂.mem := by
    unfold s₃
    split
    · exact State.timedAt_mem ..
    · rfl
  have h3 : s₃.Canonical := h.of_mem (h3.trans (h2.trans h1))
  split
  · exact Result.canonical_next (State.anchor_canonical h3 _)
  refine Result.canonical_next ?_
  split
  · exact h3.foldl_of_mem (fun s p => reHelium_mem ..) _
  · exact h3

/-! ### Phases of a cycle -/

theorem State.openCycle_canonical (h : s.Canonical) : s.openCycle.Canonical := by
  have h1 : s.flushTrace.advance.Canonical := (State.flushTrace_canonical h).of_mem (State.advance_mem ..)
  exact h1.of_mem rfl

theorem State.body_canonical (h : s.Canonical) : s.body.Canonical := by
  unfold State.body
  extract_lets s₁ s₂ p q xs
  have h1 : s₁.Canonical := State.landings_canonical h
  have h2 : s₂.Canonical := h1.foldl_of_mem (fun s e => State.handOver_mem ..) _
  exact h2.of_mem rfl

theorem State.close_canonical (h : s.Canonical) : s.close.Canonical := (State.performs_canonical h).of_mem rfl

theorem State.nextPhase_canonical (h : s.Canonical) : s.nextPhase.Canonical := by
  have h1 : s.scan.Canonical := h.of_mem (State.scan_mem s)
  unfold State.nextPhase
  split
  · exact State.openCycle_canonical h
  · dsimp only
    split
    · exact State.body_canonical h1
    · exact h1
  · dsimp only
    split
    · exact State.close_canonical h1
    · exact h1

/-! ### The step -/

theorem exec_canonical (i : Instr) (h : s.Canonical) : Result.Canonical (exec i s) := by
  cases i
  case lockSlot x id => exact execLockSlot_canonical h x id
  case ctxr g n => exact (execCtxr_mem g n s).canonical h
  case contextSaveStart x => exact (execContextSaveStart_mem x s).canonical h
  case bundleIssue x => exact (execBundleIssue_mem x s).canonical h
  case gangFreeze => exact execGangFreeze_canonical h
  case faultTaken x => exact execFaultTaken_canonical h x
  case watchdogExpiry x => exact execWatchdogExpiry_canonical h x
  case taskComplete => exact execTaskComplete_canonical h
  case gangStart => exact execGangStart_canonical h
  case stagingComplete => exact execStagingComplete_canonical h
  case launchPacket => exact execLaunchPacket_canonical h
  case csln => exact execCsln_canonical h
  case csin => exact execCsin_canonical h
  case fabricLaunchTimeout => exact execFabricLaunchTimeout_canonical h
  case debugRead => exact execDebugRead_canonical h
  case debugWrite => exact execDebugWrite_canonical h
  case moduleReset => exact execModuleReset_canonical h
  case firmwareVerifyDone ok0 ok1 => exact execFirmwareVerifyDone_canonical h ok0 ok1
  case selfTestComplete pass => exact execSelfTestComplete_canonical h pass
  case biasDomainFailure d => exact execBiasDomainFailure_canonical h d
  case hekChange v => exact execHekChange_canonical h v
  all_goals
    refine KeepsMem.canonical ?_ h
    simp [exec, execBr, execBri, execCall, execRet, execLoop, execLeave, execYield, execRte, execGet, execSet, execBkpt, execFence, execSys,
      execAdd, execSub, execMul, execMulh, execAnd, execOr, execXor, execAndn, execShl, execShr, execSra, execMin, execMax, execClz, execPopc,
      execMov, execAddi, execLi, execLih, execSel, execCmp, execVadd, execVsub, execVmul, execVmulh, execVmad, execVdot4, execVmin, execVmax,
      execVand, execVor, execVxor, execVandn, execVshl, execVshr, execVsra, execVabs, execVneg, execVclz, execVpopc, execVmov, execViota, execVred,
      execFadd, execFsub, execFmul, execFmin, execFmax, execFcps, execFabs, execFneg, execFrcp, execFrsq, execFsqrt, execFexp2, execFlog2,
      execFtanh, execFcls, execFred, execFma, execFms, execFnma, execVcmp, execFcmp, execPand, execPor, execPxor, execPnot, execPmov, execPcnt,
      execVsel, execCvt, execCvtSat, execCvtb, execCvtg, execSeed, execSeedFromVector, execPack, execUnpk, execZip2, execZip3, execZip4, execUzp2,
      execUzp3, execUzp4, execPerm, execSlide, execDrv, execTap, execXcp, execDtc, execDts, execVlds, execVldx, execRinfo, execXin, execXinm,
      execXina, execXouta, execXcal, execMget, execTrn, execCeLd, execCeSt, execCeAl, execCeAs, execCeGth, execCeFil, execRtGo, execRtStop,
      execBxSend, execCeCxlToQuay, execCeCxlToTier, execRld, execRldc, execRldi, execRmax, execRmin, execRand, execRflt, execRthr, execRmov,
      execRst, execRstc, execRpsh, execRflg, execTmul, execTmuls, execTadd, execTscl, execTred, execTcpy, execTxps, execTdig, execTfil, execTfen,
      execQtailWrite, execSysNop, execSysClock, execSysLease, execSysTokens, execSysUserRecord, execBxPostAck, execFlitReceive, execLinkTrained,
      execLinkFailed, execSlackWaveArrival, execBerthScrubWriteback, execWarmScrubWriteback, execHbmRefresh, execDomainRecoveryStart, execRampEnd,
      execCapFrame, execClockRunPeriod, execAllotmentUpdate, execPartitionConfigWrite, execFjtWrite, execLgrtWrite, execMailboxImageWrite,
      execRegisterWrite, execHeliumFlowChange, execLinkTrainingStart, execPartitionWarmCapReached, execCorrectedWriteBack, execRnop, execRhalt,
      execGangResume, execEventPacket, execFencePacket, execLeaseExpiry, execLeaseRevocation, execLeaseRevocationEnd, execCsend, execCsjm,
      execCsbr, execCswf, execShareDecision, execHlmRefill, execSlackFreeze, execResumeWave, execStepEnd, execDebugResume, execDebugEnd,
      execTraceSample, execCapRankApply]

/-- The check of parity adds a fault and takes landings off: memory is what the act left. -/
theorem runChecked_canonical {run : Instr → State → Result} (hrun : ∀ i s, s.Canonical → Result.Canonical (run i s)) (i : Instr)
    (h : s.Canonical) : Result.Canonical (runChecked run i s) := by
  unfold runChecked
  split
  · exact hrun i s h
  split
  · exact Result.canonical_next (h.of_mem (routerSoft_mem ..))
  split
  · exact hrun i s h
  split
  · next t ht =>
    have hc : t.Canonical := hrun i s h t ht
    split
    · exact Result.canonical_next (hc.of_mem (by simp [State.noLanding]))
    · refine Result.canonical_next ?_
      split
      · exact hc.of_mem rfl
      · exact hc
  · next r hr => exact fun t ht => absurd ht (hr t)

theorem runSlots_canonical {run : Instr → State → Result} (hrun : ∀ i s, s.Canonical → Result.Canonical (run i s)) (n : Nat) :
    ∀ {s : State}, s.Canonical → Result.Canonical (runSlots run n s) := by
  induction n with
  | zero => exact fun h => Result.canonical_next h
  | succ n ih =>
    intro s h
    unfold runSlots
    split
    · exact Result.canonical_next h
    · exact ih (h.of_mem (State.illegal_mem ..))
    · next a r _ =>
      have h1 : ({ s with staged := r, fr := a.fr } : State).Canonical := h.of_mem rfl
      split
      · next t ht => exact ih (runChecked_canonical hrun a.i h1 t ht)
      · next o ho => exact fun t ht => absurd ht (ho t)

theorem stepWith_canonical {run : Instr → State → Result} (hrun : ∀ i s, s.Canonical → Result.Canonical (run i s)) (h : s.Canonical) :
    Result.Canonical (stepWith run s) := by
  unfold stepWith
  split
  · exact Result.canonical_next (State.nextPhase_canonical h)
  · next a r _ =>
    have h1 : ({ s with agenda := r, staged := [], fr := a.fr } : State).Canonical := h.of_mem rfl
    split
    · next t ht => exact runSlots_canonical hrun 4 (runChecked_canonical hrun a.i h1 t ht)
    · next o ho => exact fun t ht => absurd ht (ho t)

end

/-- Settles O42: a step is an act of the agenda with the slots it stages, or the next phase; every write of memory is a byte write, a
filter of cells, or an entry of the undo log written back. -/
theorem stepKeepsMemoryCanonical : Obligations.StepKeepsMemoryCanonical := by
  unfold Obligations.StepKeepsMemoryCanonical
  intro s t h ht
  exact stepWith_canonical (fun i s hs => exec_canonical i hs) h t ht

end Sys2Proof.Machine

/-! SUPPORT. Registers of a context and control registers: what a landing leaves (04 R77, 07 R140 to R147), in which order those of
one cycle come (07 R155), what GET reads and what a SET does at issue and where it lands (07 R143). -/

namespace Sys2Proof.Machine

/-! ### Registers read after a write (04 R77) -/

section
variable (r : Regs) (l : Loc) (x : Gran)

/-- s0 keeps what it has. -/
theorem Regs.put_s (n : Nat) : r.put (.s n) x = { r with s := if n = 0 then r.s else SMap.put 0 r.s n (x.setWidth 64) } := by
  simp only [Regs.put]
  split <;> rfl

/-- p0 and p1 keep what they have. -/
theorem Regs.put_p (n k : Nat) :
    r.put (.p n k) x = { r with p := if n < 2 then r.p else SMap.put 0 r.p (8 * n + k) (x.setWidth 16) } := by
  simp only [Regs.put]
  split <;> rfl

theorem Regs.read_s_put (n : Nat) :
    (r.put l x).read (.s n) = if l = .s n ∧ n ≠ 0 then (x.setWidth 64).setWidth 512 else r.read (.s n) := by
  cases l with
  | s m =>
    by_cases hn : n = 0
    · simp [Regs.read, hn]
    · by_cases hm : m = 0 <;> by_cases h : n = m <;> simp_all [↓Regs.put_s, Regs.read, SMap.get_put, eq_comm]
  | _ => simp [↓Regs.put_p, Regs.put, Regs.read]

theorem Regs.read_v_put (n k : Nat) :
    (r.put l x).read (.v n k) = match l with
      | .v n' k' => if 8 * n' + k' = 8 * n + k then x else r.read (.v n k)
      | _ => r.read (.v n k) := by
  cases l with
  | v m j => simp [Regs.put, Regs.read, SMap.get_put, eq_comm]
  | _ => simp [↓Regs.put_s, ↓Regs.put_p, Regs.put, Regs.read]

theorem Regs.read_p_put (n k : Nat) :
    (r.put l x).read (.p n k) = match l with
      | .p n' k' => if 8 * n' + k' = 8 * n + k ∧ 1 < n ∧ 1 < n' then (x.setWidth 16).setWidth 512 else r.read (.p n k)
      | _ => r.read (.p n k) := by
  cases l with
  | p m j =>
    by_cases hn : 1 < n
    · have h0 : n ≠ 0 := by omega
      have h1 : n ≠ 1 := by omega
      by_cases hm : m < 2 <;> by_cases h : 8 * n + k = 8 * m + j <;>
        simp [↓Regs.put_p, Regs.read, SMap.get_put, hm, hn, h0, h1, h, show 1 < m ↔ ¬ m < 2 by omega, eq_comm (a := 8 * m + j)]
    · rcases show n = 0 ∨ n = 1 by omega with rfl | rfl <;> simp [Regs.read]
  | _ => simp [↓Regs.put_s, Regs.put, Regs.read]

theorem Regs.read_dsr_put (k : Nat) :
    (r.put l x).read (.dsr k) = if l = .dsr k then (x.setWidth 64).setWidth 512 else r.read (.dsr k) := by
  cases l with
  | dsr m => by_cases h : k = m <;> simp_all [Regs.put, Regs.read, SMap.get_put, eq_comm]
  | _ => simp [↓Regs.put_s, ↓Regs.put_p, Regs.put, Regs.read]

theorem Regs.read_gen_put (k : Nat) : (r.put l x).read (.gen k) = if l = .gen k then x else r.read (.gen k) := by
  cases l with
  | gen m => simp [Regs.put, Regs.read, SMap.get_put, eq_comm]
  | _ => simp [↓Regs.put_s, ↓Regs.put_p, Regs.put, Regs.read]

theorem Regs.read_strm_put (i : Nat) : (r.put l x).read (.strm i) = if l = .strm i then x else r.read (.strm i) := by
  cases l with
  | strm m => simp [Regs.put, Regs.read, SMap.get_put, eq_comm]
  | _ => simp [↓Regs.put_s, ↓Regs.put_p, Regs.put, Regs.read]

theorem Regs.read_m_put (n : Nat) :
    (r.put l x).read (.m n) = if l = .m n then (x.setWidth 64).setWidth 512 else r.read (.m n) := by
  cases l with
  | m m => by_cases h : n = m <;> simp_all [Regs.put, Regs.read, SMap.get_put, eq_comm]
  | _ => simp [↓Regs.put_s, ↓Regs.put_p, Regs.put, Regs.read]

end

@[simp] theorem Regs.read_s_zero (r : Regs) : r.read (.s 0) = 0 := rfl

@[simp] theorem Regs.read_p_one (r : Regs) (k : Nat) : r.read (.p 1 k) = 0 := rfl

/-- A mask of ones leaves the value written. -/
@[simp] theorem mergeBits_allBits (old val : Gran) : mergeBits old val allBits = val := by
  refine BitVec.eq_of_getLsbD_eq fun i hi => ?_
  rw [mergeBits_getLsbD, allBits, BitVec.getLsbD_allOnes]
  simp [hi]

/-! ### What landings leave -/

/-- `t` has the contexts, cores, clusters, gangs, memory and TIDE of `s`: a count of errors changes the module's words and the pilots'
pending writes alone. -/
structure State.SameStores (s t : State) : Prop where
  ctxs : t.ctxs = s.ctxs
  mem : t.mem = s.mem
  cores : t.cores = s.cores
  clus : t.clus = s.clus
  gangs : t.gangs = s.gangs
  tide : t.tide = s.tide

theorem State.SameStores.refl (s : State) : s.SameStores s := ⟨rfl, rfl, rfl, rfl, rfl, rfl⟩

theorem State.SameStores.trans {s t u : State} (h : s.SameStores t) (k : t.SameStores u) : s.SameStores u :=
  ⟨k.ctxs.trans h.ctxs, k.mem.trans h.mem, k.cores.trans h.cores, k.clus.trans h.clus, k.gangs.trans h.gangs, k.tide.trans h.tide⟩

theorem State.SameStores.ctx {s t : State} (h : s.SameStores t) (x : Nat) : t.ctx x = s.ctx x := by
  unfold State.ctx
  rw [h.ctxs]

theorem State.SameStores.foldl {α : Type} {f : State → α → State} (hf : ∀ (s : State) (a : α), s.SameStores (f s a)) (l : List α) :
    ∀ s : State, s.SameStores (l.foldl f s) := by
  induction l with
  | nil => exact State.SameStores.refl
  | cons a l ih => exact fun s => (hf s a).trans (ih _)

theorem State.eventRec_sameStores (s : State) (p type d0 d1 d2 : Nat) : s.SameStores (s.eventRec p type d0 d1 d2) := by
  unfold State.eventRec
  dsimp only
  split
  · exact .refl s
  split
  · exact .refl s
  · exact ⟨rfl, rfl, rfl, rfl, rfl, rfl⟩

theorem State.countSnap_sameStores (s : State) (x : Nat) : s.SameStores (s.countSnap x) := by
  unfold State.countSnap
  extract_lets c n s₁
  have h1 : s.SameStores s₁ := ⟨rfl, rfl, rfl, rfl, rfl, rfl⟩
  split
  · exact h1.trans (State.eventRec_sameStores ..)
  · exact h1

theorem State.meetHeld_sameStores (s : State) (e : Eff) : s.SameStores (s.meetHeld e) := by
  unfold State.meetHeld
  split
  · exact .refl s
  · refine State.SameStores.trans ?_ (State.SameStores.foldl (fun s _ => State.countSnap_sameStores s e.fr.x) _ _)
    exact ⟨rfl, rfl, rfl, rfl, rfl, rfl⟩

theorem State.meetHeld_of_soft_nil {s : State} (h : s.soft = []) (e : Eff) : s.meetHeld e = s := by
  simp [State.meetHeld, h]

/-! ### A register landed (07 R140) -/

/-- The state in which an effect of frame `fr` lands. -/
def State.atLanding (s : State) (e : Eff) : State := { s.meetHeld e with fr := e.fr }

theorem State.atLanding_sameStores (s : State) (e : Eff) : s.SameStores (s.atLanding e) :=
  (State.meetHeld_sameStores s e).trans ⟨rfl, rfl, rfl, rfl, rfl, rfl⟩

section
variable (s : State) (fr : Frame) (due run pri : Nat) (l : Loc) (val mask : Gran)

theorem State.land_reg (w : Nat) : s.land ⟨fr, due, run, pri, .reg l val mask, w⟩
    = (s.atLanding ⟨fr, due, run, pri, .reg l val mask, w⟩).writeRegAt fr.x fr.hnd fr.ord fr.x l val mask := rfl

theorem State.land_creg (n : Nat) (v : Word) (w : Nat) : s.land ⟨fr, due, run, pri, .creg n v, w⟩
    = (s.atLanding ⟨fr, due, run, pri, .creg n v, w⟩).landCreg n v := rfl

theorem State.ctx_writeRegAt_self (x : Nat) (hnd : Bool) (ord y : Nat) :
    (s.writeRegAt x hnd ord y l val mask).ctx y = (s.ctx y).withRegs hnd fun r => r.write l val mask :=
  State.ctx_setCtx_self ..

theorem State.ctx_writeRegAt_ne (x : Nat) (hnd : Bool) (ord : Nat) {y z : Nat} (h : z ≠ y) :
    (s.writeRegAt x hnd ord y l val mask).ctx z = s.ctx z :=
  State.ctx_setCtx_ne s _ h

theorem State.ctx_land_reg (w : Nat) : (s.land ⟨fr, due, run, pri, .reg l val mask, w⟩).ctx fr.x
    = (s.ctx fr.x).withRegs fr.hnd fun r => r.write l val mask := by
  rw [State.land_reg, State.ctx_writeRegAt_self, (State.atLanding_sameStores ..).ctx]

theorem State.ctx_land_reg_ne (w : Nat) {y : Nat} (h : y ≠ fr.x) : (s.land ⟨fr, due, run, pri, .reg l val mask, w⟩).ctx y = s.ctx y := by
  rw [State.land_reg, State.ctx_writeRegAt_ne _ _ _ _ _ _ _ h, (State.atLanding_sameStores ..).ctx]

end

/-! ### The landings of a cycle (07 R147, R155) -/

/-- A landing done with what a freeze takes back noted is the landing, but for the list of what the cycle has landed. -/
theorem State.landNoted_eq (s : State) (e : Eff) : ∃ n, s.landNoted e = { s.land e with landed := n } := by
  unfold State.landNoted
  dsimp only
  split
  · exact ⟨_, rfl⟩
  · exact ⟨_, rfl⟩

theorem State.ctx_landNoted (s : State) (e : Eff) (x : Nat) : (s.landNoted e).ctx x = (s.land e).ctx x := by
  obtain ⟨n, hn⟩ := s.landNoted_eq e
  rw [hn]
  rfl

/-- Whether a landing is due now. -/
def State.lands (s : State) (e : Eff) : Bool := !e.act.performs && s.due e

theorem State.landings_of_pend {s : State} {now later : List Eff} (h : s.pend.partition s.lands = (now, later)) :
    s.landings = (sortBy Eff.before now).foldl State.landNoted { s with pend := later, landed := [] } := by
  unfold State.landings
  rw [show (s.pend.partition fun e => !e.act.performs && s.due e) = (now, later) from h]

theorem State.due_of_landing {s : State} {e : Eff} (hrun : e.run = 0) (hwall : e.wall = 0) :
    s.due e = (s.clockRuns e.fr.x e.fr.hnd && decide (e.due ≤ s.now e.fr.x e.fr.hnd)) := by
  simp [State.due, hrun, hwall]

theorem State.landings_single_due {s : State} {e : Eff} (hp : s.pend = [e]) (hl : s.lands e = true) :
    ∃ l, s.landings = { ({ s with pend := [], landed := [] } : State).land e with landed := l } := by
  rw [State.landings_of_pend (now := [e]) (later := []) (by simp [hp, hl])]
  exact State.landNoted_eq _ e

theorem State.landings_single_not_due {s : State} {e : Eff} (hp : s.pend = [e]) (hl : s.lands e = false) :
    s.landings = { s with landed := [] } := by
  rw [State.landings_of_pend (now := []) (later := [e]) (by simp [hp, hl]), sortBy_nil, List.foldl_nil, ← hp]

theorem sortBy_pair_of_le {α : Type} {le : α → α → Bool} {a b : α} (h : le a b = true) : sortBy le [a, b] = [a, b] := by
  simp [sortBy, insertBy, h]

theorem sortBy_pair_of_not_le {α : Type} {le : α → α → Bool} {a b : α} (h : le a b = false) : sortBy le [a, b] = [b, a] := by
  simp [sortBy, insertBy, h]

theorem landings_pair_due {s : State} {e e' : Eff} (hp : s.pend = [e, e'] ∨ s.pend = [e', e]) (hl : s.lands e = true)
    (hl' : s.lands e' = true) (hb : Eff.before e e' = true) (hb' : Eff.before e' e = false) :
    s.landings = (({ s with pend := [], landed := [] } : State).landNoted e).landNoted e' := by
  rcases hp with hp | hp
  · rw [State.landings_of_pend (now := [e, e']) (later := []) (by simp [hp, hl, hl']), sortBy_pair_of_le hb]
    rfl
  · rw [State.landings_of_pend (now := [e', e]) (later := []) (by simp [hp, hl, hl']), sortBy_pair_of_not_le hb']
    rfl

/-- Settles O4: a landing is one write of a register file; what is due is sorted by issue, and the later of two writes of one
register is read. -/
theorem landingsWriteInOrder : Obligations.LandingsWriteInOrder := by
  unfold Obligations.LandingsWriteInOrder
  refine ⟨fun s fr due run pri l val mask => ?_, fun s e hp hperf hrun hwall => ⟨fun hdue hclk => ?_, fun h => ?_⟩,
    fun s f f' r v v' n n' hx hh hn hn' hclk hord hr hp => ?_⟩
  · extract_lets t old new
    have hc : t.ctx fr.x = (s.ctx fr.x).withRegs fr.hnd fun r => r.write l val mask := State.ctx_land_reg ..
    have hnew : new = old.put l (mergeBits (old.read l) val mask) := congrArg Ctx.regs hc
    have hst := State.atLanding_sameStores s ⟨fr, due, run, pri, .reg l val mask, 0⟩
    refine ⟨fun n => ?_, fun n k => ?_, fun n k => ?_, fun k => ?_, fun k => ?_, fun i => ?_, fun n => ?_, rfl, fun k => Regs.read_p_zero _ k,
      fun k => rfl, fun y hy => State.ctx_land_reg_ne s fr due run pri l val mask 0 hy, ?_, hst.mem, hst.cores, hst.clus,
      hst.gangs, hst.tide, fun hs => ?_⟩
    · rw [hnew, Regs.read_s_put]
    · rw [hnew]
      exact Regs.read_v_put ..
    · rw [hnew]
      exact Regs.read_p_put ..
    · rw [hnew, Regs.read_dsr_put]
    · rw [hnew, Regs.read_gen_put]
    · rw [hnew, Regs.read_strm_put]
    · rw [hnew, Regs.read_m_put]
    · exact ⟨_, hc.trans (by rw [show new = _ from congrArg Ctx.regs hc]; rfl)⟩
    · have hm := State.meetHeld_of_soft_nil hs ⟨fr, due, run, pri, .reg l val mask, 0⟩
      have hmod : t.mod = (s.meetHeld ⟨fr, due, run, pri, .reg l val mask, 0⟩).mod := rfl
      have hpend : t.pend = (s.meetHeld ⟨fr, due, run, pri, .reg l val mask, 0⟩).pend := rfl
      exact ⟨by rw [hmod, hm], by rw [hpend, hm]⟩
  · exact State.landings_single_due hp (by simp [State.lands, hperf, State.due_of_landing hrun hwall, hdue, hclk])
  · refine State.landings_single_not_due hp ?_
    rcases h with h | h
    · simp [State.lands, State.due_of_landing hrun hwall, Nat.not_le.2 h]
    · simp [State.lands, State.due_of_landing hrun hwall, h]
  · have hle : f.ord ≤ f'.ord := hord.le
    have hl := landings_pair_due hp (by simp [State.lands, Effect.performs, State.due_of_landing, hn, hclk])
      (by simp [State.lands, Effect.performs, State.due_of_landing, ← hx, ← hh, hn', hclk]) (by simp [Eff.before, hle])
      (by simp [Eff.before, hord])
    rw [hl, hx, State.ctx_landNoted, State.ctx_land_reg]
    simp only [Ctx.withRegs, Regs.write, mergeBits_allBits, Regs.read_s_put]
    simp [hr]

/-! ### GET and SET (07 R143) -/

theorem runRegs_contains (n : Nat) : runRegs.contains n = (n == 3 || n == 22 || n == 24 || n == 26) := by
  rw [Bool.eq_iff_iff]
  simp [runRegs, or_assoc]

/-- What GET reads of a register that no re-entry has read before. -/
def State.getNow (s : State) (n : Nat) : Word :=
  if n = 16 then amaxNow s s.fr.x s.fr.hnd else cregRead s s.fr.x s.fr.hnd n

theorem exec_get {g : Guard} {r n : Nat} {s : State} {now : Word} (h : s.getNow n = now) :
    let runs := n == 3 || n == 22 || n == 24 || n == 26
    let v := if s.fr.pre = true ∧ runs then s.fr.cap else now
    exec (.get g r n) s = .next (once g s ((if runs then
      s.record 4 6 1 (if s.fr.pre then s.tide - 1 else s.tide) v.toNat else s).landS r v (s.fr.t + 1))) := by
  subst h
  rw [← runRegs_contains]
  rfl

theorem State.getNow_amax {s : State} (h : s.pend = []) : s.getNow 16 = (s.ctx s.fr.x).amax := by
  simp [State.getNow, amaxNow, h]

/-- A level of the loop stack, as GET reads it. -/
def loopWord (l : List (Nat × Nat)) (n : Nat) : Word :=
  match l[n]? with
  | some e => BitVec.ofNat 64 (e.1 * 2 ^ 32 + e.2 % 2 ^ 32)
  | none => 0

theorem State.getNow_loop (s : State) {n : Nat} (h : n < 6) : s.getNow (8 + n) = loopWord (s.ctx s.fr.x).lstk n := by
  interval_cases n <;> rfl

/-- Settles O2: each number names its register. -/
theorem getReadsControlRegisters : Obligations.GetReadsControlRegisters := by
  unfold Obligations.GetReadsControlRegisters
  intro g r s
  exact ⟨exec_get rfl, exec_get rfl, exec_get rfl, exec_get rfl, exec_get rfl, exec_get rfl, exec_get rfl,
    fun n hn => exec_get (s.getNow_loop hn), fun hp => exec_get (State.getNow_amax hp), exec_get rfl, exec_get rfl, exec_get rfl,
    exec_get rfl, exec_get rfl, exec_get rfl, exec_get rfl, exec_get rfl, exec_get rfl, exec_get rfl, exec_get rfl, exec_get rfl⟩

theorem exec_set (g : Guard) (r n : Nat) (s : State) : exec (.set g r n) s
    = .next (once g s (if cregPrivileged n && !s.priv then s.privilege 0 else s.push (s.fr.t + 1) (.creg n (s.sget r)) 0)) := rfl

theorem exec_set_of_allowed {g : Guard} {r n : Nat} {s : State}
    (h : ¬ (n = 21 ∨ n = 23 ∨ n = 24 ∨ n = 25) ∨ (s.ctx s.fr.x).psw.getLsbD 11 = true) :
    exec (.set g r n) s = .next (once g s (s.push (s.fr.t + 1) (.creg n (s.sget r)) 0)) := by
  have hf : (cregPrivileged n && !s.priv) = false := by
    rcases h with h | h
    · simp [cregPrivileged, h]
    · rw [show s.priv = true from h, Bool.not_true, Bool.and_false]
  rw [exec_set, hf]
  rfl

theorem exec_set_of_refused {g : Guard} {r n : Nat} {s : State} (hn : n = 21 ∨ n = 23 ∨ n = 24 ∨ n = 25)
    (h : (s.ctx s.fr.x).psw.getLsbD 11 = false) (hg : s.onceGuard g = true) : exec (.set g r n) s = .next (s.privilege 0) := by
  have hf : (cregPrivileged n && !s.priv) = true := by
    rw [show s.priv = false from h]
    simp [cregPrivileged, hn]
  rw [exec_set, hf, if_pos rfl, once_true _ hg]

/-! ### A control register landed -/

/-- A SET of SEED writes the eight generators; any other SET writes its register, and that is all it changes of its context. -/
theorem State.ctx_landCreg (s : State) {n : Nat} (h : n ≠ 28) (v : Word) : (s.landCreg n v).ctx s.fr.x = cregWrite (s.ctx s.fr.x) n v := by
  unfold State.landCreg
  extract_lets x s₁ s₂ s₃
  have h1 : s₁.ctx s.fr.x = cregWrite (s.ctx s.fr.x) n v := State.ctx_updCtx_self ..
  have h3 : s₃.ctx s.fr.x = s₂.ctx s.fr.x := by
    unfold s₃
    split <;> rfl
  rw [if_neg h, h3]
  exact h1

/-- Writes of whole generators, one by one: each reads its value afterwards, and what is no register stays. -/
theorem State.foldl_landReg_gen (f : Nat → Gran) (ks : List Nat) : ∀ s : State,
    let t := ks.foldl (fun s k => s.landReg (.gen k) (f k) allBits) s
    t.fr = s.fr ∧ (t.ctx s.fr.x).seed = (s.ctx s.fr.x).seed
      ∧ ∀ k, (k ∈ ks ∨ (s.ctx s.fr.x).regs.read (.gen k) = f k) → (t.ctx s.fr.x).regs.read (.gen k) = f k := by
  induction ks with
  | nil => exact fun s => ⟨rfl, rfl, fun k h => h.elim (by simp) id⟩
  | cons a ks ih =>
    intro s t
    obtain ⟨hfr, hseed, hread⟩ := ih (s.landReg (.gen a) (f a) allBits)
    change (t.ctx s.fr.x).seed = ((s.landReg (.gen a) (f a) allBits).ctx s.fr.x).seed at hseed
    have hc : (s.landReg (.gen a) (f a) allBits).ctx s.fr.x = (s.ctx s.fr.x).withRegs s.fr.hnd fun r => r.write (.gen a) (f a) allBits :=
      State.ctx_writeRegAt_self ..
    refine ⟨hfr, hseed.trans (by rw [hc]; rfl), fun k hk => hread k ?_⟩
    have hr : ((s.landReg (.gen a) (f a) allBits).ctx s.fr.x).regs.read (.gen k)
        = if Loc.gen a = .gen k then f a else (s.ctx s.fr.x).regs.read (.gen k) := by
      rw [hc]
      simp only [Ctx.withRegs, Regs.write, mergeBits_allBits, Regs.read_gen_put]
    by_cases hak : a = k
    · subst hak
      exact .inr (hr.trans (if_pos rfl))
    · refine hk.imp (fun hm => (List.mem_cons.1 hm).resolve_left (Ne.symm hak)) fun h => hr.trans ?_
      rw [if_neg (by simpa using hak), h]

/-- A SET of SEED leaves its value in SEED and loads every generator. -/
theorem State.landCreg_seed (s : State) (v : Word) :
    ((s.landCreg 28 v).ctx s.fr.x).seed = v ∧ ∀ k, k < 8 → ((s.landCreg 28 v).ctx s.fr.x).regs.read (.gen k) = seedSlice v k := by
  unfold State.landCreg
  extract_lets x s₁ s₂ s₃
  have h1 : s₁.ctx s.fr.x = cregWrite (s.ctx s.fr.x) 28 v := State.ctx_updCtx_self ..
  have hs : (s₃.ctx s.fr.x).seed = v := congrArg Ctx.seed h1
  obtain ⟨-, hseed, hread⟩ := State.foldl_landReg_gen (seedSlice v) (List.range 8) s₃
  exact ⟨hseed.trans hs, fun k hk => hread k (.inl (List.mem_range.2 hk))⟩

/-- What a SET of a level of the loop stack leaves. -/
theorem cregWrite_loop (c : Ctx) {j : Nat} (h : j < 6) (v : Word) :
    cregWrite c (8 + j) v = if j < c.lstk.length then { c with lstk := c.lstk.set j (v.toNat / 2 ^ 32 % 2 ^ 11, v.toNat % 2 ^ 32) } else c := by
  interval_cases j <;> rfl

/-- Settles O3: SET pushes its write at the front of its count, or faults; the write is `cregWrite` of its context. -/
theorem setWritesItsRegister : Obligations.SetWritesItsRegister := by
  unfold Obligations.SetWritesItsRegister
  refine ⟨fun g r n s => ⟨exec_set_of_allowed, exec_set_of_refused⟩, fun s fr due run pri n v => ?_⟩
  extract_lets c c'
  have hst := State.atLanding_sameStores s ⟨fr, due, run, pri, .creg n v, 0⟩
  have hw (hn : n ≠ 28) : c' = cregWrite c n v := by
    have := State.ctx_landCreg (s.atLanding ⟨fr, due, run, pri, .creg n v, 0⟩) hn v
    exact this.trans (by rw [hst.ctx]; rfl)
  refine ⟨?_, ?_, ?_, ?_, ?_, ?_, ?_, ?_, ?_, ?_, ?_⟩
  · rintro rfl; exact hw (by decide)
  · rintro rfl; exact hw (by decide)
  · rintro rfl; exact hw (by decide)
  · rintro rfl; exact hw (by decide)
  · rintro rfl; exact hw (by decide)
  · rintro rfl; exact hw (by decide)
  · rintro rfl; exact hw (by decide)
  · rintro rfl; exact hw (by decide)
  · rintro rfl; exact hw (by decide)
  · rintro rfl; exact State.landCreg_seed (s.atLanding ⟨fr, due, run, pri, .creg 28 v, 0⟩) v
  · rintro j rfl hj
    exact (hw (by omega)).trans (cregWrite_loop c hj v)

end Sys2Proof.Machine

/-! SUPPORT. Slots of the lock calendar and of the engines: the first free places of a period, of which held rotations leave enough
(07 R149, R150, 15 R258). -/

namespace Sys2Proof.Machine

/-! ### The next free places of a period -/

/-- The first `n` of the places `S`, `S + p`, `S + 2p` and so on that `ok` allows, among the first `fuel`. -/
def pickFrom (ok : Int → Bool) (p : Int) : Nat → Nat → Int → List Int
  | 0, _, _ => []
  | _, 0, _ => []
  | fuel + 1, n + 1, S => if ok S then S :: pickFrom ok p fuel n (S + p) else pickFrom ok p fuel (n + 1) (S + p)

theorem pickSlots_eq_pickFrom (lk : Nat) (out : Bool) (held : List Int) (fuel : Nat) : ∀ (n : Nat) (S : Int),
    pickSlots lk out held fuel n S = pickFrom (fun u => rotHeld lk out u && !held.contains u) (slotPeriod out).1 fuel n S := by
  induction fuel with
  | zero => intro n S; rfl
  | succ fuel ih =>
    intro n S
    cases n with
    | zero => rfl
    | succ n => simp only [pickSlots, pickFrom, ih]

theorem pickEngine_eq_pickFrom (c lk : Nat) (held : List Int) (fuel : Nat) : ∀ (n : Nat) (T : Int),
    pickEngine c lk held fuel n T = pickFrom (fun u => bit lk (u / 64 % 4).toNat && !held.contains u) 64 fuel n T := by
  induction fuel with
  | zero => intro n T; rfl
  | succ fuel ih =>
    intro n T
    cases n with
    | zero => rfl
    | succ n => simp only [pickEngine, pickFrom, ih]

section
variable {ok : Int → Bool} {p : Int}

/-- Every place picked is allowed, and is one of the places. -/
theorem mem_pickFrom (fuel : Nat) : ∀ {n : Nat} {S u : Int}, u ∈ pickFrom ok p fuel n S → ok u = true ∧ ∃ i : Nat, u = S + p * i := by
  induction fuel with
  | zero => intro n S u h; cases h
  | succ fuel ih =>
    intro n S u h
    cases n with
    | zero => cases h
    | succ n =>
      have later {m : Nat} (hm : u ∈ pickFrom ok p fuel m (S + p)) : ok u = true ∧ ∃ i : Nat, u = S + p * i := by
        obtain ⟨hok, i, hi⟩ := ih hm
        exact ⟨hok, i + 1, by rw [hi]; push_cast; ring⟩
      rw [pickFrom] at h
      split at h
      next hS =>
        rcases List.mem_cons.1 h with rfl | h
        · exact ⟨hS, 0, by simp⟩
        · exact later h
      next => exact later h

theorem le_of_mem_pickFrom (hp : 0 < p) {fuel n : Nat} {S u : Int} (h : u ∈ pickFrom ok p fuel n S) : S ≤ u := by
  obtain ⟨-, i, rfl⟩ := mem_pickFrom fuel h
  have := Int.mul_nonneg hp.le (Int.natCast_nonneg i)
  omega

/-- The places are picked in order. -/
theorem pairwise_pickFrom (hp : 0 < p) (fuel : Nat) : ∀ (n : Nat) (S : Int), (pickFrom ok p fuel n S).Pairwise (· < ·) := by
  induction fuel with
  | zero => intro n S; exact .nil
  | succ fuel ih =>
    intro n S
    cases n with
    | zero => exact .nil
    | succ n =>
      rw [pickFrom]
      split
      · exact .cons (fun u hu => by have := le_of_mem_pickFrom hp hu; omega) (ih _ _)
      · exact ih _ _

/-- No allowed place below one picked is passed over. -/
theorem mem_pickFrom_of_lt (hp : 0 < p) (fuel : Nat) : ∀ {n : Nat} {S v : Int} {i : Nat}, ok (S + p * i) = true →
    v ∈ pickFrom ok p fuel n S → S + p * i < v → S + p * i ∈ pickFrom ok p fuel n S := by
  induction fuel with
  | zero => intro n S v i _ h; cases h
  | succ fuel ih =>
    intro n S v i hok h hlt
    cases n with
    | zero => cases h
    | succ n =>
      rw [pickFrom] at h ⊢
      cases i with
      | zero =>
        rw [if_pos (by simpa using hok)]
        simp
      | succ i =>
        have hi : S + p * ((i + 1 : Nat) : Int) = S + p + p * i := by push_cast; ring
        have hnn := Int.mul_nonneg hp.le (Int.natCast_nonneg i)
        rw [hi] at hok hlt ⊢
        split at h
        next hS =>
          rw [if_pos hS]
          rcases List.mem_cons.1 h with rfl | h
          · omega
          · exact List.mem_cons_of_mem _ (ih hok h hlt)
        next hS =>
          rw [if_neg hS]
          exact ih hok h hlt

/-- There are `n` of them when the first `fuel` places hold `n` allowed ones. -/
theorem length_pickFrom (fuel : Nat) : ∀ {n : Nat} {S : Int}, n ≤ (List.range fuel).countP (fun i : Nat => ok (S + p * i)) →
    (pickFrom ok p fuel n S).length = n := by
  induction fuel with
  | zero => intro n S h; simpa [pickFrom, eq_comm] using h
  | succ fuel ih =>
    intro n S h
    have hcount : (List.range (fuel + 1)).countP (fun i : Nat => ok (S + p * i))
        = (List.range fuel).countP (fun i : Nat => ok (S + p + p * i)) + if ok S then 1 else 0 := by
      rw [List.range_succ_eq_map, List.countP_cons, List.countP_map]
      congr 1
      · refine List.countP_congr fun i _ => ?_
        simp only [Function.comp_apply, Nat.succ_eq_add_one, Nat.cast_add, Nat.cast_one]
        rw [show S + p * ((i : Int) + 1) = S + p + p * i by ring]
      · simp
    rw [hcount] at h
    cases n with
    | zero => rfl
    | succ n =>
      rw [pickFrom]
      split
      next hS =>
        rw [if_pos hS] at h
        rw [List.length_cons, ih (by omega)]
      next hS =>
        rw [if_neg hS] at h
        exact ih (by omega)

end

/-- Where every run of `q` places has one of a rotation held, `q * m` places have `m`. -/
theorem le_countP_places {rot : Int → Bool} {p : Int} {q : Nat} (h : ∀ S : Int, ∃ i : Nat, i < q ∧ rot (S + p * i) = true)
    (m : Nat) (S : Int) : m ≤ (List.range (q * m)).countP (fun i : Nat => rot (S + p * i)) := by
  induction m with
  | zero => simp
  | succ m ih =>
    obtain ⟨i, hi, hr⟩ := h (S + p * (q * m : Nat))
    have hpos : 0 < ((List.range q).map (q * m + ·)).countP (fun i : Nat => rot (S + p * i)) := by
      refine List.countP_pos_iff.2 ⟨q * m + i, List.mem_map.2 ⟨i, List.mem_range.2 hi, rfl⟩, ?_⟩
      rw [show S + p * ((q * m + i : Nat) : Int) = S + p * (q * m : Nat) + p * i by push_cast; ring]
      exact hr
    rw [Nat.mul_succ, List.range_add, List.countP_append]
    omega

/-- A list takes no more places than it has entries. -/
theorem countP_contains_le (held : List Int) {p : Int} (hp : p ≠ 0) (S : Int) (fuel : Nat) :
    (List.range fuel).countP (fun i : Nat => held.contains (S + p * i)) ≤ held.length := by
  rw [List.countP_eq_length_filter, ← List.length_map (f := fun i : Nat => S + p * (i : Int))]
  refine (List.Nodup.subperm ?_ fun u hu => ?_).length_le
  · refine (List.nodup_range.filter _).map fun i j hij => ?_
    have : p * (i : Int) = p * j := by simpa using hij
    exact_mod_cast mul_left_cancel₀ hp this
  · obtain ⟨i, hi, rfl⟩ := List.mem_map.1 hu
    simpa using (List.mem_filter.1 hi).2

theorem countP_le_countP_and_not_add {α : Type} (a b : α → Bool) (l : List α) :
    l.countP a ≤ l.countP (fun x => a x && !b x) + l.countP b := by
  induction l with
  | nil => simp
  | cons x l ih =>
    simp only [List.countP_cons]
    cases a x <;> cases b x <;> simp <;> omega

/-- Enough places are looked at: `n` of a rotation held are free of a list. -/
theorem length_pickFrom_of_rot {rot : Int → Bool} {p : Int} (hp : p ≠ 0) {q : Nat}
    (h : ∀ S : Int, ∃ i : Nat, i < q ∧ rot (S + p * i) = true) (held : List Int) (n : Nat) (S : Int) :
    (pickFrom (fun u => rot u && !held.contains u) p (q * (n + held.length + 2)) n S).length = n := by
  refine length_pickFrom _ ?_
  have hr := le_countP_places h (n + held.length + 2) S
  have hc := countP_contains_le held hp S (q * (n + held.length + 2))
  have hsum := countP_le_countP_and_not_add (fun i : Nat => rot (S + p * i)) (fun i : Nat => held.contains (S + p * i))
    (List.range (q * (n + held.length + 2)))
  omega

/-! ### Slots of the lock and of the engines -/

/-- A lock that is not zero holds a rotation. -/
theorem exists_testBit_of_lk {lk : Nat} (h : lk % 16 ≠ 0) : ∃ b : Nat, b < 4 ∧ lk.testBit b = true := by
  by_contra hc
  push Not at hc
  have hb (b : Nat) (hb4 : b < 4) : lk / 2 ^ b % 2 = 0 := by
    have hne : ¬ lk / 2 ^ b % 2 = 1 := by simpa [← bit_eq_testBit, bit] using hc b hb4
    omega
  have h0 := hb 0 (by omega)
  have h1 := hb 1 (by omega)
  have h2 := hb 2 (by omega)
  have h3 := hb 3 (by omega)
  norm_num at h0 h1 h2 h3
  omega

/-- Eight periods of a core's slots have one in a rotation that LK holds. -/
theorem exists_rotHeld {lk : Nat} (h : lk % 16 ≠ 0) (out : Bool) (S : Int) :
    ∃ i : Nat, i < 8 ∧ rotHeld lk out (S + (slotPeriod out).1 * i) = true := by
  obtain ⟨b, hb, hbit⟩ := exists_testBit_of_lk h
  cases out with
  | true =>
    refine ⟨((b - S / 256) % 4).toNat, by omega, ?_⟩
    rw [rotHeld, slotPeriod, if_pos rfl, bit_eq_testBit, show ((S + 256 * (((b - S / 256) % 4).toNat : Int)) / 256 % 4).toNat = b by omega]
    exact hbit
  | false =>
    refine ⟨2 * ((b - S / 128) % 4).toNat, by omega, ?_⟩
    rw [rotHeld, slotPeriod, if_neg (by simp), bit_eq_testBit,
      show ((S + 64 * ((2 * ((b - S / 128) % 4).toNat : Nat) : Int)) / 128 % 4).toNat = b by omega]
    exact hbit

theorem exists_engineRot {lk : Nat} (h : lk % 16 ≠ 0) (S : Int) :
    ∃ i : Nat, i < 4 ∧ bit lk ((S + 64 * i) / 64 % 4).toNat = true := by
  obtain ⟨b, hb, hbit⟩ := exists_testBit_of_lk h
  refine ⟨((b - S / 64) % 4).toNat, by omega, ?_⟩
  rw [bit_eq_testBit, show ((S + 64 * (((b - S / 64) % 4).toNat : Int)) / 64 % 4).toNat = b by omega]
  exact hbit

theorem Ctx.lk_lt (c : Ctx) : c.lk < 16 := fld_lt ..

/-- The places picked: how many, in which order, which, and none between them that is not. -/
theorem pickFrom_spec {ok : Int → Bool} {p : Int} (hp : 0 < p) {fuel n : Nat} {S : Int} {owned : Int → Prop}
    (hlen : (pickFrom ok p fuel n S).length = n) (howned : ∀ u, owned u ↔ ok u = true ∧ ∃ i : Nat, u = S + p * i) :
    let l := pickFrom ok p fuel n S
    l.length = n ∧ l.Pairwise (· < ·) ∧ (∀ u ∈ l, owned u) ∧ ∀ u v, owned u → v ∈ l → u < v → u ∈ l := by
  refine ⟨hlen, pairwise_pickFrom hp _ _ _, fun u hu => (howned u).2 (mem_pickFrom _ hu), fun u v hu hv hlt => ?_⟩
  obtain ⟨hok, i, rfl⟩ := (howned u).1 hu
  exact mem_pickFrom_of_lt hp _ hok hv hlt

theorem map_sub_cancel (l : List Int) (a : Int) : (l.map fun u => u - a).map (fun u => u + a) = l := by
  rw [List.map_map]
  refine (List.map_congr_left fun u _ => ?_).trans (List.map_id l)
  simp only [Function.comp_apply, id_eq]
  omega

theorem map_sub_add_cancel (l : List Int) (a b : Int) : (l.map fun u => u - a + b).map (fun u => u + (a - b)) = l := by
  rw [List.map_map]
  refine (List.map_congr_left fun u _ => ?_).trans (List.map_id l)
  simp only [Function.comp_apply, id_eq]
  omega

/-- The places of period `p` at `c` that have not ended at `T`, from the one in progress or the next on. -/
theorem places_iff {p : Int} (hp : p = 64 ∨ p = 256) (c T u : Int) :
    let b := T - (T - c) % p
    (u - c) % p = 0 ∧ T < u + 8 ↔ ∃ i : Nat, u = (if T - b < 8 then b else b + p) + p * i := by
  intro b
  constructor
  · rintro ⟨hmod, hT⟩
    refine ⟨((u - if T - b < 8 then b else b + p) / p).toNat, ?_⟩
    rcases hp with rfl | rfl <;> split <;> omega
  · rintro ⟨i, rfl⟩
    rcases hp with rfl | rfl <;> split <;> omega

theorem slotPeriod_eq (out : Bool) : slotPeriod out = (if out then 256 else 64, if out then 256 else 128) := by cases out <;> rfl

/-- The engine slots that earlier commands of the context hold, `off` later. -/
def commandSlots (s : State) (off : Int) : List Int :=
  ((s.ctx s.fr.x).commands.filter fun k => k.hnd == s.fr.hnd).flatMap fun k => k.slots.map fun u => u + off

theorem mem_commandSlots {s : State} {off u : Int} :
    u ∈ commandSlots s off ↔ ∃ k ∈ (s.ctx s.fr.x).commands, k.hnd = s.fr.hnd ∧ u - off ∈ k.slots := by
  simp only [commandSlots, List.mem_flatMap, List.mem_filter, beq_iff_eq, List.mem_map, and_assoc]
  refine exists_congr fun k => and_congr_right fun _ => and_congr_right fun _ => ⟨?_, fun h => ⟨_, h, by omega⟩⟩
  rintro ⟨v, hv, rfl⟩
  rwa [add_sub_cancel_right]

/-- The places at `c` of a period of 64 from `T` on. -/
theorem enginePlaces_iff (c T u : Int) (hc : 0 ≤ c ∧ c < 64) : u % 64 = c ∧ T ≤ u ↔ ∃ i : Nat, u = T + (c - T) % 64 + 64 * i := by
  constructor
  · rintro ⟨hmod, hT⟩
    exact ⟨((u - (T + (c - T) % 64)) / 64).toNat, by omega⟩
  · rintro ⟨i, rfl⟩
    omega

/-- Settles O21: the slots are the first free places of held rotations from the slot in progress on, or from S on. -/
theorem slotsAreOfHeldRotations : Obligations.SlotsAreOfHeldRotations := by
  unfold Obligations.SlotsAreOfHeldRotations
  refine ⟨fun lk n out s hlk => ?_, fun n S s => ?_⟩
  · extract_lets x T p owned l
    have hl : l = pickFrom (fun u => rotHeld lk out u && !(heldSlots s x s.fr.hnd out).contains u) (slotPeriod out).1
        (8 * (n + (heldSlots s x s.fr.hnd out).length + 2)) n
        (let b := slotBefore (coreOf x) out T; if T - b < 8 then b else b + (slotPeriod out).1) := by
      rw [← pickSlots_eq_pickFrom]
      exact map_sub_add_cancel _ _ _
    rw [hl]
    have hp : 0 < (slotPeriod out).1 := by cases out <;> decide
    refine pickFrom_spec hp (length_pickFrom_of_rot hp.ne' (exists_rotHeld hlk out) _ _ _) fun u => ?_
    have hplace := places_iff (p := p) (by unfold p; cases out <;> simp) (8 * ((coreOf x : Int) % (p / 8))) T u
    have hfirst : (slotPeriod out).1 = p := congrArg Prod.fst (slotPeriod_eq out)
    have hrot : (slotPeriod out).2 = if out then 256 else 128 := congrArg Prod.snd (slotPeriod_eq out)
    simp only [owned, slotBefore, hfirst, rotHeld, hrot, bit_eq_testBit, Bool.and_eq_true, Bool.not_eq_true', List.contains_eq_mem,
      decide_eq_false_iff_not]
    tauto
  · extract_lets x c off owned l
    intro hlk
    have hl : l = pickFrom (fun u => bit c.lk (u / 64 % 4).toNat && !(commandSlots s off).contains u) 64
        (4 * (n + (commandSlots s off).length + 2)) n (S + off + (16 * ((coreOf x % 4 : Nat) : Int) - (S + off)) % 64) := by
      rw [← pickEngine_eq_pickFrom (coreOf x)]
      exact map_sub_cancel _ off
    rw [hl]
    have hlk16 : c.lk % 16 ≠ 0 := by rwa [Nat.mod_eq_of_lt c.lk_lt]
    refine pickFrom_spec (p := 64) (by decide) (length_pickFrom_of_rot (by decide) (exists_engineRot hlk16) _ _ _) fun u => ?_
    have hplace := enginePlaces_iff (16 * ((coreOf x % 4 : Nat) : Int)) (S + off) u (by omega)
    rw [Int.natCast_emod] at hplace
    simp only [owned, bit_eq_testBit, Bool.and_eq_true, Bool.not_eq_true', List.contains_eq_mem, decide_eq_false_iff_not,
      mem_commandSlots, Int.natCast_emod, Nat.cast_ofNat]
    push Not
    tauto

end Sys2Proof.Machine

/-! SUPPORT. What a lock slot does (07 R150, 08 R175 to R178). -/

namespace Sys2Proof.Machine

/-! ### What a lock slot does (07 R150) -/

/-- A crossing's next slot has started. -/
def State.startNext (s : State) (x id j : Nat) : State :=
  s.updCtx x fun c => { c with crossings := c.crossings.map fun e => if e.id == id then { e with next := j + 1 } else e }

section
variable {x id : Nat} {k : Crossing} {s : State} (hk : s.crossing x id = some k)
include hk

theorem exec_lockSlot_xin {r : Nat} (h : k.kind = .xin r) : exec (.lockSlot x id) s
    = .next ((s.startNext x id k.next).inboundRead k k.next (k.slots.getD k.next 0 + 192).toNat fun n b s =>
        s.pushClk (k.slots.getD k.next 0 + 192).toNat (.reg (.v r k.next) (BitVec.ofNat 512 b) (lowBytes n))) := by
  change execLockSlot x id s = _
  unfold execLockSlot
  rw [hk]
  simp only [h]
  rfl

theorem exec_lockSlot_xinm {die : Bool} {mask r : Nat} (h : k.kind = .xinm die mask r) : exec (.lockSlot x id) s
    = .next ((s.startNext x id k.next).inboundRead k k.next (k.slots.getD k.next 0 + (if die then 232 else 200 : Nat)).toNat fun n b s =>
        (xinmTargets x (if die then .die else .clu) mask).foldl (fun s y =>
          s.pushClk (k.slots.getD k.next 0 + (if die then 232 else 200 : Nat)).toNat
            (.regAt y (.v r k.next) (BitVec.ofNat 512 b) (lowBytes n))) s) := by
  change execLockSlot x id s = _
  unfold execLockSlot
  rw [hk]
  simp only [h]
  rfl

theorem exec_lockSlot_xina {l : Nat} (h : k.kind = .xina l) : exec (.lockSlot x id) s
    = .next ((s.startNext x id k.next).inboundRead k k.next (k.slots.getD k.next 0 + 192).toNat fun n b s =>
        s.pushClk (k.slots.getD k.next 0 + 192).toNat (.landMem (k.dst + 64 * k.next) n b (allBytes n))) := by
  change execLockSlot x id s = _
  unfold execLockSlot
  rw [hk]
  simp only [h]
  rfl

theorem exec_lockSlot_xinr {ring tile cid : Nat} (h : k.kind = .xinr ring tile cid) : exec (.lockSlot x id) s
    = .next ((s.startNext x id k.next).inboundRead k k.next (k.slots.getD k.next 0 + 192).toNat fun n b s =>
        let y := s.pushClk (k.slots.getD k.next 0 + 192).toNat (.store (k.dst + 64 * k.next) n b (allBytes n)) (1 + coreOf x)
        if k.next + 1 = k.slots.length then y.pushClk (k.slots.getD k.next 0 + 192).toNat (.publish x ring cid) 3 else y) := by
  change execLockSlot x id s = _
  unfold execLockSlot
  rw [hk]
  simp only [h]
  rfl

theorem exec_lockSlot_xouta {l : Nat} (h : k.kind = .xouta l)
    (hf : (s.startNext x id k.next).failedByte (k.src + 64 * k.next) 64 = none) :
    let u := s.startNext x id k.next
    exec (.lockSlot x id) s = .next (u.pushClk (k.slots.getD k.next 0 + 160).toNat
      (.store (k.dst + 64 * k.next) 64 (u.mem.readN (k.src + 64 * k.next) 64) (allBytes 64)) 0) := by
  change execLockSlot x id s = _
  unfold State.startNext at hf ⊢
  unfold execLockSlot
  rw [hk]
  simp only [h, hf]
  rfl

theorem exec_lockSlot_xouta_failed {l b : Nat} (h : k.kind = .xouta l)
    (hf : (s.startNext x id k.next).failedByte (k.src + 64 * k.next) 64 = some b) :
    let u := s.startNext x id k.next
    exec (.lockSlot x id) s = .next (u.latchFault l (64 * k.next + b) (u.toSch (k.slots.getLastD 0 + 160).toNat)) := by
  change execLockSlot x id s = _
  unfold State.startNext at hf ⊢
  unfold execLockSlot
  rw [hk]
  simp only [h, hf]

end

section
variable {u w : State} {k : Crossing} {j v land : Nat} {f : Nat → Nat → State → State}

/-- A granule that stands in its store is read there, and what it meets in the store is counted. -/
theorem State.inboundRead_clean (hr : u.released k (k.src + 64 * j) = none) (hp : u.poisoned (k.src + 64 * j) = false)
    (he : u.granuleEcc ((k.src + 64 * j) / 64) ≠ 2) :
    u.inboundRead k j land f = f (min 64 (k.bytes - 64 * j)) (u.mem.readN (k.src + 64 * j) (min 64 (k.bytes - 64 * j)))
      (u.meetWords (State.wordsOf (k.src + 64 * j) (min 64 (k.bytes - 64 * j)))) := by
  unfold State.inboundRead
  dsimp only
  rw [hr]
  simp [hp, he]

/-- A granule that an arrival held over the freeze brings is read as it arrives (log 86). -/
theorem State.inboundRead_released {r : CxlReq} (hr : u.released k (k.src + 64 * j) = some r) (hp : r.poison = false) (hb : r.bad = false) :
    u.inboundRead k j land f = f (min 64 (k.bytes - 64 * j)) (r.data % 2 ^ (8 * min 64 (k.bytes - 64 * j))) u := by
  unfold State.inboundRead
  dsimp only
  rw [hr]
  simp [hp, hb]

/-- A granule with an uncorrectable error raises the poison-consumed fault, and its error is recorded. -/
theorem State.inboundRead_bad (hr : u.released k (k.src + 64 * j) = none) (he : u.granuleEcc ((k.src + 64 * j) / 64) = 2) :
    u.inboundRead k j land f = (u.raiseExec 11 4 (BitVec.ofNat 64 (poisonAddr (k.src + 64 * j))) (u.toSch land)).errorSlot 4
      (poisonAddr (k.src + 64 * j)) := by
  unfold State.inboundRead
  dsimp only
  rw [hr]
  simp [he]

theorem State.inboundRead_poisoned (hr : u.released k (k.src + 64 * j) = none) (he : u.granuleEcc ((k.src + 64 * j) / 64) ≠ 2)
    (hp : u.poisoned (k.src + 64 * j) = true) :
    u.inboundRead k j land f = u.raiseExec 11 4 (BitVec.ofNat 64 (poisonAddr (k.src + 64 * j))) (u.toSch land) := by
  unfold State.inboundRead
  dsimp only
  rw [hr]
  simp [he, hp]

end

/-- Settles O23: an inbound slot is a read of its granule with what the crossing's kind does of it, an outbound one a read of its latch. -/
theorem lockSlotMovesAGranule : Obligations.LockSlotMovesAGranule := by
  unfold Obligations.LockSlotMovesAGranule
  intro x id k s hk
  extract_lets j S u n key at_ clean got
  have hread {v : Nat} {w : State} (h : got v w) (land : Nat) (f : Nat → Nat → State → State) : u.inboundRead k j land f = f n v w := by
    rcases h with ⟨⟨hr, hp, he⟩, rfl, rfl⟩ | ⟨r, hr, hp, hb, rfl, rfl⟩
    · exact State.inboundRead_clean hr hp he
    · exact State.inboundRead_released hr hp hb
  refine ⟨fun v w h => ⟨fun r hkind => ?_, fun die mask r hkind => ?_, fun l hkind => ?_, fun ring tile cid hkind => ?_⟩,
    fun l hkind hf => ?_, fun l i hkind hf => ?_, fun d hd hr => ?_⟩
  · exact (exec_lockSlot_xin hk hkind).trans (congrArg _ (hread h _ _))
  · refine (exec_lockSlot_xinm hk hkind).trans (congrArg _ ((hread h _ _).trans ?_))
    cases die <;> rfl
  · exact (exec_lockSlot_xina hk hkind).trans (congrArg _ (hread h _ _))
  · exact (exec_lockSlot_xinr hk hkind).trans (congrArg _ (hread h _ _))
  · exact exec_lockSlot_xouta hk hkind hf
  · exact exec_lockSlot_xouta_failed hk hkind hf
  · intro y
    obtain ⟨f, hf⟩ : ∃ f, exec (.lockSlot x id) s = .next (u.inboundRead k j (at_ d) f) := by
      rcases hd with ⟨⟨r, hkind⟩ | ⟨l, hkind⟩ | ⟨ring, tile, cid, hkind⟩, rfl⟩ |
         ⟨⟨mask, r, hkind⟩, rfl⟩ | ⟨⟨mask, r, hkind⟩, rfl⟩
      · exact ⟨_, exec_lockSlot_xin hk hkind⟩
      · exact ⟨_, exec_lockSlot_xina hk hkind⟩
      · exact ⟨_, exec_lockSlot_xinr hk hkind⟩
      · exact ⟨_, exec_lockSlot_xinm hk hkind⟩
      · exact ⟨_, exec_lockSlot_xinm hk hkind⟩
    exact ⟨fun he => hf.trans (congrArg _ (State.inboundRead_bad hr he)),
      fun he hp => hf.trans (congrArg _ (State.inboundRead_poisoned hr he hp))⟩

end Sys2Proof.Machine

/-! SUPPORT. A freeze that takes a later request back (07 R153). -/

namespace Sys2Proof.Machine

/-- Gang 1 runs at count 10 with a freeze point there and one at 11. A landing of its member's has been noted in this cycle, and the undo
log marks the request of count 11 as made by a landing of this cycle. -/
def lateAsked : State :=
  { State.reset.setGang 1 { live := true, run := .running, members := [0], sch := 10, reqs := [⟨10, .clock⟩, ⟨11, .clock⟩] } with
    phase := .perform
    fr := { id := 1 }
    landed := [⟨⟨{}, 10, 0, 0, .lpop, 0⟩, 0, 0, {}⟩]
    undo := [⟨0, false, 0, .asked 1 11 .clock, 1⟩] }

theorem reqs_freezeDue_lateAsked : ((lateAsked.freezeDue 1).gang 1).reqs = [] := by decide +kernel

/-- Refutes O46, in its clause on the requests a freeze leaves. In the phase that performs landings a freeze holds what the cycle has landed,
and takes back what the undo log marks as made by those landings: a request of a later freeze point among them goes too, where the
statement keeps every request of a later count. In `lateAsked` the request of count 11 is such a one. -/
theorem not_gangsFreezeAndResume : ¬ Obligations.GangsFreezeAndResume := by
  unfold Obligations.GangsFreezeAndResume
  intro h
  obtain ⟨hfreeze, -⟩ := h lateAsked
  obtain ⟨t, ht, -, -, -, -, hreqs, -⟩ := hfreeze (by decide) (by decide +kernel) (by decide +kernel)
    ⟨⟨10, .clock⟩, by decide +kernel, fun x ids hw => by cases hw⟩
  cases ht
  have hkept : [] = (lateAsked.gang 1).reqs.filter fun r => decide ((lateAsked.gang 1).sch < r.F) :=
    reqs_freezeDue_lateAsked.symm.trans hreqs
  exact absurd hkept (by decide +kernel)

end Sys2Proof.Machine

/-! SUPPORT. Scalar results (08 R164, R165): what each operation on 64-bit words gives as numbers. -/

namespace Sys2Proof.Machine

/-! ### Words as numbers (08 R164, R165) -/

section
variable (x y : Word)

theorem getLsbD_and_not_word (i : Nat) : (x &&& ~~~y).getLsbD i = (x.getLsbD i && !y.getLsbD i) := by
  rw [BitVec.getLsbD_and, BitVec.getLsbD_not]
  by_cases hi : i < 64
  · simp [hi]
  · simp [BitVec.getLsbD_of_ge x i (not_lt.1 hi)]

theorem toNat_sub_add : ((x - y).toNat + y.toNat) % 2 ^ 64 = x.toNat := by bv_omega

theorem toNat_mulHigh_unsigned : (mulHigh true x y).toNat = x.toNat * y.toNat / 2 ^ 64 := by
  have hlt : x.toNat * y.toNat / 2 ^ 64 < 2 ^ 64 :=
    Nat.div_lt_of_lt_mul (Nat.mul_lt_mul'' x.isLt y.isLt)
  rw [mulHigh, if_pos rfl, BitVec.toNat_ofNat, Nat.mod_eq_of_lt hlt]

/-- A word as a signed number lies in the range of its 64 bits. -/
theorem abs_toInt_le : |x.toInt| ≤ 2 ^ 63 := by
  have hlo := BitVec.le_toInt x
  have hhi := BitVec.toInt_lt (x := x)
  rw [abs_le]
  constructor <;> omega

theorem toInt_mulHigh_signed : (mulHigh false x y).toInt = x.toInt * y.toInt / 2 ^ 64 := by
  have habs : |x.toInt * y.toInt| ≤ 2 ^ 63 * 2 ^ 63 := by
    rw [abs_mul]
    exact mul_le_mul (abs_toInt_le x) (abs_toInt_le y) (abs_nonneg _) (by norm_num)
  obtain ⟨hlo, hhi⟩ := abs_le.1 habs
  rw [mulHigh, if_neg (by simp), BitVec.toInt_ofInt, Int.bmod_eq_of_le] <;> omega

theorem toNat_add_ofInt (imm : Int) : ((x + BitVec.ofInt 64 imm).toNat : Int) = (x.toNat + imm) % 2 ^ 64 := by
  rw [BitVec.toNat_add, Int.natCast_emod, Nat.cast_add, BitVec.toNat_ofInt]
  omega

theorem toNat_ofInt_word (imm : Int) : ((BitVec.ofInt 64 imm).toNat : Int) = imm % 2 ^ 64 := by
  rw [BitVec.toNat_ofInt]
  omega

/-- The 16 bits that LIH appends lie below the bits shifted up. -/
theorem toNat_shiftLeft_or {imm : Nat} (h : imm < 2 ^ 16) :
    (x <<< 16 ||| BitVec.ofNat 64 imm).toNat = x.toNat * 2 ^ 16 % 2 ^ 64 + imm := by
  have hmul : x.toNat * 2 ^ 16 % 2 ^ 64 = 2 ^ 16 * (x.toNat % 2 ^ 48) := by omega
  rw [BitVec.toNat_or, BitVec.toNat_shiftLeft, Nat.shiftLeft_eq, BitVec.toNat_ofNat, hmul,
    Nat.mod_eq_of_lt (h.trans (by norm_num)), ← Nat.two_pow_add_eq_or_of_lt h]

/-- A left shift is a product with a power of two, also by 64 or more. -/
theorem toNat_shl (n : Nat) : (if 64 ≤ n then 0 else x <<< n : Word).toNat = x.toNat * 2 ^ n % 2 ^ 64 := by
  split
  · next h =>
    obtain ⟨k, rfl⟩ := Nat.exists_eq_add_of_le h
    rw [pow_add, ← mul_assoc, mul_right_comm, Nat.mul_mod_left]
    rfl
  · rw [BitVec.toNat_shiftLeft, Nat.shiftLeft_eq]

theorem toNat_shr (n : Nat) : (if 64 ≤ n then 0 else x >>> n : Word).toNat = x.toNat / 2 ^ n := by
  split
  · next h => exact (Nat.div_eq_of_lt (x.isLt.trans_le (Nat.pow_le_pow_right (by norm_num) h))).symm
  · rw [BitVec.toNat_ushiftRight, Nat.shiftRight_eq_div_pow]

/-- An arithmetic right shift is a quotient, also by 64 or more, where copies of the sign bit are left. -/
theorem toInt_sra (n : Nat) : (if 64 ≤ n then (if x.msb then BitVec.allOnes 64 else 0) else x.sshiftRight n : Word).toInt
    = x.toInt / 2 ^ n := by
  split
  · next h =>
    have hpow : (2 : Int) ^ 63 < 2 ^ n := pow_lt_pow_right₀ (by norm_num) (by omega)
    obtain ⟨hlo, hhi⟩ := abs_le.1 (abs_toInt_le x)
    have hmsb : x.msb = true ↔ x.toInt < 0 := by rw [BitVec.msb_eq_toInt, decide_eq_true_iff]
    split
    · next hneg => exact (Int.ediv_eq_neg_one_of_neg_of_le (hmsb.1 hneg) (by omega)).symm
    · next hpos => exact (Int.ediv_eq_zero_of_lt (not_lt.1 (mt hmsb.2 hpos)) (by omega)).symm
  · rw [BitVec.toInt_sshiftRight, Int.shiftRight_eq_div_pow]
    norm_cast

theorem toNat_min_unsigned : (if wordLt true y x then y else x).toNat = min x.toNat y.toNat := by
  simp only [wordLt, if_true, BitVec.ult, decide_eq_true_eq]
  split <;> omega

theorem toInt_min_signed : (if wordLt false y x then y else x).toInt = min x.toInt y.toInt := by
  simp only [wordLt, Bool.false_eq_true, if_false, BitVec.slt, decide_eq_true_eq]
  split <;> omega

theorem toNat_max_unsigned : (if wordLt true x y then y else x).toNat = max x.toNat y.toNat := by
  simp only [wordLt, if_true, BitVec.ult, decide_eq_true_eq]
  split <;> omega

theorem toInt_max_signed : (if wordLt false x y then y else x).toInt = max x.toInt y.toInt := by
  simp only [wordLt, Bool.false_eq_true, if_false, BitVec.slt, decide_eq_true_eq]
  split <;> omega

theorem toNat_clz_word : (BitVec.ofNat 64 (clzN 64 x.toNat)).toNat = clzN 64 x.toNat := by
  rw [BitVec.toNat_ofNat, Nat.mod_eq_of_lt ((clzN_le ..).trans_lt (by norm_num))]

theorem toNat_popc_word : (BitVec.ofNat 64 (popN 64 x.toNat)).toNat = ((List.range 64).filter x.getLsbD).length := by
  rw [BitVec.toNat_ofNat, Nat.mod_eq_of_lt ((popN_le ..).trans_lt (by norm_num)), popN_eq_length_filter]
  rfl

/-- Equal signed values are equal words. -/
theorem toInt_beq : (x.toInt == y.toInt) = (x == y) := by
  rw [Bool.eq_iff_iff, beq_iff_eq, beq_iff_eq, BitVec.toInt_inj]

end

/-! ### The instructions -/

/-- Settles O1: each instruction is a scalar slot whose value has the result above. -/
theorem scalarResults : Obligations.ScalarResults := by
  unfold Obligations.ScalarResults
  refine ⟨fun g d a b s => ?_, fun g d a b s => ?_, fun g d a b c s => ?_⟩
  · intro x y lands
    exact ⟨⟨_, rfl, BitVec.toNat_add ..⟩, ⟨_, rfl, toNat_sub_add x y⟩, ⟨_, rfl, BitVec.toNat_mul ..⟩,
      ⟨_, rfl, toNat_mulHigh_unsigned x y⟩, ⟨_, rfl, toInt_mulHigh_signed x y⟩, fun imm => ⟨_, rfl, toNat_add_ofInt x imm⟩,
      fun imm => ⟨_, rfl, toNat_ofInt_word imm⟩, fun imm h => ⟨_, rfl, toNat_shiftLeft_or _ h⟩, rfl⟩
  · intro x y lands
    exact ⟨⟨_, rfl, fun i => BitVec.getLsbD_and⟩, ⟨_, rfl, fun i => BitVec.getLsbD_or⟩, ⟨_, rfl, fun i => BitVec.getLsbD_xor⟩,
      ⟨_, rfl, getLsbD_and_not_word x y⟩, ⟨_, rfl, toNat_shl x y.toNat⟩,
      ⟨_, rfl, toNat_shr x y.toNat⟩, ⟨_, rfl, toInt_sra x y.toNat⟩⟩
  · intro x y lands
    refine ⟨⟨_, rfl, toNat_min_unsigned x y⟩, ⟨_, rfl, toInt_min_signed x y⟩, ⟨_, rfl, toNat_max_unsigned x y⟩,
      ⟨_, rfl, toInt_max_signed x y⟩, ⟨_, rfl, ?_⟩, ⟨_, rfl, toNat_popc_word x⟩, rfl, fun k => ?_⟩
    · rw [toNat_clz_word x]
      exact ⟨clzN_le .., clzN_bounds x.isLt⟩
    · cases k with
      | eq => rw [← toInt_beq]; rfl
      | ne => rw [bne, ← toInt_beq]; rfl
      | _ => rfl

end Sys2Proof.Machine

/-! SUPPORT. Sequencing: transfers, loops, the end of a task, flags, waits and traps (08 R158 to R163, R179 to R182, R186). -/

namespace Sys2Proof.Machine

/-- What a slot that reads its guard once does may be given by any equal state. -/
theorem next_once_congr {g : Guard} {s t u : State} (h : t = u) : (.next (once g s t) : Result) = .next (once g s u) :=
  congrArg _ (congrArg _ h)

/-! ### Transfers (08 R158, R159) -/

/-- The state after a taken transfer to `target`. -/
def State.transferred (s : State) (target : Nat) : State :=
  { s.setCtx s.fr.x { s.ctx s.fr.x with xfers := (s.ctx s.fr.x).xfers ++ [(s.fr.t + 3, target)] } with
    undo := ⟨s.fr.x, s.fr.hnd, s.fr.ord, .xfer (s.fr.t + 3) target, 0⟩ :: s.undo }

theorem State.transfer_of_in {s : State} {target : Nat} (h : (s.ctx s.fr.x).bundleIn target = true) :
    s.transfer target = s.transferred target := by
  simp only [State.transfer, h]
  rfl

theorem State.transfer_of_out {s : State} {target : Nat} (h : (s.ctx s.fr.x).bundleIn target = false) :
    s.transfer target = s.privilege 1 := by
  simp [State.transfer, h]

/-- A register names a target by its low 11 bits, the bits above being zero. -/
theorem transferReg_of_lt {s : State} {v : Word} (h : v.toNat < 2 ^ 11) : transferReg s v = s.transfer v.toNat := by
  rw [transferReg, if_neg (not_not.2 (Nat.div_eq_of_lt h))]

theorem transferReg_of_le {s : State} {v : Word} (h : 2 ^ 11 ≤ v.toNat) : transferReg s v = s.privilege 3 := by
  rw [transferReg, if_pos (Nat.div_pos h (by norm_num)).ne']

theorem exec_br (g : Guard) (target : Nat) (s : State) : exec (.br g target) s = .next (once g s (s.transfer target)) := rfl

theorem exec_bri (g : Guard) (a : Nat) (s : State) : exec (.bri g a) s = .next (once g s (transferReg s (s.sget a))) := rfl

theorem exec_ret (g : Guard) (s : State) : exec (.ret g) s = .next (once g s (transferReg s (s.sget 31))) := rfl

theorem exec_call_of_in {g : Guard} {target : Nat} {s : State} (h : (s.ctx s.fr.x).bundleIn target = true) : exec (.call g target) s
    = .next (once g s ((s.transferred target).landS 31 (BitVec.ofNat 64 (s.fr.addr + 3)) (s.fr.t + 1))) := by
  change execCall g target s = _
  rw [execCall, onceSlot_eq, h, State.transfer_of_in h]
  rfl

theorem exec_call_of_out {g : Guard} {target : Nat} {s : State} (h : (s.ctx s.fr.x).bundleIn target = false) :
    exec (.call g target) s = .next (once g s (s.privilege 1)) := by
  change execCall g target s = _
  rw [execCall, onceSlot_eq, h]
  rfl

/-- Settles O24: a transfer is taken by `State.transfer`, from a register by `transferReg`. -/
theorem transfersAfterTwoDelayBundles : Obligations.TransfersAfterTwoDelayBundles := by
  unfold Obligations.TransfersAfterTwoDelayBundles
  intro g target a s c v r goes
  refine ⟨fun h => ⟨?_, exec_call_of_in h⟩, fun h => ⟨?_, exec_call_of_out h⟩, fun hv h => ?_, fun hr h => ?_, fun hv => ?_,
    fun hv h => ?_, fun hr => ?_, fun hr h => ?_, by decide, by decide⟩
  · rw [exec_br, State.transfer_of_in h]
    rfl
  · rw [exec_br, State.transfer_of_out h]
  · rw [exec_bri, transferReg_of_lt hv, State.transfer_of_in h]
    rfl
  · rw [exec_ret, transferReg_of_lt hr, State.transfer_of_in h]
    rfl
  · rw [exec_bri, transferReg_of_le hv]
  · rw [exec_bri, transferReg_of_lt hv, State.transfer_of_out h]
  · rw [exec_ret, transferReg_of_le hr]
  · rw [exec_ret, transferReg_of_lt hr, State.transfer_of_out h]

/-! ### Loops (08 R160 to R162) -/

section
variable {g : Guard} {s : State}

theorem exec_loop_of_room {a imm : Nat} (h : (s.ctx s.fr.x).lstk.length < 6) : exec (.loop g a imm) s
    = .next (once g s (s.push (s.fr.t + 1) (.lpush ((s.fr.addr + 1) % 2048) (loopCount s a imm)) 0)) := by
  change execLoop g a imm s = _
  rw [execLoop, onceSlot_eq, if_neg (Nat.not_le.2 h)]

theorem exec_loop_of_full {a imm : Nat} (h : 6 ≤ (s.ctx s.fr.x).lstk.length) :
    exec (.loop g a imm) s = .next (once g s (s.raiseIssue 12 0)) := by
  change execLoop g a imm s = _
  rw [execLoop, onceSlot_eq, if_pos h]

/-- The bases rotated by an ENDL, to land at the next count. -/
def State.turned (s : State) : State :=
  (s.push (s.fr.t + 1) (.creg 4 (BitVec.ofNat 64 (((s.ctx s.fr.x).rbv + 15) % 16))) 0).push (s.fr.t + 1)
    (.creg 5 (BitVec.ofNat 64 (((s.ctx s.fr.x).rbp + 7) % 8))) 0

/-- The way back to a loop's head, of a state that has the frame, the context and the undo log of `s`. -/
theorem loopBack_eq {u : State} (head : Nat) (hfr : u.fr = s.fr) (hctx : u.ctx s.fr.x = s.ctx s.fr.x) (hundo : u.undo = s.undo) :
    loopBack u head = if s.fr.re = true then
        { u.setCtx s.fr.x { s.ctx s.fr.x with xfers := (s.fr.t + 1, head) :: (s.ctx s.fr.x).xfers } with
          undo := ⟨s.fr.x, s.fr.hnd, s.fr.ord, .xfer (s.fr.t + 1) head, 0⟩ :: s.undo }
      else u.setCtx s.fr.x { s.ctx s.fr.x with pc := head, lb := true } := by
  simp only [loopBack, State.updCtx, hfr, hctx, hundo]

theorem exec_endl_of_empty (h : (s.ctx s.fr.x).lstk = []) : exec (.endl g) s = .next (once g s (s.raiseIssue 12 1)) := by
  change execEndl g s = _
  simp only [execEndl, onceSlot_eq, h]
  rfl

theorem exec_endl_of_more {head cnt : Nat} (h : (s.ctx s.fr.x).lstk.getLast? = some (head, cnt)) (hcnt : 1 < cnt) : exec (.endl g) s
    = .next (once g s (loopBack (s.turned.push (s.fr.t + 1) (.creg (7 + (s.ctx s.fr.x).lstk.length)
        (BitVec.ofNat 64 (head * 2 ^ 32 + (cnt - 1)))) 0) head)) := by
  change execEndl g s = _
  simp only [execEndl, onceSlot_eq, h, if_pos hcnt]
  rfl

theorem exec_endl_of_last {head cnt : Nat} (h : (s.ctx s.fr.x).lstk.getLast? = some (head, cnt)) (hcnt : cnt ≤ 1) :
    exec (.endl g) s = .next (once g s (s.turned.push (s.fr.t + 1) .lpop 0)) := by
  change execEndl g s = _
  simp only [execEndl, onceSlot_eq, h, if_neg (Nat.not_lt.2 hcnt)]
  rfl

theorem exec_leave (g : Guard) (s : State) : exec (.leave g) s
    = .next (once g s (if (s.ctx s.fr.x).lstk.isEmpty then s.raiseIssue 12 1 else s.push (s.fr.t + 1) .lpop 0)) := rfl

end

section
variable (s : State) (fr : Frame) (due run pri : Nat)

theorem State.land_lpush (h m w : Nat) : s.land ⟨fr, due, run, pri, .lpush h m, w⟩
    = (s.atLanding ⟨fr, due, run, pri, .lpush h m, w⟩).landPushLoop h m := rfl

theorem State.land_lpop (w : Nat) : s.land ⟨fr, due, run, pri, .lpop, w⟩
    = (s.atLanding ⟨fr, due, run, pri, .lpop, w⟩).keepLoop.updCtx fr.x fun c => { c with lstk := c.lstk.dropLast } := rfl

end

/-- Settles O25: LOOP, ENDL and LEAVE push what lands in the loop stack and the bases; a landing there changes that stack alone. -/
theorem loopsCountAndRotate : Obligations.LoopsCountAndRotate := by
  unfold Obligations.LoopsCountAndRotate
  intro g a imm s c t1 n turned back
  refine ⟨fun h => exec_loop_of_room h, fun h => exec_loop_of_full h, fun head cnt h hcnt => ?_,
    fun head cnt h hcnt => exec_endl_of_last h hcnt, fun h => ⟨exec_endl_of_empty h, ?_⟩, fun h => ?_,
    fun fr due run pri head m => ?_, fun fr due run pri => ?_, by decide, by decide, by decide⟩
  · exact (exec_endl_of_more h hcnt).trans (next_once_congr (loopBack_eq head rfl rfl rfl))
  · rw [exec_leave, if_pos (List.isEmpty_iff.2 h)]
  · rw [exec_leave, if_neg (mt List.isEmpty_iff.1 h)]
  · have hst := State.atLanding_sameStores s ⟨fr, due, run, pri, .lpush head m, 0⟩
    rw [State.land_lpush]
    refine ⟨?_, hst.mem, fun y hy => ?_⟩
    · rw [← hst.ctx]
      exact State.ctx_updCtx_self ..
    · rw [← hst.ctx]
      exact State.ctx_updCtx_ne _ _ hy
  · have hst := State.atLanding_sameStores s ⟨fr, due, run, pri, .lpop, 0⟩
    rw [State.land_lpop]
    refine ⟨?_, hst.mem, fun y hy => ?_⟩
    · rw [← hst.ctx]
      exact State.ctx_updCtx_self ..
    · rw [← hst.ctx]
      exact State.ctx_updCtx_ne _ _ hy

end Sys2Proof.Machine

/-! SUPPORT. The end of a task, flags, waits, fences, traps and marks (08 R163, R179 to R182, R186). -/

namespace Sys2Proof.Machine

/-! ### Flags (08 R179, R180) -/

/-- The state after an END. -/
theorem exec_endTask (g : Guard) (s : State) : exec (.endTask g) s = .next (once g s { s.setCtx s.fr.x { s.ctx s.fr.x with
      ended := some ((if s.fr.hnd then (s.gangOf s.fr.x).F else s.fr.t) + 64)
      handler := (s.ctx s.fr.x).handler.map fun h => { h with live := false } } with
    undo := ⟨s.fr.x, s.fr.hnd, s.fr.ord, .ended (s.ctx s.fr.x).ended, 0⟩ :: s.undo }) := rfl

/-- The latest performing count of what a SETF waits for: static accesses of its context in its mode, and of the router program that it
started. -/
def State.performedBy (s : State) : Nat :=
  let c := s.ctx s.fr.x
  let r := (s.clu (clusterOf (coreOf s.fr.x))).router
  max (if s.fr.hnd then c.perfH else c.perfP) (if r.x = s.fr.x ∧ r.hnd = s.fr.hnd then r.perfP else 0)

section
variable {g : Guard} {sc : Scope} {f : FlagFile} {s : State} (hf : flagFile s.fr.x sc = some f)
include hf

theorem exec_setf (n : Nat) : let due := max (s.fr.t + (flagLat f).1) (s.performedBy + 1)
    exec (.setf g sc n) s = .next (once g s ((s.push due (.flag f n true 0 true) 1).noteEff due)) := by
  intro due
  change execSetf g sc n s = _
  simp only [execSetf, onceSlot_eq, hf, due, State.performedBy, Bool.and_eq_true, beq_iff_eq]

theorem exec_clrf (n : Nat) : exec (.clrf g sc n) s
    = .next (once g s ((s.push (s.fr.t + (flagLat f).1) (.flag f n false 0 false) 0).noteEff (s.fr.t + (flagLat f).1))) := by
  change execClrf g sc n s = _
  simp only [execClrf, onceSlot_eq, hf]

theorem exec_tstf (pp n : Nat) : exec (.tstf g pp sc n) s = .next (once g s (if (flagLat f).2 = 0 then readFlag s (2 * pp) f n s.fr.t
    else (s.push (s.fr.t + (flagLat f).2) (.readFlag (2 * pp) s.fr.rbp f n) 1).noteEff (s.fr.t + (flagLat f).2 + 10))) := by
  change execTstf g pp sc n s = _
  simp only [execTstf, onceSlot_eq, hf]

end

/-! ### The perform of a flag change (08 R179, 15 R255) -/

/-- The number of flags of a file. -/
def FlagFile.width : FlagFile → Nat
  | .core _ => 16
  | _ => 64

theorem getLsbD_set_bit {w n : Nat} (b : BitVec w) (v : Bool) (hn : n < w) (m : Nat) :
    (if v then b ||| BitVec.ofNat w (2 ^ n) else b &&& ~~~BitVec.ofNat w (2 ^ n)).getLsbD m = if m = n then v else b.getLsbD m := by
  have hbit : (BitVec.ofNat w (2 ^ n)).getLsbD m = decide (m = n) := by
    rw [BitVec.getLsbD_ofNat, Nat.testBit_two_pow]
    by_cases h : n = m <;> simp [h, eq_comm]
    omega
  have hout : ¬ m < w → b.getLsbD m = false ∧ m ≠ n := fun hm => ⟨BitVec.getLsbD_of_ge b m (not_lt.1 hm), by omega⟩
  cases v with
  | true =>
    rw [if_pos rfl, BitVec.getLsbD_or, hbit]
    by_cases h : m = n <;> simp [h]
  | false =>
    rw [if_neg Bool.false_ne_true, BitVec.getLsbD_and, BitVec.getLsbD_not, hbit]
    by_cases hm : m < w
    · by_cases h : m = n <;> simp [h, hm]
    · simp [hout hm]

theorem State.flagVal_setFlag (s : State) {f : FlagFile} {n : Nat} (v : Bool) (hn : n < f.width) (h : FlagFile) (m : Nat) :
    (s.setFlag f n v).flagVal h m = if h = f ∧ m = n then v else s.flagVal h m := by
  cases f with
  | core c =>
    cases h with
    | core c' =>
      by_cases hc : c' = c
      · subst hc
        simpa [State.flagVal, State.setFlag] using getLsbD_set_bit (s.core c').flags v hn m
      · simp [State.flagVal, State.setFlag, State.core_setCore_ne s _ hc, hc]
    | _ => simp [State.flagVal, State.setFlag, State.clu]
  | clu c =>
    cases h with
    | clu c' =>
      by_cases hc : c' = c
      · subst hc
        simpa [State.flagVal, State.setFlag] using getLsbD_set_bit (s.clu c').flags v hn m
      · simp [State.flagVal, State.setFlag, State.clu_setClu_ne s _ hc, hc]
    | _ => simp [State.flagVal, State.setFlag, State.core]
  | mod =>
    cases h with
    | mod => simpa [State.flagVal, State.setFlag] using getLsbD_set_bit s.mod.flags v hn m
    | _ => simp [State.flagVal, State.setFlag, State.core, State.clu]

/-- A flag change holds no byte of the snapshot buffer. -/
theorem State.meetHeld_of_holds_none (s : State) (e : Eff) (h : ∀ p, e.act.holds e.fr.x e.fr.hnd e.fr.ord p = false) : s.meetHeld e = s := by
  simp [State.meetHeld, h]

theorem State.perform_flag (s : State) (fr : Frame) (due run pri n kind wall : Nat) (f : FlagFile) (v w : Bool) :
    let e : Eff := ⟨fr, due, run, pri, .flag f n v kind w, wall⟩
    s.perform e = if w && s.olderOpen fr then { s with fr := fr, pend := s.pend ++ [e] }
      else ({ s with fr := fr } : State).performFlag f n v kind := by
  intro e
  have hmeet : s.meetHeld e = s := State.meetHeld_of_holds_none s e fun p => by
    cases p <;> simp [e, Effect.holds]
  unfold State.perform
  rw [hmeet]
  rfl

section
variable (s : State) (f : FlagFile) (n kind : Nat) (v : Bool)

/-- A flag change keeps memory, contexts, gangs and TIDE, and a set names its setter in the module's words. -/
theorem State.performFlag_keeps : let t := s.performFlag f n v kind
    t.mem = s.mem ∧ t.ctxs = s.ctxs ∧ t.gangs = s.gangs ∧ t.tide = s.tide := by
  unfold State.performFlag State.writeFlag
  cases v <;> simp

theorem State.flagVal_performFlag (hn : n < f.width) (h : FlagFile) (m : Nat) :
    (s.performFlag f n v kind).flagVal h m = if h = f ∧ m = n then v else s.flagVal h m := by
  have hset := State.flagVal_setFlag s v hn h m
  unfold State.performFlag State.writeFlag
  cases v <;> exact hset

end

/-- Settles O26: END, SETF, CLRF and TSTF push what lands or performs at the counts of their scope, and a flag change is
`State.performFlag` once nothing older is open. -/
theorem endAndFlags : Obligations.EndAndFlags := by
  unfold Obligations.EndAndFlags
  refine ⟨fun g sc n pp f s hf => ?_, fun s fr due run pri n m kind f h v w => ?_⟩
  · intro c lat r P due last noted
    have hlat : (flagLat f).1 = lat := by cases sc <;> cases hf <;> rfl
    have hread : (flagLat f).2 = if sc = .core then 0 else lat := by cases sc <;> cases hf <;> rfl
    have hpos : lat ≠ 0 := by cases sc <;> decide
    refine ⟨exec_endTask g s, ?_, ?_, fun hsc => ?_, fun hsc => ?_⟩
    · rw [exec_setf hf, hlat]
      rfl
    · rw [exec_clrf hf, hlat]
    · rw [exec_tstf hf, hread, if_pos hsc]
      rfl
    · rw [exec_tstf hf, hread, if_neg hsc, if_neg hpos]
  · intro width hn hm e t
    have hwidth : width = FlagFile.width := by
      funext f
      cases f <;> rfl
    have ht : t = _ := State.perform_flag s fr due run pri n kind 0 f v w
    refine ⟨fun hw ho => ?_, fun ho => ?_⟩
    · rw [ht, hw, ho, Bool.and_self, if_pos rfl, ← hw]
    · have hopen : (w && s.olderOpen fr) = false := by
        cases w with
        | false => rfl
        | true => exact ho rfl
      rw [ht, hopen]
      rw [hwidth] at hn
      exact ⟨State.flagVal_performFlag _ f n kind v hn h m, State.performFlag_keeps ..⟩

end Sys2Proof.Machine

/-! SUPPORT. Waits, fences, traps, returns and marks (08 R181, R182, R186, 10 R226). -/

namespace Sys2Proof.Machine

theorem once_self (g : Guard) (s : State) : once g s s = s := ite_self s

/-! ### Freezes asked for (07 R153, 08 R181, R182) -/

section
variable {g : Guard} {s : State}

/-- A freeze request of the slot in hand, with its undo entry. -/
theorem State.ask_eq (u : State) (gi F : Nat) (why : Why) (hfr : u.fr = s.fr) (hgang : u.gang gi = s.gang gi) (hundo : u.undo = s.undo) :
    u.ask gi F why = { u.setGang gi { s.gang gi with reqs := (s.gang gi).reqs ++ [⟨F, why⟩] } with
      undo := ⟨s.fr.x, s.fr.hnd, s.fr.ord, .asked gi F why, 0⟩ :: s.undo } := by
  simp only [State.ask, State.request, State.updGang, hfr, hgang, hundo]
  rfl

theorem exec_wait_of_handler {sc : Scope} {n : Nat} (h : s.fr.hnd = true) :
    exec (.wait g sc n) s = .next (once g s (s.privilege 8)) := by
  change execWait g sc n s = _
  rw [execWait, onceSlot_eq, if_pos h]

theorem exec_wait_of_program {sc : Scope} {n : Nat} {f : FlagFile} (h : s.fr.hnd = false) (hf : flagFile s.fr.x sc = some f) :
    exec (.wait g sc n) s = .next (once g s (s.gangStop (.wait f n s.fr.x s.fr.addr s.fr.t s.issueTide false))) := by
  change execWait g sc n s = _
  simp only [execWait, onceSlot_eq, h, hf]
  rfl

theorem exec_yield (g : Guard) (s : State) : exec (.yield g) s = .next (once g s (if s.fr.hnd then s.privilege 8
    else s.ask (s.ctx s.fr.x).gang ((s.gangOf s.fr.x).reqPoint s.fr.t) (.yield (decide (s.fr.t ≤ (s.ctx s.fr.x).ydl.toNat))))) := rfl

/-- The accesses that a FENCE in hand waits for. -/
def State.fenced (s : State) : List Nat := (s.ctx s.fr.x).nonstatic.filter fun i => !s.besides.contains i

theorem exec_fence (g : Guard) (sc : Scope) (s : State) : exec (.fence g sc) s = .next (once g s (if s.fenced.isEmpty then s
    else if s.fr.hnd then s.updCtx s.fr.x fun c => { c with hwait := s.fenced }
    else s.ask (s.ctx s.fr.x).gang ((s.gangOf s.fr.x).reqPoint s.fr.t) (.fence s.fr.x s.fenced))) := rfl

end

/-- What a WAIT of the program does before it asks: a wider gang's null bundles, but at a re-entry, where the bundle of F still issues. -/
theorem State.gangStop_eq (s : State) (why : Why) : s.gangStop why
    = ((if s.fr.re then s else s.updCtx s.fr.x fun c => { c with nullTo := (s.gangOf s.fr.x).reqPoint s.fr.t }) : State).ask
        (s.ctx s.fr.x).gang ((s.gangOf s.fr.x).reqPoint s.fr.t) why := by
  unfold State.gangStop
  split <;> simp

section
variable {s : State} {gi x F : Nat} {ids : List Nat} (hr : (s.gang gi).reqs = [⟨F, .fence x ids⟩])
include hr

/-- A fence whose accesses have all performed by its point asks for nothing any more. -/
theorem State.dropFences_of_performed (hF : F ≤ (s.gang gi).sch) (h : ∀ i ∈ ids, i ∉ (s.ctx x).nonstatic) :
    ((s.dropFences gi).gang gi).reqs = [] := by
  have hnone : ¬ ∃ i ∈ ids, i ∈ (s.ctx x).nonstatic := fun ⟨i, hi, hn⟩ => h i hi hn
  simp [State.dropFences, hr, Nat.not_lt.2 hF, hnone]

theorem State.dropFences_of_open (h : ∃ i ∈ ids, i ∈ (s.ctx x).nonstatic) : s.dropFences gi = s := by
  simp [State.dropFences, hr, h]

end

/-- Settles O27: each asks its gang to freeze by `State.ask` at the gang's request point. -/
theorem waitsAskForAFreeze : Obligations.WaitsAskForAFreeze := by
  unfold Obligations.WaitsAskForAFreeze
  refine ⟨fun g sc n f s hf => ?_, fun s gi x ids F hr hF => ⟨State.dropFences_of_performed hr hF, State.dropFences_of_open hr⟩⟩
  intro c k F ids asks
  have hids : s.fenced = ids := rfl
  refine ⟨fun hh => ⟨?_, ?_, fun hne => ?_⟩, fun hempty => ?_, fun hh => ⟨exec_wait_of_handler hh, ?_, fun hne => ?_⟩⟩
  · rw [exec_wait_of_program hh hf, State.gangStop_eq]
    refine next_once_congr ?_
    cases s.fr.re with
    | true => exact State.ask_eq s _ _ _ rfl rfl rfl
    | false => exact State.ask_eq _ _ _ _ rfl rfl rfl
  · rw [exec_yield, hh]
    exact next_once_congr (State.ask_eq s _ _ _ rfl rfl rfl)
  · rw [exec_fence, hids, if_neg (mt List.isEmpty_iff.1 hne), hh]
    exact next_once_congr (State.ask_eq s _ _ _ rfl rfl rfl)
  · rw [exec_fence, hids, if_pos (List.isEmpty_iff.2 hempty)]
    exact congrArg _ (once_self g s)
  · rw [exec_yield, if_pos hh]
  · rw [exec_fence, hids, if_neg (mt List.isEmpty_iff.1 hne), if_pos hh]
    rfl

/-! ### Traps, returns and marks (08 R186, 22 R375, 23 R387) -/

theorem exec_rte (g : Guard) (s : State) : exec (.rte g) s
    = .next (once g s (if (s.ctx s.fr.x).psw.getLsbD 3 then s.faultReturn s.fr.x else s.privilege 4)) := rfl

/-- A BKPT of the program of a gang on one core freezes it at the next count. -/
theorem exec_bkpt (g : Guard) (code : Nat) (s : State) : exec (.bkpt g code) s
    = .next (once g s (if (s.gangOf s.fr.x).oneCore = true ∧ s.fr.hnd = false then
        (slackBy s 16 code true).ask (s.ctx s.fr.x).gang (s.fr.t + 1) .slack else slackBy s 16 code false)) := by
  change execBkpt g code s = _
  rw [execBkpt, onceSlot_eq]
  cases (s.gangOf s.fr.x).oneCore <;> cases s.fr.hnd <;> rfl

/-- The fault record that is the cause of a wave which the slot of a frame triggers. -/
def triggerCause (fr : Frame) (n code : Nat) : PendFault :=
  ⟨fr.x, fr.hnd, fr.t + 1, fr.t, fr.re, fr.slot, fr.addr, n, BitVec.ofNat 64 code, 0, true, fr.rbv, fr.rbp⟩

theorem State.schOf_updCtx (u : State) {f : Ctx → Ctx} (hf : (f (u.ctx u.fr.x)).gang = (u.ctx u.fr.x).gang) :
    (u.updCtx u.fr.x f).schOf = u.schOf := by
  simp only [State.schOf, State.gangOf, State.updCtx_fr, State.ctx_updCtx_self, hf]
  rfl

theorem State.triggerSlot_eq (u : State) (n code tide : Nat) : u.triggerSlot n code tide
    = (u.setCtx u.fr.x { u.ctx u.fr.x with wave := some (triggerCause u.fr n code) }).triggerCtx u.fr.x u.fr.addr n code u.schOf tide := by
  rw [← State.schOf_updCtx u (f := fun c => { c with wave := some (triggerCause u.fr n code) }) rfl]
  rfl

/-- A trigger takes effect once no slot below its own can be taken back. -/
theorem State.perform_trig_of_committed {s : State} {fr : Frame} (due run pri wall n code tide : Nat)
    (h : ({ s with fr := fr } : State).lowerOpen = false) : s.perform ⟨fr, due, run, pri, .trig n code tide false, wall⟩
      = ({ s with fr := fr } : State).triggerSlot n code tide := by
  have hmeet : s.meetHeld ⟨fr, due, run, pri, .trig n code tide false, wall⟩ = s := State.meetHeld_of_holds_none s _ fun p => by
    cases p <;> simp [Effect.holds]
  unfold State.perform
  rw [hmeet]
  simp [State.performTrigger, h]

/-- Settles O28: TRAP raises its fault, SLACK and BKPT leave a trigger that takes effect as `State.triggerSlot` says, MARK a record. -/
theorem trapsReturnsAndMarks : Obligations.TrapsReturnsAndMarks := by
  unfold Obligations.TrapsReturnsAndMarks
  intro g code s c cause T waves
  refine ⟨rfl, fun h => ?_, fun h => ?_, rfl, exec_bkpt g code s, rfl, fun fr due run pri wall n tide hu => ?_⟩
  · rw [exec_rte, if_pos h]
  · rw [exec_rte, if_neg (Bool.eq_false_iff.1 h)]
  · rw [State.perform_trig_of_committed due run pri wall n code tide hu]
    exact State.triggerSlot_eq { s with fr := fr } n code tide

end Sys2Proof.Machine

/-! SUPPORT. Berth accesses: the checks of a cold address, what loads read and stores perform, rings and atomics (07 R146, 08 R167 to
R174). -/

namespace Sys2Proof.Machine

/-! ### Cold addresses (07 R146, 08 R167) -/

section
variable {s : State} {x a n : Nat}

theorem ownOnly_eq_none_iff {c : Ctx} : ownOnly c a n = none ↔ a / 2 ^ 30 = 0 ∧ ownBound c a n = none := by
  unfold ownOnly
  by_cases h : a / 2 ^ 30 = 0
  · rw [if_neg (not_not.2 h)]
    exact (and_iff_right h).symm
  · rw [if_pos h]
    exact iff_of_false (by simp) fun hc => h hc.1

/-- An access of the own berth inside the allotment passes. -/
theorem coldAccess_of_ownOnly (h : ownOnly (s.ctx x) a n = none) : coldAccess s x a n = .inl (coldPlace x a) := by
  obtain ⟨hsel, hown⟩ := ownOnly_eq_none_iff.1 h
  simp only [coldAccess, hsel, hown, if_true]

/-- An access that passes its checks has the place and the timing of its address. -/
theorem eq_coldPlace_of_coldAccess {c : Cold} (h : coldAccess s x a n = .inl c) : c = coldPlace x a := by
  unfold coldAccess at h
  grind

theorem coldPlace_own (h : a / 2 ^ 30 = 0) : coldPlace x a = ⟨(Place.berth (coreOf x)).key (a % 2 ^ 16), 6, 6, 2, 4, 8, 0⟩ := by
  rw [coldPlace, h]
  rfl

theorem coldPlace_cluster (h : a / 2 ^ 30 = 1) :
    coldPlace x a = ⟨(Place.cluster (clusterOf (coreOf x))).key (a % 2 ^ 18), 14, 14, 10, 12, 20, coreOf x % 4⟩ := by
  rw [coldPlace, h]
  rfl

theorem coldPlace_far (h : a / 2 ^ 30 = 2) : let tc := dieOf (coreOf x) * 128 + a / 2 ^ 16 % 128
    coldPlace x a = ⟨(Place.berth tc).key (a % 2 ^ 16), 7 + 2 * hops (coreOf x) tc, 14 + 4 * hops (coreOf x) tc,
      10 + 2 * hops (coreOf x) tc, 12 + 2 * hops (coreOf x) tc, 20 + 4 * hops (coreOf x) tc, 1 + coreOf x⟩ := by
  rw [coldPlace, h]
  rfl

theorem vecAccess_of_ownOnly (hal : a % 64 = 0) (h : ownOnly (s.ctx s.fr.x) a 512 = none) : vecAccess s a = .inl (coldPlace s.fr.x a) := by
  rw [vecAccess, if_neg (not_not.2 hal), coldAccess_of_ownOnly h]

theorem scalarAccess_of_ownOnly (hal : a % n = 0) (h : ownOnly (s.ctx s.fr.x) a n = none) :
    scalarAccess s a n = .inl (coldPlace s.fr.x a) := by
  rw [scalarAccess, if_neg (not_not.2 hal), coldAccess_of_ownOnly h]

theorem vecAccess_eq_inl {c : Cold} (h : vecAccess s a = .inl c) : a % 64 = 0 ∧ c = coldPlace s.fr.x a := by
  unfold vecAccess at h
  split at h
  · cases h
  · next hal => exact ⟨not_not.1 hal, eq_coldPlace_of_coldAccess h⟩

end

/-! ### Rings and atomics (08 R171 to R174) -/

section
variable {g : Guard} {s : State}

theorem exec_rset_of_inside {ring a : Nat} (h : let r := Ring.ofWord (s.sget a)
      ownBound (s.ctx s.fr.x) (r.base * 64) ((r.depth + 1) * (r.size + 1) * 64) = none) :
    exec (.rset g ring a) s = .next (once g s (s.push (s.fr.t + 1) (.rset ring (s.sget a)) 0)) := by
  change execRset g ring a s = _
  simp only [execRset, onceSlot_eq]
  dsimp only at h
  rw [h]

theorem exec_rset_of_outside {ring a n : Nat} (h : let r := Ring.ofWord (s.sget a)
      ownBound (s.ctx s.fr.x) (r.base * 64) ((r.depth + 1) * (r.size + 1) * 64) = some n) :
    exec (.rset g ring a) s = .next (once g s (s.berthBound n 0 ((Ring.ofWord (s.sget a)).base * 64))) := by
  change execRset g ring a s = _
  simp only [execRset, onceSlot_eq]
  dsimp only at h
  rw [h]

theorem exec_atom_of_inl {op : AtomOp} {w : AtomW} {d a b : Nat} {k : Cold}
    (h : scalarAccess s ((s.sget a).toNat % 2 ^ 32) (atomBytes w) = .inl k) : exec (.atom g op w d a b) s
      = .next (once g s (((s.push (s.fr.t + k.aPerf) (.atom op w k.key (s.sget b) (s.sget d) d (s.fr.t + k.aLand)) k.pri).notePerf
          (s.fr.t + k.aPerf)).noteEff (s.fr.t + k.aLand))) := by
  change execAtom g op w d a b s = _
  simp only [execAtom, onceSlot_eq, h]

theorem exec_atom_of_inr {op : AtomOp} {w : AtomW} {d a b n : Nat}
    (h : scalarAccess s ((s.sget a).toNat % 2 ^ 32) (atomBytes w) = .inr n) :
    exec (.atom g op w d a b) s = .next (once g s (s.berthBound n 0 ((s.sget a).toNat % 2 ^ 32))) := by
  change execAtom g op w d a b s = _
  simp only [execAtom, onceSlot_eq, h]

end

/-- Only an addition of FP32 raises flags (08 R174). -/
theorem atomNew_flags {op : AtomOp} {w : AtomW} (h : op ≠ .add ∨ w ≠ .f32) (old b d : Nat) : (atomNew op w old b d).2 = 0 := by
  cases op with
  | add => rw [atomNew, if_neg (h.resolve_left (not_not.2 rfl))]
  | _ => rfl

theorem State.readChecked_of_clean {s : State} (h : s.Clean) (srcs : List (Nat × Nat × Nat)) (D : Nat) (f : State → State) :
    s.readChecked srcs D f = f s := by
  rw [State.readChecked, if_pos (State.noMarks_of_clean h)]

/-- Over clean stores bytes of the act in hand are written with an undo entry and nothing else. -/
theorem State.landBytes_of_clean {s : State} (h : s.Clean) (key n val mask : Nat) :
    s.landBytes key n val mask = s.writeMem s.fr.who s.fr.hnd s.fr.ord key n val mask := by
  obtain ⟨-, -, hsoft⟩ := h
  simp [State.landBytes, hsoft]

theorem State.Clean.writeMem {s : State} (h : s.Clean) (x : Nat) (hnd : Bool) (ord key n val mask : Nat) :
    (s.writeMem x hnd ord key n val mask).Clean := by
  obtain ⟨hecc, hpoison, hsoft⟩ := h
  exact ⟨hecc, hpoison, by simp [State.writeMem, State.freshen, hsoft]⟩

/-- An atomic without flags writes its new value, and its old value is to land. -/
theorem State.performAtom_of_clean {s : State} (h : s.Clean) {op : AtomOp} {w : AtomW} (hw : op ≠ .add ∨ w ≠ .f32) (key : Nat) (b d : Word)
    (dst at_ : Nat) : let n := atomBytes w
    let old := s.mem.readN key n
    s.performAtom op w key b d dst at_ = (s.writeMem s.fr.who s.fr.hnd s.fr.ord key n
      (atomNew op w old (b.toNat % 2 ^ (8 * n)) (d.toNat % 2 ^ (8 * n))).1 (allBytes n)).landS dst (atomOld w old) at_ := by
  simp only [State.performAtom, State.readChecked_of_clean h, atomNew_flags hw, State.landBytes_of_clean h, if_true]

theorem State.perform_of_soft_nil_atom {s : State} (hsoft : s.soft = []) (fr : Frame) (due run pri wall : Nat) (op : AtomOp) (w : AtomW)
    (key : Nat) (b d : Word) (dst at_ : Nat) : s.perform ⟨fr, due, run, pri, .atom op w key b d dst at_, wall⟩
      = ({ s with fr := fr } : State).performAtom op w key b d dst at_ := by
  rw [State.perform, State.meetHeld_of_soft_nil hsoft]

/-- Settles O20: RSET, RPUSH, RINFO and ATOM push what they do at its count, and an atomic performs by `State.performAtom_of_clean`. -/
theorem ringsAndAtomics : Obligations.RingsAndAtomics := by
  unfold Obligations.RingsAndAtomics
  intro g ring d a b op w s c v r ad
  refine ⟨exec_rset_of_inside, fun n => exec_rset_of_outside, rfl, rfl, fun k => exec_atom_of_inl, fun n => exec_atom_of_inr,
    fun due run pri key x y dst land hs hw => ?_⟩
  intro n old t
  have ht : t = _ := (State.perform_of_soft_nil_atom hs.2.2 s.fr due run pri 0 op w key x y dst land).trans
    (State.performAtom_of_clean hs hw key x y dst land)
  rw [ht]
  exact ⟨rfl, rfl⟩

end Sys2Proof.Machine

/-! SUPPORT. Loads (08 R167, R169, R170): the reads that they push, which lanes take part, and what a read that lands takes from memory. -/

namespace Sys2Proof.Machine

/-! ### The lanes of a slot (08 R169, R170) -/

/-- Where some lane's guard is true, some lane has an address. -/
theorem laneAddrs_eq_nil_iff (gt : BitVec 128) (f : Nat → Nat) : laneAddrs gt f = [] ↔ gt = 0 := by
  constructor
  · intro h
    refine BitVec.eq_of_getLsbD_eq fun l hl => ?_
    simp only [laneAddrs, List.map_eq_nil_iff, List.filter_eq_nil_iff, List.mem_range] at h
    simpa using h l hl
  · rintro rfl
    simp [laneAddrs]

/-! ### The pushes of a load (08 R167, 10 R232) -/

section
variable (s : State) (c : Cold) (k : Nat) (l : Loc) (srcs : List (Nat × Nat × Nat)) (mask : Gran)

@[simp] theorem loadAt_fr : (loadAt s c k l srcs mask).fr = s.fr := by
  unfold loadAt
  split
  · rfl
  · split <;> rfl

theorem noteCi_of_off (h : s.ci = false) (reg : Nat) : noteCi s reg c = s := by
  simp [noteCi, h]

theorem loadAt_of_off (hci : s.ci = false) (hc : c.read = c.land) : loadAt s c k l srcs mask
    = (s.push (s.fr.t + k + c.land) (.load l srcs mask)).notePerf (s.fr.t + k + c.land) := by
  simp [loadAt, hci, hc]

theorem loadAt_of_far (hl : c.land ≠ 6) (hc : c.read ≠ c.land) : loadAt s c k l srcs mask
    = (s.push (s.fr.t + k + c.read) (.fetch l srcs mask (s.fr.t + k + c.land))).notePerf (s.fr.t + k + c.land) := by
  simp [loadAt, hl, hc]

theorem loadAt_of_on (hci : s.ci = true) (hh : s.fr.hnd = false) (hl : c.land = 6) : loadAt s c k l srcs mask
    = (s.push (s.fr.t + k + 4) (.load l srcs mask) 1 (s.clk s.fr.x false + k + 6)).notePerf (s.fr.t + k + 6) := by
  simp [loadAt, hci, hh, hl]

end

/-- The loads of the slices with a true guard, one after the other. -/
def loadSlices (c : Cold) (gt : BitVec 128) (d : Nat) (srcs : Nat → List (Nat × Nat × Nat)) (s : State) : State :=
  ((List.range 8).filter fun k => sliceOf gt k != 0).foldl (fun (u : State) k =>
    loadAt u c k (.v (physV u.fr.rbv d) k) (srcs k) (laneBits (sliceOf gt k))) s

@[simp] theorem loadSlices_fr (c : Cold) (gt : BitVec 128) (d : Nat) (srcs : Nat → List (Nat × Nat × Nat)) (s : State) :
    (loadSlices c gt d srcs s).fr = s.fr :=
  foldl_fr (fun _ _ => loadAt_fr ..) _ s

section
variable {g : Guard} {d a : Nat} {s : State}

theorem exec_vld_of_no_guard {disp : Int} (h : s.allGuards g = 0) : exec (.vld g d a disp) s = .next s := by
  change execVld g d a disp s = _
  rw [execVld]
  exact if_pos h

theorem exec_vld_of_inr {disp : Int} {r : Nat} (h : s.allGuards g ≠ 0) (hr : vecAccess s (jAddr s a disp 64) = .inr r) :
    exec (.vld g d a disp) s = .next (s.berthBound r (lowLane (s.allGuards g)) (jAddr s a disp 64)) := by
  change execVld g d a disp s = _
  simp only [execVld, if_neg h, hr]

theorem exec_vld_of_inl {disp : Int} {c : Cold} (h : s.allGuards g ≠ 0) (hc : vecAccess s (jAddr s a disp 64) = .inl c) :
    exec (.vld g d a disp) s = .next (noteCi (loadSlices c (s.allGuards g) d
      (fun k => laneSrcs (c.key + 64 * k) (sliceOf (s.allGuards g) k)) s) (32 + physV s.fr.rbv d) c) := by
  change execVld g d a disp s = _
  simp only [execVld, if_neg h, hc]
  exact congrArg (fun fr : Frame => Host.Outcome.next (noteCi _ (32 + physV fr.rbv d) c)) (loadSlices_fr ..)

theorem exec_lds_of_inl {disp : Int} {c : Cold} (hc : scalarAccess s (jAddr s a disp 8) 8 = .inl c) :
    exec (.lds g d a disp) s = .next (once g s (noteCi (loadAt s c 0 (.s d) [(c.key, 8, 0)] allBits) d c)) := by
  change execLds g d a disp s = _
  simp only [execLds, onceSlot_eq, hc]

theorem exec_lds_of_inr {disp : Int} {r : Nat} (hr : scalarAccess s (jAddr s a disp 8) 8 = .inr r) :
    exec (.lds g d a disp) s = .next (once g s (s.berthBound r 0 (jAddr s a disp 8))) := by
  change execLds g d a disp s = _
  simp only [execLds, onceSlot_eq, hr]

/-! ### Gathers (08 R170) -/

/-- The timing of a gather, which reads the own berth alone. -/
def gatherCold : Cold := ⟨0, 6, 6, 2, 4, 8, 0⟩

/-- The words of the own berth that a gather reads in slice `k`, of the lanes with their addresses. -/
def gatherSrcs (core : Nat) (as : List (Nat × Nat)) (k : Nat) : List (Nat × Nat × Nat) :=
  (as.filter fun e => e.1 / 16 == k).map fun e => ((Place.berth core).key (e.2 % 2 ^ 16), 4, 4 * (e.1 % 16))

/-- A gather of the lanes with their addresses, by the first lane whose address fails. -/
def gatherOf (s : State) (d : Nat) (gt : BitVec 128) (as : List (Nat × Nat)) : Option (Nat × Nat × Nat) → State
  | some (l, ad, r) => s.berthBound r l ad
  | none => if as.isEmpty then s else
      noteCi (loadSlices gatherCold gt d (gatherSrcs (coreOf s.fr.x) as) s) (32 + physV s.fr.rbv d) gatherCold

variable {f : Nat → Nat}

/-- As in `gather_mem`, the fault check is abstracted before it is looked at, so that nothing evaluates the addresses. -/
theorem gather_eq {r : Option (Nat × Nat × Nat)} (hr : laneFault (s.ctx s.fr.x) (laneAddrs (s.allGuards g) f) = r) :
    gather s g d f = gatherOf s d (s.allGuards g) (laneAddrs (s.allGuards g) f) r := by
  suffices h : ∀ F, F = gather → ∀ u, u = F s g d f → u = gatherOf s d (s.allGuards g) (laneAddrs (s.allGuards g) f) r from h _ rfl _ rfl
  intro F hF u hu
  delta gather at hF
  subst hF
  beta_reduce at hu
  extract_lets +onlyGivenNames gt c as at hu
  change laneFault c as = r at hr
  change u = gatherOf s d gt as r
  generalize laneFault c as = q at hr hu
  subst hr
  clear_value as gt
  rw [hu]
  cases q with
  | some e => rfl
  | none =>
    rw [gatherOf]
    dsimp only
    split
    · rfl
    · exact congrArg (fun fr : Frame => noteCi (loadSlices gatherCold gt d (gatherSrcs (coreOf s.fr.x) as) s) (32 + physV fr.rbv d) gatherCold)
        (loadSlices_fr ..)

theorem gatherOf_of_no_guard (h : s.allGuards g = 0) :
    gatherOf s d (s.allGuards g) (laneAddrs (s.allGuards g) f) (laneFault (s.ctx s.fr.x) (laneAddrs (s.allGuards g) f)) = s := by
  rw [(laneAddrs_eq_nil_iff ..).2 h]
  rfl

theorem gatherOf_of_passed (h : s.allGuards g ≠ 0) : gatherOf s d (s.allGuards g) (laneAddrs (s.allGuards g) f) none
    = noteCi (loadSlices gatherCold (s.allGuards g) d (gatherSrcs (coreOf s.fr.x) (laneAddrs (s.allGuards g) f)) s)
      (32 + physV s.fr.rbv d) gatherCold :=
  if_neg (mt List.isEmpty_iff.1 (mt (laneAddrs_eq_nil_iff ..).1 h))

end

/-! ### What a read takes from memory (08 R167) -/

/-- `n` bytes within a longer number of bytes. -/
theorem Memory.readN_div_mod (m : Memory) (n : Nat) : ∀ (j k l : Nat), j + n ≤ l → m.readN k l / 256 ^ j % 256 ^ n = m.readN (k + j) n := by
  induction n with
  | zero => intro j k l _; simp [Memory.readN, Nat.mod_one]
  | succ n ih =>
    intro j k l h
    have hnext := ih (j + 1) k l (by omega)
    rw [pow_succ, ← Nat.div_div_eq_div_mul, ← Nat.add_assoc] at hnext
    rw [pow_succ', Nat.mod_mul, Memory.readN_byte m l k j (by omega), hnext]
    rfl

/-- The words that the guarded lanes of a slice read, each at its lane. -/
theorem gatherNow_lanes (m : Memory) (key : Nat) (gm : LaneMask) :
    gatherNow m (((List.range 16).filter fun l => gm.getLsbD l).map fun l => (key + 4 * l, 4, 4 * l))
      = packE 32 ((List.range 16).map fun l => if gm.getLsbD l then m.readN (key + 4 * l) 4 else 0) := by
  have hlt : ∀ l, (if gm.getLsbD l then m.readN (key + 4 * l) 4 else 0) < 2 ^ 32 := fun l => by
    split
    · exact (Memory.readN_lt m 4 _).trans_eq (by norm_num)
    · norm_num
  rw [packE_map_range hlt, gatherNow, List.foldl_map, List.foldl_map, List.foldl_filter]
  congr 1
  funext a l
  split
  · rw [show 8 * (4 * l) = 32 * l by omega]
  · simp

/-- A guarded lane takes the four bytes at its address. -/
theorem elemOf_gatherNow_laneSrcs (m : Memory) (key : Nat) {l : Nat} {gm : LaneMask} (hl : l < 16) (hg : gm.getLsbD l = true) :
    elemOf 32 (BitVec.ofNat 512 (gatherNow m (laneSrcs key gm))) l = m.readN (key + 4 * l) 4 := by
  have hmod (v : Nat) (hv : v < 2 ^ 512) : elemOf 32 (BitVec.ofNat 512 v) l = v / 2 ^ (32 * l) % 2 ^ 32 := by
    rw [elemOf, BitVec.toNat_ofNat, Nat.mod_eq_of_lt hv]
  unfold laneSrcs
  split
  · have hread := Memory.readN_div_mod m 4 (4 * l) key 64 (by omega)
    have hlt := Memory.readN_lt m 64 key
    rw [show (256 : Nat) = 2 ^ 8 from rfl, ← pow_mul] at hlt
    rw [show (256 : Nat) = 2 ^ 8 from rfl, ← pow_mul, ← pow_mul, show 8 * (4 * l) = 32 * l by omega] at hread
    have hone : gatherNow m [(key, 64, 0)] = m.readN key 64 := by simp [gatherNow]
    rw [hone, hmod _ hlt, ← hread]
  · have hlt := packE_lt 32 ((List.range 16).map fun l => if gm.getLsbD l then m.readN (key + 4 * l) 4 else 0)
    rw [List.length_map, List.length_range] at hlt
    rw [gatherNow_lanes, hmod _ hlt, packE_map_range_elem 32 _ hl, if_pos hg]
    exact Nat.mod_eq_of_lt ((Memory.readN_lt m 4 _).trans_eq (by norm_num))

section
variable {s : State} (h : s.Clean) (fr : Frame) (due run pri wall : Nat) (l : Loc) (srcs : List (Nat × Nat × Nat)) (mask : Gran)
include h

theorem State.atLanding_of_clean (e : Eff) : s.atLanding e = { s with fr := e.fr } := by
  rw [State.atLanding, State.meetHeld_of_soft_nil h.2.2]

theorem State.land_load_of_clean : s.land ⟨fr, due, run, pri, .load l srcs mask, wall⟩
    = ({ s with fr := fr } : State).landReg l (BitVec.ofNat 512 (gatherNow s.mem srcs)) mask := by
  change (s.atLanding ⟨fr, due, run, pri, .load l srcs mask, wall⟩).readChecked srcs (lastLand l due)
    (fun s => s.landReg l (BitVec.ofNat 512 (gatherNow s.mem srcs)) mask) = _
  rw [State.atLanding_of_clean h]
  exact State.readChecked_of_clean (s := { s with fr := fr }) h ..

theorem State.land_fetch_of_clean (at_ : Nat) : s.land ⟨fr, due, run, pri, .fetch l srcs mask at_, wall⟩
    = ({ s with fr := fr } : State).push at_ (.reg l (BitVec.ofNat 512 (gatherNow s.mem srcs)) mask) := by
  change (s.atLanding ⟨fr, due, run, pri, .fetch l srcs mask at_, wall⟩).readChecked srcs (lastLand l at_)
    (fun s => s.push at_ (.reg l (BitVec.ofNat 512 (gatherNow s.mem srcs)) mask)) = _
  rw [State.atLanding_of_clean h]
  exact State.readChecked_of_clean (s := { s with fr := fr }) h ..

end

/-- Settles O18: a load that passes its checks is a push for each slice by `loadAt`, and the read that lands is `gatherNow`. -/
theorem loadsReadTheBerth : Obligations.LoadsReadTheBerth := by
  unfold Obligations.LoadsReadTheBerth
  refine ⟨fun g d a b disp s => ?_, fun x a => ?_, fun m key l gm hl hg => elemOf_gatherNow_laneSrcs m key hl hg,
    fun s fr due run pri at_ l srcs mask h => ⟨State.land_load_of_clean h .., State.land_fetch_of_clean h ..⟩⟩
  · intro ad as gt x spread gathers
    have hgathers (i : Instr) (f : Nat → Nat) (hi : exec i s = .next (gather s g d f)) : gathers i f :=
      ⟨fun l y r h => hi.trans (congrArg _ (gather_eq h)), fun h => hi.trans (congrArg _ ((gather_eq rfl).trans (gatherOf_of_no_guard h))),
        fun h hg => hi.trans (congrArg _ ((gather_eq h).trans (gatherOf_of_passed hg)))⟩
    exact ⟨exec_vld_of_no_guard, fun c hg hc => exec_vld_of_inl hg hc, fun r hg hr => exec_vld_of_inr hg hr,
      fun c hc => exec_lds_of_inl hc, fun r hr => exec_lds_of_inr hr, hgathers _ _ rfl, hgathers _ _ rfl,
      vecAccess_of_ownOnly, scalarAccess_of_ownOnly, fun c hc => vecAccess_eq_inl hc,
      fun hci reg c => noteCi_of_off s c hci reg, fun c k l srcs mask => ⟨loadAt_of_off s c k l srcs mask,
        loadAt_of_far s c k l srcs mask, loadAt_of_on s c k l srcs mask⟩⟩
  · intro c
    refine ⟨fun h => ?_, fun h => ?_, fun h => ?_⟩
    · simp only [c, coldPlace_own h, and_self]
    · simp only [c, coldPlace_cluster h, and_self]
    · simp only [c, coldPlace_far h, true_and]
      omega

end Sys2Proof.Machine

/-! SUPPORT. Stores and scatters: the stores that they push, and what a store that performs leaves (08 R167, R169, R170). -/

namespace Sys2Proof.Machine

/-! ### VST and STS (08 R169) -/

/-- The store that a VST pushes in its slice, of the lanes with a true guard. -/
def storeSlice (c : Cold) (d : Nat) (y : State) : State :=
  let k := y.fr.slice
  if sliceOf y.fr.gt k = 0 then y else
    y.push (y.fr.t + k + c.perf) (.store (c.key + 64 * k) 64 (y.vget d k).toNat (laneBytes (sliceOf y.fr.gt k))) c.pri

section
variable {g : Guard} {d a b : Nat} {disp : Int} {s : State}

theorem vstSlice_eq (c : Cold) (y : State) : vstSlice g d a disp c y = (storeSlice c d y).nextSlice (.vst g d a disp) y.fr := by
  simp only [vstSlice, storeSlice]
  split <;> rfl

theorem exec_vst_of_later (h : s.fr.slice ≠ 0) : exec (.vst g d a disp) s
    = .next ((storeSlice (coldPlace s.fr.x s.fr.cap.toNat) d s).nextSlice (.vst g d a disp) s.fr) := by
  change execVst g d a disp s = _
  rw [execVst, if_pos h, vstSlice_eq]

theorem exec_vst_of_no_guard (hk : s.fr.slice = 0) (h : s.allGuards g = 0) : exec (.vst g d a disp) s = .next s := by
  change execVst g d a disp s = _
  rw [execVst, if_neg (not_not.2 hk)]
  exact if_pos h

/-- In slice 0 a VST goes on with its guards and its address in the frame. -/
theorem exec_vst_of_inl {c : Cold} {u : State} (hk : s.fr.slice = 0) (h : s.allGuards g ≠ 0)
    (hc : vecAccess s (jAddr s a disp 64) = .inl c)
    (hu : { s with fr := { s.fr with gt := s.allGuards g, cap := BitVec.ofNat 64 (jAddr s a disp 64) } } = u) :
    exec (.vst g d a disp) s = .next ((storeSlice c d (u.notePerf (s.fr.t + lastSlice (s.allGuards g) + c.perf))).nextSlice
      (.vst g d a disp) u.fr) := by
  change execVst g d a disp s = _
  simp only [execVst, if_neg (not_not.2 hk), if_neg h, hc, vstSlice_eq, hu]
  rfl

theorem exec_vst_of_inr {r : Nat} (hk : s.fr.slice = 0) (h : s.allGuards g ≠ 0) (hr : vecAccess s (jAddr s a disp 64) = .inr r) :
    exec (.vst g d a disp) s = .next (s.berthBound r (lowLane (s.allGuards g)) (jAddr s a disp 64)) := by
  change execVst g d a disp s = _
  simp only [execVst, if_neg (not_not.2 hk), if_neg h, hr]

theorem exec_sts_of_inl {c : Cold} (hc : scalarAccess s (jAddr s a disp 8) 8 = .inl c) : exec (.sts g d a disp) s
    = .next (once g s ((s.push (s.fr.t + c.perf) (.store c.key 8 (s.sget d).toNat (allBytes 8)) c.pri).notePerf (s.fr.t + c.perf))) := by
  change execSts g d a disp s = _
  simp only [execSts, onceSlot_eq, hc]

theorem exec_sts_of_inr {r : Nat} (hr : scalarAccess s (jAddr s a disp 8) 8 = .inr r) :
    exec (.sts g d a disp) s = .next (once g s (s.berthBound r 0 (jAddr s a disp 8))) := by
  change execSts g d a disp s = _
  simp only [execSts, onceSlot_eq, hr]

/-! ### VSTX (08 R170) -/

/-- The stores that a VSTX pushes in its slice, one for each lane with a true guard, the lowest first. -/
def scatterSlice (d : Nat) (y : State) : State :=
  let k := y.fr.slice
  ((vstxAddrs y).filter fun e => e.1 / 16 == k).foldl (fun (z : State) e =>
    z.push (y.fr.t + k + 2) (.store ((Place.berth (coreOf y.fr.x)).key (e.2 % 2 ^ 16)) 4
      ((y.vget d k).toNat / 2 ^ (32 * (e.1 % 16)) % 2 ^ 32) 15) 0) y

theorem scatterSlice_fr (d : Nat) (y : State) : (scatterSlice d y).fr = y.fr := by
  apply foldl_fr
  exact fun _ _ => rfl

theorem vstxSlice_eq (y : State) : vstxSlice g d a b y = (scatterSlice d y).nextSlice (.vstx g d a b) y.fr := by
  have hfold : vstxSlice g d a b y = (scatterSlice d y).nextSlice (.vstx g d a b) (scatterSlice d y).fr := by
    unfold vstxSlice scatterSlice
    dsimp only
    refine congrArg (fun u : State => u.nextSlice (.vstx g d a b) u.fr) (foldl_congr_of_fr ?_ (fun u e hu => ?_) _)
    · exact fun _ _ => rfl
    · rw [hu]
  rw [hfold, scatterSlice_fr]

theorem exec_vstx_of_later (h : s.fr.slice ≠ 0) : exec (.vstx g d a b) s
    = .next ((scatterSlice d s).nextSlice (.vstx g d a b) s.fr) := by
  change execVstx g d a b s = _
  unfold execVstx
  rw [if_pos h, vstxSlice_eq]

/-- What a VSTX does in slice 0 with what it has read in its frame, by the first lane whose address fails. -/
def vstxOf (g : Guard) (d a b : Nat) (x : State) : Option (Nat × Nat × Nat) → Result
  | some (l, ad, r) => .next (x.berthBound r l ad)
  | none => if x.fr.gt = 0 then .next x else
      .next ((scatterSlice d (x.notePerf (x.fr.t + lastSlice x.fr.gt + 2))).nextSlice (.vstx g d a b) x.fr)

/-- As in `execVstx_mem`, the state is abstracted before the fault check is looked at, so that nothing evaluates the addresses. -/
theorem exec_vstx_eq {x : State} {r : Option (Nat × Nat × Nat)} (hk : s.fr.slice = 0)
    (hx : { s with fr := { s.fr with gt := s.allGuards g, cap := s.sget a, capv := BitVec.ofNat 4096 (wholeReg s b) } } = x)
    (hr : laneFault (x.ctx x.fr.x) (vstxAddrs x) = r) : exec (.vstx g d a b) s = vstxOf g d a b x r := by
  suffices h : ∀ F, F = execVstx → ∀ u, u = F g d a b s → u = vstxOf g d a b x r from h _ rfl _ rfl
  intro F hF u hu
  delta execVstx at hF
  subst hF
  beta_reduce at hu
  rw [if_neg (not_not.2 hk)] at hu
  rw [hx] at hu
  extract_lets +onlyGivenNames y at hu
  change laneFault (y.ctx y.fr.x) (vstxAddrs y) = r at hr
  generalize laneFault (y.ctx y.fr.x) (vstxAddrs y) = q at hr hu
  subst hr
  rw [hu]
  cases q with
  | some e => rfl
  | none =>
    dsimp only
    rw [vstxSlice_eq]
    rfl

end

/-! ### The perform of a store (08 R167) -/

section
variable {s : State} (h : s.Clean)
include h

theorem State.performStore_of_clean (key n v m : Nat) :
    s.performStore key n v m = s.writeMem s.fr.who s.fr.hnd s.fr.ord key n v m := by
  have ho : s.openBytes key n m = m := by
    obtain ⟨hecc, hpoison, -⟩ := h
    simp [State.openBytes, hecc, hpoison]
  have hc : s.countPart key n m = s := by
    obtain ⟨hecc, -, -⟩ := h
    simp [State.countPart, hecc]
  have hm (u : State) (hu : u.Clean) : u.clearMarks key n m = u := by
    obtain ⟨hecc, hpoison, -⟩ := hu
    simp [State.clearMarks, hecc, hpoison]
  simp only [State.performStore, ho, hc, State.landBytes_of_clean h, if_true, hm _ (h.writeMem ..)]

theorem State.perform_store_of_clean (fr : Frame) (due run pri wall key n v m : Nat) :
    s.perform ⟨fr, due, run, pri, .store key n v m, wall⟩
      = (({ s with fr := fr } : State).writeMem fr.who fr.hnd fr.ord key n v m).activate key := by
  change (State.performStore { s.meetHeld _ with fr := fr } key n v m).activate key = _
  rw [State.meetHeld_of_soft_nil h.2.2, State.performStore_of_clean (s := { s with fr := fr }) h]

end

/-- An activation stamps the row group of an HBM granule in the module's words, and does nothing elsewhere (18 R308). -/
theorem State.activate_eq (s : State) (key : Nat) :
    ∃ m, s.activate key = { s with mod := m } ∧ (key / 2 ^ 64 ≠ Place.hbm.code → m = s.mod) := by
  unfold State.activate
  split
  · next h => exact ⟨_, rfl, fun hne => absurd h hne⟩
  · exact ⟨_, rfl, fun _ => rfl⟩

/-- Bytes written under their enables change, and no others. -/
theorem Memory.read_writeN (m : Memory) (key n v mask q : Nat) : (m.writeN key n v mask).read q
    = if key ≤ q ∧ q < key + n ∧ mask.testBit (q - key) = true then BitVec.ofNat 8 (v / 256 ^ (q - key)) else m.read q := by
  by_cases hq : key ≤ q ∧ q < key + n
  · obtain ⟨i, rfl⟩ := Nat.exists_eq_add_of_le hq.1
    rw [Memory.read_writeN_in n m key v mask i (by omega), Nat.add_sub_cancel_left, Nat.testBit_eq_decide_div_mod_eq]
    simp [hq]
  · rw [Memory.read_writeN_out _ _ _ _ _ _ (by omega), if_neg (by tauto)]

/-- What the clauses of O19 read of a frame that takes up guards, a base address and offsets. -/
theorem State.took_offsets_fr (s : State) (fr : Frame) (gt : BitVec 128) (cap : Word) (capv : BitVec 4096) :
    let u : State := { s with fr := { fr with gt := gt, cap := cap, capv := capv } }
    u.fr.gt = gt ∧ u.fr.slice = fr.slice ∧ u.fr.t = fr.t ∧ u.ctx u.fr.x = s.ctx fr.x := ⟨rfl, rfl, rfl, rfl⟩

/-- A store slice reads the frame's slice alone for its place. -/
theorem storeSlice_of_slice {y : State} {k : Nat} (h : y.fr.slice = k) (c : Cold) (d : Nat) :
    storeSlice c d y = if sliceOf y.fr.gt k = 0 then y else
      y.push (y.fr.t + k + c.perf) (.store (c.key + 64 * k) 64 (y.vget d k).toNat (laneBytes (sliceOf y.fr.gt k))) c.pri := by
  rw [← h]
  rfl

theorem scatterSlice_of_slice {y : State} {k : Nat} (h : y.fr.slice = k) (d : Nat) :
    scatterSlice d y = ((vstxAddrs y).filter fun e => e.1 / 16 == k).foldl (fun (z : State) e =>
      z.push (y.fr.t + k + 2) (.store ((Place.berth (coreOf y.fr.x)).key (e.2 % 2 ^ 16)) 4
        ((y.vget d k).toNat / 2 ^ (32 * (e.1 % 16)) % 2 ^ 32) 15) 0) y := by
  rw [← h]
  rfl

/-- Settles O19: VST and VSTX push the stores of `storeSlice` and `scatterSlice`, and a store that performs is one write of memory. The states that
take up guards and addresses stay names, so that nothing evaluates the guards of all lanes. -/
theorem storesPerformTheirBytes : Obligations.StoresPerformTheirBytes := by
  unfold Obligations.StoresPerformTheirBytes
  refine ⟨fun g d a b disp s => ?_, fun s fr due run pri key n v m hs => ?_⟩
  · intro k gt ad as u x put lanes scatter
    have huk : u.fr.slice = k := (State.took_offsets_fr s s.fr gt (BitVec.ofNat 64 ad) s.fr.capv).2.1
    have hx : { s with fr := { s.fr with gt := s.allGuards g, cap := s.sget a, capv := BitVec.ofNat 4096 (wholeReg s b) } } = x := rfl
    have hu : { s with fr := { s.fr with gt := s.allGuards g, cap := BitVec.ofNat 64 (jAddr s a disp 64) } } = u := rfl
    obtain ⟨hgt, hxk, ht, hctx⟩ : x.fr.gt = gt ∧ x.fr.slice = k ∧ x.fr.t = s.fr.t ∧ x.ctx x.fr.x = s.ctx s.fr.x :=
      State.took_offsets_fr s s.fr gt (s.sget a) (BitVec.ofNat 4096 (wholeReg s b))
    clear_value x u
    have hput (c : Cold) (y : State) (hy : y.fr.slice = k) : storeSlice c d y = put c y := storeSlice_of_slice hy c d
    have hscatter (y : State) (hy : y.fr.slice = k) : scatterSlice d y = scatter y := scatterSlice_of_slice hy d
    refine ⟨exec_vst_of_no_guard, fun c hk h hc => ?_, fun r hk h hr => exec_vst_of_inr hk h hr, exec_vst_of_later,
      fun hal h => ⟨vecAccess_of_ownOnly hal h, ?_⟩, fun c => exec_sts_of_inl, fun r => exec_sts_of_inr, fun hk h => ?_,
      fun hk h hl => ?_, fun l y r hk hl => ?_, exec_vstx_of_later⟩
    · rw [exec_vst_of_inl hk h hc hu, hput c (u.notePerf _) huk]
    · rw [coldPlace_own (ownOnly_eq_none_iff.1 h).1]
    · have hl : laneFault (x.ctx x.fr.x) (vstxAddrs x) = none := by
        rw [show vstxAddrs x = [] from (laneAddrs_eq_nil_iff ..).2 (hgt.trans h)]
        rfl
      exact (exec_vstx_eq hk hx hl).trans (if_pos (hgt.trans h))
    · rw [← hctx] at hl
      rw [exec_vstx_eq hk hx hl, vstxOf, if_neg (hgt.trans_ne h), hscatter (x.notePerf _) hxk, hgt, ht]
    · rw [← hctx] at hl
      exact exec_vstx_eq hk hx hl
  · intro t
    obtain ⟨md, hact, hmod⟩ := State.activate_eq (({ s with fr := fr } : State).writeMem fr.who fr.hnd fr.ord key n v m) key
    have ht : t = _ := (State.perform_store_of_clean hs fr due run pri 0 key n v m).trans hact
    rw [ht]
    exact ⟨Memory.read_writeN s.mem key n v m, rfl, rfl, rfl, rfl, rfl, hmod⟩

end Sys2Proof.Machine

/-! SUPPORT. Crossings of the lock: their checks in order, and what entering one leaves (07 R149 to R151, 08 R175 to R178). -/

namespace Sys2Proof.Machine

/-! ### What entering a crossing leaves (07 R150) -/

/-- The acts of a crossing's slots go into the agenda or into flight, and change nothing else. -/
theorem State.foldl_atSlot_eq (i : Instr) (fr : Frame) (slots : List Int) (s : State) :
    ∃ ag fl, slots.foldl (fun (s : State) S => s.atSlot S i fr) s = { s with agenda := ag, flight := fl } := by
  induction slots generalizing s with
  | nil => exact ⟨s.agenda, s.flight, rfl⟩
  | cons S slots ih =>
    obtain ⟨ag, fl, hstep⟩ : ∃ ag fl, s.atSlot S i fr = { s with agenda := ag, flight := fl } := by
      unfold State.atSlot State.flyClk
      split
      · exact ⟨_, _, rfl⟩
      · split
        · exact ⟨_, _, rfl⟩
        · exact ⟨_, _, rfl⟩
    obtain ⟨ag', fl', hrest⟩ := ih (s.atSlot S i fr)
    refine ⟨ag', fl', ?_⟩
    rw [List.foldl_cons, hrest, hstep]

/-- A crossing with its slots as it enters. -/
def State.entering (s : State) (kind : CrossKind) (out : Bool) (lk src dst bytes : Nat) : Crossing :=
  ⟨s.nextId, s.fr.hnd, s.fr.ord, { s.fr with id := s.nextId }, kind, out, src, dst, bytes, takeSlots s lk out ((bytes + 63) / 64), 0, []⟩

/-- The state with a crossing's record behind those that the context in hand keeps, the crossing's number used up. -/
def State.withCrossing (s : State) (keep : Crossing → Bool) (e : Crossing) : State :=
  s.fresh.2.updCtx s.fr.x fun c => { c with crossings := c.crossings.filter keep ++ [e] }

theorem State.ctx_withCrossing_self (s : State) (keep : Crossing → Bool) (e : Crossing) :
    (s.withCrossing keep e).ctx s.fr.x = { s.ctx s.fr.x with crossings := (s.ctx s.fr.x).crossings.filter keep ++ [e] } :=
  s.fresh.2.ctx_updCtx_self s.fr.x _

theorem State.ctx_withCrossing_ne (s : State) (keep : Crossing → Bool) (e : Crossing) {y : Nat} (h : y ≠ s.fr.x) :
    (s.withCrossing keep e).ctx y = s.ctx y :=
  s.fresh.2.ctx_updCtx_ne _ h

/-- Entering a crossing keeps its record, with its number in the frame and its slots' acts put off. -/
theorem State.cross_eq (s : State) (kind : CrossKind) (out : Bool) (lk src dst bytes : Nat) :
    let e := s.entering kind out lk src dst bytes
    ∃ keep ag fl n, s.cross kind out lk src dst bytes
      = ({ s.withCrossing keep e with fr := e.fr, agenda := ag, flight := fl } : State).notePerf n := by
  intro e
  obtain ⟨keep, hkeep⟩ : ∃ keep, keep = fun (k : Crossing) => k.hnd != e.fr.hnd || decide (k.next < k.slots.length) ||
    decide ((if k.fr.x = e.fr.x then ((s.fresh.2.clk s.fr.x s.fr.hnd : Nat) : Int) else (s.fresh.2.clk k.fr.x k.hnd : Nat))
      < k.slots.getLastD 0 + 8) := ⟨_, rfl⟩
  obtain ⟨ag, fl, h⟩ := State.foldl_atSlot_eq (.lockSlot e.fr.x e.id) e.fr e.slots { s.withCrossing keep e with fr := e.fr }
  refine ⟨keep, ag, fl, State.toSch { s.withCrossing keep e with fr := e.fr, agenda := ag, flight := fl } (e.slots.getLastD 0 + e.lat).toNat, ?_⟩
  rw [hkeep] at h ⊢
  exact congrArg (fun u : State => u.notePerf (u.toSch (e.slots.getLastD 0 + e.lat).toNat)) h

/-- What the noting of a perform leaves of a context. -/
theorem State.ctx_notePerf (s : State) (n : Nat) : ∃ p e h,
    (s.notePerf n).ctx s.fr.x = { s.ctx s.fr.x with perfP := p, effP := e, perfH := h } := by
  rw [State.notePerf, State.ctx_updCtx_self]
  split
  · exact ⟨_, _, _, rfl⟩
  · exact ⟨_, _, _, rfl⟩

section
variable (s : State) (kind : CrossKind) (out : Bool) (lk src dst bytes : Nat)

theorem State.cross_fr : (s.cross kind out lk src dst bytes).fr = { s.fr with id := s.nextId } := by
  obtain ⟨keep, ag, fl, n, h⟩ := s.cross_eq kind out lk src dst bytes
  rw [h]
  rfl

theorem State.ctx_cross_self : ∃ keep,
    ((s.cross kind out lk src dst bytes).ctx s.fr.x).crossings = (s.ctx s.fr.x).crossings.filter keep ++ [s.entering kind out lk src dst bytes]
    ∧ ((s.cross kind out lk src dst bytes).ctx s.fr.x).regs = (s.ctx s.fr.x).regs := by
  obtain ⟨keep, ag, fl, n, h⟩ := s.cross_eq kind out lk src dst bytes
  obtain ⟨p, e, m, hn⟩ := State.ctx_notePerf
    { s.withCrossing keep (s.entering kind out lk src dst bytes) with fr := (s.entering kind out lk src dst bytes).fr, agenda := ag, flight := fl } n
  have hc := s.ctx_withCrossing_self keep (s.entering kind out lk src dst bytes)
  have hregs : ((s.withCrossing keep (s.entering kind out lk src dst bytes)).ctx s.fr.x).regs = (s.ctx s.fr.x).regs := by rw [hc]
  rw [h]
  refine ⟨keep, ?_, ?_⟩
  · exact (congrArg Ctx.crossings hn).trans (congrArg Ctx.crossings hc)
  · exact (congrArg Ctx.regs hn).trans hregs

theorem State.ctx_cross_ne {y : Nat} (hy : y ≠ s.fr.x) : (s.cross kind out lk src dst bytes).ctx y = s.ctx y := by
  obtain ⟨keep, ag, fl, n, h⟩ := s.cross_eq kind out lk src dst bytes
  rw [h, State.notePerf]
  exact (State.ctx_updCtx_ne _ _ hy).trans (s.ctx_withCrossing_ne keep _ hy)

theorem State.cross_faults : (s.cross kind out lk src dst bytes).faults = s.faults := by
  obtain ⟨keep, ag, fl, n, h⟩ := s.cross_eq kind out lk src dst bytes
  rw [h]
  rfl

theorem State.cross_pend : (s.cross kind out lk src dst bytes).pend = s.pend := by
  obtain ⟨keep, ag, fl, n, h⟩ := s.cross_eq kind out lk src dst bytes
  rw [h]
  rfl

/-- The crossing that has entered is found by its number. -/
theorem State.exists_crossing_cross : ∃ e, (s.cross kind out lk src dst bytes).crossing s.fr.x s.nextId = some e := by
  obtain ⟨keep, hc, -⟩ := s.ctx_cross_self kind out lk src dst bytes
  rw [State.crossing, hc, ← Option.isSome_iff_exists, List.find?_isSome]
  exact ⟨s.entering kind out lk src dst bytes, List.mem_append_right _ (List.mem_singleton_self _), beq_self_eq_true _⟩

end

/-! ### The checks of a crossing in their order (08 R175) -/

section
variable {s t : State} {q : Nat} {own : State → Option State} {f : Nat → State → State}

theorem quayCross_of_out (hq : (s.ctx s.fr.x).quayIn q = false) : quayCross s q own f = s.quayBound false q := by
  simp [quayCross, hq]

theorem quayCross_of_own (hq : (s.ctx s.fr.x).quayIn q = true) (h : own s = some t) : quayCross s q own f = t := by
  simp [quayCross, hq, h]

theorem quayCross_of_noLock (hq : (s.ctx s.fr.x).quayIn q = true) (h : own s = none) (hlk : (s.ctx s.fr.x).lk = 0) :
    quayCross s q own f = s.noLock := by
  simp [quayCross, hq, h, hlk]

theorem quayCross_of_pass (hq : (s.ctx s.fr.x).quayIn q = true) (h : own s = none) (hlk : (s.ctx s.fr.x).lk ≠ 0) :
    quayCross s q own f = f (s.ctx s.fr.x).lk s := by
  simp [quayCross, hq, h, hlk]

variable {lat h : Nat}

theorem latchCross_of_masked (hl : (s.ctx s.fr.x).latchIn lat = false) : latchCross s lat h f = s.privilege 2 := by
  simp [latchCross, hl]

theorem latchCross_of_out (hl : (s.ctx s.fr.x).latchIn lat = true) (ht : (s.ctx s.fr.x).tileIn h = false) :
    latchCross s lat h f = s.quayBound true h := by
  simp [latchCross, hl, ht]

theorem latchCross_of_noLock (hl : (s.ctx s.fr.x).latchIn lat = true) (ht : (s.ctx s.fr.x).tileIn h = true)
    (hlk : (s.ctx s.fr.x).lk = 0) : latchCross s lat h f = s.noLock := by
  simp [latchCross, hl, ht, hlk]

theorem latchCross_of_pass (hl : (s.ctx s.fr.x).latchIn lat = true) (ht : (s.ctx s.fr.x).tileIn h = true)
    (hlk : (s.ctx s.fr.x).lk ≠ 0) : latchCross s lat h f = f (s.ctx s.fr.x).lk s := by
  simp [latchCross, hl, ht, hlk]

end

/-! ### The crossings of a quay register (08 R176 to R178) -/

section
variable {g : Guard} {v q sz ring mask : Nat} {scope : XmScope} {s : State}

theorem exec_xin_eq : exec (.xin g v q sz) s = .next (once g s (quayCross s q (fun _ => none) fun lk s =>
    s.cross (.xin (physV s.fr.rbv v)) false lk ((Place.quay (coreOf s.fr.x)).key (512 * q)) 0 (crossBytes sz))) := rfl

theorem exec_xinm_of_inside (h : ((xinmTargets s.fr.x scope mask).all fun y => sameGang s s.fr.x y) = true) :
    exec (.xinm g scope v q mask) s = .next (once g s (quayCross s q (fun _ => none) fun lk s =>
      s.cross (.xinm (scope == .die) mask (physV s.fr.rbv v)) false lk ((Place.quay (coreOf s.fr.x)).key (512 * q)) 0 512)) := by
  change execXinm g scope v q mask s = _
  simp only [execXinm, onceSlot_eq, h, Bool.not_true, Bool.false_eq_true, if_false]

theorem exec_xinm_of_outside (h : ((xinmTargets s.fr.x scope mask).all fun y => sameGang s s.fr.x y) = false) :
    exec (.xinm g scope v q mask) s = .next (once g s (s.privilege 5)) := by
  change execXinm g scope v q mask s = _
  simp only [execXinm, onceSlot_eq, h, Bool.not_false, if_true]

/-- Slice `j` of a crossing XOUT: its bytes of the register perform at the quay register 160 counts after slot `j` starts. -/
def xoutSlice (g : Guard) (v q sz j quay : Nat) (u : State) (e : Crossing) : State :=
  let n := min 64 (2 ^ (sz + 3) - 64 * j)
  let w := u.pushClk (e.slots.getD j 0 + 160).toNat (.store (quay + 64 * j) n (u.reg (.v (physV u.fr.rbv v) j)).toNat (allBytes n)) 0
  if 64 * (j + 1) < 2 ^ (sz + 3) ∧ j < 7 then w.nextSlice (.xout g v q sz) u.fr else w

theorem exec_xout_of_first (h : s.fr.slice = 0) : exec (.xout g v q sz) s = .next (once g s (quayCross s q (fun _ => none) fun lk u =>
    let u := u.cross (.xout v) true lk 0 ((Place.quay (coreOf s.fr.x)).key (512 * q)) (2 ^ (sz + 3))
    match u.crossing u.fr.x u.fr.id with
    | some e => xoutSlice g v q sz s.fr.slice ((Place.quay (coreOf s.fr.x)).key (512 * q)) u e
    | none => u)) := by
  change execXout g v q sz s = _
  simp only [execXout, if_pos h, onceSlot_eq, State.pushClk_fr]
  rfl

theorem exec_xout_of_later (h : s.fr.slice ≠ 0) {e : Crossing} (he : s.crossing s.fr.x s.fr.id = some e) :
    exec (.xout g v q sz) s = .next (xoutSlice g v q sz s.fr.slice ((Place.quay (coreOf s.fr.x)).key (512 * q)) s e) := by
  change execXout g v q sz s = _
  simp only [execXout, if_neg h, he, State.pushClk_fr]
  rfl

theorem exec_xout_of_no_guard (h : s.fr.slice = 0) (hg : s.onceGuard g = false) : exec (.xout g v q sz) s = .next s := by
  rw [exec_xout_of_first h, once_false _ hg]

/-- An XOUT whose checks pass finds the crossing that it has entered. -/
theorem exec_xout_of_pass (h : s.fr.slice = 0) (hg : s.onceGuard g = true) (hq : (s.ctx s.fr.x).quayIn q = true)
    (hlk : (s.ctx s.fr.x).lk ≠ 0) : let quay := (Place.quay (coreOf s.fr.x)).key (512 * q)
    let u := s.cross (.xout v) true (s.ctx s.fr.x).lk 0 quay (2 ^ (sz + 3))
    ∃ e, u.crossing s.fr.x s.nextId = some e ∧ exec (.xout g v q sz) s = .next (xoutSlice g v q sz s.fr.slice quay u e) := by
  intro quay u
  obtain ⟨e, he⟩ := s.exists_crossing_cross (.xout v) true (s.ctx s.fr.x).lk 0 quay (2 ^ (sz + 3))
  have hfr : u.fr = { s.fr with id := s.nextId } := s.cross_fr ..
  refine ⟨e, he, ?_⟩
  rw [exec_xout_of_first h, once_true _ hg, quayCross_of_pass hq rfl hlk]
  change Host.Outcome.next (match u.crossing u.fr.x u.fr.id with | some e => _ | none => u) = _
  rw [hfr]
  change Host.Outcome.next (match u.crossing s.fr.x s.nextId with | some e => _ | none => u) = _
  rw [show u.crossing s.fr.x s.nextId = some e from he]

/-- The check of an XINR that is its own: a tile too small, or a full ring of which it has kept no claim (08 R178). -/
theorem xinr_check_iff {r : Ring} {b : Nat} : (decide (64 * (r.size + 1) < b) || ((keptClaim s ring).isNone && r.count + r.claims.length == r.depth + 1)) = true
    ↔ 64 * (r.size + 1) < b ∨ keptClaim s ring = none ∧ r.count + r.claims.length = r.depth + 1 := by
  simp only [Bool.or_eq_true, decide_eq_true_iff, Bool.and_eq_true, Option.isNone_iff_eq_none, beq_iff_eq]

theorem exec_xinr_of_over (hq : (s.ctx s.fr.x).quayIn q = true) (h : let r := (s.ctx s.fr.x).ring ring
      64 * (r.size + 1) < 2 ^ (sz + 3) ∨ keptClaim s ring = none ∧ r.count + r.claims.length = r.depth + 1) :
    exec (.xinr g ring q sz) s = .next (once g s (s.ringOver ring)) := by
  change execXinr g ring q sz s = _
  simp only [execXinr, onceSlot_eq]
  rw [quayCross_of_own hq]
  exact if_pos (xinr_check_iff.2 h)

/-- An XINR in a context outside the quay's allotment. -/
theorem exec_xinr_of_out (hq : (s.ctx s.fr.x).quayIn q = false) :
    exec (.xinr g ring q sz) s = .next (once g s (s.quayBound false q)) := by
  change execXinr g ring q sz s = _
  rw [execXinr, onceSlot_eq, quayCross_of_out hq]

section
variable (hq : (s.ctx s.fr.x).quayIn q = true) (hbig : ¬ 64 * (((s.ctx s.fr.x).ring ring).size + 1) < 2 ^ (sz + 3))
  (hfull : ¬ (keptClaim s ring = none
    ∧ ((s.ctx s.fr.x).ring ring).count + ((s.ctx s.fr.x).ring ring).claims.length = ((s.ctx s.fr.x).ring ring).depth + 1))
include hq hbig hfull

theorem exec_xinr_of_noLock (hlk : (s.ctx s.fr.x).lk = 0) : exec (.xinr g ring q sz) s = .next (once g s s.noLock) := by
  change execXinr g ring q sz s = _
  simp only [execXinr, onceSlot_eq]
  rw [quayCross_of_noLock hq (if_neg fun h => (xinr_check_iff.1 h).elim hbig hfull) hlk]

variable (hlk : (s.ctx s.fr.x).lk ≠ 0)
include hlk

theorem exec_xinr_of_kept {tl id : Nat} (h : keptClaim s ring = some (tl, id)) : exec (.xinr g ring q sz) s = .next (once g s
    ((s.updCtx s.fr.x fun c => c.setRing ring { (s.ctx s.fr.x).ring ring with kept := ((s.ctx s.fr.x).ring ring).kept.filter fun e => e.id != id }).cross
      (.xinr ring tl id) false (s.ctx s.fr.x).lk ((Place.quay (coreOf s.fr.x)).key (512 * q))
      ((Place.berth (coreOf s.fr.x)).key (((s.ctx s.fr.x).ring ring).tileByte tl)) (2 ^ (sz + 3)))) := by
  change execXinr g ring q sz s = _
  simp only [execXinr, onceSlot_eq]
  rw [quayCross_of_pass hq (if_neg fun h => (xinr_check_iff.1 h).elim hbig hfull) hlk]
  simp only [h]
  rfl

theorem exec_xinr_of_claim {tl id : Nat} {u : State} (h : keptClaim s ring = none) (hc : claimTile s s.fr.x ring = some (tl, id, u))
    (hu : u.fr = s.fr) : exec (.xinr g ring q sz) s = .next (once g s (u.cross (.xinr ring tl id) false (s.ctx s.fr.x).lk
      ((Place.quay (coreOf s.fr.x)).key (512 * q)) ((Place.berth (coreOf s.fr.x)).key (((s.ctx s.fr.x).ring ring).tileByte tl)) (2 ^ (sz + 3)))) := by
  change execXinr g ring q sz s = _
  simp only [execXinr, onceSlot_eq]
  rw [quayCross_of_pass hq (if_neg fun h => (xinr_check_iff.1 h).elim hbig hfull) hlk]
  simp only [h, hc, hu]
  rfl

end

/-- A ring that is not full gives its next tile to a claim, under a number of its own. -/
theorem claimTile_of_room {x : Nat} (h : ((s.ctx x).ring ring).count + ((s.ctx x).ring ring).claims.length ≠ ((s.ctx x).ring ring).depth + 1) :
    ∃ u, claimTile s x ring = some (((s.ctx x).ring ring).clm, s.nextId, u) ∧ u.fr = s.fr := by
  simp only [claimTile, Ring.claim, if_neg h]
  exact ⟨_, rfl, rfl⟩

end

/-! ### The crossings of a latch (08 R176) -/

theorem exec_xina_eq (g : Guard) (lat h : Nat) (s : State) : exec (.xina g lat h) s = .next (once g s (latchCross s lat h fun lk s =>
    s.cross (.xina lat) false lk ((Place.acc (coreOf s.fr.x)).key (4096 * h)) ((Place.latch (coreOf s.fr.x)).key (4096 * lat)) 4096)) := rfl

theorem exec_xouta_eq (g : Guard) (lat h : Nat) (s : State) : exec (.xouta g lat h) s = .next (once g s (latchCross s lat h fun lk s =>
    s.cross (.xouta lat) true lk ((Place.latch (coreOf s.fr.x)).key (4096 * lat)) ((Place.acc (coreOf s.fr.x)).key (4096 * h)) 4096)) := rfl

/-- Settles O22: each check of a crossing gives its fault, in the order of `quayCross` and `latchCross`, and what passes them is entered by
`State.cross`. -/
theorem crossingsEnterTheLock : Obligations.CrossingsEnterTheLock := by
  unfold Obligations.CrossingsEnterTheLock
  intro g v q sz ring lat h mask d scope s c core k quay tile latch b r xm big full put
  refine ⟨fun hq hlk => ⟨?_, fun hxm => ?_, fun hk hg => exec_xout_of_pass hk hg hq hlk, fun hbig hkept hroom => ?_,
      fun tl id hbig hkept => exec_xinr_of_kept hq hbig ?_ hlk hkept⟩,
    fun hk e he => exec_xout_of_later hk he, fun hk hg => exec_xout_of_no_guard hk hg, fun hxm => exec_xinm_of_outside hxm,
    fun hq => ⟨?_, exec_xinr_of_out hq, fun hxm => ?_, fun hk => ?_⟩, fun hq hover => exec_xinr_of_over hq hover,
    fun hq hlk => ⟨?_, fun hbig hfull => exec_xinr_of_noLock hq hbig hfull hlk, fun hxm => ?_, fun hk => ?_⟩,
    fun hl ht hlk => ⟨?_, ?_⟩, fun hl => ⟨?_, ?_⟩, fun hl ht => ⟨?_, ?_⟩, fun hl ht hlk => ⟨?_, ?_⟩, rfl, fun kind out src dst bytes => ?_⟩
  · rw [exec_xin_eq, quayCross_of_pass hq rfl hlk]
    rfl
  · rw [exec_xinm_of_inside hxm, quayCross_of_pass hq rfl hlk]
  · obtain ⟨u, hclaim, hu⟩ := claimTile_of_room (x := s.fr.x) hroom
    exact ⟨u, hclaim, exec_xinr_of_claim hq hbig (fun hfull => hroom hfull.2) hlk hkept hclaim hu⟩
  · exact fun hfull => Option.some_ne_none _ (hkept.symm.trans hfull.1)
  · rw [exec_xin_eq, quayCross_of_out hq]
  · rw [exec_xinm_of_inside hxm, quayCross_of_out hq]
  · rw [exec_xout_of_first hk, quayCross_of_out hq]
  · rw [exec_xin_eq, quayCross_of_noLock hq rfl hlk]
  · rw [exec_xinm_of_inside hxm, quayCross_of_noLock hq rfl hlk]
  · rw [exec_xout_of_first hk, quayCross_of_noLock hq rfl hlk]
  · rw [exec_xina_eq, latchCross_of_pass hl ht hlk]
  · rw [exec_xouta_eq, latchCross_of_pass hl ht hlk]
  · rw [exec_xina_eq, latchCross_of_masked hl]
  · rw [exec_xouta_eq, latchCross_of_masked hl]
  · rw [exec_xina_eq, latchCross_of_out hl ht]
  · rw [exec_xouta_eq, latchCross_of_out hl ht]
  · rw [exec_xina_eq, latchCross_of_noLock hl ht hlk]
  · rw [exec_xouta_eq, latchCross_of_noLock hl ht hlk]
  · obtain ⟨keep, hcross, hregs⟩ := s.ctx_cross_self kind out c.lk src dst bytes
    refine ⟨?_, State.cross_mem .., State.cross_faults .., State.cross_pend .., hregs, fun y hy => State.ctx_cross_ne _ _ _ _ _ _ _ hy⟩
    rw [hcross, List.getLast?_append_of_ne_nil _ (List.cons_ne_nil _ _)]
    rfl

end Sys2Proof.Machine

/-! SUPPORT. LAUNCH, TISS and SYS: the checks of their records and the messages that they enter (08 R183 to R187). -/

namespace Sys2Proof.Machine

section
variable {g : Guard} {a n f : Nat} {s : State}

theorem ownRecord_of_aligned {v n : Nat} (h : v % n = 0) : ownRecord s v n = ownOnly (s.ctx s.fr.x) v n :=
  if_neg (not_not.2 h)

theorem ownRecord_of_misaligned {v n : Nat} (h : v % n ≠ 0) : ownRecord s v n = some 0 := if_pos h

theorem postMsg_fr (kind : CrossKind) (bytes : Nat) (m : Msg) : (postMsg s kind bytes m).fr = { s.fr with id := s.nextId } :=
  s.cross_fr ..

/-! ### LAUNCH (08 R184) -/

theorem exec_launch_of_bad {r : Nat} (h : ownRecord s (s.sget a).toNat 64 = some r) :
    exec (.launch g a) s = .next (once g s (s.berthBound r 0 (s.sget a).toNat)) := by
  change execLaunch g a s = _
  simp only [execLaunch, onceSlot_eq, h]

theorem exec_launch_of_noLock (h : ownRecord s (s.sget a).toNat 64 = none) (hlk : (s.ctx s.fr.x).lk = 0) :
    exec (.launch g a) s = .next (once g s s.noLock) := by
  change execLaunch g a s = _
  simp only [execLaunch, onceSlot_eq, h, if_pos hlk]

theorem exec_launch_of_pass (h : ownRecord s (s.sget a).toNat 64 = none) (hlk : (s.ctx s.fr.x).lk ≠ 0) : exec (.launch g a) s
    = .next (once g s ((postMsg s .launch 64 { id := 0, kind := .launch }).push (s.fr.t + 2)
        (.launchRead ((Place.berth (coreOf s.fr.x)).key ((s.sget a).toNat % 2 ^ 16))))) := by
  change execLaunch g a s = _
  simp only [execLaunch, onceSlot_eq, h, if_neg hlk, postMsg_fr]

/-! ### TISS (08 R185) -/

theorem exec_tiss_of_bad {r : Nat} (h : ownRecord s (s.sget a).toNat 32 = some r) :
    exec (.tiss g a) s = .next (once g s (s.berthBound r 0 (s.sget a).toNat)) := by
  change execTiss g a s = _
  simp only [execTiss, onceSlot_eq, h]

theorem exec_tiss_of_dock (h : ownRecord s (s.sget a).toNat 32 = none)
    (hd : ((s.gangOf s.fr.x).dock && dockTile (s.mem.readN ((Place.berth (coreOf s.fr.x)).key ((s.sget a).toNat % 2 ^ 16)) 32)) = true) :
    exec (.tiss g a) s = .next (once g s (s.raiseIssue 22 (BitVec.ofNat 64 s.fr.bits))) := by
  change execTiss g a s = _
  simp only [execTiss, onceSlot_eq, h, if_pos hd]

/-- The read of a tile word two counts after issue, and the effects of the TISS noted. -/
def tissReads (s u : State) (key : Nat) : State := (u.push (s.fr.t + 2) (.tissRead key)).noteEff (s.fr.t + 4)

/-- Whether a tile word is for another module, and the context holds a rotation to send it in (08 R183, R189). -/
def TissCrosses (s : State) (raw : Nat) : Prop :=
  4 ≤ fld raw 6 4 ∧ fld raw 6 4 < 6 ∧ fld raw 3 0 < 10 ∧ (s.ctx s.fr.x).lk ≠ 0

section
variable {key raw : Nat} (h : ownRecord s (s.sget a).toNat 32 = none) (hkey : (Place.berth (coreOf s.fr.x)).key ((s.sget a).toNat % 2 ^ 16) = key)
  (hd : ((s.gangOf s.fr.x).dock && dockTile (s.mem.readN key 32)) = false) (hraw : foreseen s key 32 = raw)
include h hkey hd hraw

theorem exec_tiss_of_abroad (hc : TissCrosses s raw) :
    exec (.tiss g a) s = .next (once g s (tissReads s { s.cross (.tiss raw) true (s.ctx s.fr.x).lk 0 0 32 with fr := s.fr } key)) := by
  change execTiss g a s = _
  obtain ⟨hlo, hhi, hop, hlk⟩ := hc
  have hif : (decide (4 ≤ fld raw 6 4 ∧ fld raw 6 4 < 6 ∧ fld raw 3 0 < 10) && (s.ctx s.fr.x).lk != 0) = true := by
    simp only [Bool.and_eq_true, decide_eq_true_iff, bne_iff_ne]
    exact ⟨⟨hlo, hhi, hop⟩, hlk⟩
  simp only [execTiss, onceSlot_eq, h, hkey, hd, hraw, Bool.false_eq_true, if_false, if_pos hif]
  rfl

theorem exec_tiss_of_home (hc : ¬ TissCrosses s raw) : exec (.tiss g a) s = .next (once g s (tissReads s s key)) := by
  change execTiss g a s = _
  have hif : ¬ (decide (4 ≤ fld raw 6 4 ∧ fld raw 6 4 < 6 ∧ fld raw 3 0 < 10) && (s.ctx s.fr.x).lk != 0) = true := by
    simp only [Bool.and_eq_true, decide_eq_true_iff, bne_iff_ne]
    exact fun ⟨⟨hlo, hhi, hop⟩, hlk⟩ => hc ⟨hlo, hhi, hop, hlk⟩
  simp only [execTiss, onceSlot_eq, h, hkey, hd, hraw, Bool.false_eq_true, if_false, if_neg hif]
  rfl

end

/-! ### SYS (08 R187) -/

theorem exec_sys_of_noLock (hlk : (s.ctx s.fr.x).lk = 0) : exec (.sys g a n f) s = .next (once g s s.noLock) := by
  change execSys g a n f s = _
  simp only [execSys, onceSlot_eq, if_pos hlk]

theorem exec_sys_of_lock (hlk : (s.ctx s.fr.x).lk ≠ 0) : exec (.sys g a n f) s = .next (once g s
    (postMsg s (.sys n f (s.sget a)) 16 { id := 0, kind := .sys, a := n, b := f, d := s.schOf, data := (s.sget a).toNat })) := by
  change execSys g a n f s = _
  simp only [execSys, onceSlot_eq, if_neg hlk]

end

/-- Settles O29: the record's alignment and bounds are judged first, then the dock core's formats or the lock's rotation. -/
theorem requestsToThePilot : Obligations.RequestsToThePilot := by
  unfold Obligations.RequestsToThePilot
  intro g a n f s c v key sent raw abroad reads
  have hrec {n : Nat} (hal : v % n = 0) {o : Option Nat} (h : ownOnly c v n = o) : ownRecord s v n = o := (ownRecord_of_aligned hal).trans h
  refine ⟨fun hal h hlk => exec_launch_of_pass (hrec hal h) hlk, fun hal h hd => ⟨exec_tiss_of_abroad (hrec hal h) rfl hd rfl,
      exec_tiss_of_home (hrec hal h) rfl hd rfl⟩, fun hal h hdock hd => exec_tiss_of_dock (hrec hal h) ?_, exec_sys_of_lock, exec_sys_of_noLock,
    fun hal h hlk => exec_launch_of_noLock (hrec hal h) hlk, fun hal => exec_launch_of_bad (ownRecord_of_misaligned hal),
    fun hal => exec_tiss_of_bad (ownRecord_of_misaligned hal), fun r hal h => exec_launch_of_bad (hrec hal h),
    fun r hal h => exec_tiss_of_bad (hrec hal h)⟩
  exact Bool.and_eq_true_iff.2 ⟨hdock, hd⟩

end Sys2Proof.Machine

/-! SUPPORT. What the issue of a bundle pays and leaves (08 R158, 07 R152). -/

namespace Sys2Proof.Machine

/-! ### What a bundle pays (07 R152) -/

/-- What paying for a bundle of context `x` may change: gangs, the agenda, and of the contexts the charges and the watchdog's count of `x`. -/
def State.Paid (x : Nat) (s u : State) : Prop :=
  (∃ ag gs cs, u = { s with agenda := ag, gangs := gs, ctxs := cs })
    ∧ (∀ y, y ≠ x → u.ctx y = s.ctx y) ∧ ∃ ch w, u.ctx x = { s.ctx x with charges := ch, wcnt := w }

section
variable {x : Nat} {s u v : State}

theorem State.Paid.refl (x : Nat) (s : State) : s.Paid x s := ⟨⟨_, _, _, rfl⟩, fun _ _ => rfl, _, _, rfl⟩

theorem State.Paid.trans (h : State.Paid x s u) (k : State.Paid x u v) : State.Paid x s v := by
  obtain ⟨⟨ag, gs, cs, hu⟩, hne, ch, w, hx⟩ := h
  obtain ⟨⟨ag', gs', cs', hv⟩, hne', ch', w', hx'⟩ := k
  refine ⟨⟨ag', gs', cs', ?_⟩, fun y hy => (hne' y hy).trans (hne y hy), ch', w', ?_⟩
  · rw [hv, hu]
  · rw [hx', hx]

theorem State.Paid.updGang (h : State.Paid x s u) (gi : Nat) (f : Gang → Gang) : State.Paid x s (u.updGang gi f) :=
  h.trans ⟨⟨_, _, _, rfl⟩, fun _ _ => rfl, _, _, rfl⟩

theorem State.Paid.updCtx (h : State.Paid x s u) {f : Ctx → Ctx} (hf : ∃ ch w, f (u.ctx x) = { u.ctx x with charges := ch, wcnt := w }) :
    State.Paid x s (u.updCtx x f) := by
  refine h.trans ⟨⟨_, _, _, rfl⟩, fun y hy => u.ctx_updCtx_ne f hy, ?_⟩
  rw [State.ctx_updCtx_self]
  exact hf

theorem State.Paid.gangOf_eq (h : State.Paid x s u) : u.gangOf x = u.gang (s.ctx x).gang := by
  obtain ⟨-, -, ch, w, hx⟩ := h
  rw [State.gangOf, hx]

/-- The debit of a charge, noted with the context, as each slot of a bundle makes it. -/
def State.chargeSlot (x : Nat) (hnd : Bool) (look s : State) (t : Staged) : State :=
  if slotCharge look t = 0 then s
  else (s.updGang (s.ctx x).gang fun g => g.debit (slotCharge look t)).updCtx x fun c =>
    { c with charges := c.charges ++ [(hnd, t.ord, slotCharge look t)] }

theorem State.chargeSlots_eq (s : State) (x : Nat) (hnd : Bool) (look : State) (slots : List Staged) :
    s.chargeSlots x hnd look slots = slots.foldl (State.chargeSlot x hnd look) s := rfl

theorem State.chargeSlot_paid (x : Nat) (hnd : Bool) (look s : State) (t : Staged) : s.Paid x (State.chargeSlot x hnd look s t) := by
  unfold State.chargeSlot
  split
  · exact State.Paid.refl x s
  · exact ((State.Paid.refl x s).updGang _ _).updCtx ⟨_, _, rfl⟩

theorem State.chargeSlots_paid (x : Nat) (hnd : Bool) (look s : State) (slots : List Staged) : s.Paid x (s.chargeSlots x hnd look slots) := by
  rw [State.chargeSlots_eq]
  induction slots generalizing s with
  | nil => exact State.Paid.refl x s
  | cons t slots ih => exact (State.chargeSlot_paid x hnd look s t).trans (ih _)

/-- The debit of one slot's charge that the balance covers. -/
theorem State.gangOf_chargeSlot {x : Nat} {hnd : Bool} {look s : State} {t : Staged} (hd : (s.gangOf x).dock = false)
    (hb : slotCharge look t ≤ (s.gangOf x).bal) :
    (State.chargeSlot x hnd look s t).gangOf x = { s.gangOf x with bal := (s.gangOf x).bal - slotCharge look t } := by
  rw [(State.chargeSlot_paid x hnd look s t).gangOf_eq, State.chargeSlot]
  split
  · next h => simp only [h, Nat.sub_zero]; rfl
  · change (s.updGang (s.ctx x).gang fun g => g.debit (slotCharge look t)).gang (s.ctx x).gang = _
    rw [State.gang_updGang_self]
    change (s.gangOf x).debit _ = _
    simp [Gang.debit, hd, hb]

/-- The charges of a bundle's slots leave the meter their sum less, where the balance covers it. -/
theorem State.gangOf_chargeSlots {x : Nat} {hnd : Bool} {look : State} (slots : List Staged) {s : State} (hd : (s.gangOf x).dock = false)
    (hb : (slots.map (slotCharge look)).sum ≤ (s.gangOf x).bal) : (s.chargeSlots x hnd look slots).gangOf x
      = { s.gangOf x with bal := (s.gangOf x).bal - (slots.map (slotCharge look)).sum } := by
  rw [State.chargeSlots_eq]
  induction slots generalizing s with
  | nil => rfl
  | cons t slots ih =>
    rw [List.map_cons, List.sum_cons] at hb ⊢
    have hone := State.gangOf_chargeSlot (x := x) (hnd := hnd) (look := look) (t := t) hd (by omega)
    rw [List.foldl_cons, ih (by rw [hone]; exact hd) (by rw [hone]; exact Nat.le_sub_of_add_le' hb), hone, Nat.sub_sub]

end

theorem State.watchdogTick_paid (x : Nat) (s : State) : s.Paid x (s.watchdogTick x) := by
  have hset : s.Paid x (s.setCtx x { s.ctx x with wcnt := (s.ctx x).wcnt + 1 }) :=
    (State.Paid.refl x s).updCtx (f := fun c => { c with wcnt := c.wcnt + 1 }) ⟨_, _, rfl⟩
  unfold State.watchdogTick
  dsimp only
  split
  · exact hset.trans ⟨⟨_, _, _, rfl⟩, fun _ _ => rfl, _, _, rfl⟩
  · exact hset

/-- The owned issue cycle of a gang (20 R342). -/
def Gang.spendCycle (g : Gang) : Gang := { g with deficit := if g.dock then g.deficit else g.deficit - 1 }

section
variable (x : Nat) (hnd : Bool) (look s : State) (slots : List Staged)

/-- The watchdog's part comes last, and leaves the gangs. -/
theorem State.payIssue_eq : let u := s.chargeSlots x hnd look slots
    ∃ v, s.payIssue x hnd look slots = v ∧ State.Paid x (u.updGang (u.ctx x).gang Gang.spendCycle) v
      ∧ v.gangs = (u.updGang (u.ctx x).gang Gang.spendCycle).gangs := by
  intro u
  refine ⟨_, rfl, ?_⟩
  unfold State.payIssue
  dsimp only
  split
  · refine ⟨State.watchdogTick_paid x _, ?_⟩
    unfold State.watchdogTick
    dsimp only
    split <;> rfl
  · exact ⟨(State.Paid.refl x _).updCtx ⟨_, _, rfl⟩, rfl⟩

theorem State.payIssue_paid : s.Paid x (s.payIssue x hnd look slots) := by
  obtain ⟨v, hv, hpaid, -⟩ := State.payIssue_eq x hnd look s slots
  rw [hv]
  exact ((State.chargeSlots_paid x hnd look s slots).updGang _ _).trans hpaid

variable {x hnd look s slots}

theorem State.gangOf_payIssue (hd : (s.gangOf x).dock = false) (hb : (slots.map (slotCharge look)).sum ≤ (s.gangOf x).bal) :
    (s.payIssue x hnd look slots).gangOf x = { s.gangOf x with
      bal := (s.gangOf x).bal - (slots.map (slotCharge look)).sum, deficit := (s.gangOf x).deficit - 1 } := by
  obtain ⟨v, hv, hpaid, hgangs⟩ := State.payIssue_eq x hnd look s slots
  have hspent : v.gangOf x = ((s.chargeSlots x hnd look slots).gangOf x).spendCycle := by
    rw [hpaid.gangOf_eq]
    change SMap.get {} v.gangs _ = _
    rw [hgangs]
    exact State.gang_updGang_self ..
  rw [hv, hspent, State.gangOf_chargeSlots slots hd hb]
  simp [Gang.spendCycle, hd]

end

/-! ### What the issue of a bundle leaves (08 R158) -/

/-- What the issue of a bundle makes of its context. -/
structure Ctx.IssuedFrom (c d : Ctx) (pc u : Nat) : Prop where
  pc : d.pc = pc + 1
  xfers : d.xfers = c.xfers.filter fun e => decide (u < e.1)
  regs : d.regs = c.regs
  gang : d.gang = c.gang

section
variable (s : State) (slots : List Staged) (hlb : (s.ctx s.fr.x).lb = false)
include hlb

/-- A bundle that issues pays, moves its context's sequencer on, and stages its slots. -/
theorem issueSlots_eq : ∃ d, Ctx.IssuedFrom (s.ctx s.fr.x) d s.fr.addr s.fr.t
    ∧ issueSlots s slots = { (s.payIssue s.fr.x s.fr.hnd s slots).setCtx s.fr.x d with staged := slots } := by
  obtain ⟨⟨ag, gs, cs, heq⟩, -, ch, w, hx⟩ := State.payIssue_paid s.fr.x s.fr.hnd s s slots
  have hfr : (s.payIssue s.fr.x s.fr.hnd s slots).fr = s.fr := by rw [heq]
  refine ⟨_, ⟨?_, ?_, ?_, ?_⟩, rfl⟩
  · simp only [hx, hlb, hfr, Bool.false_and, Bool.false_eq_true, if_false]
  · simp only [hx, hfr, ← decide_not, Nat.not_le]
  · simp only [hx]
  · simp only [hx]

theorem ctx_issueSlots_self : Ctx.IssuedFrom (s.ctx s.fr.x) ((issueSlots s slots).ctx s.fr.x) s.fr.addr s.fr.t := by
  obtain ⟨d, hd, h⟩ := issueSlots_eq s slots hlb
  have hctx : (issueSlots s slots).ctx s.fr.x = d := by
    rw [h]
    exact State.ctx_setCtx_self ..
  rw [hctx]
  exact hd

theorem ctx_issueSlots_ne {y : Nat} (hy : y ≠ s.fr.x) : (issueSlots s slots).ctx y = s.ctx y := by
  obtain ⟨d, -, h⟩ := issueSlots_eq s slots hlb
  obtain ⟨-, hne, -⟩ := State.payIssue_paid s.fr.x s.fr.hnd s s slots
  rw [h]
  exact (State.ctx_setCtx_ne _ _ hy).trans (hne y hy)

theorem issueSlots_kept : (issueSlots s slots).faults = s.faults ∧ (issueSlots s slots).cores = s.cores
    ∧ (issueSlots s slots).clus = s.clus ∧ (issueSlots s slots).mem = s.mem ∧ (issueSlots s slots).pend = s.pend := by
  obtain ⟨d, -, h⟩ := issueSlots_eq s slots hlb
  obtain ⟨⟨ag, gs, cs, heq⟩, -, -⟩ := State.payIssue_paid s.fr.x s.fr.hnd s s slots
  rw [h, heq]
  exact ⟨rfl, rfl, rfl, rfl, rfl⟩

theorem gangOf_issueSlots (hd : (s.gangOf s.fr.x).dock = false) (hb : (slots.map (slotCharge s)).sum ≤ (s.gangOf s.fr.x).bal) :
    (issueSlots s slots).gangOf s.fr.x = { s.gangOf s.fr.x with
      bal := (s.gangOf s.fr.x).bal - (slots.map (slotCharge s)).sum, deficit := (s.gangOf s.fr.x).deficit - 1 } := by
  have hgang := (ctx_issueSlots_self s slots hlb).gang
  obtain ⟨d, -, h⟩ := issueSlots_eq s slots hlb
  have hgangs : (issueSlots s slots).gangs = (s.payIssue s.fr.x s.fr.hnd s slots).gangs := by rw [h]; rfl
  rw [← State.gangOf_payIssue (hnd := s.fr.hnd) hd hb, (State.payIssue_paid s.fr.x s.fr.hnd s s slots).gangOf_eq, State.gangOf, hgang]
  exact congrArg (fun m => SMap.get ({} : Gang) m (s.ctx s.fr.x).gang) hgangs

end

/-! ### A bundle that a check refuses (08 R158, 02 R38, 07 R152) -/

section
variable {s : State} {x pc b : Nat}

/-- A bundle outside the allotment raises the privilege fault. -/
theorem execBundleIssue_of_out (hf : s.Fetches x pc) (hout : (s.ctx x).bundleIn pc = false) :
    execBundleIssue x s = .next (State.privilege { s with fr := s.bundleFrame x pc } 1) := by
  have hrun : (s.gangOf x).run = .running := hf.running
  obtain ⟨hi, hh, hre, hat, hnull, -, -, -, hpc⟩ := hf
  have hat' (fr : Frame) : issuedAtF { s with fr := fr } x = false := hat
  simp [execBundleIssue, hrun, hh, hre, hi, hat', Nat.not_lt.2 hnull, hpc, hout, State.bundleFrame]

/-- A bundle over a resource limit raises the bundle-resource fault. -/
theorem execBundleIssue_of_over (hf : s.Fetches x pc) (hin : (s.ctx x).bundleIn pc = true) (hbr : hitBreak (s.ctx x) pc = none)
    (hb : s.bundleAt (coreOf x) pc = b) (hover : resourceOver b ≠ 0) :
    execBundleIssue x s = .next (State.raiseIssue { s with fr := s.bundleFrame x pc } 2 (BitVec.ofNat 64 (resourceOver b))) := by
  rw [execBundleIssue_of_fetches hf hin hbr, hb]
  obtain ⟨-, -, -, -, -, hskip, -⟩ := hf
  have hskip' (fr : Frame) (h : fr.x = x) : (({ s with fr := fr } : State).ctx fr.x).skip = 0 := by rw [h]; exact hskip
  simp [issueBundle, hskip' (s.bundleFrame x pc) rfl, hover]

theorem issueBundle_of_unpaid {s : State} (hskip : (s.ctx s.fr.x).skip = 0) (hci : (s.ctx s.fr.x).psw.getLsbD 10 = false)
    (hover : resourceOver b = 0) (hhnd : s.fr.hnd = false) (hone : (s.gangOf s.fr.x).oneCore = true) {C : Nat}
    (hC : (if (s.gangOf s.fr.x).dock then 0 else ((stageSlots s.fr b 0).map (slotCharge s)).foldl (· + ·) 0) = C)
    (hadm : (s.gangOf s.fr.x).admits (s.ctx s.fr.x).hlmthr.toNat C = false) :
    issueBundle s b = s.request (s.ctx s.fr.x).gang s.fr.t (.meter s.fr.x C) := by
  simp [issueBundle, hskip, hover, ciHolds_of_mode_off hci, meterIssue, hC, hadm, hhnd, hone]

/-- A bundle that the meter refuses asks its gang on one core to freeze at its count. -/
theorem execBundleIssue_of_unpaid (hf : s.Fetches x pc) (hin : (s.ctx x).bundleIn pc = true) (hbr : hitBreak (s.ctx x) pc = none)
    (hb : s.bundleAt (coreOf x) pc = b) (hover : resourceOver b = 0) (hone : (s.gangOf x).oneCore = true)
    (hadm : (s.gangOf x).admits (s.ctx x).hlmthr.toNat (s.bundleCharge x pc b) = false) : execBundleIssue x s
      = .next (State.request { s with fr := s.bundleFrame x pc } (s.ctx x).gang (s.now x false) (.meter x (s.bundleCharge x pc b))) := by
  rw [execBundleIssue_of_fetches hf hin hbr, hb]
  obtain ⟨-, -, -, -, -, hskip, -, hci, -⟩ := hf
  refine congrArg _ (issueBundle_of_unpaid (s := { s with fr := s.bundleFrame x pc }) hskip hci hover rfl hone ?_ hadm)
  rw [slotCharge_fr]
  rfl

end

/-- Settles O41: the checks of `execBundleIssue` and `issueBundle` in their order, and `issueSlots` for a bundle that passes them. -/
theorem bundlesIssue : Obligations.BundlesIssue := by
  unfold Obligations.BundlesIssue
  intro s x pc b hf c u g fr C
  refine ⟨fun ha => ?_, fun hout => ⟨_, execBundleIssue_of_out hf hout, rfl, rfl, rfl⟩,
    fun hin hbr hb hover => ⟨_, execBundleIssue_of_over hf hin hbr hb hover, rfl, rfl, rfl⟩,
    fun hin hbr hb hover hone hadm => ⟨_, execBundleIssue_of_unpaid hf hin hbr hb hover hone hadm, rfl, rfl, ?_⟩, fun n _ => ?_⟩
  · obtain ⟨-, -, -, -, -, -, hlb, -⟩ := id hf
    obtain ⟨hpc, hxfers, hregs, hgang⟩ := ctx_issueSlots_self { s with fr := fr } (stageSlots fr b 0) hlb
    obtain ⟨hfaults, hcores, hclus, hmem, hpend⟩ := issueSlots_kept { s with fr := fr } (stageSlots fr b 0) hlb
    refine ⟨_, execBundleIssue_of_admits hf ha, rfl, hpc, hxfers, hregs, fun y hy => ctx_issueSlots_ne { s with fr := fr } _ hlb hy,
      hfaults, hcores, hclus, fun hd hC => ?_, fun _ => ⟨hmem, hpend⟩⟩
    have hsum : ((stageSlots fr b 0).map (slotCharge { s with fr := fr })).sum = C := by
      rw [slotCharge_fr, List.sum_eq_foldl]
      exact (if_neg (ne_true_of_eq_false hd)).symm
    have hmeter := gangOf_issueSlots { s with fr := fr } (stageSlots fr b 0) hlb hd (hsum.trans_le hC)
    rw [hsum] at hmeter
    constructor
    · rw [show (State.gangOf _ x).bal = _ from congrArg Gang.bal hmeter]
      exact Nat.sub_add_cancel hC
    · exact congrArg Gang.deficit hmeter
  · exact congrArg Gang.reqs (State.gang_updGang_self { s with fr := fr } c.gang _)
  · rfl

end Sys2Proof.Machine

/-! SUPPORT. Tile jobs found and changed by their numbers, and what the acts of a tile word leave (08 R185, 09 R211 to R215). -/

namespace Sys2Proof.Machine

/-! ### Jobs by their numbers -/

/-- The jobs with other numbers than `id`, in their order. -/
def State.otherTiles (s : State) (id : Nat) : List TileJob := s.tiles.filter fun e => e.id != id

section
variable {s : State} {id : Nat}

theorem State.tileJob_id {j : TileJob} (h : s.tileJob id = some j) : j.id = id := by
  simpa using List.find?_some h

theorem State.mem_otherTiles {e : TileJob} : e ∈ s.otherTiles id ↔ e ∈ s.tiles ∧ e.id ≠ id := by
  simp [State.otherTiles]

/-- A job is found among the jobs with other numbers than another's. -/
theorem State.tileJob_eq_find_otherTiles {i : Nat} (h : i ≠ id) : s.tileJob i = (s.otherTiles id).find? fun e => e.id == i := by
  rw [State.otherTiles, List.find?_filter, State.tileJob]
  congr 1
  funext e
  by_cases he : e.id = i
  · simp [he, h]
  · simp [he]

theorem State.tileJob_updTile {f : TileJob → TileJob} (hf : ∀ e, e.id = id → (f e).id = id) :
    (s.updTile id f).tileJob id = (s.tileJob id).map f := by
  unfold State.tileJob State.updTile
  dsimp only
  rw [List.find?_map]
  have hpred : ((fun j : TileJob => j.id == id) ∘ fun j => if j.id == id then f j else j) = fun j => j.id == id := by
    funext e
    by_cases he : e.id = id
    · simp [he, hf]
    · simp [he]
  rw [hpred]
  cases h : s.tiles.find? fun j => j.id == id with
  | none => rfl
  | some e => simp [State.tileJob_id (s := s) h]

theorem State.tileJob_updTile_of_some {f : TileJob → TileJob} {j : TileJob} (hj : s.tileJob id = some j) (hf : ∀ e, (f e).id = e.id) :
    (s.updTile id f).tileJob id = some (f j) := by
  rw [State.tileJob_updTile fun e he => (hf e).trans he, hj]
  rfl

theorem State.otherTiles_updTile {f : TileJob → TileJob} (hf : ∀ e, e.id = id → (f e).id = id) :
    (s.updTile id f).otherTiles id = s.otherTiles id := by
  unfold State.otherTiles State.updTile
  dsimp only
  induction s.tiles with
  | nil => rfl
  | cons e l ih =>
    by_cases he : e.id = id
    · simpa [he, hf] using ih
    · simpa [he] using ih

/-- Jobs filtered and changed under their numbers: a job that stays is found as it has been changed. -/
theorem find?_filterMap_of_id {held : TileJob → Option TileJob} (hid : ∀ e k, held e = some k → k.id = e.id)
    (hsome : ∀ e, e.id = id → held e ≠ none) (l : List TileJob) :
    (l.filterMap held).find? (fun e => e.id == id) = (l.find? fun e => e.id == id).bind held := by
  induction l with
  | nil => rfl
  | cons e l ih =>
    by_cases he : e.id = id
    · obtain ⟨k, hk⟩ := Option.ne_none_iff_exists'.1 (hsome e he)
      simp [he, hk, hid e k hk]
    · cases hk : held e with
      | none => simp [hk, he, ih]
      | some k => simp [hk, he, hid e k hk, ih]

end

/-! ### What the acts of a tile word leave -/

/-- What of a job the acts of its word leave from its acceptance and start on. -/
structure TileJob.Same (a b : TileJob) : Prop where
  id : a.id = b.id
  op : a.op = b.op
  w : a.w = b.w
  lvl : a.lvl = b.lvl
  core : a.core = b.core
  y : a.y = b.y
  parent : a.parent = b.parent
  done : a.done = b.done
  run : a.run = b.run
  start : a.start = b.start

theorem TileJob.Same.refl (a : TileJob) : a.Same a := ⟨rfl, rfl, rfl, rfl, rfl, rfl, rfl, rfl, rfl, rfl⟩

theorem TileJob.Same.trans {a b c : TileJob} (h : a.Same b) (k : b.Same c) : a.Same c :=
  ⟨h.id.trans k.id, h.op.trans k.op, h.w.trans k.w, h.lvl.trans k.lvl, h.core.trans k.core, h.y.trans k.y, h.parent.trans k.parent,
    h.done.trans k.done, h.run.trans k.run, h.start.trans k.start⟩

/-- What the acts of word `id` leave; the contexts as a whole only where `P` holds, and other jobs where `Q` holds. -/
structure State.TileKeeps (P Q : Prop) (id : Nat) (s u : State) : Prop where
  gangs : u.gangs = s.gangs
  clus : u.clus = s.clus
  clean : u.Clean ↔ s.Clean
  nextId : s.nextId ≤ u.nextId
  flight : ∀ e ∈ s.flight, e ∈ u.flight
  regs : ∀ y, (u.ctx y).regs = (s.ctx y).regs
  psw : ∀ y, (u.ctx y).psw = (s.ctx y).psw
  ctxs : P → u.ctxs = s.ctxs
  job : ∀ j, s.tileJob id = some j → ∃ k, u.tileJob id = some k ∧ k.Same j
  others : Q → u.otherTiles id = s.otherTiles id

namespace State.TileKeeps

section
variable {P Q : Prop} {id : Nat} {s u v : State}

theorem trans (h : TileKeeps P Q id s u) (k : TileKeeps P Q id u v) : TileKeeps P Q id s v where
  gangs := k.gangs.trans h.gangs
  clus := k.clus.trans h.clus
  clean := k.clean.trans h.clean
  nextId := h.nextId.trans k.nextId
  flight e he := k.flight e (h.flight e he)
  regs y := (k.regs y).trans (h.regs y)
  psw y := (k.psw y).trans (h.psw y)
  ctxs hP := (k.ctxs hP).trans (h.ctxs hP)
  job j hj := by
    obtain ⟨j', hj', hs⟩ := h.job j hj
    obtain ⟨j'', hj'', hs'⟩ := k.job j' hj'
    exact ⟨j'', hj'', hs'.trans hs⟩
  others hq := (k.others hq).trans (h.others hq)

/-- Acts, the frame in hand, effects, faults, the module's record and free values are no part of what a word's acts leave. -/
theorem leave (ag : List Act) (fr : Frame) (pe : List Eff) (fa : List PendFault) (m : Module) (n : Nat) :
    TileKeeps P Q id s { s with agenda := ag, fr := fr, pend := pe, faults := fa, mod := m, free := n } :=
  ⟨rfl, rfl, Iff.rfl, le_rfl, fun _ h => h, fun _ => rfl, fun _ => rfl, fun _ => rfl, fun j hj => ⟨j, hj, .refl j⟩, fun _ => rfl⟩

theorem refl (P Q : Prop) (id : Nat) (s : State) : TileKeeps P Q id s s := leave s.agenda s.fr s.pend s.faults s.mod s.free

theorem fresh (s : State) : TileKeeps P Q id s s.fresh.2 :=
  ⟨rfl, rfl, Iff.rfl, Nat.le_succ _, fun _ h => h, fun _ => rfl, fun _ => rfl, fun _ => rfl, fun j hj => ⟨j, hj, .refl j⟩, fun _ => rfl⟩

theorem jobFr (s : State) (j : TileJob) : TileKeeps P Q id s (s.jobFr j) := leave ..

theorem tileAt (s : State) (j : TileJob) (due : Nat) (st : TileStep) : TileKeeps P Q id s (s.tileAt j due st) := leave ..

theorem tileEndAt (s : State) (j : TileJob) (due : Nat) : TileKeeps P Q id s (s.tileEndAt j due) :=
  ⟨rfl, rfl, Iff.rfl, le_rfl, fun _ h => List.mem_append_left _ h, fun _ => rfl, fun _ => rfl, fun _ => rfl,
    fun j hj => ⟨j, hj, .refl j⟩, fun _ => rfl⟩

theorem updTile (s : State) {f : TileJob → TileJob} (hf : ∀ e, (f e).Same e) : TileKeeps P Q id s (s.updTile id f) :=
  ⟨rfl, rfl, Iff.rfl, le_rfl, fun _ h => h, fun _ => rfl, fun _ => rfl, fun _ => rfl,
    fun j hj => ⟨f j, by rw [State.tileJob_updTile fun e he => (hf e).id.trans he, hj]; rfl, hf j⟩,
    fun _ => State.otherTiles_updTile fun e he => (hf e).id.trans he⟩

/-- A change of a context's crossings alone. -/
theorem updCtx (hP : ¬ P) (s : State) (y : Nat) {f : Ctx → Ctx} (hregs : (f (s.ctx y)).regs = (s.ctx y).regs)
    (hpsw : (f (s.ctx y)).psw = (s.ctx y).psw) : TileKeeps P Q id s (s.updCtx y f) := by
  refine ⟨rfl, rfl, Iff.rfl, le_rfl, fun _ h => h, fun z => ?_, fun z => ?_, fun h => absurd h hP, fun j hj => ⟨j, hj, .refl j⟩, fun _ => rfl⟩
  · by_cases hz : z = y
    · rw [hz, State.ctx_updCtx_self, hregs]
    · rw [State.ctx_updCtx_ne _ _ hz]
  · by_cases hz : z = y
    · rw [hz, State.ctx_updCtx_self, hpsw]
    · rw [State.ctx_updCtx_ne _ _ hz]

theorem pushClk (s : State) (at_ : Nat) (e : Effect) (p : Nat) : TileKeeps P Q id s (s.pushClk at_ e p) := by
  unfold State.pushClk
  split
  · exact leave ..
  · exact leave ..

theorem dieCross (hP : ¬ P) (s : State) (j : TileJob) (k : Nat) (out : Bool) (n c : Nat) :
    TileKeeps P Q id s (dieCross s j k out n c) := by
  unfold Sys2Proof.Machine.dieCross
  split
  · exact refl P Q id s
  · exact (((fresh s).trans (updCtx hP _ _ rfl rfl)).trans (jobFr _ j)).trans (pushClk ..)

end

end State.TileKeeps

/-- A map's values changed by a function that leaves the default. -/
theorem SMap_get_map {α : Type} {d : α} {f : α → α} (hd : f d = d) (m : SMap α) (n : Nat) :
    SMap.get d (m.map fun e => (e.1, f e.2)) n = f (SMap.get d m n) := by
  induction m with
  | nil => exact hd.symm
  | cons e m ih =>
    by_cases he : e.1 = n
    · simp [SMap.get, he]
    · simpa [SMap.get, he] using ih

/-- Where no store carries an error mark the reading of a fill value meets no fault. -/
theorem fillOf_of_clean {s : State} (h : s.Clean) {j : TileJob} : ∃ v, fillOf s j = .inl v := by
  obtain ⟨hecc, hpoison, hsoft⟩ := h
  unfold fillOf
  simp only [State.noMarks, hecc, hpoison, hsoft]
  split
  · exact ⟨_, rfl⟩
  · exact ⟨_, rfl⟩

namespace State.TileKeeps
variable {P Q : Prop} {id : Nat} {s u v : State}

theorem dropCrossings (hP : ¬ P) (s : State) (ids : List Nat) (all : Bool) : TileKeeps P Q id s (s.dropCrossings ids all) := by
  have hctx (y : Nat) : ∃ l, (s.dropCrossings ids all).ctx y = { s.ctx y with crossings := l } :=
    ⟨_, SMap_get_map (f := fun c : Ctx => { c with crossings := c.crossings.filter _ }) rfl s.ctxs y⟩
  refine ⟨rfl, rfl, Iff.rfl, le_rfl, fun _ h => h, fun y => ?_, fun y => ?_, fun h => absurd h hP, fun j hj => ⟨j, hj, .refl j⟩, fun _ => rfl⟩
  · obtain ⟨l, hl⟩ := hctx y
    rw [hl]
  · obtain ⟨l, hl⟩ := hctx y
    rw [hl]

theorem eventRec (s : State) (p type d0 d1 d2 : Nat) : TileKeeps P Q id s (s.eventRec p type d0 d1 d2) := by
  unfold State.eventRec
  dsimp only
  split
  · exact refl P Q id s
  · split
    · exact refl P Q id s
    · exact leave ..

theorem childRecord (s : State) (j : TileJob) (r : TileRef) (cause : Nat) : TileKeeps P Q id s (s.childRecord j r cause) := eventRec ..

/-- The jobs that a failure holds: those above the failing child with its cause, of the others those that it does not discard. -/
theorem filterTiles (hQ : ¬ Q) {held : TileJob → Option TileJob} (hid : ∀ e k, held e = some k → k.Same e)
    (hsome : ∀ e, e.id = id → held e ≠ none) : TileKeeps P Q id s { s with tiles := s.tiles.filterMap held } := by
  refine ⟨rfl, rfl, Iff.rfl, le_rfl, fun _ h => h, fun _ => rfl, fun _ => rfl, fun _ => rfl, fun j hj => ?_, fun h => absurd h hQ⟩
  obtain ⟨k, hk⟩ := Option.ne_none_iff_exists'.1 (hsome j (s.tileJob_id hj))
  refine ⟨k, ?_, hid j k hk⟩
  change (s.tiles.filterMap held).find? _ = some k
  rw [find?_filterMap_of_id (fun e k h => (hid e k h).id) hsome]
  exact (congrArg (Option.bind · held) hj).trans hk

theorem failTile (hQ : ¬ Q) {r : TileRef} (hP : P → ∃ k, s.tileJob r.job = some k ∧ k.parent = none ∧ k.lvl < 3)
    (cause : Nat) (place : Option Nat) : TileKeeps P Q r.job s (s.failTile r cause place) := by
  unfold State.failTile
  split
  · exact refl P Q r.job s
  next j hj =>
    extract_lets s1 chain root path later low held gone t t1 ended t2
    have hid : j.id = r.job := s.tileJob_id hj
    have hs1 : TileKeeps P Q r.job s s1 := by
      simp only [s1]
      split
      · exact childRecord ..
      · exact refl P Q r.job s
    have hpath : path.contains r.job = true := by
      simp [path, chain, State.tileChain, hid]
    have hroot (h : P) : root.lvl < 3 := by
      obtain ⟨k, hk, hpar, hlvl⟩ := hP h
      have hkj : k = j := Option.some.inj (hk.symm.trans hj)
      subst hkj
      have hchain : root = k := by simp [root, chain, State.tileChain, hpar]
      rw [hchain]
      exact hlvl
    have ht : TileKeeps P Q r.job s1 t := by
      refine filterTiles hQ (fun e k h => ?_) (fun e he => ?_)
      · simp only [held] at h
        split at h
        · cases h
          exact ⟨rfl, rfl, rfl, rfl, rfl, rfl, rfl, rfl, rfl, rfl⟩
        · split at h
          · cases h
            exact .refl e
          · split at h
            · exact absurd h (Option.some_ne_none k).symm
            · cases h
              exact .refl e
      · simp only [held, he, hpath, if_true]
        exact Option.some_ne_none _
    have ht1 : TileKeeps P Q r.job t t1 := by
      simp only [t1]
      split
      · exact refl P Q r.job t
      · next hlvl => exact (dropCrossings (fun h => hlvl (hroot h)) ..).trans (dropCrossings (fun h => hlvl (hroot h)) ..)
    have ht2 : TileKeeps P Q r.job t1 t2 := by
      simp only [t2]
      split
      · exact (tileEndAt t1 j _).trans (leave ..)
      · exact refl P Q r.job t1
    have hall := ((hs1.trans ht).trans ht1).trans ht2
    split
    · exact hall
    · exact hall.trans (leave ..)

theorem push (s : State) (due : Nat) (act : Effect) (pri run : Nat) : TileKeeps P Q id s (s.push due act pri run) := leave ..

theorem accIn (s : State) (j : TileJob) (k : Nat) (hQ : Q → s.Clean) (hP : P → ∃ k, s.tileJob j.id = some k ∧ k.parent = none ∧ k.lvl < 3) :
    TileKeeps P Q j.id s (accIn s j k) := by
  unfold Sys2Proof.Machine.accIn
  split
  · dsimp only
    split
    · next h =>
      refine failTile (r := { job := j.id, lvl := 1, cidx := k, row := _, col := _ }) (fun hq => ?_) hP _ _
      obtain ⟨hecc, hpoison, hsoft⟩ := hQ hq
      simp [State.noMarks, hecc, hpoison, hsoft] at h
    · refine trans ?_ (tileAt ..)
      refine trans ?_ (updTile _ fun e => ⟨rfl, rfl, rfl, rfl, rfl, rfl, rfl, rfl, rfl, rfl⟩)
      exact (jobFr s j).trans (push ..)
  · exact tileAt ..

theorem foldl {α : Type} {f : State → α → State} (hf : ∀ s a, TileKeeps P Q id s (f s a)) (l : List α) (s : State) :
    TileKeeps P Q id s (l.foldl f s) := by
  induction l generalizing s with
  | nil => exact refl P Q id s
  | cons a l ih => exact (hf s a).trans (ih _)

theorem startTile (s : State) (j : TileJob) (hQ : Q → s.Clean)
    (hP : P → j.lvl ≠ 3 ∧ ∃ k, s.tileJob j.id = some k ∧ k.parent = none ∧ k.lvl = j.lvl) :
    TileKeeps P Q j.id s (startTile s j) := by
  have hlow (hlvl : j.lvl < 3) (h : P) : ∃ k, s.tileJob j.id = some k ∧ k.parent = none ∧ k.lvl < 3 := by
    obtain ⟨-, k, hk, hpar, hl⟩ := hP h
    exact ⟨k, hk, hpar, hl ▸ hlvl⟩
  have hcore (hlvl : j.lvl < 3) : TileKeeps P Q j.id s
      (match (if coreArray j then arrayRun j.op j.w else none) with
        | some (_, c) =>
          if !j.w.acc then s.tileAt j (coreStart j (coreRun c j.w).2.2.2 0 - 1) (.call 0)
          else if coreStart j (coreRun c j.w).2.2.2 0 - 10 ≤ s.now j.fr.x j.fr.hnd then Sys2Proof.Machine.accIn s j 0
          else s.tileAt j (coreStart j (coreRun c j.w).2.2.2 0 - 10) (.accIn 0)
        | none => s.tileAt j (j.start + 4) (.emit 0)) := by
    split
    · split
      · exact tileAt ..
      · split
        · exact accIn s j 0 hQ (hlow hlvl)
        · exact tileAt ..
    · exact tileAt ..
  unfold Sys2Proof.Machine.startTile
  dsimp only
  split
  · next h => exact hcore (h ▸ by decide)
  · next h => exact hcore (h ▸ by decide)
  · split
    · exact ((foldl (fun s k => tileAt ..) _ s).trans (tileAt ..)).trans (tileAt ..)
    · exact tileAt ..
  · next h =>
    have hne : ¬ P := fun hp => (hP hp).1 h
    refine trans ?_ (tileAt ..)
    refine trans ?_ (foldl (fun s k => dieCross hne ..) _ _)
    split
    · exact dieCross hne ..
    · exact refl P Q j.id s
  · exact (leave ..).trans (tileAt ..)
  · exact tileAt ..

/-- What a job does once it runs, after its entry has been set running from `T` on. -/
theorem beginTile {s : State} {j : TileJob} (hQ : Q → s.Clean)
    (hP : P → j.lvl ≠ 3 ∧ (j.op ≠ 8 ∨ s.Clean) ∧ j.parent = none ∧ ∃ k, s.tileJob j.id = some k) :
    let r := { j with start := Nat.max j.start (s.now j.fr.x j.fr.hnd), run := true }
    TileKeeps P Q j.id (s.updTile j.id fun _ => r) (beginTile s j) := by
  intro r
  have hr (hp : P) : (s.updTile j.id fun _ => r).tileJob j.id = some r := by
    obtain ⟨-, -, -, k, hk⟩ := hP hp
    rw [State.tileJob_updTile (f := fun _ => r) fun _ _ => rfl, hk]
    rfl
  unfold Sys2Proof.Machine.beginTile
  extract_lets T j' s'
  change TileKeeps P Q j.id s' _
  change P → s'.tileJob j.id = some j' at hr
  change Q → s'.Clean at hQ
  split
  · exact tileEndAt ..
  · split
    · next hop =>
      obtain ⟨hop, -⟩ : j'.op = 8 ∧ _ := by simpa [Bool.and_eq_true, and_assoc] using hop
      split
      · next e he =>
        have hdirty : ¬ s'.Clean := fun hc => by
          obtain ⟨v, hv⟩ := fillOf_of_clean hc (j := j')
          cases hv.symm.trans he
        refine trans (failTile (r := { job := j.id, lvl := j'.lvl, cidx := 0, row := 0, col := 0 }) (fun hq => hdirty (hQ hq)) (fun hp => ?_) e none) (tileEndAt ..)
        obtain ⟨-, hor, -⟩ := hP hp
        exact absurd hor (not_or.2 ⟨not_not.2 hop, hdirty⟩)
      · next v _ =>
        have hfree : TileKeeps P Q j.id s' (if j'.lvl = 5 then { s' with free := s'.free + 1 } else s') := by
          split
          · exact leave ..
          · exact refl P Q j.id s'
        have hfill : TileKeeps P Q j.id s' ((if j'.lvl = 5 then { s' with free := s'.free + 1 } else s').updTile j.id fun e => { e with fill := v }) :=
          hfree.trans (updTile _ fun e => ⟨rfl, rfl, rfl, rfl, rfl, rfl, rfl, rfl, rfl, rfl⟩)
        refine hfill.trans (startTile _ { j' with fill := v } (fun hq => hfill.clean.2 (hQ hq)) fun hp => ?_)
        obtain ⟨hlvl, -, hpar, -⟩ := hP hp
        obtain ⟨k', hk', hsame⟩ := hfill.job j' (hr hp)
        exact ⟨hlvl, k', hk', hsame.parent.trans hpar, hsame.lvl⟩
    · refine startTile s' j' hQ fun hp => ?_
      obtain ⟨hlvl, -, hpar, -⟩ := hP hp
      exact ⟨hlvl, j', hr hp, hpar, rfl⟩

end State.TileKeeps
end Sys2Proof.Machine

/-! SUPPORT. Tile words accepted by their ports, and words that end (08 R185, 09 R213, R214, 22 R373). -/

namespace Sys2Proof.Machine

/-! ### Acceptance (08 R185) -/

/-- The job of a tile word as its port accepts it. -/
def acceptedJob (op : Nat) (w : TileWord) (s : State) : TileJob :=
  { id := s.nextId, op := op, w := w, lvl := w.lvl, core := coreOf s.fr.x, y := s.fr.x, fr := { s.fr with gt := 0, cap := 0, capv := 0 },
    start := if w.lvl < 4 && s.fr.slice == 0 then s.fr.t + 4 else s.now s.fr.x s.fr.hnd,
    packet := if s.fr.slice = 1 then some (s.fr.id, s.fr.addr) else none, fill := if s.fr.slice = 1 then s.fr.cap.toNat else 0 }

/-- The state in which a port has a word among its jobs. -/
def State.withWord (s : State) (op : Nat) (w : TileWord) : State :=
  { s.fresh.2 with tiles := s.tiles ++ [acceptedJob op w s] }

section
variable (op : Nat) (w : TileWord) (s : State)

theorem acceptWord_eq : acceptWord op w s = if tileBlocked (s.withWord op w) (acceptedJob op w s) then s.withWord op w
    else beginTile (s.withWord op w) (acceptedJob op w s) := rfl

/-- The job of a word that its port holds, or that starts as it is accepted. -/
def heldOrStarted (op : Nat) (w : TileWord) (s : State) (held : Bool) : TileJob :=
  { acceptedJob op w s with
    start := if held then (acceptedJob op w s).start else Nat.max (acceptedJob op w s).start (s.now s.fr.x s.fr.hnd), run := !held }

variable (hids : ∀ e ∈ s.tiles, e.id < s.nextId)
include hids

theorem State.tileJob_withWord : (s.withWord op w).tileJob s.nextId = some (acceptedJob op w s) := by
  have hnone : s.tiles.find? (fun e => e.id == s.nextId) = none := by
    simpa using fun e he => (hids e he).ne
  change (s.tiles ++ [acceptedJob op w s]).find? _ = _
  rw [List.find?_append, hnone]
  exact List.find?_cons_of_pos (p := fun e : TileJob => e.id == s.nextId) (beq_self_eq_true s.nextId)

theorem State.otherTiles_withWord : (s.withWord op w).otherTiles s.nextId = s.tiles := by
  change (s.tiles ++ [acceptedJob op w s]).filter _ = _
  rw [List.filter_append, List.filter_eq_self.2 fun e he => bne_iff_ne.2 (hids e he).ne]
  simp [acceptedJob]

/-- A TFEN waits for every word accepted before it at its port that has not ended, and every word for a TFEN (09 R214). -/
theorem tileBlocked_withWord : tileBlocked (s.withWord op w) (acceptedJob op w s) = true
    ↔ ∃ e ∈ s.tiles, samePort e (acceptedJob op w s) = true ∧ e.done = none ∧ (op = 9 ∨ e.op = 9) := by
  change ((s.tiles ++ [acceptedJob op w s]).any _) = true ↔ _
  rw [List.any_append, Bool.or_eq_true, List.any_eq_true]
  constructor
  · rintro (⟨e, he, h⟩ | h)
    · simp only [Bool.and_eq_true, Option.isNone_iff_eq_none, Bool.or_eq_true, beq_iff_eq] at h
      obtain ⟨⟨⟨hport, -⟩, hdone⟩, hop⟩ := h
      exact ⟨e, he, hport, hdone, hop⟩
    · simp at h
  · rintro ⟨e, he, hport, hdone, hop⟩
    refine .inl ⟨e, he, ?_⟩
    simp only [Bool.and_eq_true, Option.isNone_iff_eq_none, Bool.or_eq_true, beq_iff_eq, decide_eq_true_iff]
    exact ⟨⟨⟨hport, hids e he⟩, hdone⟩, hop⟩

/-- An accepted word starts where nothing at its port holds it, and otherwise waits: its entry among the jobs, and what its first acts keep
from there. -/
theorem acceptWord_keeps {P : Prop} (hP : P → w.lvl ≠ 3 ∧ (op ≠ 8 ∨ s.Clean)) :
    ∃ tl, let v : State := { s.fresh.2 with tiles := tl }
      v.tileJob s.nextId = some (heldOrStarted op w s (tileBlocked (s.withWord op w) (acceptedJob op w s)))
      ∧ v.otherTiles s.nextId = s.tiles ∧ State.TileKeeps P s.Clean s.nextId v (acceptWord op w s) := by
  have hjob := State.tileJob_withWord op w s hids
  have hothers := State.otherTiles_withWord op w s hids
  rw [acceptWord_eq]
  cases hb : tileBlocked (s.withWord op w) (acceptedJob op w s) with
  | true => exact ⟨_, hjob, hothers, .refl P _ _ _⟩
  | false =>
    let r := heldOrStarted op w s false
    refine ⟨((s.withWord op w).updTile s.nextId fun _ => r).tiles, ?_, ?_, ?_⟩
    · exact (State.tileJob_updTile (s := s.withWord op w) (id := s.nextId) (f := fun _ => r) fun _ _ => rfl).trans (congrArg (Option.map fun _ => r) hjob)
    · exact (State.otherTiles_updTile (s := s.withWord op w) (id := s.nextId) (f := fun _ => r) fun _ _ => rfl).trans hothers
    · exact State.TileKeeps.beginTile (s := s.withWord op w) (j := acceptedJob op w s) id fun hp => ⟨(hP hp).1, (hP hp).2, rfl, _, hjob⟩

end

/-- A TFEN and a word without elements end as they start (09 R214). -/
theorem exists_end_beginTile {s : State} {j : TileJob} (h : j.op = 9 ∨ j.w.tm = 0 ∨ j.w.tn = 0 ∨ j.w.tk = 0) :
    ∃ e ∈ (beginTile s j).flight, e.due = s.now j.fr.x j.fr.hnd ∧ e.act.i = .tileChildEnd ∧ e.act.fr.id = j.id := by
  have hend : (decide (j.op = 9) || emptyDims j.w) = true := by
    simpa [emptyDims, or_assoc] using h
  unfold beginTile
  extract_lets T j' s'
  rw [if_pos (show (decide (j'.op = 9) || emptyDims j'.w) = true from hend)]
  exact ⟨_, List.mem_append_right _ (List.mem_singleton_self _), rfl, rfl, rfl⟩

/-- Jobs that agree in what their acceptance and start fix stand at the same port. -/
theorem samePort_of_same {e a b : TileJob} (h : a.Same b) : samePort e a = samePort e b := by
  simp only [samePort, TileJob.port, h.lvl, h.core, h.parent]

/-! ### Words that wait start (09 R214) -/

section
variable {id : Nat} {s : State}

/-- What the starts of other words leave; of job `id` everything where no store carries an error mark. -/
structure State.WakeKeeps (id : Nat) (s u : State) : Prop where
  clean : u.Clean ↔ s.Clean
  regs : ∀ y, (u.ctx y).regs = (s.ctx y).regs
  psw : ∀ y, (u.ctx y).psw = (s.ctx y).psw
  job : s.Clean → u.tileJob id = s.tileJob id

theorem State.WakeKeeps.refl (id : Nat) (s : State) : State.WakeKeeps id s s := ⟨Iff.rfl, fun _ => rfl, fun _ => rfl, fun _ => rfl⟩

theorem State.WakeKeeps.trans {u v : State} (h : State.WakeKeeps id s u) (k : State.WakeKeeps id u v) : State.WakeKeeps id s v where
  clean := k.clean.trans h.clean
  regs y := (k.regs y).trans (h.regs y)
  psw y := (k.psw y).trans (h.psw y)
  job hc := (k.job (h.clean.2 hc)).trans (h.job hc)

theorem beginTile_wakeKeeps {j : TileJob} (hid : j.id ≠ id) : State.WakeKeeps id s (beginTile s j) := by
  have hkeeps := State.TileKeeps.beginTile (P := False) (Q := s.Clean) (s := s) (j := j) (fun hc => hc) False.elim
  refine ⟨hkeeps.clean, hkeeps.regs, hkeeps.psw, fun hc => ?_⟩
  have hothers : (beginTile s j).otherTiles j.id = s.otherTiles j.id :=
    (hkeeps.others hc).trans (State.otherTiles_updTile (f := fun _ => _) fun _ _ => rfl)
  rw [State.tileJob_eq_find_otherTiles hid.symm, hothers, ← State.tileJob_eq_find_otherTiles hid.symm]

theorem beginTile_gangs (s : State) (j : TileJob) : (beginTile s j).gangs = s.gangs :=
  (State.TileKeeps.beginTile (P := False) (Q := False) (s := s) (j := j) False.elim False.elim).gangs

/-- The jobs that a port wakes have not ended. -/
theorem wakeTiles_wakeKeeps {port : TileJob} (hdone : ∀ e ∈ s.tiles, e.id = id → e.done ≠ none) :
    State.WakeKeeps id s (wakeTiles s port) := by
  refine List.foldlRecOn _ _ (motive := State.WakeKeeps id s) (.refl id s) fun u hu e he => ?_
  have hne : e.id ≠ id := by
    simp only [List.mem_filter, Bool.and_eq_true, Option.isNone_iff_eq_none] at he
    obtain ⟨hmem, ⟨-, hnone⟩, -⟩ := he
    exact fun h => hdone e hmem h hnone
  split
  · exact hu
  · exact hu.trans (beginTile_wakeKeeps hne)

theorem State.foldl_gangs {α : Type} {f : State → α → State} (hf : ∀ u a, (f u a).gangs = u.gangs) (l : List α) (s : State) :
    (l.foldl f s).gangs = s.gangs :=
  List.foldlRecOn l f (motive := fun u : State => u.gangs = s.gangs) rfl fun u hu a _ => (hf u a).trans hu

theorem wakeTiles_gangs (s : State) (port : TileJob) : (wakeTiles s port).gangs = s.gangs := by
  refine State.foldl_gangs (fun u e => ?_) _ s
  split
  · rfl
  · exact beginTile_gangs u e

end

/-! ### The end of a word (09 R214, 22 R373) -/

theorem tileRecord_gangs (s : State) (j : TileJob) (status : Nat) : (tileRecord s j status).gangs = s.gangs := by
  unfold tileRecord
  split <;> rfl

theorem dieCross_gangs (s : State) (j : TileJob) (k : Nat) (out : Bool) (n c : Nat) : (dieCross s j k out n c).gangs = s.gangs :=
  (State.TileKeeps.dieCross (P := False) (Q := False) (id := 0) not_false s j k out n c).gangs

theorem failTile_gangs (s : State) (r : TileRef) (cause : Nat) (place : Option Nat) : (s.failTile r cause place).gangs = s.gangs :=
  (State.TileKeeps.failTile (P := False) (Q := False) not_false False.elim cause place).gangs

theorem completeTile_gangs (n : Nat) (s : State) (id : Nat) : (completeTile s n id).gangs = s.gangs := by
  induction n generalizing s id with
  | zero => rfl
  | succ n ih =>
    unfold completeTile
    split
    · rfl
    · dsimp only
      rw [wakeTiles_gangs]
      split
      · split
        · split
          · rfl
          · exact ih ..
        · split
          · exact dieCross_gangs ..
          · split
            · exact ih ..
            · rfl
      · split
        · rfl
        · rw [tileRecord_gangs]
          split <;> rfl

theorem writeC_gangs (s : State) (j : TileJob) (due pri r off n v : Nat) : (writeC s j due pri r off n v).gangs = s.gangs := by
  unfold writeC
  dsimp only
  split
  · apply State.foldl_gangs
    exact fun _ _ => rfl
  · split <;> rfl

theorem finishReduce_gangs (s : State) (j : TileJob) (due : Nat) : (finishReduce s j due).gangs = s.gangs := by
  unfold finishReduce
  extract_lets w rnd g fw n res fl u v
  have hv : v.gangs = s.gangs := by
    refine (State.foldl_gangs (fun t e => ?_) _ u).trans rfl
    split
    · exact writeC_gangs ..
    · exact writeC_gangs ..
  split
  · exact (failTile_gangs ..).trans hv
  · exact hv

theorem startSub_gangs (s : State) (c : TileJob) : (startSub s c).gangs = s.gangs := by
  unfold startSub
  split
  · rfl
  · extract_lets now u o u1 e u2 u3 u4 u5
    have hu3 : u3.gangs = s.gangs := (State.foldl_gangs (fun t x => writeC_gangs ..) _ u2).trans rfl
    change u5.gangs = s.gangs
    simp only [u5]
    split
    · exact hu3
    · exact hu3

/-- The end of a child or a word leaves the gangs, whatever goes on behind it. -/
theorem execTileChildEnd_gangs (s : State) : ∃ t, execTileChildEnd s = .next t ∧ t.gangs = s.gangs := by
  unfold execTileChildEnd
  extract_lets id
  split
  · exact ⟨s, rfl, rfl⟩
  next c hc =>
    split
    · exact ⟨s, rfl, rfl⟩
    split
    · exact ⟨_, rfl, completeTile_gangs ..⟩
    split
    · refine ⟨_, rfl, (completeTile_gangs ..).trans ?_⟩
      split
      · exact failTile_gangs ..
      · rfl
    split
    · extract_lets now u v next
      have hu : u.gangs = s.gangs := by
        simp -zeta only [u]
        split
        · rfl
        next p hp =>
          extract_lets u1 u2
          have hu2 : u2.gangs = s.gangs := by
            simp only [u2]
            split
            · exact failTile_gangs ..
            · rfl
          split
          · split
            · exact (finishReduce_gangs ..).trans hu2
            · exact hu2
          · exact hu2
      have hv : v.gangs = s.gangs := (completeTile_gangs ..).trans hu
      refine ⟨_, rfl, ?_⟩
      clear_value next
      cases next with
      | some n => exact (startSub_gangs ..).trans hv
      | none => exact hv
    · exact ⟨_, rfl, completeTile_gangs ..⟩

/-- The flags of a word that ends merge into PSW when it has not failed (03 R60). -/
def State.mergeEnd (s : State) (j : TileJob) : State := if j.failed.isSome then s else s.mergeFlags j.y j.flags

theorem State.mergeEnd_regs (s : State) (j : TileJob) (y : Nat) : ((s.mergeEnd j).ctx y).regs = (s.ctx y).regs := by
  unfold State.mergeEnd
  split
  · rfl
  · by_cases hy : y = j.y
    · rw [hy, State.ctx_mergeFlags_self]
    · rw [State.ctx_mergeFlags_ne _ _ _ hy]

theorem State.mergeEnd_psw_ne (s : State) (j : TileJob) {y : Nat} (hy : y ≠ j.y) : ((s.mergeEnd j).ctx y).psw = (s.ctx y).psw := by
  unfold State.mergeEnd
  split
  · rfl
  · rw [State.ctx_mergeFlags_ne _ _ _ hy]

theorem State.mergeEnd_psw_self (s : State) (j : TileJob) : ((s.mergeEnd j).ctx j.y).psw
    = if j.failed = none then (s.ctx j.y).psw ||| BitVec.ofNat 64 (j.flags * 16) else (s.ctx j.y).psw := by
  unfold State.mergeEnd
  cases j.failed with
  | some _ => rfl
  | none => exact congrArg Ctx.psw (State.ctx_mergeFlags_self ..)

/-- A record of a TILE packet's outcome is an act put off, and changes nothing else. -/
theorem tileRecord_eq (s : State) (j : TileJob) (status : Nat) : ∃ ag, tileRecord s j status = { s with agenda := ag } := by
  unfold tileRecord
  split <;> exact ⟨_, rfl⟩

section
variable {u : State} {id n : Nat} {j : TileJob} (hj : u.tileJob id = some j) (hpar : j.parent = none)
include hj hpar

/-- A word that no other has made ends with its count, its flags and its record, and then what waits for it starts. -/
theorem completeTile_of_word : completeTile u (n + 1) id
    = wakeTiles (tileRecord ((u.updTile id fun e => { e with done := some (u.now j.fr.x j.fr.hnd) }).mergeEnd j) j
        (if j.failed.isSome then 2 else 0)) j := by
  rw [completeTile]
  simp only [hj, hpar, Option.bind_none, Option.isSome_none, Bool.false_eq_true, if_false]
  rfl

/-- What the end of such a word leaves where no store carries an error mark. -/
theorem completeTile_leaves (hclean : u.Clean) : let t := completeTile u (n + 1) id
    (∃ d, t.tileJob id = some d ∧ d.done = some (u.now j.fr.x j.fr.hnd)) ∧ (∀ y, (t.ctx y).regs = (u.ctx y).regs)
      ∧ (∀ y, y ≠ j.y → (t.ctx y).psw = (u.ctx y).psw)
      ∧ (t.ctx j.y).psw = if j.failed = none then (u.ctx j.y).psw ||| BitVec.ofNat 64 (j.flags * 16) else (u.ctx j.y).psw := by
  intro t
  let v := u.updTile id fun e => { e with done := some (u.now j.fr.x j.fr.hnd) }
  obtain ⟨ag, hrec⟩ := tileRecord_eq (v.mergeEnd j) j (if j.failed.isSome then 2 else 0)
  have ht : t = wakeTiles { v.mergeEnd j with agenda := ag } j := by
    rw [← hrec]
    exact completeTile_of_word hj hpar
  have htiles : (v.mergeEnd j).tiles = v.tiles := by
    unfold State.mergeEnd
    split <;> rfl
  have hmarks : (v.mergeEnd j).Clean := by
    unfold State.mergeEnd
    split <;> exact hclean
  have hkeeps : State.WakeKeeps id { v.mergeEnd j with agenda := ag } t := by
    rw [ht]
    refine wakeTiles_wakeKeeps fun e he hid => ?_
    have hmem : e ∈ v.tiles := htiles ▸ he
    obtain ⟨e', -, rfl⟩ := List.mem_map.1 hmem
    by_cases he' : e'.id = id
    · simp [he']
    · simp [he'] at hid
  have hjob : (v.mergeEnd j).tileJob id = some { j with done := some (u.now j.fr.x j.fr.hnd) } := by
    rw [State.tileJob, htiles]
    exact State.tileJob_updTile_of_some hj fun _ => rfl
  refine ⟨⟨_, (hkeeps.job hmarks).trans hjob, rfl⟩, fun y => ?_, fun y hy => ?_, ?_⟩
  · exact (hkeeps.regs y).trans (v.mergeEnd_regs j y)
  · exact (hkeeps.psw y).trans (v.mergeEnd_psw_ne j hy)
  · exact (hkeeps.psw j.y).trans (v.mergeEnd_psw_self j)

end

/-- The state in which a word that has run on another module has the flags that came back with its completion (22 R373). -/
def State.flagsBack (s : State) : State :=
  if s.fr.slot = 3 then s.updTile s.fr.id fun e => { e with flags := s.fr.t % 64 } else s

theorem State.flagsBack_eq (s : State) : ∃ tl, s.flagsBack = { s with tiles := tl } := by
  unfold State.flagsBack
  split
  · exact ⟨_, rfl⟩
  · exact ⟨s.tiles, rfl⟩

theorem execTileChildEnd_of_word {s : State} {c : TileJob} (hc : s.tileJob s.fr.id = some c) (hdone : c.done = none) (hpar : c.parent = none) :
    execTileChildEnd s = .next (completeTile s.flagsBack 6 s.fr.id) := by
  unfold execTileChildEnd State.flagsBack
  simp only [hc, hdone, hpar, Option.isSome_none, Bool.false_eq_true, if_false, Bool.and_false]
  split
  · rfl
  · split <;> rfl

/-- The job of such a word, with its flags. -/
theorem State.tileJob_flagsBack {s : State} {c : TileJob} (hc : s.tileJob s.fr.id = some c) :
    s.flagsBack.tileJob s.fr.id = some { c with flags := if s.fr.slot = 3 then s.fr.t % 64 else c.flags } := by
  unfold State.flagsBack
  split
  · exact State.tileJob_updTile_of_some hc fun _ => rfl
  · exact hc

/-- Settles O47: `acceptWord_keeps` gives what an accepted word keeps, and `completeTile` what a word that ends leaves. -/
theorem tileWordsAreAccepted : Obligations.TileWordsAreAccepted := by
  unfold Obligations.TileWordsAreAccepted
  refine ⟨fun w s hids => ?_, fun s => ?_⟩
  · intro all issue
    have hall : ∀ F : Nat → Instr → Prop, (∀ op i, exec i s = .next (acceptWord op w s) → F op i) → all F :=
      fun F h => ⟨h 0 _ rfl, h 1 _ rfl, h 2 _ rfl, h 3 _ rfl, h 4 _ rfl, h 5 _ rfl, h 6 _ rfl, h 7 _ rfl, h 8 _ rfl, h 9 _ rfl⟩
    clear_value all
    refine hall _ fun op i hi => ?_
    obtain ⟨tl, hr, hothers, hkeeps⟩ := acceptWord_keeps op w s hids (P := w.lvl ≠ 3 ∧ (op ≠ 8 ∨ s.Clean)) id
    obtain ⟨j, hj, hsame⟩ := hkeeps.job _ hr
    have hblocked := tileBlocked_withWord op w s hids
    have hport (e : TileJob) : samePort e j = samePort e (acceptedJob op w s) :=
      (samePort_of_same hsame).trans rfl
    have hrun : j.run = !tileBlocked (s.withWord op w) (acceptedJob op w s) := hsame.run
    have hissue : (acceptedJob op w s).start = issue := by
      simp [acceptedJob, issue]
    refine ⟨acceptWord op w s, j, hi, hj, Nat.lt_of_succ_le hkeeps.nextId, hsame.op, hsame.w, hsame.lvl, hsame.y, hsame.core, hsame.parent,
      hsame.done, acceptWord_mem .., hkeeps.clus, hkeeps.gangs, fun hlvl hop => hkeeps.ctxs ⟨hlvl, hop⟩,
      fun y => ⟨hkeeps.regs y, hkeeps.psw y⟩, fun hc e he => ?_, ?_, ?_, ?_, ?_⟩
    · have hmem : e ∈ (acceptWord op w s).otherTiles s.nextId := by
        rw [hkeeps.others hc, hothers]
        exact he
      exact (State.mem_otherTiles.1 hmem).1
    · rw [hrun, Bool.not_eq_true', ← Bool.not_eq_true, hblocked]
      simp only [hport]
      push Not
      rfl
    · intro h
      have hb : tileBlocked (s.withWord op w) (acceptedJob op w s) = true := by simpa [hrun] using h
      rw [hsame.start, ← hissue, hb]
      rfl
    · intro h
      have hb : tileBlocked (s.withWord op w) (acceptedJob op w s) = false := by simpa [hrun] using h
      rw [hsame.start, ← hissue, hb]
      rfl
    · intro h hdims
      have hb : tileBlocked (s.withWord op w) (acceptedJob op w s) = false := by simpa [hrun] using h
      rw [acceptWord_eq, hb]
      exact exists_end_beginTile (j := acceptedJob op w s) hdims
  · obtain ⟨t, ht, hgangs⟩ := execTileChildEnd_gangs s
    refine ⟨t, ht, execTileChildEnd_mem s t ht, hgangs, fun c hclean hc hdone hpar => ?_⟩
    have htt : t = completeTile s.flagsBack 6 s.fr.id := by
      cases ht.symm.trans (execTileChildEnd_of_word hc hdone hpar)
      rfl
    obtain ⟨tl, hback⟩ := s.flagsBack_eq
    have hctx (y : Nat) : s.flagsBack.ctx y = s.ctx y := by rw [hback]; rfl
    have hnow : s.flagsBack.now c.fr.x c.fr.hnd = s.now c.fr.x c.fr.hnd := by rw [hback]; rfl
    have hmarks : s.flagsBack.Clean := by rw [hback]; exact hclean
    obtain ⟨⟨d, hd, hcount⟩, hregs, hne, hself⟩ := completeTile_leaves (n := 5) (State.tileJob_flagsBack hc) hpar hmarks
    rw [htt]
    refine ⟨d, hd, hcount.trans (congrArg some hnow), fun y => ⟨(hregs y).trans (congrArg Ctx.regs (hctx y)), fun hy => ?_⟩, ?_⟩
    · exact (hne y hy).trans (congrArg Ctx.psw (hctx y))
    · refine hself.trans ?_
      rw [hctx]

end Sys2Proof.Machine

/-! SUPPORT. Slots of the matrix class: the check of a latch, the slots that work in every slice, the transposer (07 R145, 09 R192 to R199,
R208 to R210). -/

namespace Sys2Proof.Machine

/-! ### The latch check (07 R145) -/

section
variable {s : State} {g : Guard} {lat : Nat}

theorem latchSlot_of_in {f : State → State} (h : (s.ctx s.fr.x).latchIn lat = true) : latchSlot lat s f = f s := if_pos h

theorem latchSlot_of_masked {f : State → State} (h : (s.ctx s.fr.x).latchIn lat = false) : latchSlot lat s f = s.privilege 2 :=
  if_neg (Bool.eq_false_iff.1 h)

/-- A slot that works in every slice works in slice 0 when its guard is true and its latch is in AMASK, and in every slice that follows. -/
theorem everySlice_of_held {i : Instr} {f : State → Nat → State}
    (h : s.fr.slice = 0 → s.onceGuard g = true ∧ (s.ctx s.fr.x).latchIn lat = true) :
    everySlice i g lat s f = .next ((f s s.fr.slice).nextSlice i s.fr) := by
  unfold everySlice
  split
  · next hk =>
    obtain ⟨hguard, hlat⟩ := h hk
    rw [onceSlot_eq, once_true _ hguard, latchSlot_of_in hlat]
  · rfl

theorem everySlice_of_masked {i : Instr} {f : State → Nat → State} (hk : s.fr.slice = 0) (h : (s.ctx s.fr.x).latchIn lat = false) :
    everySlice i g lat s f = .next (once g s (s.privilege 2)) := by
  rw [everySlice, if_pos hk, onceSlot_eq, latchSlot_of_masked h]

/-! ### MPOP and MPSH (09 R193) -/

section
variable {v grp : Nat}

theorem exec_mpop_eq : exec (.mpop g v lat grp) s = everySlice (.mpop g v lat grp) g lat s fun s k => s.landV v k
    (BitVec.ofNat 512 (s.seenMem.readN (latchRowKey (coreOf s.fr.x) lat grp k) 64)) allBits (s.fr.t + k + 8) := rfl

theorem exec_mpsh_eq : exec (.mpsh g v lat grp) s = everySlice (.mpsh g v lat grp) g lat s fun s k => s.push (s.fr.t + k + 4)
    (.landMem (latchRowKey (coreOf s.fr.x) lat grp k) 64 (s.vget v k).toNat (allBytes 64)) := rfl

end

/-! ### MZERO, MLOAD and SLD (09 R193, R199, R208) -/

theorem exec_mzero_of_in (h : (s.ctx s.fr.x).latchIn lat = true) : exec (.mzero g lat) s
    = .next (once g s (s.push (s.fr.t + 2) (.landMem ((Place.latch (coreOf s.fr.x)).key (4096 * lat)) 4096 0 (allBytes 4096)))) := by
  change execMzero g lat s = _
  rw [execMzero, onceSlot_eq, latchSlot_of_in h]

theorem exec_mzero_of_masked (h : (s.ctx s.fr.x).latchIn lat = false) : exec (.mzero g lat) s = .next (once g s (s.privilege 2)) := by
  change execMzero g lat s = _
  rw [execMzero, onceSlot_eq, latchSlot_of_masked h]

theorem exec_mload_of_pass {n a : Nat} (hn : 64 ≤ n ∨ s.priv = true) (h : ownRecord s (s.sget a).toNat 64 = none) :
    exec (.mload g n a) s = .next (once g s ((s.push (s.fr.t + 2)
      (.mload n ((Place.berth (coreOf s.fr.x)).key ((s.sget a).toNat % 2 ^ 16)))).noteEff (s.fr.t + 4))) := by
  change execMload g n a s = _
  have hif : ¬ (decide (n < 64) && !s.priv) = true := by
    rcases hn with hn | hp
    · simp [hn]
    · simp [hp]
  simp only [execMload, onceSlot_eq, if_neg hif, h]

theorem exec_mload_of_low {n a : Nat} (hn : n < 64) (hp : s.priv = false) :
    exec (.mload g n a) s = .next (once g s (s.privilege 0)) := by
  change execMload g n a s = _
  have hif : (decide (n < 64) && !s.priv) = true := by simp [hn, hp]
  simp only [execMload, onceSlot_eq, if_pos hif]

section
variable {a : Nat} {imm : Int}

theorem exec_sld_of_pass (hl : (s.ctx s.fr.x).latchIn lat = true) (hal : (s.sget a + BitVec.ofInt 64 imm).toNat % 64 = 0)
    (h : ownOnly (s.ctx s.fr.x) (s.sget a + BitVec.ofInt 64 imm).toNat 128 = none) :
    exec (.sld g lat a imm) s = .next (once g s ((s.push (s.fr.t + 2)
      (.sld lat ((Place.berth (coreOf s.fr.x)).key ((s.sget a + BitVec.ofInt 64 imm).toNat % 2 ^ 16)))).noteEff (s.fr.t + 4))) := by
  change execSld g lat a imm s = _
  simp only [execSld, onceSlot_eq, latchSlot_of_in hl, if_neg (not_not.2 hal), h]

theorem exec_sld_of_masked (hl : (s.ctx s.fr.x).latchIn lat = false) :
    exec (.sld g lat a imm) s = .next (once g s (s.privilege 2)) := by
  change execSld g lat a imm s = _
  rw [execSld, onceSlot_eq, latchSlot_of_masked hl]

end

end

/-! ### Slices of a register image -/

theorem granOf_getLsbD (v : BitVec 4096) (k i : Nat) : (granOf v k).getLsbD i = (decide (i < 512) && v.getLsbD (512 * k + i)) := by
  simp [granOf, BitVec.getLsbD_ofNat, Nat.testBit_div_two_pow, BitVec.testBit_toNat, Nat.add_comm]

theorem withGran_getLsbD (v : BitVec 4096) (k : Nat) (x : Gran) (i : Nat) :
    (withGran v k x).getLsbD i = (v.getLsbD i || (decide (i < 4096) && (decide (512 * k ≤ i) && x.getLsbD (i - 512 * k)))) := by
  simp [withGran, BitVec.getLsbD_ofNat, Nat.testBit_mul_two_pow, BitVec.testBit_toNat]

theorem granOf_zero (k : Nat) : granOf 0 k = 0 :=
  BitVec.eq_of_getLsbD_eq fun i _ => by simp [granOf_getLsbD]

/-- A slice put into an image joins what stands in its place, and leaves the other slices. -/
theorem granOf_withGran (v : BitVec 4096) {k j : Nat} (x : Gran) (hj : j < 8) :
    granOf (withGran v k x) j = if j = k then granOf v j ||| x else granOf v j := by
  refine BitVec.eq_of_getLsbD_eq fun i hi => ?_
  have hplace : 512 * j + i < 4096 := by omega
  rw [granOf_getLsbD, withGran_getLsbD]
  split
  · next h =>
    subst h
    simp only [BitVec.getLsbD_or, granOf_getLsbD, hi, hplace, decide_true, Bool.true_and, Nat.le_add_right, Nat.add_sub_cancel_left]
  · next h =>
    have hout : (decide (512 * k ≤ 512 * j + i) && x.getLsbD (512 * j + i - 512 * k)) = false := by
      by_cases hk : 512 * k ≤ 512 * j + i
      · rw [BitVec.getLsbD_of_ge x _ (by omega), Bool.and_false]
      · rw [decide_eq_false hk, Bool.false_and]
    rw [hout, granOf_getLsbD, Bool.and_false, Bool.or_false]

theorem granOf_foldl_withGran (f : Nat → Gran) {j : Nat} (hj : j < 8) (l : List Nat) : ∀ v : BitVec 4096,
    granOf (l.foldl (fun v k => withGran v k (f k)) v) j = if j ∈ l then granOf v j ||| f j else granOf v j := by
  induction l with
  | nil => intro v; rfl
  | cons k l ih =>
    intro v
    rw [List.foldl_cons, ih, granOf_withGran _ _ hj]
    by_cases hk : j = k
    · subst hk
      by_cases hl : j ∈ l
      · simp [hl, BitVec.or_assoc]
      · simp [hl]
    · simp [hk]

/-- An image put together slice by slice holds each of its slices. -/
theorem granOf_image (f : Nat → Gran) {j : Nat} (hj : j < 8) :
    granOf ((List.range 8).foldl (fun v k => withGran v k (f k)) 0) j = f j := by
  rw [granOf_foldl_withGran f hj, if_pos (List.mem_range.2 hj), granOf_zero]
  exact BitVec.zero_or

/-! ### The transposer (09 R209, R210) -/

section
variable {s : State} {g : Guard} {a d grp : Nat}

/-- Without a latch the transposer refuses a slot that some lane lets through. -/
theorem trans_refuses_iff : (decide (s.fr.slice = 0) && !transOk s && s.allGuards g != 0) = true
    ↔ s.fr.slice = 0 ∧ (s.ctx s.fr.x).allotF 59 52 = 0 ∧ s.allGuards g ≠ 0 := by
  simp [transOk, and_assoc]

/-- Lane l of a transposed slice is the word in row l of its half, in the slice's column of the group. -/
theorem transCol_holdsElems (s : State) (grp k : Nat) : HoldsElems 32 (transCol s grp k) fun l =>
    s.mem.readN ((Place.trans (coreOf s.fr.x)).key (128 * (16 * (k % 2) + l) + 4 * (4 * grp + k / 2))) 4 :=
  holdsElems_eGran_map_range fun _ => Memory.readN_lt ..

/-- The state with the columns of a row group captured, as TRNO reads them at its issue. -/
def State.withTransCols (s : State) (grp : Nat) : State :=
  { s with fr := { s.fr with capv := (List.range 8).foldl (fun v k => withGran v k (transCol s grp k)) 0 } }

theorem exec_trn_of_pass (h : (s.ctx s.fr.x).allotF 59 52 ≠ 0) : exec (.trn g a grp) s
    = .next ((s.push (s.fr.t + 10) (.landMem ((Place.trans (coreOf s.fr.x)).key (128 * (4 * grp + s.fr.slice / 2) + 64 * (s.fr.slice % 2))) 64
        (s.vget a s.fr.slice).toNat (laneBytes (s.laneGuard g s.fr.slice)))).nextSlice (.trn g a grp) s.fr) := by
  change execTrn g a grp s = _
  exact if_neg fun hc => h (trans_refuses_iff.1 hc).2.1

theorem exec_trn_of_refused (hk : s.fr.slice = 0) (h : (s.ctx s.fr.x).allotF 59 52 = 0) (hg : s.allGuards g ≠ 0) :
    exec (.trn g a grp) s = .next (s.privilege 2) := by
  change execTrn g a grp s = _
  exact if_pos (trans_refuses_iff.2 ⟨hk, h, hg⟩)

theorem exec_trno_of_refused (hk : s.fr.slice = 0) (h : (s.ctx s.fr.x).allotF 59 52 = 0) (hg : s.allGuards g ≠ 0) :
    exec (.trno g d grp) s = .next (s.privilege 2) := by
  change execTrno g d grp s = _
  exact if_pos (trans_refuses_iff.2 ⟨hk, h, hg⟩)

/-- TRNO in slice 0 captures the columns and lands the first of them. -/
theorem exec_trno_of_first (hk : s.fr.slice = 0) (h : (s.ctx s.fr.x).allotF 59 52 ≠ 0) :
    exec (.trno g d grp) s = .next (laneNext (.trno g d grp) g 32 2 d (transCol s grp 0) (s.withTransCols grp)) := by
  change execTrno g d grp s = _
  have hcol : granOf (s.withTransCols grp).fr.capv (s.withTransCols grp).fr.slice = transCol s grp 0 :=
    (congrArg _ hk).trans (granOf_image (transCol s grp) (by decide))
  rw [execTrno, if_neg fun hc => h (trans_refuses_iff.1 hc).2.1, if_pos hk, ← hcol]
  rfl

theorem exec_trno_of_later (hk : s.fr.slice ≠ 0) :
    exec (.trno g d grp) s = .next (laneNext (.trno g d grp) g 32 2 d (granOf s.fr.capv s.fr.slice) s) := by
  change execTrno g d grp s = _
  rw [execTrno, if_neg fun hc => hk (trans_refuses_iff.1 hc).1, if_neg hk]
  rfl

end

/-- Settles O31: each slot by its check, the latch in AMASK first; MPOP and MPSH are `everySlice`, TRNO captures its columns in slice 0. -/
theorem matrixClassMoves : Obligations.MatrixClassMoves := by
  unfold Obligations.MatrixClassMoves
  intro g m d v lat grp a n imm s c core k row sa sl held
  have hheld (h : held) (hk : s.fr.slice = 0) : s.onceGuard g = true ∧ (s.ctx s.fr.x).latchIn lat = true := by
    rwa [show held = _ from if_pos hk] at h
  have hrec {x y : Nat} (hal : x % y = 0) (h : ownOnly c x y = none) : ownRecord s x y = none := (ownRecord_of_aligned hal).trans h
  refine ⟨rfl, rfl, exec_mzero_of_in, exec_mzero_of_masked, fun hold => ?_,
    fun h => ⟨exec_mpop_eq.trans (everySlice_of_held (hheld h)), exec_mpsh_eq.trans (everySlice_of_held (hheld h))⟩,
    fun hk h => ⟨exec_mpop_eq.trans (everySlice_of_masked hk h), exec_mpsh_eq.trans (everySlice_of_masked hk h)⟩,
    fun hn hal h => exec_mload_of_pass hn (hrec hal h), exec_mload_of_low, exec_sld_of_pass, exec_sld_of_masked,
    exec_trn_of_pass, fun h hk => ?_, exec_trno_of_later,
    fun h hk hg => ⟨exec_trn_of_refused hk h hg, exec_trno_of_refused hk h hg⟩⟩
  · rw [State.seenMem, if_pos hold]
  · refine ⟨transCol s grp 0, s.withTransCols grp, exec_trno_of_first hk h, rfl, fun l hl => (transCol_holdsElems s grp 0 l hl).trans ?_⟩
    simp [core]

end Sys2Proof.Machine

/-! SUPPORT. Calls of the array: MCALL, the start of a call and its retirement (09 R201 to R205). -/

namespace Sys2Proof.Machine

/-! ### Calls by their numbers -/

@[simp] theorem State.core_updCore_self (s : State) (c : Nat) (f : Core → Core) : (s.updCore c f).core c = f (s.core c) :=
  State.core_setCore_self ..

section
variable {s : State} {core id : Nat} {c : Call}

theorem State.callOf_id (h : s.callOf core id = some c) : c.id = id := by
  simpa using List.find?_some h

theorem State.callOf_updCall {f : Call → Call} (hc : s.callOf core id = some c) (hf : ∀ e, (f e).id = e.id) :
    (s.updCall core id f).callOf core id = some (f c) := by
  have hpred : ((fun e : Call => e.id == id) ∘ fun e => if e.id == id then f e else e) = fun e => e.id == id := by
    funext e
    by_cases he : e.id = id
    · simp [he, hf]
    · simp [he]
  have hfind : (s.core core).calls.find? (fun e => e.id == id) = some c := hc
  rw [State.callOf, State.updCall, State.core_updCore_self]
  dsimp only
  rw [List.find?_map, hpred, hfind]
  simp [State.callOf_id hc]

end

/-! ### MCALL (09 R201) -/

section
variable (s : State) (core n t S y : Nat)

/-- The call that a context enters with an MCALL of routine `n`. -/
def State.mcalled (s : State) (core n t S y : Nat) : Call :=
  { id := s.nextId, fr := { s.fr with gt := 0, cap := 0, capv := 0 }, y := y, rout := n, start := S, free := S,
    scales := if S ≤ t + 1 then scaleBytes s core else 0 }

/-- The state with an MCALL's call behind those of its core, which is to sample its routine and parameters. -/
def State.withMcall (s : State) (core n t S y : Nat) : State :=
  (s.fresh.2.updCore core fun k => { k with calls := k.calls ++ [s.mcalled core n t S y] }).push (t + 1) (.mxSample core s.nextId) 6

/-- A call is entered with its sampling, and where it starts later with the capture of its scale latches. -/
theorem enterCall_eq : enterCall s core n t S y [] none = if S ≤ t + 1 then s.withMcall core n t S y
    else (s.withMcall core n t S y).push (S - 1) (.scaleCap core s.nextId) 7 := rfl

theorem enterCall_calls : ((enterCall s core n t S y [] none).core core).calls = (s.core core).calls ++ [s.mcalled core n t S y] := by
  have hcalls : ((s.withMcall core n t S y).core core).calls = (s.core core).calls ++ [s.mcalled core n t S y] :=
    congrArg Core.calls (State.core_updCore_self s.fresh.2 core fun k => { k with calls := k.calls ++ [s.mcalled core n t S y] })
  rw [enterCall_eq]
  split <;> exact hcalls

theorem exists_sample_enterCall : ∃ e ∈ (enterCall s core n t S y [] none).pend, e.due = t + 1 ∧ e.act = .mxSample core s.nextId := by
  have hmem : ∃ e ∈ (s.withMcall core n t S y).pend, e.due = t + 1 ∧ e.act = .mxSample core s.nextId :=
    ⟨_, List.mem_append_right _ (List.mem_singleton_self _), rfl, rfl⟩
  obtain ⟨e, he, hsample⟩ := hmem
  refine ⟨e, ?_, hsample⟩
  rw [enterCall_eq]
  split
  · exact he
  · exact List.mem_append_left _ he

theorem enterCall_keeps : let u := enterCall s core n t S y [] none
    u.mem = s.mem ∧ u.ctxs = s.ctxs ∧ u.faults = s.faults := by
  rw [enterCall_eq]
  split <;> exact ⟨rfl, rfl, rfl⟩

end

section
variable {g : Guard} {n : Nat} {s : State}

/-- A call behind one that is still to start later than the next count is a third one. -/
theorem exec_mcall_of_waiting {p : Call} (hp : prevCall s (coreOf s.fr.x) s.fr.x s.fr.hnd = some p) (hS : s.fr.t + 1 < p.start) :
    exec (.mcall g n) s = .next (once g s
      (s.raiseIssue 7 (BitVec.ofNat 64 (s.fromAnchor p.start + s.fromAnchor s.fr.t * 2 ^ 32)))) := by
  change execMcall g n s = _
  simp only [execMcall, onceSlot_eq, hp, Option.filter_some, decide_eq_true hS, if_true]

section
variable (hprev : ∀ p, prevCall s (coreOf s.fr.x) s.fr.x s.fr.hnd = some p → p.start ≤ s.fr.t + 1)
include hprev

theorem noCall_waits : (prevCall s (coreOf s.fr.x) s.fr.x s.fr.hnd).filter (fun c => decide (s.fr.t + 1 < c.start)) = none :=
  Option.filter_eq_none_iff.2 fun p hp => by simpa using hprev p hp

theorem exec_mcall_of_dock (hd : dockRefuses s n = true) :
    exec (.mcall g n) s = .next (once g s (s.raiseIssue 22 (BitVec.ofNat 64 s.fr.bits))) := by
  change execMcall g n s = _
  simp only [execMcall, onceSlot_eq, noCall_waits hprev, if_pos hd]

theorem exec_mcall_of_pass (hd : dockRefuses s n = false) : exec (.mcall g n) s = .next (once g s (enterCall s (coreOf s.fr.x) n s.fr.t
    (callStartAt s.fr.t (prevCall s (coreOf s.fr.x) s.fr.x s.fr.hnd)) s.fr.x [] none)) := by
  change execMcall g n s = _
  simp only [execMcall, onceSlot_eq, noCall_waits hprev, if_neg (Bool.eq_false_iff.1 hd)]

end

end

/-! ### The start of a call (09 R202, R203) -/

section
variable {s : State} {core id lat : Nat} {c : Call}

/-- The first descriptor of a call that names a latch. -/
def firstDesc (c : Call) (lat : Nat) : Nat := ((usedDescs c.code 1).find? fun i => desc c.m i 2 0 == lat).getD 0

/-- The calls before a call on its clock that have not ended before their first step. -/
def callsBefore (s : State) (core id : Nat) (c : Call) : List Call := (s.core core).calls.filter fun e =>
  !(e.dead && e.step == 0) && decide (e.id < id) && e.fr.hnd == c.fr.hnd && (s.ctx e.fr.x).gang == (s.ctx c.fr.x).gang

/-- The count at which no earlier call on a latch is still to land there, from the call's start on. -/
def latchFreeAt (s : State) (core id lat : Nat) (c : Call) : Nat :=
  (((callsBefore s core id c).filter fun e => (callLats e).contains lat).map callEnd).foldl Nat.max c.start

/-- The start value of a latch taken up by a call that starts: zero, the latch's bytes, or those that earlier calls will have left. -/
def startLatch (s : State) (core id lat : Nat) (c : Call) : State :=
  if desc c.m (firstDesc c lat) 3 3 = 0 then s.updCall core id fun c => { c with acc := (lat, 0) :: c.acc }
  else if latchFreeAt s core id lat c ≤ c.start then readAcc s core id lat
  else s.push (latchFreeAt s core id lat c) (.mxAcc core id lat) 7

theorem exec_matrixCallStart_of_latch (hc : s.callOf core s.fr.id = some c) (hd : c.dead = false) (hl : callLats c = [lat]) :
    exec (.matrixCallStart core) s = .next ((startLatch s core s.fr.id lat c).push c.start (.mxStep core s.fr.id) 99) := by
  change execMatrixCallStart core s = _
  simp only [execMatrixCallStart, hc, hd, hl, List.foldl_cons, List.foldl_nil, Bool.false_eq_true, if_false]
  rfl

theorem latchFreeAt_of_none (h : ∀ e ∈ (s.core core).calls, e.id < id → lat ∉ callLats e) : latchFreeAt s core id lat c = c.start := by
  have hnone : (callsBefore s core id c).filter (fun e => (callLats e).contains lat) = [] := by
    refine List.filter_eq_nil_iff.2 fun e he => ?_
    obtain ⟨hmem, hbefore⟩ := List.mem_filter.1 he
    have hid : e.id < id := by
      simp only [Bool.and_eq_true, decide_eq_true_iff] at hbefore
      exact hbefore.1.1.2
    simpa using h e hmem hid
  rw [latchFreeAt, hnone]
  rfl

/-- Where no parity has failed a call's start value is the latch's bytes. -/
theorem readAcc_of_sound (hsoft : s.soft = []) (hc : s.callOf core id = some c) : readAcc s core id lat = s.updCall core id fun c =>
    { c with acc := (lat, s.mem.readN ((Place.latch core).key (4096 * lat)) (accBytes c)) :: c.acc.filter fun e => e.1 != lat } := by
  have hsound : s.failedByte ((Place.latch core).key (4096 * lat)) (accBytes c) = none := by simp [State.failedByte, hsoft]
  simp only [readAcc, hc, hsound]

/-- A start value taken up changes the calls of the core and what is pending, no more. -/
theorem startLatch_keeps (hsoft : s.soft = []) (hc : s.callOf core id = some c) :
    (startLatch s core id lat c).mem = s.mem ∧ (startLatch s core id lat c).ctxs = s.ctxs := by
  unfold startLatch
  rw [readAcc_of_sound hsoft hc]
  split
  · exact ⟨rfl, rfl⟩
  · split <;> exact ⟨rfl, rfl⟩

/-- The call's sums after its start value is taken up: zero where its first descriptor of the latch clears it, otherwise the latch's bytes
once no earlier call is to land there. -/
theorem exists_callOf_startLatch (hsoft : s.soft = []) (hc : s.callOf core id = some c) :
    ∃ k, (startLatch s core id lat c).callOf core id = some k
      ∧ (desc c.m (firstDesc c lat) 3 3 = 0 → k.acc = (lat, 0) :: c.acc)
      ∧ (desc c.m (firstDesc c lat) 3 3 ≠ 0 → latchFreeAt s core id lat c = c.start →
        k.acc = (lat, s.mem.readN ((Place.latch core).key (4096 * lat)) (accBytes c)) :: c.acc.filter fun e => e.1 != lat) := by
  unfold startLatch
  split
  · next hclear => exact ⟨_, State.callOf_updCall hc fun _ => rfl, fun _ => rfl, fun h => absurd hclear h⟩
  · next hkeep =>
    split
    · rw [readAcc_of_sound hsoft hc]
      exact ⟨_, State.callOf_updCall hc fun _ => rfl, fun h => absurd h hkeep, fun _ _ => rfl⟩
    · next hlate => exact ⟨c, hc, fun h => absurd h hkeep, fun _ h => absurd h.le hlate⟩

end

/-! ### The retirement of a call (09 R205) -/

section
variable {s : State} {core : Nat} {c : Call}

/-- The state without a call of a core. -/
def State.withoutCall (s : State) (core : Nat) (c : Call) : State :=
  s.updCore core fun k => { k with calls := k.calls.filter fun e => e.id != c.id }

/-- What a retirement leaves: the call is gone; one that a deferred fault has not ended merges its flags into the PSW of its context, or
into those of its tile word. -/
theorem exec_matrixCallRetire_cases (hc : s.callOf core s.fr.id = some c) : ∃ t, exec (.matrixCallRetire core) s = .next t
    ∧ (t = s.withoutCall core c ∧ c.dead = true
      ∨ t = (s.withoutCall core c).mergeFlags c.fr.x c.flags ∧ c.dead = false
      ∨ (∃ job f, t = (s.withoutCall core c).updTile job f) ∧ c.dead = false ∧ c.tile ≠ none) := by
  change ∃ t, execMatrixCallRetire core s = .next t ∧ _
  rw [execMatrixCallRetire, hc]
  refine ⟨_, rfl, ?_⟩
  split
  · next hd => exact .inl ⟨rfl, hd⟩
  · next hd =>
    have hlive : c.dead = false := Bool.eq_false_iff.2 hd
    split
    · exact .inr (.inl ⟨rfl, hlive⟩)
    · next r htile =>
      split
      · exact .inr (.inl ⟨rfl, hlive⟩)
      · exact .inr (.inr ⟨⟨_, _, rfl⟩, hlive, by rw [htile]; exact Option.some_ne_none r⟩)

end

/-- Settles O32: MCALL by the call before it and its dock core, then `enterCall`; a start by `startLatch`, a retirement by its three cases. -/
theorem matrixCallsStartAndRetire : Obligations.MatrixCallsStartAndRetire := by
  unfold Obligations.MatrixCallsStartAndRetire
  refine ⟨fun g n s => ?_, fun core lat c s hc hd hsoft hl => ?_, fun core c s hc => ?_⟩
  · intro core prev S u
    exact ⟨fun hprev hdock => ⟨exec_mcall_of_pass hprev hdock, ⟨_, enterCall_calls .., rfl, rfl, rfl, rfl, rfl⟩,
      exists_sample_enterCall .., enterCall_keeps ..⟩, exec_mcall_of_dock, fun p => exec_mcall_of_waiting⟩
  · intro first
    obtain ⟨k, hk, hclear, hkeep⟩ := exists_callOf_startLatch (lat := lat) hsoft hc
    obtain ⟨hmem, hctxs⟩ := startLatch_keeps (lat := lat) hsoft hc
    exact ⟨_, k, exec_matrixCallStart_of_latch hc hd hl, hk, hclear, fun h hnone => hkeep h (latchFreeAt_of_none hnone),
      ⟨_, List.mem_append_right _ (List.mem_singleton_self _), rfl, rfl⟩, hmem, hctxs⟩
  · obtain ⟨t, ht, hcases⟩ := exec_matrixCallRetire_cases hc
    have hcalls : ((s.withoutCall core c).core core).calls = (s.core core).calls.filter (fun e => e.id != c.id) :=
      congrArg Core.calls (State.core_updCore_self s core _)
    refine ⟨t, ht, ?_⟩
    rcases hcases with ⟨rfl, hd⟩ | ⟨rfl, hd⟩ | ⟨⟨job, f, rfl⟩, hd, htile⟩
    · exact ⟨hcalls, fun h => absurd (h.symm.trans hd) Bool.false_ne_true, fun _ => rfl, rfl, fun _ _ => rfl⟩
    · exact ⟨hcalls, fun _ _ => congrArg Ctx.psw (State.ctx_mergeFlags_self ..), fun h => absurd (hd.symm.trans h) Bool.false_ne_true, rfl,
        fun y hy => State.ctx_mergeFlags_ne _ _ _ hy⟩
    · exact ⟨hcalls, fun _ h => absurd h htile, fun h => absurd (hd.symm.trans h) Bool.false_ne_true, rfl, fun _ _ => rfl⟩

end Sys2Proof.Machine

/-! SUPPORT. Context switches: what stops CTXS and CTXR, whom they ask to freeze, and the bulk crossings of a save and a restore (10 R228). -/

namespace Sys2Proof.Machine

/-! ### Requests and conditions of a freeze -/

theorem State.gang_ask_self (u : State) (gi F : Nat) (why : Why) :
    (u.ask gi F why).gang gi = { u.gang gi with reqs := (u.gang gi).reqs ++ [⟨F, why⟩] } :=
  State.gang_updGang_self u gi fun k => { k with reqs := k.reqs ++ [⟨F, why⟩] }

/-- A freeze request is added at the end of its gang's list, and no gang changes otherwise. -/
theorem State.gang_ask (u : State) (gi F : Nat) (why : Why) (j : Nat) :
    ∃ l, (u.ask gi F why).gang j = { u.gang j with reqs := (u.gang j).reqs ++ l } := by
  by_cases hj : j = gi
  · subst hj
    exact ⟨_, State.gang_ask_self ..⟩
  · have hne : (u.ask gi F why).gang j = u.gang j :=
      State.gang_updGang_ne u (fun k => { k with reqs := k.reqs ++ [⟨F, why⟩] }) hj
    exact ⟨[], by rw [hne, List.append_nil]⟩

theorem State.mem_reqs_ask (u : State) (gi F : Nat) (why : Why) : ⟨F, why⟩ ∈ ((u.ask gi F why).gang gi).reqs := by
  rw [State.gang_ask_self]
  exact List.mem_append_right _ (List.mem_singleton_self _)

/-- A condition other than the slack wave's joins a freeze by its gang's record alone. -/
theorem State.join_of_ne_slack (s : State) (gi : Nat) {w : Why} (hw : w ≠ .slack) :
    s.join gi w = if w ∈ (s.gang gi).served ∧ w ∈ (s.gang gi).left then s
      else s.setGang gi { s.gang gi with served := (s.gang gi).served ++ [w], left := (s.gang gi).left ++ [w], G := none } := by
  simp only [State.join, Bool.and_eq_true, List.contains_iff_mem, if_neg hw]

theorem State.join_keeps (s : State) (gi : Nat) {w : Why} (hw : w ≠ .slack) :
    (∀ z, (s.join gi w).ctx z = s.ctx z) ∧ (s.join gi w).fr = s.fr ∧ (s.join gi w).mem = s.mem := by
  rw [State.join_of_ne_slack s gi hw]
  split <;> exact ⟨fun _ => rfl, rfl, rfl⟩

/-- A condition that joins changes no gang but in the freeze in force. -/
theorem State.gang_join (s : State) (gi : Nat) {w : Why} (hw : w ≠ .slack) (j : Nat) :
    ∃ sv lf G, (s.join gi w).gang j = { s.gang j with served := sv, left := lf, G := G } := by
  rw [State.join_of_ne_slack s gi hw]
  split
  · exact ⟨_, _, _, rfl⟩
  · by_cases hj : j = gi
    · subst hj
      exact ⟨_, _, _, State.gang_setGang_self ..⟩
    · rw [State.gang_setGang_ne s _ hj]
      exact ⟨_, _, _, rfl⟩

theorem State.mem_join (s : State) (gi : Nat) {w : Why} (hw : w ≠ .slack) :
    w ∈ ((s.join gi w).gang gi).left ∧ w ∈ ((s.join gi w).gang gi).served := by
  rw [State.join_of_ne_slack s gi hw]
  split
  · next h => exact h.symm
  · simp

theorem Gang.debit_eq (g : Gang) (c : Nat) : ∃ b d, g.debit c = { g with bal := b, debt := d } := by
  unfold Gang.debit
  split
  · exact ⟨_, _, rfl⟩
  · split
    · exact ⟨_, _, rfl⟩
    · exact ⟨_, _, rfl⟩

/-! ### The freeze of the gang that asks (10 R228) -/

/-- The gang of the slot in hand is asked to freeze until the save (`id` 0) or restore (1) of `y` has ended; a handler's is frozen already. -/
def State.holdAsker (u : State) (y id : Nat) : State :=
  if u.fr.hnd then u else u.ask (u.ctx u.fr.x).gang ((u.gangOf u.fr.x).reqPoint u.fr.t) (.ctxop y id)

section
variable (u : State) (y id : Nat)

theorem State.gang_holdAsker (j : Nat) : ∃ l, (u.holdAsker y id).gang j = { u.gang j with reqs := (u.gang j).reqs ++ l } := by
  unfold State.holdAsker
  split
  · exact ⟨[], by rw [List.append_nil]⟩
  · exact State.gang_ask ..

@[simp] theorem State.ctx_holdAsker (z : Nat) : (u.holdAsker y id).ctx z = u.ctx z := by
  unfold State.holdAsker
  split <;> rfl

@[simp] theorem State.holdAsker_mem : (u.holdAsker y id).mem = u.mem := by
  unfold State.holdAsker
  split <;> rfl

@[simp] theorem State.holdAsker_timed : (u.holdAsker y id).timed = u.timed := by
  unfold State.holdAsker
  split <;> rfl

theorem State.mem_reqs_holdAsker {F : Nat} (h : u.fr.hnd = false) (hF : (u.gangOf u.fr.x).reqPoint u.fr.t = F) :
    ⟨F, .ctxop y id⟩ ∈ ((u.holdAsker y id).gangOf u.fr.x).reqs := by
  subst hF
  rw [State.gangOf, State.ctx_holdAsker, State.holdAsker, h, if_neg Bool.false_ne_true]
  exact State.mem_reqs_ask ..

end

/-! ### CTXS -/

section
variable {y : Nat} {s : State}

theorem saveRefused_of_unprivileged (h : s.priv = false) : saveRefused s y = some 0 := by simp [saveRefused, h]

theorem saveRefused_of_unfit (hp : s.priv = true) (h : y = s.fr.x ∨ (s.ctx y).resident = false ∨ (s.ctx y).handler.isSome = true
    ∨ (s.ctx y).saved = true ∨ (s.ctx y).saving = true) : saveRefused s y = some 6 := by
  simp only [saveRefused, hp, Bool.not_true, Bool.false_eq_true, if_false]
  refine if_pos ?_
  rcases h with h | h | h | h | h <;> simp [h]

theorem saveRefused_of_fit (hp : s.priv = true) (hy : y ≠ s.fr.x) (hres : (s.ctx y).resident = true) (hh : (s.ctx y).handler = none)
    (hsaved : (s.ctx y).saved = false) (hsaving : (s.ctx y).saving = false) : saveRefused s y = none := by
  simp [saveRefused, hp, hy, hres, hh, hsaved, hsaving]

end

/-- The gang of context `y` asked to freeze, or kept frozen, until `y` has been saved. -/
def State.stopTarget (s : State) (y : Nat) : State :=
  match (s.gangOf y).run with
  | .running => s.ask (s.ctx y).gang ((s.gangOf y).reqPoint (s.gangOf y).sch) (.save y)
  | .waiting => s.ask (s.ctx y).gang 0 (.save y)
  | .frozen => s.join (s.ctx y).gang (.save y)
  | .ended => s

/-- Context `y` in a save that the slot in hand has asked for. -/
def State.reserve (u : State) (y : Nat) : State :=
  u.updCtx y fun c => { c with saving := true, savedFor := some (u.fr.x, u.fr.hnd, u.fr.ord) }

section
variable (s : State) (y : Nat)

/-- What stops the gang of a context leaves every context, the frame and memory. -/
theorem State.stopTarget_keeps : (∀ z, (s.stopTarget y).ctx z = s.ctx z) ∧ (s.stopTarget y).fr = s.fr ∧ (s.stopTarget y).mem = s.mem := by
  unfold State.stopTarget
  split
  case h_3 => exact State.join_keeps s _ (by simp)
  all_goals exact ⟨fun _ => rfl, rfl, rfl⟩

theorem State.reqPoint_stopTarget (gi t : Nat) : ((s.stopTarget y).gang gi).reqPoint t = (s.gang gi).reqPoint t := by
  have hask (F : Nat) : ((s.ask (s.ctx y).gang F (.save y)).gang gi).reqPoint t = (s.gang gi).reqPoint t := by
    obtain ⟨l, hl⟩ := s.gang_ask (s.ctx y).gang F (.save y) gi
    rw [hl]
    rfl
  unfold State.stopTarget
  split
  case h_1 => exact hask _
  case h_2 => exact hask _
  case h_3 =>
    obtain ⟨_, _, _, hj⟩ := s.gang_join (s.ctx y).gang (w := .save y) (by simp) gi
    rw [hj]
    rfl
  case h_4 => rfl

theorem State.mem_reqs_stopTarget_of_running (h : (s.gangOf y).run = .running) :
    ⟨(s.gangOf y).reqPoint (s.gangOf y).sch, .save y⟩ ∈ ((s.stopTarget y).gang (s.ctx y).gang).reqs := by
  rw [State.stopTarget, h]
  exact State.mem_reqs_ask ..

theorem State.mem_reqs_stopTarget_of_waiting (h : (s.gangOf y).run = .waiting) :
    ⟨0, .save y⟩ ∈ ((s.stopTarget y).gang (s.ctx y).gang).reqs := by
  rw [State.stopTarget, h]
  exact State.mem_reqs_ask ..

theorem State.mem_left_stopTarget_of_frozen (h : (s.gangOf y).run = .frozen) :
    .save y ∈ ((s.stopTarget y).gang (s.ctx y).gang).left ∧ .save y ∈ ((s.stopTarget y).gang (s.ctx y).gang).served := by
  rw [State.stopTarget, h]
  exact State.mem_join s _ (by simp)

end

section
variable {g : Guard} {n y : Nat} {s : State} (hy : s.fr.x / 4 * 4 + n % 4 = y) (hg : s.onceGuard g = true)
include hy hg

theorem exec_ctxs_of_refused {r : Nat} (h : saveRefused s y = some r) : exec (.ctxs g n) s = .next (s.privilege r) := by
  change execCtxs g n s = _
  simp only [execCtxs, onceSlot_eq, once_true _ hg, hy, h]

theorem exec_ctxs_of_accepted (h : saveRefused s y = none) : exec (.ctxs g n) s = .next (((s.stopTarget y).reserve y).holdAsker y 0) := by
  change execCtxs g n s = _
  simp only [execCtxs, onceSlot_eq, once_true _ hg, hy, h]
  rfl

end

/-- What an accepted CTXS leaves. -/
theorem State.stopTarget_reserved (s : State) {y : Nat} (hne : y ≠ s.fr.x) :
    let t := ((s.stopTarget y).reserve y).holdAsker y 0
    (t.ctx y).saving = true ∧ (t.ctx y).savedFor = some (s.fr.x, s.fr.hnd, s.fr.ord) ∧ t.mem = s.mem
      ∧ (∃ l, t.gangOf y = { (s.stopTarget y).gang (s.ctx y).gang with reqs := ((s.stopTarget y).gang (s.ctx y).gang).reqs ++ l })
      ∧ (s.fr.hnd = false → ⟨(s.gangOf s.fr.x).reqPoint s.fr.t, .ctxop y 0⟩ ∈ (t.gangOf s.fr.x).reqs) := by
  obtain ⟨hkept, hfr, hmem⟩ := s.stopTarget_keeps y
  have hctx : ((s.stopTarget y).reserve y).ctx y = { s.ctx y with saving := true, savedFor := some (s.fr.x, s.fr.hnd, s.fr.ord) } := by
    rw [State.reserve, State.ctx_updCtx_self, hkept, hfr]
  have hasker : ((s.stopTarget y).reserve y).ctx s.fr.x = s.ctx s.fr.x := (State.ctx_updCtx_ne _ _ hne.symm).trans (hkept _)
  have hpoint : (((s.stopTarget y).reserve y).gangOf s.fr.x).reqPoint s.fr.t = (s.gangOf s.fr.x).reqPoint s.fr.t := by
    rw [State.gangOf, hasker]
    exact State.reqPoint_stopTarget ..
  refine ⟨?_, ?_, ?_, ?_, fun hh => ?_⟩
  · rw [State.ctx_holdAsker, hctx]
  · rw [State.ctx_holdAsker, hctx]
  · rw [State.holdAsker_mem]
    exact hmem
  · rw [State.gangOf, State.ctx_holdAsker, hctx]
    exact State.gang_holdAsker ..
  · have hfr' : ((s.stopTarget y).reserve y).fr = s.fr := hfr
    have hin {F : Nat} := State.mem_reqs_holdAsker (F := F) ((s.stopTarget y).reserve y) y 0
    rw [hfr'] at hin
    exact hin hh hpoint

/-! ### CTXR -/

section
variable {y : Nat} {s : State}

theorem restoreRefused_of_unprivileged (h : s.priv = false) : restoreRefused s y = some 0 := by simp [restoreRefused, h]

theorem restoreRefused_of_unsaved (hp : s.priv = true) (h : (s.ctx y).saved = false) : restoreRefused s y = some 6 := by
  simp [restoreRefused, hp, h]

theorem restoreRefused_of_mismatch (hp : s.priv = true) (hsaved : (s.ctx y).saved = true)
    (h : (s.ctx y).allot.toNat ≠ s.mem.readN (saveKey y (8 * 37)) 8 ∨ (s.ctx y).wdog.getLsbD 63 = true) : restoreRefused s y = some 7 := by
  simp only [restoreRefused, hp, hsaved, Bool.not_true, Bool.false_eq_true, if_false]
  exact if_pos (by simpa only [Bool.or_eq_true, decide_eq_true_eq] using h)

theorem restoreRefused_of_match (hp : s.priv = true) (hsaved : (s.ctx y).saved = true)
    (ha : (s.ctx y).allot.toNat = s.mem.readN (saveKey y (8 * 37)) 8) (hw : (s.ctx y).wdog.getLsbD 63 = false) : restoreRefused s y = none := by
  simp only [restoreRefused, hp, hsaved, ha, hw, Bool.not_true, ne_eq, not_true_eq_false, decide_false, Bool.or_self, Bool.false_eq_true,
    if_false]

end

theorem State.ctx_timedAt (s : State) (T : Nat) (i : Instr) (fr : Frame) (z : Nat) : (s.timedAt T i fr).ctx z = s.ctx z := rfl

/-- Context `y` in a restore that the slot in hand has asked for: its gang is charged, and the restore is looked at from the next cycle on. -/
def State.chargeRestore (s : State) (g : Guard) (n y : Nat) : State :=
  ((s.updGang (s.ctx y).gang fun k => k.debit (8 * saveBytes s y)).updCtx y fun c =>
    { c with saving := true, wcnt := 0, savedFor := some (s.fr.x, s.fr.hnd, s.fr.ord) }).timedAt (s.tide + 1) (.ctxr g n) { s.fr with slice := 1 }

section
variable {g : Guard} {n y : Nat} {s : State} (hy : s.fr.x / 4 * 4 + n % 4 = y) (hk : s.fr.slice ≠ 1) (hg : s.onceGuard g = true)
include hy hk hg

theorem exec_ctxr_of_refused {r : Nat} (h : restoreRefused s y = some r) : exec (.ctxr g n) s = .next (s.privilege r) := by
  change execCtxr g n s = _
  simp only [execCtxr, if_neg hk, onceSlot_eq, once_true _ hg, hy, h]

theorem exec_ctxr_of_accepted (h : restoreRefused s y = none) : exec (.ctxr g n) s = .next ((s.chargeRestore g n y).holdAsker y 1) := by
  change execCtxr g n s = _
  simp only [execCtxr, if_neg hk, onceSlot_eq, once_true _ hg, hy, h]
  rfl

end

theorem Gang.reqPoint_debit (k : Gang) (c t : Nat) : (k.debit c).reqPoint t = k.reqPoint t := by
  obtain ⟨b, d, h⟩ := k.debit_eq c
  rw [h]
  rfl

section
variable (s : State) (g : Guard) (n y : Nat)

theorem State.gangOf_chargeRestore (z : Nat) : (s.chargeRestore g n y).gangOf z
    = if (s.ctx z).gang = (s.ctx y).gang then (s.gangOf y).debit (8 * saveBytes s y) else s.gangOf z := by
  have hgang : ((s.chargeRestore g n y).ctx z).gang = (s.ctx z).gang := by
    rw [State.chargeRestore, State.ctx_timedAt]
    by_cases hz : z = y
    · rw [hz, State.ctx_updCtx_self]
      rfl
    · rw [State.ctx_updCtx_ne _ _ hz]
      rfl
  rw [State.gangOf, hgang]
  exact SMap.get_put

/-- What an accepted CTXR leaves. -/
theorem State.chargeRestore_held :
    let t := (s.chargeRestore g n y).holdAsker y 1
    (t.ctx y).saving = true ∧ (t.ctx y).wcnt = 0 ∧ (t.ctx y).savedFor = some (s.fr.x, s.fr.hnd, s.fr.ord) ∧ t.mem = s.mem
      ∧ (t.gangOf y).bal = ((s.gangOf y).debit (8 * saveBytes s y)).bal
      ∧ t.timed = s.timed ++ [⟨s.tide + 1, ⟨.ctxr g n, { s.fr with slice := 1 }⟩⟩]
      ∧ (s.fr.hnd = false → ⟨(s.gangOf s.fr.x).reqPoint s.fr.t, .ctxop y 1⟩ ∈ (t.gangOf s.fr.x).reqs) := by
  have hctx : (s.chargeRestore g n y).ctx y
      = { s.ctx y with saving := true, wcnt := 0, savedFor := some (s.fr.x, s.fr.hnd, s.fr.ord) } := by
    rw [State.chargeRestore, State.ctx_timedAt, State.ctx_updCtx_self]
    rfl
  have hpoint : ((s.chargeRestore g n y).gangOf s.fr.x).reqPoint s.fr.t = (s.gangOf s.fr.x).reqPoint s.fr.t := by
    rw [State.gangOf_chargeRestore]
    split
    · next h => rw [Gang.reqPoint_debit, State.gangOf, State.gangOf, h]
    · rfl
  refine ⟨?_, ?_, ?_, ?_, ?_, ?_, fun hh => State.mem_reqs_holdAsker (s.chargeRestore g n y) y 1 hh hpoint⟩
  · rw [State.ctx_holdAsker, hctx]
  · rw [State.ctx_holdAsker, hctx]
  · rw [State.ctx_holdAsker, hctx]
  · rw [State.holdAsker_mem]
    rfl
  · obtain ⟨l, hl⟩ := (s.chargeRestore g n y).gang_holdAsker y 1 ((s.chargeRestore g n y).ctx y).gang
    have hcharged : (s.chargeRestore g n y).gang ((s.chargeRestore g n y).ctx y).gang = (s.gangOf y).debit (8 * saveBytes s y) :=
      (s.gangOf_chargeRestore g n y y).trans (if_pos rfl)
    rw [State.gangOf, State.ctx_holdAsker, hl, hcharged]
  · rw [State.holdAsker_timed]
    rfl

end

/-! ### The bulk crossing of a save or a restore -/

theorem State.foldl_timedAt_eq {α : Type} (T : α → Nat) (i : Instr) (fr : State → Frame) (l : List α) (s : State) :
    ∃ ts, l.foldl (fun (s : State) a => s.timedAt (T a) i (fr s)) s = { s with timed := ts } := by
  induction l generalizing s with
  | nil => exact ⟨_, rfl⟩
  | cons a l ih => exact ih _

section
variable {s : State} {y n : Nat} {out : Bool} {stage : List Nat}

theorem State.bulk_of_no_room (h : (s.bulkSlots y out n).length < n) : s.bulk y out n stage = none := if_pos h

theorem State.bulk_of_room (h : n ≤ (s.bulkSlots y out n).length) : ∃ t, s.bulk y out n stage = some t ∧ t.gangs = s.gangs ∧ t.mem = s.mem
    ∧ t.ctx y = { s.ctx y with
        crossings := (s.ctx y).crossings ++ [⟨s.nextId, false, 0, {}, .bulk, out, 0, 0, 64 * n, s.bulkSlots y out n, 0, stage⟩] } := by
  obtain ⟨ts, hts⟩ := State.foldl_timedAt_eq (fun S : Int => (S + (if out then 160 else 192)).toNat) (.lockSlot y s.nextId)
    (fun u => { u.fr with bits := 0, id := s.nextId }) (s.bulkSlots y out n) (s.fresh.2.updCtx y fun c => { c with
      crossings := c.crossings ++ [⟨s.nextId, false, 0, {}, .bulk, out, 0, 0, 64 * n, s.bulkSlots y out n, 0, stage⟩] })
  exact ⟨_, (if_neg (Nat.not_lt.2 h)).trans (congrArg some hts), rfl, rfl, State.ctx_updCtx_self s.fresh.2 y fun c => { c with
    crossings := c.crossings ++ [⟨s.nextId, false, 0, {}, .bulk, out, 0, 0, 64 * n, s.bulkSlots y out n, 0, stage⟩] }⟩

end

section
variable {g : Guard} {n y : Nat} {s : State} (hy : s.fr.x / 4 * 4 + n % 4 = y) (hk : s.fr.slice = 1)
include hy hk

theorem exec_ctxr_again : exec (.ctxr g n) s = .next (startRestore g n y s) := by
  change execCtxr g n s = _
  rw [execCtxr, hy, if_pos hk]

theorem exec_ctxr_of_held (h : s.askerRuns y = true ∨ (s.bulkSlots y false (saveBytes s y / 64)).length < saveBytes s y / 64) :
    exec (.ctxr g n) s = .next (s.timedAt (s.tide + 1) (.ctxr g n) { s.fr with slice := 1 }) := by
  rw [exec_ctxr_again hy hk, startRestore]
  split
  · next t ht =>
    rcases h with h | h
    · simp [h] at ht
    · simp [State.bulk_of_no_room h] at ht
  · rfl

theorem exec_ctxr_of_entered {t : State} (ha : s.askerRuns y = false) (hb : s.bulk y false (saveBytes s y / 64) [] = some t) :
    exec (.ctxr g n) s = .next t := by
  rw [exec_ctxr_again hy hk, startRestore, ha, if_neg Bool.false_ne_true, hb]

end

/-! ### The start of a save -/

/-- A save of context `y` may start: its gang is frozen, and so is the one that asked, what it had crossing has landed, and its charge is
admitted. -/
def State.SaveReady (s : State) (y : Nat) : Prop :=
  (s.ctx y).saving = true ∧ (s.ctx y).saved = false ∧ (s.gangOf y).run ≠ .running ∧ (s.ctx y).bulkOn = false ∧ s.askerRuns y = false
    ∧ crossingsLanded s y = true ∧ (s.gangOf y).admits (s.ctx y).hlmthr.toNat (32 * saveBytes s y) = true

/-- The granules that a save of context `y` crosses: its image, then its latches. -/
def saveGranules (s : State) (y : Nat) : List Nat :=
  ((List.range (((imageOf s y).2 + 63) / 64)).map fun j => imgBytes (imageOf s y).1 (64 * j) 64)
    ++ ((List.range 8).filter (s.ctx y).latchIn).flatMap fun n =>
      (List.range 64).map fun j => s.mem.readN ((Place.latch (coreOf y)).key (4096 * n + 64 * j)) 64

section
variable {s : State} {y : Nat}

theorem saveGranules_length : (saveGranules s y).length = ((imageOf s y).2 + 63) / 64 + 64 * ((List.range 8).filter (s.ctx y).latchIn).length := by
  simp [saveGranules, List.length_flatMap, Nat.mul_comm]

theorem exec_contextSaveStart_of_unready (h : ¬ s.SaveReady y) : exec (.contextSaveStart y) s = .next s := by
  change execContextSaveStart y s = _
  refine if_pos ?_
  by_contra hc
  refine h ?_
  simpa [State.SaveReady, and_assoc] using hc

theorem exec_contextSaveStart_of_ready (h : s.SaveReady y) : exec (.contextSaveStart y) s
    = .next ((s.bulk y true (saveGranules s y).length (saveGranules s y)).elim s fun t =>
        t.updGang (s.ctx y).gang fun k => k.debit (32 * saveBytes s y)) := by
  obtain ⟨hsaving, hsaved, hrun, hbulk, hask, hland, hadm⟩ := h
  change execContextSaveStart y s = _
  simp only [execContextSaveStart, hsaving, hsaved, hbulk, hask, hland, hadm, beq_eq_false_iff_ne.2 hrun, Bool.not_true, Bool.or_self,
    Bool.false_eq_true, if_false]
  have hlen : (saveGranules s y).length = ((imageOf s y).2 + 63) / 64 + (((List.range 8).filter (s.ctx y).latchIn).flatMap fun n =>
      (List.range 64).map fun j => s.mem.readN ((Place.latch (coreOf y)).key (4096 * n + 64 * j)) 64).length := by
    simp [saveGranules]
  rw [hlen, saveGranules]
  cases s.bulk y true _ _ <;> rfl

theorem exec_contextSaveStart_of_no_room (h : s.SaveReady y) (hroom : (s.bulkSlots y true (saveGranules s y).length).length < (saveGranules s y).length) :
    exec (.contextSaveStart y) s = .next s := by
  rw [exec_contextSaveStart_of_ready h, State.bulk_of_no_room hroom]
  rfl

theorem exec_contextSaveStart_of_room (h : s.SaveReady y) (hroom : (saveGranules s y).length ≤ (s.bulkSlots y true (saveGranules s y).length).length) :
    ∃ t, exec (.contextSaveStart y) s = .next t ∧ (t.gangOf y).bal = ((s.gangOf y).debit (32 * saveBytes s y)).bal ∧ t.mem = s.mem
      ∧ t.ctx y = { s.ctx y with crossings := (s.ctx y).crossings ++ [⟨s.nextId, false, 0, {}, .bulk, true, 0, 0,
          64 * (saveGranules s y).length, s.bulkSlots y true (saveGranules s y).length, 0, saveGranules s y⟩] } := by
  obtain ⟨t, ht, hgangs, hmem, hctx⟩ := State.bulk_of_room (stage := saveGranules s y) hroom
  refine ⟨t.updGang (s.ctx y).gang fun k => k.debit (32 * saveBytes s y), ?_, ?_, hmem, hctx⟩
  · rw [exec_contextSaveStart_of_ready h, ht]
    rfl
  · have hkept : t.gang (s.ctx y).gang = s.gangOf y := by
      rw [State.gangOf, State.gang, State.gang, hgangs]
    have hgang : (t.ctx y).gang = (s.ctx y).gang := by rw [hctx]
    change ((t.updGang (s.ctx y).gang _).gang (t.ctx y).gang).bal = _
    rw [hgang, State.gang_updGang_self, hkept]

end

/-- Settles O30: each of CTXS and CTXR by its refusals and what an accepted one leaves, and each start by the room its crossing finds. -/
theorem contextSwitches : Obligations.ContextSwitches := by
  unfold Obligations.ContextSwitches
  intro g n s hg x y c k kept enters m ready
  have hy : s.fr.x / 4 * 4 + n % 4 = y := rfl
  refine ⟨fun hp => ⟨exec_ctxs_of_refused hy hg (saveRefused_of_unprivileged hp),
      fun hk => exec_ctxr_of_refused hy hk hg (restoreRefused_of_unprivileged hp)⟩,
    fun hp h => exec_ctxs_of_refused hy hg (saveRefused_of_unfit hp h),
    fun hp hs hk => exec_ctxr_of_refused hy hk hg (restoreRefused_of_unsaved hp hs),
    fun hp hs hk h => exec_ctxr_of_refused hy hk hg (restoreRefused_of_mismatch hp hs h),
    fun hp hne hres hh hs hsaving => ?_, fun hp hs hk ha hw => ?_, exec_ctxr_of_held hy, fun hk hask hroom => ?_,
    fun hready hroom => ?_, fun h => ?_⟩
  · obtain ⟨hsav, hfor, hmem, ⟨l, hgang⟩, hasks⟩ := s.stopTarget_reserved hne
    refine ⟨_, exec_ctxs_of_accepted hy hg (saveRefused_of_fit hp hne hres hh hs hsaving), hsav, hfor, hmem, fun hrun => ?_, fun hrun => ?_,
      fun hrun => ?_, hasks⟩
    · rw [hgang]
      exact List.mem_append_left _ (s.mem_reqs_stopTarget_of_running y hrun)
    · rw [hgang]
      exact List.mem_append_left _ (s.mem_reqs_stopTarget_of_waiting y hrun)
    · rw [hgang]
      exact s.mem_left_stopTarget_of_frozen y hrun
  · exact ⟨_, exec_ctxr_of_accepted hy hk hg (restoreRefused_of_match hp hs ha hw), s.chargeRestore_held g n y⟩
  · obtain ⟨t, ht, -, hmem, hctx⟩ := State.bulk_of_room hroom
    exact ⟨t, exec_ctxr_of_entered hy hk hask ht, hmem, _, congrArg Ctx.crossings hctx, rfl, rfl, rfl, rfl, rfl⟩
  · have hm : (saveGranules s y).length = m := saveGranules_length
    obtain ⟨t, ht, hbal, hmem, hctx⟩ := exec_contextSaveStart_of_room hready (hm ▸ hroom)
    exact ⟨t, ht, hbal, hmem, _, congrArg Ctx.crossings hctx, rfl, rfl, congrArg (64 * ·) hm, congrArg (s.bulkSlots y true) hm, rfl⟩
  · have hm : (saveGranules s y).length = m := saveGranules_length
    by_cases hready : ready
    · exact exec_contextSaveStart_of_no_room hready (hm ▸ h.resolve_left (not_not_intro hready))
    · exact exec_contextSaveStart_of_unready hready

end Sys2Proof.Machine

/-! SUPPORT. A slack wave's cause that waits in one context and names another: a freeze enters it where it names (10 R220, R225, 22 R376). -/

namespace Sys2Proof.Machine

theorem exec_faultTaken_of_due {s : State} {x : Nat} {f : PendFault} (h : s.dueFault x = some f) :
    exec (.faultTaken x) s = .next (s.takeFault f) := by
  change execFaultTaken x s = _
  rw [execFaultTaken, h]

/-- A fault of slot 2 of context 0. -/
def slotFault : PendFault := { x := 0, hnd := false, F := 10, t := 9, slot := 2, addr := 3, code := 4, finfo := 7 }

/-- Contexts 0 and 1 of one core are the members of gang 1, which has reached count 10, and `slotFault` is due. A slack wave's cause waits in
context 1, but names context 0. -/
def foreignWave (run : RunState) (saving : Bool) : State :=
  { ((State.reset.setGang 1 { live := true, run := run, members := [0, 1], sch := 10 }).setCtx 0 { resident := true, gang := 1, saving := saving }).setCtx 1
      { resident := true, gang := 1, wave := some { x := 0, hnd := false, F := 10, t := 10, slot := 0, addr := 5, code := 16, finfo := 0 } } with
    faults := [slotFault] }

theorem finfo_takeFault_foreignWave : (((foreignWave .running false).takeFault slotFault).ctx 0).finfo = 0 := by decide +kernel

/-- Refutes O44, in its clause on a gang of one core without a handler. The gang freezes for the slack wave once the fault's own records are
written, and that freeze enters the cause that waits in each member, over the records of the context that the cause names. In `foreignWave`
context 1 holds one that names context 0, whose FINFO is then that cause's. The statement asks that no cause waits in the faulting context,
but not that what waits in another member names that member, as the acts that make a cause see to. -/
theorem not_faultsAreTaken : ¬ Obligations.FaultsAreTaken := by
  unfold Obligations.FaultsAreTaken
  intro h
  have hdue : (foreignWave .running false).dueFault 0 = some slotFault := by decide +kernel
  obtain ⟨-, -, hslack, -⟩ := h (foreignWave .running false) 0 slotFault hdue
  obtain ⟨t, ht, -, hfinfo, -⟩ := hslack (by decide) (by decide +kernel) rfl (by decide +kernel) (by decide +kernel)
  rw [exec_faultTaken_of_due hdue] at ht
  cases ht
  exact absurd (finfo_takeFault_foreignWave.symm.trans hfinfo) (by decide)

theorem finfo_watchdogExpiry_foreignWave {t : State} (h : exec (.watchdogExpiry 0) (foreignWave .frozen true) = .next t) : (t.ctx 0).finfo = 0 := by
  cases h
  decide +kernel

/-- Refutes O45, in its clause on an expiry during a save. The expiry's own fault has 1 in FINFO, but the slack wave that joins the freeze then
enters the cause that waits in each member, over the records of the context that the cause names: in `foreignWave`, context 1's over those of
context 0. The statement asks that no cause waits in the context that expires, but not that what waits in another member names that
member, as the acts that make a cause see to. -/
theorem not_faultsCancelTheirSlots : ¬ Obligations.FaultsCancelTheirSlots := by
  unfold Obligations.FaultsCancelTheirSlots
  intro h
  obtain ⟨-, -, -, -, -, -, -, -, -, hexpiry⟩ := h (foreignWave .frozen true) slotFault
  obtain ⟨t, ht, -, -, -, -, -, hfinfo⟩ := (hexpiry 0).2 (by decide +kernel) (by decide +kernel) (by decide +kernel)
  exact absurd ((finfo_watchdogExpiry_foreignWave ht).symm.trans hfinfo) (by decide)

end Sys2Proof.Machine

/-! SUPPORT. The start count of an engine or router command (15 R257). -/

namespace Sys2Proof.Machine

/-- The start count is the anchor's, the first of the window from 8,191 counts before the issue on that the offset names. -/
theorem startCount_of_program {s : State} (h : s.fr.hnd = false) (off : Nat) : let a : Int := (s.gangOf s.fr.x).anchor
    let lo : Int := s.fr.t - 8191
    startCount s off = lo + (off - (lo - a)) % 16384 := by
  intro a lo
  have hlo : (s.fr.t : Int) - a - 8191 = lo - a := sub_right_comm ..
  rw [startCount, h, if_neg Bool.false_ne_true]
  change a + ((s.fr.t : Int) - a - 8191) + ((off : Int) - ((s.fr.t : Int) - a - 8191)) % 16384 = _
  rw [hlo, add_sub_cancel]

/-- Settles O33: two counts of one window of 16,384 with one remainder are the same. -/
theorem startCountIsUnique : Obligations.StartCountIsUnique := by
  unfold Obligations.StartCountIsUnique
  intro s off hoff hnd a S
  have hS : S = _ := startCount_of_program hnd off
  rw [show ((s.gangOf s.fr.x).anchor : Int) = a from rfl] at hS
  refine ⟨by omega, by omega, by omega, fun T hlo hhi hT => by omega⟩

end Sys2Proof.Machine

/-! SUPPORT. Router operations: their results by lanes, and the granule that opens a tile of a ring (15 R264, R265, 08 R172). -/

namespace Sys2Proof.Machine

/-! ### Lanes of a router operation (15 R265) -/

section
variable (a b : Gran)

theorem map2_holdsElems (w : Nat) (f : Nat → Nat → Nat) :
    HoldsElems w (map2 w f a b) fun j => f (elemOf w a j) (elemOf w b j) % 2 ^ w := by
  intro j hj
  rw [map2, elemOf_eGran_of_length (by simp), List.getD_eq_getElem _ _ (by simpa)]
  simp [granE_getElem]

/-- Elements computed as `g` computes them, and that fit, are held as they are. -/
theorem map2_holdsElems_of_eq {w : Nat} {f g : Nat → Nat → Nat} (h : ∀ x y, x < 2 ^ w → y < 2 ^ w → f x y = g x y ∧ g x y < 2 ^ w) :
    HoldsElems w (map2 w f a b) fun j => g (elemOf w a j) (elemOf w b j) := by
  intro j hj
  obtain ⟨hfg, hlt⟩ := h _ _ (elemOf_lt w a j) (elemOf_lt w b j)
  exact (elemOf_map2 hj (hfg ▸ hlt)).trans hfg

theorem laneMax_signed_holdsElems : HoldsElems 32 (laneMinMax true .t0 a b) fun j =>
    ofInt 32 (max (intVal true 32 (elemOf 32 a j)) (intVal true 32 (elemOf 32 b j))) := by
  refine map2_holdsElems_of_eq a b (g := fun x y => ofInt 32 (max (intVal true 32 x) (intVal true 32 y)))
    fun x y hx hy => ⟨?_, ofInt_lt ..⟩
  by_cases h : intVal true 32 x < intVal true 32 y
  · exact (if_pos h).trans (by rw [max_eq_right h.le, ofInt_intVal hy])
  · exact (if_neg h).trans (by rw [max_eq_left (not_lt.1 h), ofInt_intVal hx])

theorem laneMin_signed_holdsElems : HoldsElems 32 (laneMinMax false .t0 a b) fun j =>
    ofInt 32 (min (intVal true 32 (elemOf 32 a j)) (intVal true 32 (elemOf 32 b j))) := by
  refine map2_holdsElems_of_eq a b (g := fun x y => ofInt 32 (min (intVal true 32 x) (intVal true 32 y)))
    fun x y hx hy => ⟨?_, ofInt_lt ..⟩
  by_cases h : intVal true 32 y < intVal true 32 x
  · exact (if_pos h).trans (by rw [min_eq_right h.le, ofInt_intVal hy])
  · exact (if_neg h).trans (by rw [min_eq_left (not_lt.1 h), ofInt_intVal hx])

theorem laneMax_plain_holdsElems : HoldsElems 32 (laneMinMax true .t1 a b) fun j => max (elemOf 32 a j) (elemOf 32 b j) := by
  refine map2_holdsElems_of_eq a b (g := max) fun x y hx hy => ⟨?_, max_lt hx hy⟩
  by_cases h : x < y
  · exact (if_pos (Nat.cast_lt.2 h)).trans (max_eq_right h.le).symm
  · exact (if_neg (mt Nat.cast_lt.1 h)).trans (max_eq_left (not_lt.1 h)).symm

theorem laneMin_plain_holdsElems : HoldsElems 32 (laneMinMax false .t1 a b) fun j => min (elemOf 32 a j) (elemOf 32 b j) := by
  refine map2_holdsElems_of_eq a b (g := min) fun x y hx hy => ⟨?_, (min_le_left x y).trans_lt hx⟩
  by_cases h : y < x
  · exact (if_pos (Nat.cast_lt.2 h)).trans (min_eq_right h.le).symm
  · exact (if_neg (mt Nat.cast_lt.1 h)).trans (min_eq_left (not_lt.1 h)).symm

end

/-- A mask of whole lanes keeps the elements of the lanes in it. -/
theorem elemOf_and_laneBits (v : Gran) (m : LaneMask) {j : Nat} (hj : j < 16) :
    elemOf 32 (v &&& laneBits m) j = if m.getLsbD j then elemOf 32 v j else 0 := by
  refine Nat.eq_of_testBit_eq fun i => ?_
  rw [apply_ite (Nat.testBit · i), testBit_elemOf, testBit_elemOf, BitVec.getLsbD_and]
  by_cases hi : i < 32
  · rw [laneBits_getLsbD m hj hi]
    cases m.getLsbD j <;> simp
  · simp [hi]

/-! ### The granule that opens a tile (15 R265, 08 R172) -/

/-- A ring with its next tile claimed under number `id`. -/
def Ring.claimed (r : Ring) (id : Nat) : Ring :=
  { r with clm := (r.clm + 1) % (r.depth + 1), claims := r.claims ++ [(r.clm, id, false)] }

theorem Ring.claim_of_room {r : Ring} (h : r.count + r.claims.length ≠ r.depth + 1) (id : Nat) : r.claim id = some (r.clm, r.claimed id) :=
  if_neg h

@[simp] theorem Ctx.ring_setRing_self (c : Ctx) (n : Nat) (r : Ring) : (c.setRing n r).ring n = r := SMap.get_put_self

section
variable {s : State} {y ring : Nat}

/-- A claim of a ring that is not full: the ring has the claim, and the claim's number is used up. -/
theorem claimTile_eq (h : ((s.ctx y).ring ring).count + ((s.ctx y).ring ring).claims.length ≠ ((s.ctx y).ring ring).depth + 1) :
    claimTile s y ring = some (((s.ctx y).ring ring).clm, s.nextId,
      { s with nextId := s.nextId + 1 }.updCtx y fun c => c.setRing ring (((s.ctx y).ring ring).claimed s.nextId)) := by
  simp only [claimTile, Ring.claim_of_room h]
  rfl

/-- The state after the granule that opens a tile: the tile is claimed and the granule on its way, one granule of the tile pushed. -/
def State.openTile (s : State) (y ring lat : Nat) (v : Gran) : State :=
  let r := (s.ctx y).ring ring
  let u := { s with nextId := s.nextId + 1 }.updCtx y fun c => c.setRing ring (r.claimed s.nextId)
  (u.push (s.fr.t + lat) (.store (ownKey y (r.base + r.clm * (r.size + 1))) 64 v.toNat (allBytes 64)) (1 + coreOf s.fr.x)).updCtx y fun c =>
    c.setRing ring { r.claimed s.nextId with gran := if r.size = 0 then 0 else 1 }

theorem pushGranule_of_opening (hgran : ((s.ctx y).ring ring).gran = 0)
    (h : ((s.ctx y).ring ring).count + ((s.ctx y).ring ring).claims.length ≠ ((s.ctx y).ring ring).depth + 1) (lat : Nat) (v : Gran) :
    pushGranule s y ring lat v = if ((s.ctx y).ring ring).size = 0
      then (s.openTile y ring lat v).push (s.fr.t + lat) (.publish y ring s.nextId) 3 else s.openTile y ring lat v := by
  have hring : (({ s with nextId := s.nextId + 1 }.updCtx y fun c =>
      c.setRing ring (((s.ctx y).ring ring).claimed s.nextId)).ctx y).ring ring = ((s.ctx y).ring ring).claimed s.nextId := by simp
  have hlast : (((s.ctx y).ring ring).claimed s.nextId).claims.getLast? = some (((s.ctx y).ring ring).clm, s.nextId, false) := by
    simp [Ring.claimed]
  have hlastGranule : (((s.ctx y).ring ring).claimed s.nextId).gran = (((s.ctx y).ring ring).claimed s.nextId).size
      ↔ ((s.ctx y).ring ring).size = 0 := by
    simp [Ring.claimed, hgran, eq_comm]
  simp only [pushGranule, hgran, if_true, claimTile_eq h, Option.map_some, hring, hlast, hlastGranule, State.openTile]
  simp only [Ring.claimed, hgran, Nat.add_zero, Nat.zero_add]
  rfl

section
variable (hgran : ((s.ctx y).ring ring).gran = 0)
  (h : ((s.ctx y).ring ring).count + ((s.ctx y).ring ring).claims.length ≠ ((s.ctx y).ring ring).depth + 1) (lat : Nat) (v : Gran)
include hgran h

theorem ring_pushGranule_of_opening : ((pushGranule s y ring lat v).ctx y).ring ring
    = { ((s.ctx y).ring ring).claimed s.nextId with gran := if ((s.ctx y).ring ring).size = 0 then 0 else 1 } := by
  have hopen : ((s.openTile y ring lat v).ctx y).ring ring
      = { ((s.ctx y).ring ring).claimed s.nextId with gran := if ((s.ctx y).ring ring).size = 0 then 0 else 1 } := by
    simp [State.openTile]
  rw [pushGranule_of_opening hgran h, ← hopen]
  split <;> rfl

theorem exists_store_pushGranule_of_opening : let r := (s.ctx y).ring ring
    ∃ e ∈ (pushGranule s y ring lat v).pend, e.due = s.fr.t + lat
      ∧ e.act = .store (ownKey y (r.base + r.clm * (r.size + 1))) 64 v.toNat (allBytes 64) := by
  intro r
  have hopen : ∃ e ∈ (s.openTile y ring lat v).pend, e.due = s.fr.t + lat
      ∧ e.act = .store (ownKey y (r.base + r.clm * (r.size + 1))) 64 v.toNat (allBytes 64) :=
    ⟨_, List.mem_append_right _ (List.mem_singleton_self _), rfl, rfl⟩
  rw [pushGranule_of_opening hgran h]
  split
  · obtain ⟨e, he, hact⟩ := hopen
    exact ⟨e, List.mem_append_left _ he, hact⟩
  · exact hopen

/-- The granule that opens a tile of one granule is its last one, too. -/
theorem exists_publish_pushGranule_of_opening (hsize : ((s.ctx y).ring ring).size = 0) :
    ∃ e ∈ (pushGranule s y ring lat v).pend, e.due = s.fr.t + lat ∧ e.act = .publish y ring s.nextId := by
  rw [pushGranule_of_opening hgran h, if_pos hsize]
  exact ⟨_, List.mem_append_right _ (List.mem_singleton_self _), rfl, rfl⟩

end

end

theorem maskCores_two_pow {c : Nat} (hc : c < 4) : maskCores (2 ^ c) = [c] := by
  interval_cases c <;> decide

theorem maskCores_eq_filter (m : Nat) : maskCores m = (List.range 4).filter m.testBit :=
  List.filter_congr fun i _ => bit_eq_testBit m i

/-- The router's record of a store that performs `lat` counts after the issue (15 R265). -/
def State.noteStore (s : State) (lat : Nat) : State :=
  s.updRouter s.myClu fun r => { r with endAt := max r.endAt (s.fr.t + lat), perfP := max r.perfP (s.fr.t + lat) }

theorem exec_rpsh_eq (m d a : Nat) (s : State) : exec (.rpsh m d a) s
    = .next (((maskCores m).foldl (fun u i => pushGranule u (targetCtx u.fr.x i) d 6 (u.wget a)) s).noteStore 6) := rfl

theorem exec_rpsh_of_one {c : Nat} (hc : c < 4) (d a : Nat) (s : State) :
    exec (.rpsh (2 ^ c) d a) s = .next ((pushGranule s (targetCtx s.fr.x c) d 6 (s.wget a)).noteStore 6) := by
  rw [exec_rpsh_eq, maskCores_two_pow hc]
  rfl

theorem exec_rstc_eq (x a stp gr : Nat) (s : State) : exec (.rstc x a stp gr) s = .next (((List.range 4).filter x.testBit).foldl (fun u i =>
    u.storeW 6 (ownKey (targetCtx s.fr.x i) (s.granule stp gr)) (1 + coreOf u.fr.x) (u.wget a)) s) := by
  have hfr (u : State) (i : Nat) (hu : u.fr = s.fr) : ownKey (targetCtx u.fr.x i) (u.granule stp gr)
      = ownKey (targetCtx s.fr.x i) (s.granule stp gr) := by
    rw [State.granule, State.granule, hu]
  change execRstc x a stp gr s = _
  rw [execRstc, maskCores_eq_filter]
  refine congrArg _ (foldl_congr_of_fr (f' := fun u i =>
    u.storeW 6 (ownKey (targetCtx s.fr.x i) (s.granule stp gr)) (1 + coreOf u.fr.x) (u.wget a)) (fun u i => rfl) (fun u i hu => ?_) _)
  rw [hfr u i hu]

/-- Settles O37: each operation is a landing, load, store or flag of `u` + its latency; arithmetic lanes by `map2`, and an RPSH that opens
a tile by `pushGranule_of_opening`. -/
theorem routerOperations : Obligations.RouterOperations := by
  unfold Obligations.RouterOperations
  refine ⟨fun ty d a b x stp gr n imm mask s => ?_, fun c d a s hc => ?_⟩
  · intro t G clu own e lanes int
    have sums (sat : Bool) : HoldsElems 32 (map2 32 (fun x y => fit true sat 32 (intVal true 32 x + intVal true 32 y)) (s.wget a) (s.wget b))
        fun j => fit true sat 32 (int a j + int b j) :=
      map2_holdsElems_of_eq _ _ fun x y _ _ => ⟨rfl, fit_lt ..⟩
    refine ⟨rfl, rfl, rfl, ⟨_, rfl, fun j hj => ?_⟩, ⟨_, rfl, sums false⟩, ⟨_, rfl, sums true⟩, ⟨_, rfl, map2_holdsElems _ _ _ _⟩,
      ⟨_, rfl, map2_holdsElems _ _ _ _⟩, ⟨_, rfl, laneMax_signed_holdsElems _ _⟩, ⟨_, rfl, laneMax_plain_holdsElems _ _⟩,
      ⟨_, rfl, map2_holdsElems _ _ _ _⟩, ⟨_, rfl, map2_holdsElems _ _ _ _⟩, ⟨_, rfl, laneMin_signed_holdsElems _ _⟩,
      ⟨_, rfl, laneMin_plain_holdsElems _ _⟩, ⟨_, rfl, map2_holdsElems _ _ _ _⟩, ⟨_, rfl, map2_holdsElems _ _ _ _⟩,
      ⟨_, rfl, fun i => BitVec.getLsbD_and⟩, ⟨_, rfl, fun j hj => ?_⟩, ⟨_, rfl, map2_holdsElems_of_eq _ _ fun x y hx _ => ⟨rfl, ?_⟩⟩,
      rfl, rfl, exec_rstc_eq .., rfl, rfl⟩
    · exact (elemOf_eGran_replicate (w := 32) _ hj).trans (Nat.mod_eq_of_lt (ofInt_lt ..))
    · rw [elemOf_and_laneBits _ _ hj, BitVec.getLsbD_ofNat, decide_eq_true hj, Bool.true_and]
    · split
      · exact hx
      · exact Nat.two_pow_pos _
  · intro y r due hgran hroom
    have hring := ring_pushGranule_of_opening hgran hroom.ne 6 (s.wget a)
    exact ⟨_, exec_rpsh_of_one hc d a s, congrArg Ring.claims hring, congrArg Ring.gran hring,
      exists_store_pushGranule_of_opening hgran hroom.ne 6 (s.wget a), exists_publish_pushGranule_of_opening hgran hroom.ne 6 (s.wget a),
      pushGranule_mem ..⟩

end Sys2Proof.Machine

/-! SUPPORT. Router commands: their checks in order, and the issue of a router word (15 R256, R266 to R268). -/

namespace Sys2Proof.Machine

/-! ### The checks that router commands share (15 R256) -/

section
variable {s : State}

theorem holdsRouter_iff : holdsRouter s = true
    ↔ s.priv = true ∨ (s.clu (clusterOf (coreOf s.fr.x))).holding = some (s.ctx s.fr.x).gang := by
  rw [holdsRouter, Bool.or_eq_true, beq_iff_eq]

variable {g : Guard} {off : Nat} {bad : State → Bool} {f : Int → State → State} (hg : s.onceGuard g = true)
include hg

theorem routerCommand_of_bad (h : bad s = true) : routerCommand g off bad s f = .next s.illegal := by
  rw [routerCommand, onceSlot_eq, once_true _ hg, if_pos h]

theorem routerCommand_of_foreign (h : bad s = false) (hr : ¬ holdsRouter s = true) : routerCommand g off bad s f = .next (s.privilege 0) := by
  rw [routerCommand, onceSlot_eq, once_true _ hg, if_neg (Bool.eq_false_iff.1 h), if_pos (by simpa using hr)]

theorem routerCommand_of_holder (h : bad s = false) (hr : holdsRouter s = true) :
    routerCommand g off bad s f = .next (f (startCount s off) s) := by
  rw [routerCommand, onceSlot_eq, once_true _ hg, if_neg (Bool.eq_false_iff.1 h), if_neg (by simp [hr])]

end

/-! ### RT.LD (15 R267) -/

/-- The operand of RT.LD that counts its words, or bits above it, is out of range. -/
theorem rtLd_operand_bad_iff (v : Word) : (fld v.toNat 63 13 != 0 || fld v.toNat 12 6 == 0 || decide (64 < fld v.toNat 12 6)) = true
    ↔ 2 ^ 13 ≤ v.toNat ∨ v.toNat / 2 ^ 6 % 2 ^ 7 = 0 ∨ 64 < v.toNat / 2 ^ 6 % 2 ^ 7 := by
  have hhigh : fld v.toNat 63 13 ≠ 0 ↔ 2 ^ 13 ≤ v.toNat := by
    have hv := v.isLt
    rw [fld]
    omega
  rw [Bool.or_eq_true, Bool.or_eq_true, bne_iff_ne, beq_iff_eq, decide_eq_true_iff, hhigh, or_assoc]
  rfl

section
variable {g : Guard} {a b off : Nat} {s : State} (hg : s.onceGuard g = true)
include hg

theorem exec_rtLd_of_bad (h : 2 ^ 13 ≤ (s.sget b).toNat ∨ (s.sget b).toNat / 2 ^ 6 % 2 ^ 7 = 0 ∨ 64 < (s.sget b).toNat / 2 ^ 6 % 2 ^ 7) :
    exec (.rtLd g a b off) s = .next s.illegal := by
  change execRtLd g a b off s = _
  rw [execRtLd, routerCommand_of_bad hg ((rtLd_operand_bad_iff _).2 h)]

/-- The words of an RT.LD of `n` words at `ad` lie in the windows of the gang that holds the cluster's router. -/
def State.LdLies (s : State) (ad n : Nat) : Prop := let clu := clusterOf (coreOf s.fr.x)
  ∀ j, j < n → inUnion s ((s.clu clu).holding.getD (s.ctx s.fr.x).gang) clu ((ad % 2 ^ 18 + 16 * j) / 64) = true

/-- The reads of an RT.LD of `n` words from `ad` on into the loop buffer from entry `e` on, one count after the other from `S` on. -/
def State.pushLoads (s : State) (S e ad n : Nat) : State :=
  (List.range n).foldl (fun (u : State) j =>
    u.push (S + j) (.rtLoad ((e + j) % 64) ((Place.cluster (clusterOf (coreOf s.fr.x))).key (ad % 2 ^ 18 + 16 * j))) 1) s

/-- An RT.LD of the holder, with its words counted right and aligned in the cluster berth. -/
theorem exec_rtLd_of_holder (hr : holdsRouter s = true) (h : ¬ (2 ^ 13 ≤ (s.sget b).toNat ∨ (s.sget b).toNat / 2 ^ 6 % 2 ^ 7 = 0
      ∨ 64 < (s.sget b).toNat / 2 ^ 6 % 2 ^ 7)) : let ad := (s.sget a).toNat % 2 ^ 32
    let n := (s.sget b).toNat / 2 ^ 6 % 2 ^ 7
    let S := startCount s off
    ad % 16 = 0 → ad / 2 ^ 30 = 1 → ad / 2 ^ 18 % 2 ^ 12 = 0 →
      (¬ s.LdLies ad n → exec (.rtLd g a b off) s = .next (s.berthBound 3 0 ad))
      ∧ (s.LdLies ad n → S < s.fr.t + 4 → exec (.rtLd g a b off) s = .next (s.lateStart S))
      ∧ (s.LdLies ad n → (s.fr.t : Int) + 4 ≤ S →
        exec (.rtLd g a b off) s = .next (s.pushLoads S.toNat ((s.sget b).toNat % 64) ad n)) := by
  intro ad n S halign hplace hlow
  have hok := mt (rtLd_operand_bad_iff (s.sget b)).1 h
  have hlies : ((List.range n).all fun j => inUnion s ((s.clu (clusterOf (coreOf s.fr.x))).holding.getD (s.ctx s.fr.x).gang)
      (clusterOf (coreOf s.fr.x)) ((ad % 2 ^ 18 + 16 * j) / 64)) = true ↔ s.LdLies ad n := by
    simp only [List.all_eq_true, List.mem_range]
    rfl
  have hentry : fld (s.sget b).toNat 5 0 = (s.sget b).toNat % 64 := by
    rw [fld, pow_zero, Nat.div_one]
    rfl
  have hex : exec (.rtLd g a b off) s = .next (if !((List.range n).all fun j => inUnion s
        ((s.clu (clusterOf (coreOf s.fr.x))).holding.getD (s.ctx s.fr.x).gang) (clusterOf (coreOf s.fr.x)) ((ad % 2 ^ 18 + 16 * j) / 64))
      then s.berthBound 3 0 ad else if S < s.fr.t + 4 then s.lateStart S else s.pushLoads S.toNat ((s.sget b).toNat % 64) ad n) := by
    change execRtLd g a b off s = _
    rw [execRtLd, routerCommand_of_holder hg (Bool.eq_false_iff.2 hok) hr]
    dsimp only
    rw [hentry]
    exact congrArg _ ((if_neg (not_not_intro halign)).trans ((if_neg (not_not_intro hplace)).trans ((if_neg (not_not_intro hlow)).trans rfl)))
  rw [hex]
  refine ⟨fun hl => ?_, fun hl hS => ?_, fun hl hS => ?_⟩
  · rw [Bool.eq_false_iff.2 (mt hlies.1 hl)]
    rfl
  · rw [hlies.2 hl, if_pos hS]
    rfl
  · rw [hlies.2 hl, if_neg (not_lt.2 hS)]
    rfl

/-! ### RT.GO and RT.STOP (15 R267) -/

section
variable (hr : holdsRouter s = true)
include hr

theorem exec_rtStop_of_late (hS : startCount s off < s.fr.t + 4) :
    exec (.rtStop g off) s = .next (s.lateStart (startCount s off)) := by
  change execRtStop g off s = _
  rw [execRtStop, routerCommand_of_holder hg rfl hr, if_pos hS]

theorem exec_rtStop_of_pass (hS : (s.fr.t : Int) + 4 ≤ startCount s off) :
    exec (.rtStop g off) s = .next (s.push (startCount s off).toNat .rtStop 0) := by
  change execRtStop g off s = _
  rw [execRtStop, routerCommand_of_holder hg rfl hr, if_neg (not_lt.2 hS)]

variable (he : (s.sget a).toNat < 2 ^ 6)
include he

theorem exec_rtGo_of_late (hS : startCount s off < s.fr.t + 4) :
    exec (.rtGo g a b off) s = .next (s.lateStart (startCount s off)) := by
  have hok : (fld (s.sget a).toNat 63 6 != 0) = false := by rw [fld_above_of_lt he]; rfl
  change execRtGo g a b off s = _
  rw [execRtGo, routerCommand_of_holder hg hok hr]
  exact congrArg _ (if_pos hS)

/-- With no program known to run at S and no tile word on the cluster, RT.GO is to start its program. -/
theorem exec_rtGo_of_pass (hS : (s.fr.t : Int) + 4 ≤ startCount s off)
    (hfree : programAt s s.myClu (startCount s off).toNat (s.fr.t + 1) s.fr.hnd = false) (htiles : s.tiles = []) :
    exec (.rtGo g a b off) s = .next ((s.push (startCount s off).toNat (.rtGo (s.sget a).toNat ((s.sget b).toNat % 2 ^ 32)) 2).noteEff
      (startCount s off).toNat) := by
  have hok : (fld (s.sget a).toNat 63 6 != 0) = false := by rw [fld_above_of_lt he]; rfl
  have hword : wordAt { s with tiles := s.tiles.filter fun j => (portRun j.op j.w).isSome } s.myClu (startCount s off).toNat = false := by
    simp [wordAt, htiles]
  have hentry : fld (s.sget a).toNat 5 0 = (s.sget a).toNat := fld_of_lt he
  change execRtGo g a b off s = _
  rw [execRtGo, routerCommand_of_holder hg hok hr]
  dsimp only
  rw [if_neg (not_lt.2 hS), hfree, hword, hentry]
  rfl

end

section
variable (hr : ¬ holdsRouter s = true)
include hr

theorem exec_rtStop_of_foreign : exec (.rtStop g off) s = .next (s.privilege 0) := by
  change execRtStop g off s = _
  rw [execRtStop, routerCommand_of_foreign hg rfl hr]

theorem exec_rtGo_of_foreign (he : (s.sget a).toNat < 2 ^ 6) : exec (.rtGo g a b off) s = .next (s.privilege 0) := by
  have hok : (fld (s.sget a).toNat 63 6 != 0) = false := by rw [fld_above_of_lt he]; rfl
  change execRtGo g a b off s = _
  rw [execRtGo, routerCommand_of_foreign hg hok hr]

end

theorem exec_rtGo_of_bad (he : 2 ^ 6 ≤ (s.sget a).toNat) : exec (.rtGo g a b off) s = .next s.illegal := by
  have hbad : (fld (s.sget a).toNat 63 6 != 0) = true := by
    have hv := (s.sget a).isLt
    rw [bne_iff_ne, fld]
    omega
  change execRtGo g a b off s = _
  rw [execRtGo, routerCommand_of_bad hg hbad]

end

/-! ### The issue of a router word (15 R266, R268) -/

@[simp] theorem State.clu_updRouter_self (s : State) (c : Nat) (f : Router → Router) :
    (s.updRouter c f).clu c = { s.clu c with router := f (s.clu c).router } := State.clu_setClu_self ..

theorem State.failed_of_soft_nil {s : State} (h : s.soft = []) (p : Spot) : s.failed p = none := by
  rw [State.failed, h, List.find?_nil]

/-- The frame in which the operations of a word that a router issues at count `u` run. -/
def Router.frame (r : Router) (u : Nat) : Frame :=
  { x := r.x, hnd := r.hnd, t := u, addr := r.addr, bits := r.entry, cap := BitVec.ofNat 64 r.iter, rt := true }

/-- A router after its word of count `u`, whose loop control is `ctl` with the target `tgt`. -/
def Router.afterWord (r : Router) (u ctl tgt : Nat) : Router := { r with
  entry := if ctl = 1 ∧ r.rcnt ≠ 0 then tgt else (r.entry + 1) % 64
  rcnt := if ctl = 1 ∧ r.rcnt ≠ 0 then r.rcnt - 1 else r.rcnt
  iter := if ctl = 1 ∧ r.rcnt ≠ 0 then (r.iter + 1) % 2 ^ 32 else r.iter
  next := u + 1
  endAt := max r.endAt u }

section
variable {s : State} {clu : Nat} {r : Router} (hr : (s.clu clu).router = r)
include hr

theorem exec_routerWordIssue_of_idle (h : r.active = false) : exec (.routerWordIssue clu) s = .next s := by
  change execRouterWordIssue clu s = _
  simp [execRouterWordIssue, hr, h]

variable (hactive : r.active = true) (hsoft : s.soft = [])
include hactive hsoft

theorem exec_routerWordIssue_of_undecoded (hw : decodeRouterWord (SMap.get 0 r.buf r.entry) = none) : exec (.routerWordIssue clu) s
    = .next (routerFault s clu 1 0 r.entry (badSlot (SMap.get 0 r.buf r.entry)) r.iter) := by
  change execRouterWordIssue clu s = _
  simp [execRouterWordIssue, hr, hactive, State.failed_of_soft_nil hsoft, hw]

theorem exec_routerWordIssue_of_decoded {a b c : Instr} {ctl tgt : Nat}
    (hw : decodeRouterWord (SMap.get 0 r.buf r.entry) = some (a, b, c, ctl, tgt)) (hf : wordFault s r.x r.iter [a, b, c] = none) :
    let u := s.now r.x r.hnd
    exec (.routerWordIssue clu) s = .next { s.updRouter clu fun _ => r.afterWord u ctl tgt with
      staged := [.run ⟨a, r.frame u⟩, .run ⟨b, { r.frame u with slot := 1 }⟩, .run ⟨c, { r.frame u with slot := 2 }⟩] } := by
  have hstopped : (!r.active) = false := by rw [hactive, Bool.not_true]
  change execRouterWordIssue clu s = _
  simp only [execRouterWordIssue, State.updRouter, State.updClu, hr, hstopped, State.failed_of_soft_nil hsoft, hw, hf, Bool.false_eq_true, if_false, Option.isSome_none, Bool.and_eq_true, beq_iff_eq, bne_iff_ne]
  rfl

end

/-- A router that fails stops, and its context has a boundary fault after the count in hand (15 R268). -/
theorem routerFault_leaves (s : State) (clu code fbnd entry slot iter : Nat) : let r := (s.clu clu).router
    let t := routerFault s clu code fbnd entry slot iter
    (t.clu clu).router.active = false
    ∧ ∃ f, t.faults = s.faults ++ [f] ∧ f.x = r.x ∧ f.code = code ∧ f.F = s.now r.x r.hnd + 1 ∧ f.bnd = true := by
  intro r t
  refine ⟨?_, _, rfl, rfl, rfl, rfl, rfl⟩
  exact congrArg (fun k : Cluster => k.router.active)
    (s.clu_updRouter_self clu fun k => { k with active := false, endAt := max k.endAt (s.now r.x r.hnd) })

/-- Settles O36: each command by the checks of `routerCommand` in their order, a word by whether the router is active and the word decodes. -/
theorem routerCommands : Obligations.RouterCommands := by
  unfold Obligations.RouterCommands
  refine ⟨fun g a b off s hg => ?_, fun clu s => ?_⟩
  · intro w e n S ad clu holds lies
    have hholds : holdsRouter s = true ↔ holds := holdsRouter_iff
    refine ⟨fun hr hw h1 h64 halign hplace hlow => ?_, fun hr he hS hfree htiles => ?_, fun hr hS => exec_rtStop_of_pass hg (hholds.2 hr) hS,
      fun hr hS he => ⟨exec_rtGo_of_late hg (hholds.2 hr) he hS, exec_rtStop_of_late hg (hholds.2 hr) hS⟩,
      fun hr => ⟨exec_rtStop_of_foreign hg (mt hholds.1 hr), exec_rtGo_of_foreign hg (mt hholds.1 hr)⟩, exec_rtGo_of_bad hg,
      exec_rtLd_of_bad hg⟩
    · obtain ⟨hout, hlate, hpass⟩ := exec_rtLd_of_holder (off := off) hg (hholds.2 hr) (a := a) (b := b) (by omega) halign hplace hlow
      exact ⟨hpass, hlate, hout⟩
    · exact exec_rtGo_of_pass hg (hholds.2 hr) he hS hfree htiles
  · intro r u
    refine ⟨exec_routerWordIssue_of_idle rfl, fun a b c ctl tgt hactive hsoft hw hf => ?_, fun hactive hsoft hw => ?_⟩
    · exact ⟨_, r.frame u, exec_routerWordIssue_of_decoded rfl hactive hsoft hw hf, rfl, rfl,
        congrArg Cluster.router (s.clu_updRouter_self clu fun _ => r.afterWord u ctl tgt)⟩
    · obtain ⟨hstop, f, hfault⟩ := routerFault_leaves s clu 1 0 r.entry (badSlot (SMap.get 0 r.buf r.entry)) r.iter
      exact ⟨_, f, exec_routerWordIssue_of_undecoded rfl hactive hsoft hw, hstop, hfault⟩

end Sys2Proof.Machine

/-! SUPPORT. Engine commands: the clocks that they count on, their checks in order, and what a command that enters leaves (15 R257 to R260). -/

namespace Sys2Proof.Machine

/-! ### States whose clocks show the same (07 R147, 10 R224, R232) -/

/-- Two states with the same gangs and TIDE, in which each context is of the same gang and has the same handler. -/
structure State.SameClocks (s t : State) : Prop where
  tide : t.tide = s.tide
  gangs : t.gangs = s.gangs
  gang (y : Nat) : (t.ctx y).gang = (s.ctx y).gang
  handler (y : Nat) : (t.ctx y).handler = (s.ctx y).handler

theorem State.SameClocks.of_ctxs {s t : State} (htide : t.tide = s.tide) (hgangs : t.gangs = s.gangs) (hctxs : t.ctxs = s.ctxs) :
    s.SameClocks t where
  tide := htide
  gangs := hgangs
  gang y := by rw [State.ctx, hctxs, State.ctx]
  handler y := by rw [State.ctx, hctxs, State.ctx]

theorem State.SameClocks.trans {s t u : State} (h : s.SameClocks t) (k : t.SameClocks u) : s.SameClocks u where
  tide := k.tide.trans h.tide
  gangs := k.gangs.trans h.gangs
  gang y := (k.gang y).trans (h.gang y)
  handler y := (k.handler y).trans (h.handler y)

theorem State.sameClocks_updCtx (s : State) (x : Nat) {f : Ctx → Ctx} (hgang : (f (s.ctx x)).gang = (s.ctx x).gang)
    (hhandler : (f (s.ctx x)).handler = (s.ctx x).handler) : s.SameClocks (s.updCtx x f) where
  tide := rfl
  gangs := rfl
  gang y := by
    by_cases h : y = x
    · rw [h, State.ctx_updCtx_self, hgang]
    · rw [State.ctx_updCtx_ne s f h]
  handler y := by
    by_cases h : y = x
    · rw [h, State.ctx_updCtx_self, hhandler]
    · rw [State.ctx_updCtx_ne s f h]

section
variable {s t : State} (h : s.SameClocks t) (x : Nat) (hnd : Bool)
include h

theorem State.SameClocks.gangOf_eq : t.gangOf x = s.gangOf x := by rw [State.gangOf, State.gang, h.gang, h.gangs]; rfl

theorem State.SameClocks.now_eq : t.now x hnd = s.now x hnd := by rw [State.now, State.now, h.handler, h.gangOf_eq]

theorem State.SameClocks.clk_eq : t.clk x hnd = s.clk x hnd := by rw [State.clk, State.clk, h.handler, h.gangOf_eq]

theorem State.SameClocks.cal_eq : t.cal x hnd = s.cal x hnd := by
  simp only [State.cal, h.gangOf_eq, h.tide, h.clk_eq]

theorem State.SameClocks.sameClock_eq (y : Nat) : sameClock t x y hnd = sameClock s x y hnd := by
  rw [sameClock, sameClock, h.gang, h.gang]

end

/-! ### The checks that engine commands share (15 R257 to R259, 10 R221) -/

section
variable {s : State} {op : Nat} {S : Int} {dw : Word} {f : Xfer → State → State}

theorem engineCheck_of_bad (hd : xferOf op dw = none) : engineCheck s op S dw f = s.illegal := by
  simp only [engineCheck, hd]

variable {d : Xfer} (hd : xferOf op dw = some d)
include hd

theorem engineCheck_of_out {tile : Bool} {n : Nat} (hb : xferBound (s.ctx s.fr.x) op d = some (tile, n)) :
    engineCheck s op S dw f = s.quayBound tile n := by
  simp only [engineCheck, hd, hb]

variable (hb : xferBound (s.ctx s.fr.x) op d = none)
include hb

theorem engineCheck_of_late (h : S < s.fr.t + 24 ∨ (s.ctx s.fr.x).lk = 0 ∨ 16 ≤ openCommands s s.fr.x) :
    engineCheck s op S dw f = s.lateStart S := by
  have hc : (decide (S < s.fr.t + 24) || (s.ctx s.fr.x).lk == 0 || decide (16 ≤ openCommands s s.fr.x)) = true := by
    simpa [or_assoc] using h
  simp only [engineCheck, hd, hb]
  exact if_pos hc

theorem engineCheck_of_pass (hS : (s.fr.t : Int) + 24 ≤ S) (hlk : (s.ctx s.fr.x).lk ≠ 0) (hopen : openCommands s s.fr.x < 16) :
    engineCheck s op S dw f = f d s := by
  have hc : ¬ (decide (S < s.fr.t + 24) || (s.ctx s.fr.x).lk == 0 || decide (16 ≤ openCommands s s.fr.x)) = true := by
    simp [hS, hlk, hopen]
  simp only [engineCheck, hd, hb]
  exact if_neg hc

end

/-! ### A command that enters (15 R257, R258, 18 R301) -/

/-- The frame of a command of number `id`. -/
def Frame.ofCommand (fr : Frame) (id : Nat) : Frame := { fr with id := id, gt := 0, cap := 0, capv := 0, slice := 0 }

/-- A command as the slot in hand enters it, with its slots. -/
def State.entered (s : State) (op : Nat) (d : Xfer) (warm : Nat) (dw : Word) (S : Int) : Command :=
  ⟨s.nextId, s.fr.hnd, s.fr.ord, s.fr.ofCommand s.nextId, op, warm, dw, S.toNat,
    engineSlots s (S + ((s.clk s.fr.x s.fr.hnd : Int) - s.now s.fr.x s.fr.hnd)) d.n, 0, [], 0, 0⟩

/-- The state with a command behind those of its context, the command's number used up and its check of warm addresses to come. -/
def State.withCommand (s : State) (k : Command) : State :=
  { s.updCtx s.fr.x (fun c => { c with commands := c.commands ++ [k] }) with
    nextId := s.nextId + 1
    fr := k.fr
    pend := s.pend ++ [⟨k.fr, s.now s.fr.x s.fr.hnd + 2, 0, 1, .warmCheck k.id, 0⟩] }

section
variable {s : State}

theorem State.commandId_of_issue (hk : s.fr.slice ≠ 1) : s.commandId = s.fresh := if_neg hk

theorem State.sameClocks_addCommand (l : List Command) :
    s.SameClocks ({ s with nextId := s.nextId + 1 }.updCtx s.fr.x fun c => { c with commands := c.commands ++ l }) :=
  State.SameClocks.trans (t := { s with nextId := s.nextId + 1 }) (.of_ctxs rfl rfl rfl)
    (State.sameClocks_updCtx _ s.fr.x (f := fun c => { c with commands := c.commands ++ l }) rfl rfl)

/-- An act put off changes what is in flight alone. -/
theorem State.flyClk_eq (s : State) (at_ : Nat) (i : Instr) (fr : Frame) : ∃ fl, s.flyClk at_ i fr = { s with flight := fl } := by
  unfold State.flyClk
  split
  · exact ⟨_, rfl⟩
  · exact ⟨_, rfl⟩

/-- A command that enters leaves its record, its check and the act of its first slot. -/
theorem enterCommand_eq (hk : s.fr.slice ≠ 1) (op : Nat) (d : Xfer) (warm : Nat) (dw : Word) (S : Int) :
    ∃ fl, enterCommand s op d warm dw S = { s.withCommand (s.entered op d warm dw S) with flight := fl } := by
  let k := s.entered op d warm dw S
  let v := { s with nextId := s.nextId + 1 }.updCtx s.fr.x fun c => { c with commands := c.commands ++ [k] }
  have hnow : v.now s.fr.x s.fr.hnd = s.now s.fr.x s.fr.hnd := (s.sameClocks_addCommand [k]).now_eq s.fr.x s.fr.hnd
  have hpush : { v with fr := k.fr }.push (v.now s.fr.x s.fr.hnd + 2) (.warmCheck k.id) = s.withCommand k := by
    rw [hnow]
    rfl
  simp only [enterCommand, State.commandId_of_issue hk]
  split
  · obtain ⟨fl, h⟩ := State.flyClk_eq (s.withCommand k) (S + ((s.clk s.fr.x s.fr.hnd : Int) - s.now s.fr.x s.fr.hnd)).toNat
      (.engineSlot s.fr.x k.id) { k.fr with slice := 1 }
    refine ⟨fl, Eq.trans ?_ h⟩
    rw [← hpush]
    rfl
  · obtain ⟨fl, h⟩ := State.flyClk_eq (s.withCommand k) (k.slots.headD 0).toNat (.engineSlot s.fr.x k.id) k.fr
    refine ⟨fl, Eq.trans ?_ h⟩
    rw [← hpush]
    rfl

theorem State.ctx_withCommand_self (k : Command) :
    (s.withCommand k).ctx s.fr.x = { s.ctx s.fr.x with commands := (s.ctx s.fr.x).commands ++ [k] } :=
  State.ctx_updCtx_self s s.fr.x fun c => { c with commands := c.commands ++ [k] }

/-- What a command that enters leaves: its record, the frame of its acts, its check two counts on, and all else as it was. -/
theorem enterCommand_leaves (hk : s.fr.slice ≠ 1) (op : Nat) (d : Xfer) (warm : Nat) (dw : Word) (S : Int) :
    let k := s.entered op d warm dw S
    let u := enterCommand s op d warm dw S
    u.ctx s.fr.x = { s.ctx s.fr.x with commands := (s.ctx s.fr.x).commands ++ [k] } ∧ u.fr = k.fr
    ∧ u.pend = s.pend ++ [⟨k.fr, s.now s.fr.x s.fr.hnd + 2, 0, 1, .warmCheck k.id, 0⟩] ∧ u.clus = s.clus
    ∧ u.mem = s.mem ∧ u.faults = s.faults := by
  intro k u
  obtain ⟨fl, hu⟩ : ∃ fl, u = { s.withCommand k with flight := fl } := enterCommand_eq hk op d warm dw S
  rw [hu]
  exact ⟨State.ctx_withCommand_self k, rfl, rfl, rfl, rfl, rfl⟩

end

end Sys2Proof.Machine

/-! SUPPORT. BX.POST and CE.CXL: their checks in order, what one that enters leaves, and one that meets its cluster's limit (15 R261, 22
R371). -/

namespace Sys2Proof.Machine

/-! ### A command that meets a limit (15 R261, 22 R371) -/

/-- The non-static accesses of a list with `id` among them (08 R182). -/
def withNonstatic (l : List Nat) (id : Nat) : List Nat := if id ∈ l then l else l ++ [id]

theorem State.ctx_noteNonstatic_self (s : State) (id : Nat) :
    (s.noteNonstatic id).ctx s.fr.x = { s.ctx s.fr.x with nonstatic := withNonstatic (s.ctx s.fr.x).nonstatic id } := by
  rw [State.noteNonstatic, State.ctx_updCtx_self, withNonstatic]
  simp only [List.contains_iff_mem]
  split <;> rfl

theorem State.sameClocks_noteNonstatic (s : State) (id : Nat) : s.SameClocks (s.noteNonstatic id) := by
  refine State.sameClocks_updCtx s s.fr.x ?_ ?_
  · split <;> rfl
  · split <;> rfl

/-- A command that meets a limit comes again with the operands it has read: the program's at its gang's freeze point, a handler's with its
next count. -/
def State.putOff (s : State) (why : Why) (i : Instr) (x y : Word) : State :=
  let n := s.now s.fr.x s.fr.hnd
  let F := (s.gangOf s.fr.x).reqPoint n
  let u := { s with nextId := s.nextId + 1 }.noteNonstatic s.nextId
  let fr := { s.fr with slice := 1, id := s.nextId, cap := x, capv := y.setWidth 4096 }
  if s.fr.hnd then u.fly (n + 1) i fr else (u.ask (s.ctx s.fr.x).gang F why).fly F i fr

theorem limitStop_of_issue {s : State} (hk : s.fr.slice ≠ 1) (why : Why) (i : Instr) (a b : Word) :
    limitStop s why i a b = s.putOff why i a b := by
  have hclk : s.SameClocks ({ s with nextId := s.nextId + 1 }.noteNonstatic s.nextId) :=
    State.SameClocks.trans (t := { s with nextId := s.nextId + 1 }) (.of_ctxs rfl rfl rfl) (State.sameClocks_noteNonstatic _ _)
  have hfr : ({ s with nextId := s.nextId + 1 }.noteNonstatic s.nextId).fr = s.fr := rfl
  simp only [limitStop, State.commandId_of_issue hk, State.fresh, hfr, hclk.now_eq, hclk.gangOf_eq, hclk.gang]
  rfl

/-! ### BX.POST (22 R371) -/

/-- A post below the limit is entered as a command, counted on its cluster, and kept as a message and as a non-static access. -/
theorem acceptPost_eq {s : State} (i : Instr) (f : Nat) (a b : Word) (d : Xfer) (h : (s.clu (clusterOf (coreOf s.fr.x))).posts < 64) :
    let clu := clusterOf (coreOf s.fr.x)
    let u := enterCommand s 10 d a.toNat b (s.now s.fr.x s.fr.hnd + 24 : Nat)
    ∃ m, acceptPost i f a b d s = { u.setClu clu { u.clu clu with posts := (u.clu clu).posts + 1 } with mod := m }.noteNonstatic u.fr.id :=
  ⟨_, if_neg (Nat.not_le.2 h)⟩

section
variable {s : State} (hk : s.fr.slice ≠ 1)
include hk

section
variable {g : Guard} {a b f : Nat} (hg : s.onceGuard g = true)
include hg

theorem exec_bxPost_of_bad (h : (s.sget a).toNat / 2 ^ 48 % 16 ≠ 0 ∨ (s.sget a).toNat.testBit 46 = true) :
    exec (.bxPost g a b f) s = .next s.illegal := by
  have hbad : (decide (fld (s.sget a).toNat 51 48 ≠ 0) || bit (s.sget a).toNat 46) = true := by
    rw [bit_eq_testBit, Bool.or_eq_true, decide_eq_true_iff]
    exact h
  change execBxPost g a b f s = _
  simp only [execBxPost, if_neg hk, onceSlot_eq, once_true _ hg]
  rw [if_pos hbad]

theorem exec_bxPost_of_pass (h0 : (s.sget a).toNat / 2 ^ 48 % 16 = 0) (h1 : (s.sget a).toNat.testBit 46 = false) {d : Xfer}
    (hd : xferOf 10 (s.sget b) = some d) (hb : xferBound (s.ctx s.fr.x) 10 d = none) (hlk : (s.ctx s.fr.x).lk ≠ 0)
    (hopen : openCommands s s.fr.x < 16) :
    exec (.bxPost g a b f) s = .next (acceptPost (.bxPost g a b f) f (s.sget a) (s.sget b) d s) := by
  have hok : ¬ (decide (fld (s.sget a).toNat 51 48 ≠ 0) || bit (s.sget a).toNat 46) = true := by
    rw [bit_eq_testBit, h1, Bool.or_false, decide_eq_true_iff]
    exact not_not_intro h0
  change execBxPost g a b f s = _
  simp only [execBxPost, if_neg hk, onceSlot_eq, once_true _ hg]
  rw [if_neg hok, engineCheck_of_pass hd hb le_rfl hlk hopen]

end

theorem acceptPost_of_full {i : Instr} {f : Nat} {a b : Word} {d : Xfer} (h : 64 ≤ (s.clu (clusterOf (coreOf s.fr.x))).posts) :
    acceptPost i f a b d s = s.putOff (.postFull (clusterOf (coreOf s.fr.x))) i a b := by
  rw [acceptPost, if_pos h, limitStop_of_issue hk]

theorem acceptPost_leaves (i : Instr) (f : Nat) (a b : Word) (d : Xfer) (h : (s.clu (clusterOf (coreOf s.fr.x))).posts < 64) :
    let clu := clusterOf (coreOf s.fr.x)
    let t := acceptPost i f a b d s
    (t.clu clu).posts = (s.clu clu).posts + 1 ∧ (t.ctx s.fr.x).nonstatic = withNonstatic (s.ctx s.fr.x).nonstatic s.nextId
    ∧ (t.ctx s.fr.x).commands.length = (s.ctx s.fr.x).commands.length + 1 ∧ t.mem = s.mem ∧ t.faults = s.faults := by
  intro clu t
  obtain ⟨m, ht⟩ : ∃ m, t = _ := acceptPost_eq i f a b d h
  obtain ⟨hctx, hfr, -, hclus, hmem, hfaults⟩ := enterCommand_leaves hk 10 d a.toNat b (s.now s.fr.x s.fr.hnd + 24 : Nat)
  generalize enterCommand s 10 d a.toNat b (s.now s.fr.x s.fr.hnd + 24 : Nat) = u at ht hctx hfr hclus hmem hfaults
  have hx : u.fr.x = s.fr.x := by rw [hfr]; rfl
  have hid : u.fr.id = s.nextId := by rw [hfr]; rfl
  have hclu : u.clu clu = s.clu clu := by rw [State.clu, hclus, State.clu]
  have hnote : t.ctx u.fr.x = { u.ctx u.fr.x with nonstatic := withNonstatic (u.ctx u.fr.x).nonstatic u.fr.id } := by
    rw [ht]
    exact State.ctx_noteNonstatic_self { u.setClu clu { u.clu clu with posts := (u.clu clu).posts + 1 } with mod := m } u.fr.id
  rw [hx, hctx, hid] at hnote
  refine ⟨?_, congrArg Ctx.nonstatic hnote, (congrArg (·.commands.length) hnote).trans List.length_append, ?_, ?_⟩
  · have hposts := u.clu_setClu_self clu { u.clu clu with posts := (u.clu clu).posts + 1 }
    rw [ht, ← hclu]
    exact congrArg Cluster.posts hposts
  · rw [ht, ← hmem]
    rfl
  · rw [ht, ← hfaults]
    rfl

end

/-! ### CE.CXL (15 R261) -/

section
variable {s : State} {i : Instr} {dir : Bool} {g : Guard} {q a f : Nat}

section
variable (hk : s.fr.slice ≠ 1) (hg : s.onceGuard g = true)
include hk hg

theorem cxl_of_out (hq : (s.ctx s.fr.x).quayIn q = false) : cxl i dir g q a f s = .next (s.quayBound false q) := by
  simp only [cxl, if_neg hk, onceSlot_eq, once_true _ hg, hq, Bool.not_false, if_true]

variable (hq : (s.ctx s.fr.x).quayIn q = true)
include hq

theorem cxl_of_noLock (hlk : (s.ctx s.fr.x).lk = 0) : cxl i dir g q a f s = .next (s.lateStart s.fr.t) := by
  simp only [cxl, if_neg hk, onceSlot_eq, once_true _ hg, hq, Bool.not_true, Bool.false_eq_true, if_false, if_pos hlk]

variable (hlk : (s.ctx s.fr.x).lk ≠ 0)
include hlk

theorem cxl_of_room (h : (s.clu (clusterOf (coreOf s.fr.x))).cxl < 256) :
    cxl i dir g q a f s = .next (enterCxl s dir q (s.sget a).toNat f) := by
  simp only [cxl, acceptCxl, if_neg hk, onceSlot_eq, once_true _ hg, hq, Bool.not_true, Bool.false_eq_true, if_false, if_neg hlk,
    Nat.add_zero, if_neg (Nat.not_le.2 h)]

theorem cxl_of_full (h : 256 ≤ (s.clu (clusterOf (coreOf s.fr.x))).cxl) :
    cxl i dir g q a f s = .next (s.putOff (.cxlFull (clusterOf (coreOf s.fr.x))) i (s.sget a) 0) := by
  simp only [cxl, acceptCxl, if_neg hk, onceSlot_eq, once_true _ hg, hq, Bool.not_true, Bool.false_eq_true, if_false, if_neg hlk,
    Nat.add_zero, if_pos h, limitStop_of_issue hk]

end

/-- A CE.CXL that comes again counts those complete whose last bytes its gang's freeze has held. -/
theorem cxl_of_again (hk : s.fr.slice = 1) (h : (s.clu (clusterOf (coreOf s.fr.x))).cxl
      < 256 + s.arrivedOn (s.ctx s.fr.x).gang (clusterOf (coreOf s.fr.x))) :
    cxl i dir g q a f s = .next (enterCxl s dir q s.fr.cap.toNat f) := by
  simp only [cxl, acceptCxl, if_pos hk, if_neg (Nat.not_le.2 h)]

end

/-- The eight requests of a CE.CXL that the slot in hand enters (15 R261). -/
def State.cxlRequests (s : State) (dir : Bool) (q va f : Nat) : List CxlReq :=
  (List.range 8).map fun i =>
    { id := 8 * s.nextId + i, x := s.fr.x, gid := (s.ctx s.fr.x).gang, dir := dir, tier := va / 64 * 64 + 64 * i,
      key := (Place.quay (coreOf s.fr.x)).key (512 * q + 64 * i), cmd := s.nextId, hnd := s.fr.hnd, ord := s.fr.ord,
      flag := (clusterOf (coreOf s.fr.x), f), addr := s.fr.addr : CxlReq }

/-- What a CE.CXL that enters leaves: one more of its cluster, its requests, a non-static access, and its check two counts on by TIDE. -/
theorem enterCxl_leaves {s : State} (hk : s.fr.slice ≠ 1) (dir : Bool) (q va f : Nat) :
    let clu := clusterOf (coreOf s.fr.x)
    let u := enterCxl s dir q va f
    (u.clu clu).cxl = (s.clu clu).cxl + 1 ∧ u.mod.cxl = s.mod.cxl ++ s.cxlRequests dir q va f
    ∧ (u.ctx s.fr.x).nonstatic = withNonstatic (s.ctx s.fr.x).nonstatic s.nextId
    ∧ u.pend = s.pend ++ [⟨s.fr.ofCommand s.nextId, s.now s.fr.x s.fr.hnd + 2, 0, 1, .warmCheck s.nextId,
      s.tide + 2 * (s.gangOf s.fr.x).pace + 1⟩] ∧ u.mem = s.mem ∧ u.faults = s.faults := by
  intro clu u
  let w : State := { s with nextId := s.nextId + 1, mod := { s.mod with cxl := s.mod.cxl ++ s.cxlRequests dir q va f } }
  let v := w.setClu clu { s.clu clu with cxl := (s.clu clu).cxl + 1 }
  have hu : u = { v.noteNonstatic s.nextId with fr := s.fr.ofCommand s.nextId }.pushWall 2 (.warmCheck s.nextId) := by
    simp only [u, enterCxl, State.commandId_of_issue hk]
    rfl
  have hclk : s.SameClocks (v.noteNonstatic s.nextId) :=
    State.SameClocks.trans (t := v) (.of_ctxs rfl rfl rfl) (State.sameClocks_noteNonstatic v s.nextId)
  have hnow := hclk.now_eq s.fr.x s.fr.hnd
  have hpace := congrArg Gang.pace (hclk.gangOf_eq s.fr.x)
  rw [hu]
  refine ⟨congrArg Cluster.cxl (w.clu_setClu_self clu _), rfl, congrArg Ctx.nonstatic (State.ctx_noteNonstatic_self v s.nextId), ?_, rfl, rfl⟩
  rw [← hnow, ← hpace]
  rfl

end Sys2Proof.Machine

/-! SUPPORT. Requests to the capacity tier: what is sent, what ends one, and what its arrival performs (18 R314, 15 R261, R263). -/

namespace Sys2Proof.Machine

/-! ### A request that is sent (18 R314) -/

theorem State.granuleEcc_of_ecc_nil {s : State} (h : s.ecc = []) (g : Nat) : s.granuleEcc g = 0 := by
  rw [State.granuleEcc, h]
  rfl

/-- Where no store has an error mark an engine reads a quay granule as it stands. -/
theorem quayGranule_of_ecc_nil {s : State} (h : s.ecc = []) (key : Nat) : quayGranule s key = (s, s.mem.readN key 64, s.poisoned key) := by
  simp [quayGranule, State.granuleEcc_of_ecc_nil h]

section
variable {s : State} {id : Nat} {r : CxlReq}

theorem State.id_of_cxlReq (hr : s.cxlReq id = some r) : r.id = id := by simpa using List.find?_some hr

/-- What a request is sent with: to the tier the quay's bytes and their poison. -/
def State.cxlSent (s : State) (r e : CxlReq) : CxlReq :=
  { e with sent := some s.tide, data := if r.dir then s.mem.readN r.key 64 else 0, poison := if r.dir then s.poisoned r.key else false }

theorem exec_cxlRequestSend_eq (hr : s.cxlReq id = some r) (hecc : s.ecc = []) : exec (.cxlRequestSend id) s
    = .next (({ (s.updCxl id (s.cxlSent r)).timedAt (s.tide + 32000000) (.cxlRequestTimeout id) with free := s.free + 1 }).timedAt
      (s.tide + 1 + (Config.freeValue 26 s.free).toNat) (.cxlRequestComplete id true)) := by
  have hq := quayGranule_of_ecc_nil (s := { s with fr := { x := r.x, hnd := r.hnd, addr := r.addr } }) hecc r.key
  change execCxlRequestSend id s = _
  simp only [execCxlRequestSend, hr, hq]
  unfold State.cxlSent
  cases r.dir <;> rfl

/-- The requests after a send: those of the number are sent now, and none other has changed. -/
theorem State.mem_updCxl_sent {e : CxlReq} (he : e ∈ (s.updCxl id (s.cxlSent r)).mod.cxl) (hid : e.id = id) :
    e.sent = some s.tide ∧ (r.dir = true → e.data = s.mem.readN r.key 64 ∧ e.poison = s.poisoned r.key) := by
  obtain ⟨e', -, rfl⟩ := List.mem_map.1 he
  split at hid
  · next h =>
    rw [if_pos h]
    exact ⟨rfl, fun hdir => ⟨if_pos hdir, if_pos hdir⟩⟩
  · next h => exact absurd (beq_iff_eq.2 hid) h

/-! ### A request that has ended (18 R314, 15 R263) -/

theorem cxlReturn_of_write (hdir : r.dir = true) (ok : Bool) : cxlReturn s r ok = (s, r) := if_pos hdir

/-- A completed read returns the bytes beyond as they stand, of host memory those of the task's tail write. -/
theorem cxlReturn_of_read (hdir : r.dir = false) {k : Nat} (hk : (windowPhys s r.x r.tier).bind physKey = some k) : cxlReturn s r true
    = (s, { r with data := (if State.hostKey k then s.hostMem (s.gang r.gid).rel else s.mem).readN k 64, poison := s.poisoned k }) := by
  simp [cxlReturn, hdir, hk]

theorem cxlReturn_keeps (s : State) (r : CxlReq) (ok : Bool) :
    (cxlReturn s r ok).1.mod = s.mod ∧ (cxlReturn s r ok).2.id = r.id ∧ (cxlReturn s r ok).2.cmd = r.cmd := by
  unfold cxlReturn
  split
  · exact ⟨rfl, rfl, rfl⟩
  split
  · exact ⟨rfl, rfl, rfl⟩
  split
  · exact ⟨rfl, rfl, rfl⟩
  · exact ⟨rfl, rfl, rfl⟩

@[simp] theorem State.eventRec_cxl (s : State) (p type d0 d1 d2 : Nat) : (s.eventRec p type d0 d1 d2).mod.cxl = s.mod.cxl := by
  unfold State.eventRec
  dsimp only
  split
  · rfl
  · split <;> rfl

/-- The list of requests with one ended: it stands behind the others. -/
def State.endRequest (s : State) (e : CxlReq) : State := s.updMod fun m => { m with cxl := (m.cxl.filter fun x => x.id != e.id) ++ [e] }

/-- A request that has returned what is good is ended, and arrives at the end of the cycle unless its gang's freeze holds it. -/
theorem endCxl_of_good {e : CxlReq} (hret : cxlReturn s r true = (s, e)) (hgood : (e.dir || !e.poison) = true) :
    let e' := { e with done := true, bad := false }
    endCxl s r true = if cxlHeld s e' then s.endRequest e' else (s.endRequest e').later outside cxlRank (.arrive e.id) := by
  simp only [endCxl, hret, Bool.true_and, hgood, if_true, Bool.not_true]
  rfl

/-- However a request ends, it stands behind the others, ended. -/
theorem exists_cxl_endCxl (s : State) (r : CxlReq) (ok : Bool) : ∃ e, (endCxl s r ok).mod.cxl = (s.mod.cxl.filter fun x => x.id != r.id) ++ [e]
    ∧ e.id = r.id ∧ e.cmd = r.cmd ∧ e.done = true ∧ e.bad = !ok := by
  obtain ⟨hmod, hid, hcmd⟩ := cxlReturn_keeps s r ok
  refine ⟨{ (cxlReturn s r ok).2 with done := true, bad := !ok }, ?_, hid, hcmd, rfl, rfl⟩
  rw [← hmod, ← hid]
  unfold endCxl
  dsimp only
  split
  · split <;> rfl
  · split <;> simp [State.errorRec, State.later]

theorem exec_cxlRequestComplete_of_open (hr : s.cxlReq id = some r) (hsent : r.sent.isSome = true) (hdone : r.done = false) :
    exec (.cxlRequestComplete id true) s = .next (endCxl s r true) := by
  have hopen : ¬ (r.sent.isNone || r.done) = true := by simp [hdone, ← Option.not_isSome, hsent]
  change execCxlRequestComplete id true s = _
  simp only [execCxlRequestComplete, hr, if_neg hopen]

theorem exec_cxlRequestTimeout_of_open (hr : s.cxlReq id = some r) (hsent : r.sent.isSome = true) (hdone : r.done = false) :
    exec (.cxlRequestTimeout id) s = .next (endCxl s r false) := by
  have hopen : ¬ (r.sent.isNone || r.done) = true := by simp [hdone, ← Option.not_isSome, hsent]
  change execCxlRequestTimeout id s = _
  simp only [execCxlRequestTimeout, hr, if_neg hopen]

theorem exec_cxlRequest_of_done (hr : s.cxlReq id = some r) (hdone : r.done = true) :
    exec (.cxlRequestTimeout id) s = .next s ∧ exec (.cxlRequestComplete id true) s = .next s := by
  change execCxlRequestTimeout id s = _ ∧ execCxlRequestComplete id true s = _
  simp [execCxlRequestTimeout, execCxlRequestComplete, hr, hdone]

/-- What a request that has returned what is good leaves. -/
theorem exec_cxlRequestComplete_of_good (hr : s.cxlReq id = some r) (hsent : r.sent.isSome = true) (hdone : r.done = false) {e : CxlReq}
    (hret : cxlReturn s r true = (s, e)) (hgood : (e.dir || !e.poison) = true)
    (hheld : cxlHeld s { e with done := true, bad := false } = cxlHeld s { r with done := true, bad := false }) :
    ∃ t, exec (.cxlRequestComplete id true) s = .next t ∧ t.mem = s.mem
      ∧ t.pend = (if cxlHeld s { r with done := true, bad := false } then s.pend
        else s.pend ++ [⟨outside, 0, 0, cxlRank, .arrive id, s.tide + 1⟩])
      ∧ t.mod.cxl = (s.mod.cxl.filter fun x => x.id != id) ++ [{ e with done := true, bad := false }] := by
  have hid : e.id = id := by
    obtain ⟨-, h, -⟩ := cxlReturn_keeps s r true
    rw [hret] at h
    exact h.trans (State.id_of_cxlReq hr)
  refine ⟨_, exec_cxlRequestComplete_of_open hr hsent hdone, endCxl_mem .., ?_⟩
  rw [endCxl_of_good hret hgood, hheld, ← hid]
  split
  · exact ⟨rfl, rfl⟩
  · exact ⟨rfl, rfl⟩

end

/-! ### An arrival performs (15 R261, R263) -/

section
variable (s : State)

theorem State.perform_arrive {id : Nat} {r : CxlReq} (hr : s.cxlReq id = some r) (fr : Frame) (due run pri wall : Nat) :
    s.perform ⟨fr, due, run, pri, .arrive id, wall⟩ = performCxl { s with fr := fr } r := by
  have hmeet : s.meetHeld ⟨fr, due, run, pri, .arrive id, wall⟩ = s := State.meetHeld_of_holds_none s _ fun p => by
    cases p <;> simp [Effect.holds]
  have hreq : ({ s with fr := fr } : State).cxlReq id = some r := hr
  unfold State.perform
  rw [hmeet]
  simp only [arriveCxl, hreq]

/-- A write at once touches memory and its marks alone. -/
theorem State.poke_keeps (key n v : Nat) : (s.poke key n v).mod = s.mod ∧ (s.poke key n v).clus = s.clus ∧ (s.poke key n v).ctxs = s.ctxs := by
  unfold State.poke State.clearMarks
  dsimp only
  split
  · exact ⟨rfl, rfl, rfl⟩
  · exact ⟨rfl, rfl, rfl⟩

theorem State.hostCover_keeps (key n : Nat) : (s.hostCover key n).mod.cxl = s.mod.cxl ∧ (s.hostCover key n).clus = s.clus
    ∧ (s.hostCover key n).ctxs = s.ctxs := by
  unfold State.hostCover
  split
  · exact ⟨rfl, rfl, rfl⟩
  · exact ⟨rfl, rfl, rfl⟩

theorem State.Clean.hostCover {s : State} (h : s.Clean) (key n : Nat) : (s.hostCover key n).Clean := by
  unfold State.hostCover
  split
  · exact h
  · exact h

/-- The 64 bytes of a request written where they perform. -/
def State.putRequest (r : CxlReq) (key : Nat) : State := (s.hostCover key 64).poke key 64 r.data

theorem State.putRequest_keeps (r : CxlReq) (key : Nat) : (s.putRequest r key).mod.cxl = s.mod.cxl ∧ (s.putRequest r key).clus = s.clus
    ∧ (s.putRequest r key).ctxs = s.ctxs := by
  obtain ⟨hmod, hclus, hctxs⟩ := (s.hostCover key 64).poke_keeps key 64 r.data
  obtain ⟨hcxl, hclus', hctxs'⟩ := s.hostCover_keeps key 64
  exact ⟨(congrArg Module.cxl hmod).trans hcxl, hclus.trans hclus', hctxs.trans hctxs'⟩

theorem State.putRequest_mem {s : State} (h : s.Clean) (r : CxlReq) (key : Nat) :
    (s.putRequest r key).mem = s.mem.writeN key 64 r.data (allBytes 64) := by
  rw [State.putRequest, State.poke_clean (h.hostCover key 64)]
  exact congrArg (Memory.writeN · key 64 r.data (allBytes 64)) (State.hostCover_mem ..)

variable {r : CxlReq}

theorem performCxl_of_none (h : cxlTarget s r = none) : performCxl s r = finishCxl s r := by
  rw [performCxl, h]

theorem performCxl_of_good {key : Nat} (h : cxlTarget s r = some key) (hbad : r.bad = false) (hpoison : r.poison = false) :
    performCxl s r = finishCxl (s.putRequest r key) r := by
  simp [performCxl, h, hbad, hpoison, State.putRequest]

/-- A failed read leaves poison (18 R311). -/
theorem performCxl_of_failed_read (hbad : r.bad = true) (hdir : r.dir = false) :
    performCxl s r = finishCxl ((s.putRequest r r.key).poisonGranule (r.key / 64)) r := by
  simp [performCxl, cxlTarget, hbad, hdir, State.putRequest]

/-- However a request performs, it is then finished in a state with the requests, clusters and contexts as before. -/
theorem exists_performCxl (r : CxlReq) : ∃ v, performCxl s r = finishCxl v r ∧ v.mod.cxl = s.mod.cxl ∧ v.clus = s.clus ∧ v.ctxs = s.ctxs := by
  cases h : cxlTarget s r with
  | none => exact ⟨s, performCxl_of_none s h, rfl, rfl, rfl⟩
  | some key =>
    have hfree : let p := if (r.dir && r.bad) = true then s.freeValue 2 else (3, s)
        p.2.mod = s.mod ∧ p.2.clus = s.clus ∧ p.2.ctxs = s.ctxs := by
      dsimp only
      split <;> exact ⟨rfl, rfl, rfl⟩
    simp only [performCxl, h]
    generalize (if (r.dir && r.bad) = true then s.freeValue 2 else (3, s)) = p at hfree
    obtain ⟨hmod, hclus, hctxs⟩ := hfree
    obtain ⟨hcxl', hclus', hctxs'⟩ := p.2.putRequest_keeps r key
    have hput : let u := if p.1 = 0 then p.2 else p.2.putRequest r key
        u.mod.cxl = s.mod.cxl ∧ u.clus = s.clus ∧ u.ctxs = s.ctxs := by
      dsimp only
      split
      · exact ⟨congrArg Module.cxl hmod, hclus, hctxs⟩
      · exact ⟨hcxl'.trans (congrArg Module.cxl hmod), hclus'.trans hclus, hctxs'.trans hctxs⟩
    refine ⟨_, rfl, ?_⟩
    split <;> exact hput

/-- The state with a request off the list. -/
def State.withoutRequest (r : CxlReq) : State := s.updMod fun m => { m with cxl := m.cxl.filter fun e => e.id != r.id }

theorem State.setFlag_clu_eq (c n : Nat) (v : Bool) : s.setFlag (.clu c) n v = s.setClu c { s.clu c with
    flags := if v then (s.clu c).flags ||| BitVec.ofNat 64 (2 ^ n) else (s.clu c).flags &&& ~~~BitVec.ofNat 64 (2 ^ n) } := rfl

/-- The end of the command of a request: its flag is set, by its context, and its place is given back. -/
def State.finishCommand (r : CxlReq) : State :=
  let clu := r.flag.1
  let k := s.clu clu
  let u := (s.setClu clu { k with cxl := k.cxl - 1 }).setFlag (.clu clu) r.flag.2 true
  (u.updMod fun m => { m with setters := SMap.put 0 m.setters (flagKey (.clu clu) r.flag.2) (2 * 2 ^ 12 + r.x + 1) }).updCtx r.x fun c =>
    { c with nonstatic := c.nonstatic.filter (fun n => n != r.cmd), hwait := c.hwait.filter fun n => n != r.cmd }

theorem finishCxl_eq (r : CxlReq) : finishCxl s r = if ((s.withoutRequest r).mod.cxl.any fun e => e.cmd == r.cmd) = true
    then s.withoutRequest r else (s.withoutRequest r).finishCommand r := rfl

theorem State.finishCommand_keeps (r : CxlReq) : (s.finishCommand r).mod.cxl = s.mod.cxl ∧ (s.finishCommand r).poison = s.poison
    ∧ (s.finishCommand r).mem = s.mem := by
  simp [State.finishCommand, State.setFlag_clu_eq]

theorem State.finishCommand_leaves (r : CxlReq) : ((s.finishCommand r).clu r.flag.1).cxl = (s.clu r.flag.1).cxl - 1
    ∧ (r.flag.2 < 64 → (s.finishCommand r).flagVal (.clu r.flag.1) r.flag.2 = true) ∧ r.cmd ∉ ((s.finishCommand r).ctx r.x).nonstatic := by
  let u := s.setClu r.flag.1 { s.clu r.flag.1 with cxl := (s.clu r.flag.1).cxl - 1 }
  have hclu : (s.finishCommand r).clu r.flag.1 = (u.setFlag (.clu r.flag.1) r.flag.2 true).clu r.flag.1 := by
    simp only [State.finishCommand, State.clu, State.updCtx_clus, State.updMod_clus]
    rfl
  refine ⟨?_, fun hn => ?_, ?_⟩
  · rw [hclu, State.setFlag_clu_eq, State.clu_setClu_self, State.clu_setClu_self]
  · have hflag := State.flagVal_setFlag u (f := .clu r.flag.1) true hn (.clu r.flag.1) r.flag.2
    rw [State.flagVal, hclu]
    exact hflag.trans (if_pos ⟨rfl, rfl⟩)
  · rw [State.finishCommand, State.ctx_updCtx_self]
    simp

theorem State.withoutRequest_any_iff (r : CxlReq) : ((s.withoutRequest r).mod.cxl.any fun e => e.cmd == r.cmd) = true
    ↔ ((s.mod.cxl.filter fun e => e.id != r.id).all fun e => e.cmd != r.cmd) = false := by
  simp [State.withoutRequest]

/-- A request that is finished stands in the list no more, and memory and poison are as they were. -/
theorem finishCxl_keeps (r : CxlReq) : (finishCxl s r).mod.cxl = s.mod.cxl.filter (fun e => e.id != r.id)
    ∧ (finishCxl s r).poison = s.poison := by
  obtain ⟨hcxl, hpoison, -⟩ := (s.withoutRequest r).finishCommand_keeps r
  rw [finishCxl_eq]
  split
  · exact ⟨rfl, rfl⟩
  · exact ⟨hcxl, hpoison⟩

/-- The last request of a command ends it. -/
theorem finishCxl_of_last (h : ((s.mod.cxl.filter fun e => e.id != r.id).all fun e => e.cmd != r.cmd) = true) :
    finishCxl s r = (s.withoutRequest r).finishCommand r := by
  refine (finishCxl_eq s r).trans (if_neg fun hany => ?_)
  rw [(s.withoutRequest_any_iff r).1 hany] at h
  exact Bool.false_ne_true h

theorem finishCxl_of_more (h : ((s.mod.cxl.filter fun e => e.id != r.id).all fun e => e.cmd != r.cmd) = false) :
    finishCxl s r = s.withoutRequest r :=
  (finishCxl_eq s r).trans (if_pos ((s.withoutRequest_any_iff r).2 h))

end

end Sys2Proof.Machine

/-! SUPPORT. O35: BX.POST and CE.CXL. -/

namespace Sys2Proof.Machine

/-- Settles O35: the checks of a command in order, what it leaves where it enters and where its limit is met, and the ways of a request:
sent, returned, failed, arrived. -/
theorem postsAndTierCopiesRun : Obligations.PostsAndTierCopiesRun := by
  unfold Obligations.PostsAndTierCopiesRun
  refine ⟨?issue, ?again, ?requests, ?arrival⟩
  case issue =>
    intro g a b f q s hg hk
    refine ⟨fun d h0 h1 hd hb hlk hopen => ⟨fun hroom => ?_, fun hfull => ?_⟩, exec_bxPost_of_bad hk hg,
      fun hq hlk => ⟨fun hroom => ⟨cxl_of_room hk hg hq hlk hroom, cxl_of_room hk hg hq hlk hroom⟩,
        fun hfull => ⟨cxl_of_full hk hg hq hlk hfull, cxl_of_full hk hg hq hlk hfull⟩⟩,
      fun hq hlk => ⟨cxl_of_noLock hk hg hq hlk, cxl_of_noLock hk hg hq hlk⟩,
      fun hq => ⟨cxl_of_out hk hg hq, cxl_of_out hk hg hq⟩, fun dir va => ?_⟩
    · exact ⟨_, exec_bxPost_of_pass hk hg h0 h1 hd hb hlk hopen, acceptPost_leaves hk _ f _ _ d hroom⟩
    · rw [exec_bxPost_of_pass hk hg h0 h1 hd hb hlk hopen, acceptPost_of_full hk hfull]
      rfl
    · obtain ⟨hcount, hreq, hnon, hpend, hmem, hfaults⟩ := enterCxl_leaves hk dir q va f
      refine ⟨hcount, ?_, hmem, hfaults, hnon, fun i hi => ?_, _, hpend ▸ List.mem_append_right _ (List.mem_singleton_self _), rfl, rfl, rfl⟩
      · rw [hreq, List.length_append, State.cxlRequests, List.length_map, List.length_range]
      · rw [hreq]
        exact ⟨_, List.mem_append_right _ (List.mem_map_of_mem (List.mem_range.2 hi)), rfl, rfl, rfl, rfl, rfl⟩
  case again =>
    intro g a f q s hk hroom
    exact ⟨cxl_of_again hk hroom, cxl_of_again hk hroom⟩
  case requests =>
    intro s id r hr hecc key others arrives
    refine ⟨⟨_, s.tide + 1 + (Config.freeValue 26 s.free).toNat, exec_cxlRequestSend_eq hr hecc, fun e he hid => State.mem_updCxl_sent he hid,
        ?_, by omega, ?_, rfl, rfl⟩, fun hsent hdone hdir => ?_, fun k hsent hdone hdir hk hclean => ?_, fun hsent hdone => ?_,
      exec_cxlRequest_of_done hr⟩
    · simp [State.timedAt, State.updCxl]
    · have := (Config.freeValue 26 s.free).isLt
      omega
    · exact exec_cxlRequestComplete_of_good hr hsent hdone (cxlReturn_of_write hdir true) (by simp [hdir]) rfl
    · have hret := cxlReturn_of_read hdir hk
      rw [hclean] at hret
      have hend := exec_cxlRequestComplete_of_good hr hsent hdone hret (by simp) (by simp only [cxlHeld])
      exact hend
    · obtain ⟨e, hcxl, hid, hcmd, hdone', hbad⟩ := exists_cxl_endCxl s r false
      rw [State.id_of_cxlReq hr] at hcxl hid
      exact ⟨_, e, exec_cxlRequestTimeout_of_open hr hsent hdone, hcxl, hid, hcmd, hdone', hbad, endCxl_mem ..⟩
  case arrival =>
    intro s fr due run pri wall id r hr target t last
    let s' : State := { s with fr := fr }
    have ht : t = performCxl s' r := s.perform_arrive hr fr due run pri wall
    obtain ⟨v, hv, hcxl, hclus, hctxs⟩ := exists_performCxl s' r
    have hrest : (v.mod.cxl.filter fun e => e.id != r.id) = s.mod.cxl.filter fun e => e.id != id := by
      rw [hcxl, State.id_of_cxlReq hr]
    have hclu : (v.withoutRequest r).clu r.flag.1 = s.clu r.flag.1 := by
      rw [State.clu, State.clu]
      exact congrArg (fun l => SMap.get _ l _) hclus
    refine ⟨fun hbad hpoison hclean => ⟨fun hn => ?_, fun k hk => ?_⟩, fun hbad hdir => ?_, ?_, fun hlast => ?_, fun hmore => ?_⟩
    · rw [ht, performCxl_of_none s' hn, finishCxl_mem]
    · rw [ht, performCxl_of_good s' hk hbad hpoison, finishCxl_mem]
      exact State.putRequest_mem (s := s') hclean r k
    · rw [ht, performCxl_of_failed_read s' hbad hdir, (finishCxl_keeps _ r).2]
      simp [State.poisonGranule]
    · rw [ht, hv, (finishCxl_keeps v r).1, hrest]
    · rw [ht, hv, finishCxl_of_last v (by rw [hrest]; exact hlast), ← hclu]
      exact (v.withoutRequest r).finishCommand_leaves r
    · rw [ht, hv, finishCxl_of_more v (by rw [hrest]; exact hmore)]
      exact ⟨hclus, hctxs⟩

end Sys2Proof.Machine

/-! SUPPORT. O34: engine commands at issue, their check, their slots, access counts, and accesses (15 R257 to R260, 18 R301, R305, R306). -/

namespace Sys2Proof.Machine

/-! ### Transfers and sends at issue (15 R257 to R260, 22 R368) -/

section
variable {g : Guard} {a b off : Nat} {s : State}

/-- The transfers run their shared check on the descriptor. -/
theorem transfer_eq (op : Nat) (g : Guard) (a b off : Nat) (s : State) : transfer op g a b off s = .next (once g s
    (engineCheck s op (startCount s off) (s.sget b) fun d s => enterCommand s op d (s.sget a).toNat (s.sget b) (startCount s off))) := by
  simp only [transfer, onceSlot_eq]
  rfl

/-- The outcomes of a transfer, by its checks. -/
theorem transfer_outcomes (op : Nat) (g : Guard) (a b off : Nat) (s : State) :
    let c := s.ctx s.fr.x
    let S := startCount s off
    let dw := s.sget b
    (∀ d, xferOf op dw = some d → xferBound c op d = none → (s.fr.t : Int) + 24 ≤ S → c.lk ≠ 0 → openCommands s s.fr.x < 16 →
      transfer op g a b off s = .next (once g s (enterCommand s op d (s.sget a).toNat dw S)))
    ∧ (xferOf op dw = none → transfer op g a b off s = .next (once g s s.illegal))
    ∧ (∀ d tile n, xferOf op dw = some d → xferBound c op d = some (tile, n) →
      transfer op g a b off s = .next (once g s (s.quayBound tile n)))
    ∧ (∀ d, xferOf op dw = some d → xferBound c op d = none → S < s.fr.t + 24 ∨ c.lk = 0 ∨ 16 ≤ openCommands s s.fr.x →
      transfer op g a b off s = .next (once g s (s.lateStart S))) := by
  intro c S dw
  rw [transfer_eq]
  exact ⟨fun d hd hb hS hlk hopen => by rw [engineCheck_of_pass hd hb hS hlk hopen], fun hd => by rw [engineCheck_of_bad hd],
    fun d tile n hd hb => by rw [engineCheck_of_out hd hb], fun d hd hb h => by rw [engineCheck_of_late hd hb h]⟩

theorem exec_bxSend_of_bad (h : (s.sget a).toNat / 2 ^ 46 % 4 ≠ 0) : exec (.bxSend g a b off) s = .next (once g s s.illegal) := by
  change execBxSend g a b off s = _
  have hbad : fld (s.sget a).toNat 47 46 ≠ 0 := h
  simp only [execBxSend, onceSlot_eq, if_pos hbad]

/-- A send whose checks pass is entered where its context has cells of its link, and is late where it has none. -/
theorem exec_bxSend_of_pass (h : (s.sget a).toNat / 2 ^ 46 % 4 = 0) {d : Xfer} (hd : xferOf 9 (s.sget b) = some d)
    (hb : xferBound (s.ctx s.fr.x) 9 d = none) (hS : (s.fr.t : Int) + 24 ≤ startCount s off) (hlk : (s.ctx s.fr.x).lk ≠ 0)
    (hopen : openCommands s s.fr.x < 16) : exec (.bxSend g a b off) s = .next (once g s
      (if (cellsOf s s.fr.x ((s.sget a).toNat / 2 ^ 48 % 16)).isEmpty then s.lateStart (startCount s off)
        else enterCommand s 9 d (s.sget a).toNat (s.sget b) (startCount s off))) := by
  change execBxSend g a b off s = _
  have hgood : ¬ fld (s.sget a).toNat 47 46 ≠ 0 := not_not_intro h
  simp only [execBxSend, onceSlot_eq, if_neg hgood]
  rw [engineCheck_of_pass hd hb hS hlk hopen]
  rfl

end

/-! ### The check of a command (18 R301) -/

section
variable {s : State} {id : Nat} {k : Command} {d : Xfer} (hk : s.command s.fr.x id = some k) (hd : xferOf k.op k.desc = some d) (hop : k.op ≠ 4)
include hk hd hop

/-- A command none of whose granules fails changes nothing as it is checked. -/
theorem warmCheck_of_pass (h : firstBad (commandWindow s s.fr.x k.op k.warm) (opWrites k.op || k.op == 9) false 0 (checkAddrs k.op d k.warm) = none)
    (D : Nat) : warmCheck s id D = s := by
  simp only [warmCheck, hk, hd, if_neg hop, h]

/-- The first granule that fails raises the translation fault. -/
theorem warmCheck_of_bad {i va kind : Nat} (h : firstBad (commandWindow s s.fr.x k.op k.warm) (opWrites k.op || k.op == 9) false 0
    (checkAddrs k.op d k.warm) = some (i, va, kind)) (D : Nat) :
    warmCheck s id D = s.raiseExec 6 (transInfo i kind) (BitVec.ofNat 64 va) D := by
  simp only [warmCheck, hk, hd, if_neg hop, h]

end

theorem State.land_warmCheck (s : State) (fr : Frame) (due run pri id wall : Nat) :
    s.land ⟨fr, due, run, pri, .warmCheck id, wall⟩ = warmCheck { s with fr := fr } id due := by
  have hmeet : s.meetHeld ⟨fr, due, run, pri, .warmCheck id, wall⟩ = s := State.meetHeld_of_holds_none s _ fun p => by
    cases p <;> simp [Effect.holds]
  unfold State.land
  rw [hmeet]

/-! ### Access counts (18 R305) -/

/-- The search tries counts 1,024 apart, and where it tries more of them than are held it finds one that is not. -/
theorem freeCount_eq (held : List Nat) (n a : Nat) : ∃ j, freeCount held n a = a + 1024 * j
    ∧ (freeCount held n a ∈ held → ∀ i, i < n → a + 1024 * i ∈ held) := by
  induction n generalizing a with
  | zero => exact ⟨0, rfl, fun _ i hi => absurd hi (Nat.not_lt_zero i)⟩
  | succ n ih =>
    by_cases ha : a ∈ held
    · obtain ⟨j, hj, hheld⟩ := ih (a + 1024)
      have hstep : freeCount held (n + 1) a = freeCount held n (a + 1024) := if_pos (List.contains_iff_mem.2 ha)
      refine ⟨j + 1, by omega, fun h i hi => ?_⟩
      rw [hstep] at h
      cases i with
      | zero => exact ha
      | succ i =>
        have := hheld h i (by omega)
        rwa [show a + 1024 * (i + 1) = a + 1024 + 1024 * i by omega]
    · have hstop : freeCount held (n + 1) a = a := if_neg fun h => ha (List.contains_iff_mem.1 h)
      exact ⟨0, by omega, fun h => absurd (hstop ▸ h) ha⟩

/-- More counts than are held cannot all be held. -/
theorem freeCount_not_mem (held : List Nat) (a : Nat) : freeCount held (held.length + 1) a ∉ held := by
  obtain ⟨j, -, hheld⟩ := freeCount_eq held (held.length + 1) a
  intro h
  have hsub : (Finset.range (held.length + 1)).image (fun i => a + 1024 * i) ⊆ held.toFinset := by
    intro n hn
    obtain ⟨i, hi, rfl⟩ := Finset.mem_image.1 hn
    exact List.mem_toFinset.2 (hheld h i (Finset.mem_range.1 hi))
  have hinj : Function.Injective fun i => a + 1024 * i := fun i j (hij : a + 1024 * i = a + 1024 * j) => by omega
  have hcard := Finset.card_le_card hsub
  rw [Finset.card_image_of_injective _ hinj, Finset.card_range] at hcard
  have := held.toFinset_card_le
  omega

/-- An access count lies whole multiples of 64 after its slot, in a turn of its granule's bank class, and is not held. -/
theorem accessCount_spec (held : List Nat) (T u off : Nat) : let A := accessCount held T u off
    u ≤ A ∧ (A - u) % 64 = 0 ∧ A ∉ held ∧ (T + (A - u)) / 64 % 16 = off / 64 % 16 := by
  intro A
  have hA : A = freeCount held (held.length + 1) (u + 64 * ((off / 64 % 16 + 16 - T / 64 % 16) % 16)) := rfl
  obtain ⟨j, hj, -⟩ := freeCount_eq held (held.length + 1) (u + 64 * ((off / 64 % 16 + 16 - T / 64 % 16) % 16))
  refine ⟨by omega, by omega, hA ▸ freeCount_not_mem held _, by omega⟩

/-! ### An access (18 R305, R306) -/

section
variable {s : State} {id key : Nat} {k : Command} {d : Xfer}

/-- The frame of what an access leaves. -/
def Frame.afterAccess (fr : Frame) : Frame := { fr with slice := 0, cap := 0, capv := 0, gt := 0 }

variable (hk : s.command s.fr.x id = some k) (hd : xferOf k.op k.desc = some d)
  (hkey : (windowPhys s s.fr.x (xferVa k.op d k.warm k.idx s.fr.slice)).bind physKey = some key)
include hk hd hkey

/-- A write performs in HBM at its access count, with the poison it carries. -/
theorem exec_hbmCalendarAccess_of_write (hop : opWrites k.op = true) :
    let w := (s.activate key).later s.fr.afterAccess (clusterOf (coreOf s.fr.x)) (.store key 64 (s.fr.capv.toNat % 2 ^ 512) (allBytes 64))
    exec (.hbmCalendarAccess id) s = .next (if s.fr.gt = 0 then w else w.later s.fr.afterAccess (clusterOf (coreOf s.fr.x)) (.taint key)) := by
  obtain ⟨m, hact, -⟩ := s.activate_eq key
  change execHbmCalendarAccess id s = _
  simp only [execHbmCalendarAccess, hk, hd, hkey, hop, if_true, hact]
  rfl

/-- A read takes its granule at its access count, and it performs in the quay 224 counts later. -/
theorem exec_hbmCalendarAccess_of_read (hop : opWrites k.op = false) (hecc : s.ecc = []) :
    let q := xferKey (coreOf s.fr.x) k.op d s.fr.slice
    let r := { s.activate key with fr := s.fr.afterAccess }.pushClk (s.fr.cap.toNat + 224) (.store q 64 (s.mem.readN key 64) (allBytes 64)) 1
    exec (.hbmCalendarAccess id) s = .next (if s.poisoned key then r.pushClk (s.fr.cap.toNat + 224) (.taint q) 1 else r) := by
  intro q r
  obtain ⟨m, hact, -⟩ := s.activate_eq key
  have hgood : ({ s with mod := m } : State).granuleEcc (key / 64) = 0 := State.granuleEcc_of_ecc_nil hecc _
  have hpoison : r.poisoned key = s.poisoned key := by
    rw [State.poisoned, State.pushClk_poison, hact, State.poisoned]
  rw [← hpoison]
  change execHbmCalendarAccess id s = _
  simp only [execHbmCalendarAccess, r, hk, hd, hkey, hop, hact, hgood, Bool.false_eq_true, if_false, OfNat.zero_ne_ofNat, zero_ne_one,
    Nat.reduceBEq, Bool.or_false]
  rfl

end

end Sys2Proof.Machine

/-! SUPPORT. O34: a granule's slot starts, and its granule is presented to the channel calendar (15 R258, 18 R305). -/

namespace Sys2Proof.Machine

/-! ### A command changed by its number -/

/-- The commands of context `x` with number `id` changed. -/
def State.updCommand (s : State) (x id : Nat) (f : Command → Command) : State :=
  s.updCtx x fun c => { c with commands := c.commands.map fun e => if e.id == id then f e else e }

section
variable {s : State} {x id : Nat} {k : Command}

theorem State.id_of_command (h : s.command x id = some k) : k.id = id := by simpa using List.find?_some h

theorem State.command_updCommand {f : Command → Command} (h : s.command x id = some k) (hf : ∀ e, (f e).id = e.id) :
    (s.updCommand x id f).command x id = some (f k) := by
  have hpred : ((fun e : Command => e.id == id) ∘ fun e => if e.id == id then f e else e) = fun e => e.id == id := by
    funext e
    by_cases he : e.id = id
    · simp [he, hf]
    · simp [he]
  have hfind : (s.ctx x).commands.find? (fun e => e.id == id) = some k := h
  rw [State.command, State.updCommand, State.ctx_updCtx_self]
  dsimp only
  rw [List.find?_map, hpred, hfind]
  simp [State.id_of_command h]

theorem State.sameClocks_updCommand (s : State) (x id : Nat) (f : Command → Command) : s.SameClocks (s.updCommand x id f) :=
  State.sameClocks_updCtx s x (f := fun c => { c with commands := c.commands.map fun e => if e.id == id then f e else e }) rfl rfl

end

/-! ### A granule presented (18 R305) -/

/-- The accesses held are the same where clocks show the same and cores are the same. -/
theorem State.SameClocks.heldAccess_eq {s t : State} (h : s.SameClocks t) (hcores : t.cores = s.cores) (x : Nat) (hnd : Bool) :
    heldAccess t x hnd = heldAccess s x hnd := by
  simp only [heldAccess, State.core, hcores, h.gangOf_eq, h.sameClock_eq, h.clk_eq, h.cal_eq, h.tide]

theorem State.SameClocks.windowPhys_eq {s t : State} (h : s.SameClocks t) (x va : Nat) : windowPhys t x va = windowPhys s x va := by
  rw [windowPhys, h.gangOf_eq, windowPhys]

/-- The counts from now to the access of a granule at physical address `pa` that is presented now (18 R305). -/
def State.accessIn (s : State) (x : Nat) (hnd : Bool) (pa : Nat) : Nat :=
  accessCount (heldAccess s x hnd) (s.cal x hnd) (s.cal x hnd) pa - s.cal x hnd

theorem State.SameClocks.accessIn_eq {s t : State} (h : s.SameClocks t) (hcores : t.cores = s.cores) (x : Nat) (hnd : Bool) (pa : Nat) :
    t.accessIn x hnd pa = s.accessIn x hnd pa := by
  rw [State.accessIn, h.heldAccess_eq hcores, h.cal_eq, State.accessIn]

section
variable {s : State} {T : Nat}

/-- An act run now comes behind the others of the cycle. -/
theorem State.actAt_agenda (h : T ≤ s.tide) (i : Instr) (fr : Frame) : (s.actAt T i fr).agenda = s.agenda ++ [⟨i, fr⟩] := by
  rw [State.actAt, if_pos h]

/-- An act run later is put off to its TIDE. -/
theorem State.actAt_timed (h : s.tide < T) (i : Instr) (fr : Frame) : (s.actAt T i fr).timed = s.timed ++ [⟨T, ⟨i, fr⟩⟩] := by
  rw [State.actAt, if_neg (Nat.not_le.2 h), State.timedAt_timed]

theorem State.actAt_keeps (s : State) (T : Nat) (i : Instr) (fr : Frame) : (s.actAt T i fr).ctxs = s.ctxs ∧ (s.actAt T i fr).cores = s.cores
    ∧ (s.actAt T i fr).mem = s.mem ∧ (s.actAt T i fr).pend = s.pend := by
  unfold State.actAt
  split
  · exact ⟨rfl, rfl, rfl, rfl⟩
  · exact ⟨rfl, rfl, rfl, rfl⟩

end

/-- The frame of the access of granule `i`, with the data of a write. -/
def Frame.forAccess (fr : Frame) (i count data : Nat) (bad : Bool) : Frame :=
  { fr with slice := i, cap := BitVec.ofNat 64 count, capv := BitVec.ofNat 4096 data, gt := if bad then 1 else 0 }

/-- What the presentation of a granule leaves: its access put off to its TIDE, held in the calendar, and counted by its command. -/
theorem present_leaves {s : State} {x : Nat} {k e : Command} (hx : s.fr.x = x) (hk : s.command x k.id = some e) (i pa data : Nat) (bad : Bool) :
    let A := s.accessIn x k.hnd pa
    let n := s.clk x k.hnd + A
    let T := s.tide + (s.gangOf x).pace * A
    let fr := s.fr.forAccess i n data bad
    let t := present s x k i pa data bad
    t.command x k.id = some { e with last := max e.last (n + if opWrites k.op then 0 else 224) }
    ∧ (T ≤ s.tide → t.agenda = s.agenda ++ [⟨.hbmCalendarAccess k.id, fr⟩])
    ∧ (s.tide < T → t.timed = s.timed ++ [⟨T, ⟨.hbmCalendarAccess k.id, fr⟩⟩])
    ∧ (x, k.hnd, n, T) ∈ (t.core (coreOf x)).hbm ∧ t.mem = s.mem ∧ t.pend = s.pend ∧ ∀ y, y ≠ x → t.ctx y = s.ctx y := by
  intro A n T fr t
  let v := s.updCore (coreOf x) fun c => { c with
    hbm := (c.hbm.filter fun e => decide (s.tide ≤ e.2.2.2) || decide (s.clk e.1 e.2.1 ≤ e.2.2.1)) ++ [(x, k.hnd, n, T)] }
  let w := v.updCommand x k.id fun e => { e with last := max e.last (n + if opWrites k.op then 0 else 224) }
  obtain ⟨m, ht⟩ : ∃ m, t = (w.notePerf m).actAt T (.hbmCalendarAccess k.id) fr := ⟨_, rfl⟩
  have hw : w.command x k.id = some { e with last := max e.last (n + if opWrites k.op then 0 else 224) } :=
    State.command_updCommand (s := v) hk fun _ => rfl
  obtain ⟨hctxs, hcores, hmem, hpend⟩ := (w.notePerf m).actAt_keeps T (.hbmCalendarAccess k.id) fr
  rw [← ht] at hctxs hcores hmem hpend
  refine ⟨?_, fun h => ?_, fun h => ?_, ?_, ?_, ?_, fun y hy => ?_⟩
  · obtain ⟨p, e', h, hnote⟩ := w.ctx_notePerf m
    rw [show w.fr.x = x from hx] at hnote
    rw [State.command, State.ctx, hctxs, ← State.ctx, hnote]
    exact hw
  · rw [ht]
    exact State.actAt_agenda (s := w.notePerf m) h ..
  · rw [ht]
    exact State.actAt_timed (s := w.notePerf m) h ..
  · have hv : v.cores = t.cores := hcores.symm
    rw [State.core, ← hv, ← State.core, State.core_updCore_self]
    exact List.mem_append_right _ (List.mem_singleton_self _)
  · exact hmem
  · exact hpend
  · have hne : y ≠ w.fr.x := fun h => hy (h.trans hx)
    rw [State.ctx, hctxs, ← State.ctx, State.notePerf, State.ctx_updCtx_ne w _ hne]
    exact State.ctx_updCtx_ne v _ hy

/-! ### A slot (15 R258) -/

/-- A slot of a command starts: its next granule is the one behind, and its time counts as its command's last so far. -/
def State.slotStarted (s : State) (x : Nat) (k : Command) : State :=
  s.updCommand x k.id fun e => { e with next := k.next + 1, fill := k.fill, last := Nat.max e.last (s.clk x k.hnd) }

theorem State.ctx_slotStarted_ne (s : State) {x y : Nat} (k : Command) (h : y ≠ x) : (s.slotStarted x k).ctx y = s.ctx y := by
  rw [State.slotStarted, State.updCommand, State.ctx_updCtx_ne s _ h]

/-- A transfer's slot presents its granule, a write with the bytes of the quay and their poison. -/
theorem exec_engineSlot_of_transfer {s : State} {x id pa : Nat} {k : Command} {d : Xfer} (hk : s.command x id = some k)
    (hd : xferOf k.op k.desc = some d) (h1 : s.fr.slice ≠ 1) (h2 : s.fr.slice ≠ 2) (hop : k.op < 5) (hecc : s.ecc = [])
    (hpa : windowPhys s x (xferVa k.op d k.warm k.idx k.next) = some pa) :
    let key := xferKey (coreOf x) k.op d k.next
    ∃ fl, exec (.engineSlot x id) s = .next (present { s.slotStarted x k with flight := fl } x k k.next pa
      (if opWrites k.op then s.mem.readN key 64 else 0) (if opWrites k.op then s.poisoned key else false)) := by
  intro key
  obtain ⟨v, hv, fl, hfl⟩ : ∃ v, (if k.next + 1 < k.slots.length then
      (s.slotStarted x k).flyClk (k.slots.getD (k.next + 1) 0).toNat (.engineSlot x k.id) (s.slotStarted x k).fr else s.slotStarted x k) = v
      ∧ ∃ fl, v = { s.slotStarted x k with flight := fl } := by
    refine ⟨_, rfl, ?_⟩
    split
    · exact State.flyClk_eq ..
    · exact ⟨_, rfl⟩
  have hclk : s.SameClocks v := hfl ▸ State.SameClocks.trans (t := s.slotStarted x k) (State.sameClocks_updCommand ..) (.of_ctxs rfl rfl rfl)
  have hpa' : windowPhys v x (xferVa k.op d k.warm k.idx k.next) = some pa := (hclk.windowPhys_eq ..).trans hpa
  have hread : quayRead v (coreOf x) k d k.next = (v, s.mem.readN key 64, s.poisoned key) := by
    rw [quayRead, if_neg (by omega), quayGranule_of_ecc_nil (s := v) (by rw [hfl]; exact hecc), hfl]
    rfl
  have hstart : startSlot s x k d = present v x k k.next pa (if opWrites k.op then s.mem.readN key 64 else 0)
      (if opWrites k.op then s.poisoned key else false) := by
    have h5 : ¬ (k.op = 5 ∧ k.next = 0) := by omega
    have h9 : ¬ (k.op = 9 ∨ k.op = 10) := by omega
    simp only [State.slotStarted, State.updCommand] at hv
    simp only [startSlot, if_neg h5, if_neg h9, hv, hpa', hread]
    split
    · rfl
    · rfl
  refine ⟨fl, ?_⟩
  change execEngineSlot x id s = _
  simp only [execEngineSlot, if_neg h2, hk, hd, if_neg h1, hstart, hfl]

end Sys2Proof.Machine

/-! SUPPORT. O34 settled. -/

namespace Sys2Proof.Machine

/-- A transfer's slot: its granule is counted, and its access comes at its access count (15 R258, 18 R305). -/
theorem exec_engineSlot_leaves {s : State} {x id pa : Nat} {k : Command} {d : Xfer} (hk : s.command x id = some k)
    (hd : xferOf k.op k.desc = some d) (h1 : s.fr.slice ≠ 1) (h2 : s.fr.slice ≠ 2) (hx : s.fr.x = x) (hop : k.op < 5) (hecc : s.ecc = [])
    (hpa : windowPhys s x (xferVa k.op d k.warm k.idx k.next) = some pa) :
    let u := s.clk x k.hnd
    let A := s.accessIn x k.hnd pa
    let T := s.tide + (s.gangOf x).pace * A
    let key := xferKey (coreOf x) k.op d k.next
    let fr := s.fr.forAccess k.next (u + A) (if opWrites k.op then s.mem.readN key 64 else 0) (if opWrites k.op then s.poisoned key else false)
    ∃ t, exec (.engineSlot x id) s = .next t
      ∧ t.command x id = some { k with next := k.next + 1, last := max (max k.last u) (u + A + if opWrites k.op then 0 else 224) }
      ∧ (T ≤ s.tide → t.agenda = s.agenda ++ [⟨.hbmCalendarAccess id, fr⟩])
      ∧ (s.tide < T → t.timed = s.timed ++ [⟨T, ⟨.hbmCalendarAccess id, fr⟩⟩])
      ∧ (x, k.hnd, u + A, T) ∈ (t.core (coreOf x)).hbm ∧ t.mem = s.mem ∧ t.pend = s.pend ∧ ∀ y, y ≠ x → t.ctx y = s.ctx y := by
  intro u A T key fr
  obtain ⟨fl, hexec⟩ := exec_engineSlot_of_transfer hk hd h1 h2 hop hecc hpa
  obtain rfl := State.id_of_command hk
  let v : State := { s.slotStarted x k with flight := fl }
  have hclk : s.SameClocks v := State.SameClocks.trans (t := s.slotStarted x k) (State.sameClocks_updCommand ..) (.of_ctxs rfl rfl rfl)
  have hcommand : v.command x k.id = some { k with next := k.next + 1, last := Nat.max k.last u } :=
    State.command_updCommand (s := s) hk fun _ => rfl
  have hleaves := present_leaves (s := v) hx hcommand k.next pa (if opWrites k.op then s.mem.readN key 64 else 0)
    (if opWrites k.op then s.poisoned key else false)
  simp only [hclk.accessIn_eq rfl, hclk.clk_eq, hclk.gangOf_eq] at hleaves
  obtain ⟨hlast, hnow, hlater, hheld, hmem, hpend, hctx⟩ := hleaves
  have hother (y : Nat) (hy : y ≠ x) : v.ctx y = s.ctx y := State.ctx_slotStarted_ne s k hy
  exact ⟨_, hexec, hlast, hnow, hlater, hheld, hmem, hpend, fun y hy => (hctx y hy).trans (hother y hy)⟩

/-- Settles O34: the checks of a command in order and what it leaves as it is entered; its check two counts on; and a granule's slot, its
access count, which is found because more counts are tried than are held, and its access. -/
theorem engineCommandsMoveGranules : Obligations.EngineCommandsMoveGranules := by
  unfold Obligations.EngineCommandsMoveGranules
  refine ⟨?issue, ?check, ?slot, accessCount_spec, ?access⟩
  case issue =>
    intro g a b off s c S dw w all
    refine ⟨⟨transfer_outcomes 0 g a b off s, transfer_outcomes 1 g a b off s, transfer_outcomes 2 g a b off s,
      transfer_outcomes 3 g a b off s, transfer_outcomes 4 g a b off s, transfer_outcomes 5 g a b off s⟩,
      fun d h hd hb hS hlk hopen => ?_, exec_bxSend_of_bad, fun op d hk => ?_⟩
    · rw [exec_bxSend_of_pass h hd hb hS hlk hopen]
      refine ⟨fun hcells => ?_, fun hcells => ?_⟩
      · rw [if_neg (by rwa [List.isEmpty_iff])]
      · rw [if_pos (List.isEmpty_iff.2 hcells)]
    · obtain ⟨hctx, -, hpend, -, hmem, hfaults⟩ := enterCommand_leaves hk op d w dw S
      exact ⟨⟨_, congrArg Ctx.commands hctx, rfl, rfl, rfl, rfl, rfl, rfl⟩, hmem, hfaults, _,
        hpend ▸ List.mem_append_right _ (List.mem_singleton_self _), rfl, rfl⟩
  case check =>
    intro s fr due run pri wall id k d hk hd hop u bad
    rw [State.land_warmCheck]
    exact ⟨fun h => warmCheck_of_pass (s := u) hk hd hop h due,
      fun i va kind h => warmCheck_of_bad (s := u) hk hd hop h due⟩
  case slot =>
    intro s x id pa k d hk hd h1 h2 hx hop hecc hpa u c A T
    obtain ⟨t, hexec, hcommand, hnow, hlater, hheld, hmem, hpend, hctx⟩ :=
      exec_engineSlot_leaves hk hd h1 h2 hx hop hecc hpa
    refine ⟨t, _, s.fr.forAccess k.next (u + A) _ _, hexec, hcommand, rfl, rfl, hx, rfl, rfl, fun hw => ⟨?_, ?_⟩,
      hnow, hlater, hheld, hmem, hpend, hctx⟩
    · simp only [Frame.forAccess, hw, if_true]
    · simp only [Frame.forAccess, hw, if_true]
  case access =>
    intro s id key k d hk hd hecc hkey u fr q w r
    exact ⟨exec_hbmCalendarAccess_of_write hk hd hkey, fun hop => exec_hbmCalendarAccess_of_read hk hd hkey hop hecc⟩

end Sys2Proof.Machine
